-- ==== Sys2Proof/Word.lean ====
section
/-!
DEFINITION. The word types of the model: what the manual treats as bits.
-/
namespace Sys2Proof

/-- A byte of a buffer, an image or the parameter store. -/
abbrev Byte := BitVec 8

/-- A Praroth register or mailbox word: 48 bits (R389, R402). -/
abbrev Word := BitVec 48

/-- One 64-byte sector, the unit of a CXL.mem access (R270). Byte 0 is bits [7:0]. -/
abbrev Sector := BitVec 512

end Sys2Proof
end

