-- ==== Sys2Proof/Syntax.lean ====
section
/-!
DEFINITION. The commands the block takes, one constructor per row of spec/opcode_table.json, in the
table's order, and the types of their operands. An operand is what reaches the device from outside
in that step: the address and data of an access, the levels of pins, the bytes of host memory a step
reads, and the physical outcome of an operation (the bits of a page read wrong, a program's verdict).
-/
namespace Sys2Proof

/-- Who makes a register access (R394): a host port, the secure sideband, the firmware. -/
inductive Agent where
  | host | secure | firmware
  deriving DecidableEq, Repr

/-- How a page read decodes (R45). -/
inductive PageClass where
  | clean
  | corrected (bits : Nat)
  | uncorrectable
  | torn
  | cleared
  deriving DecidableEq, Repr

/-- Outcome of the checks made on the on-chip and local DRAM data an access meets:
an integrity tag that fails (R372), a map cache way whose parity fails (R196). -/
structure AccessEnv where
  tagFail : Bool
  parityFail : Bool
  deriving DecidableEq, Repr

/-- What the local DRAM of a slice answers in a tick: channels whose retrain fails (R347), oscillator
readings as (slice, channel, reading) (R348), internal reads and partial writes of engines whose tag fails
as (slice, DRAM address) (R372, R374), accesses past their constants as (slice, ticks by which they delay what waits for them)
(R344), and bits that flip in map cache ways as (slice, set, way) (R196). What the medium answers
to the array operations that the ended tick began and that no command has completed (R53): program pulses and clear
segments that fail as (slice, bank number), and bits read wrong as (slice, flight, positions in the page). -/
structure TickEnv where
  retrainFails : List (Nat × Nat)
  oscillators : List (Nat × Nat × Nat)
  tagFails : List (Nat × Nat)
  partialFails : List (Nat × Nat)
  lateDram : List (Nat × Nat)
  wayFlips : List (Nat × Nat × Nat)
  writeFails : List (Nat × Nat)
  readErrors : List (Nat × Nat × List Nat)
  deriving DecidableEq, Repr

/-- What the temperature inputs show at a sample (R507): internal sensors in quarter degrees Celsius,
sensor k of slice s at index 4s + k, `none` out of range (R510); remote diodes in mK as the two-current method gives them for an ideal
diode, thermistor inputs in units of 1.8 V ÷ 2^24 (R508);
the refresh step that MR4 of slice s reads, at index s (R330, R348). -/
structure ThermalInput where
  internal : List (Option Int)
  tdA : Option Nat
  tdB : Option Nat
  thA : Option Nat
  thB : Option Nat
  mr4 : List Nat
  deriving DecidableEq, Repr

/-- What a bulk-engine step reads from host memory: sectors in address order, whether the host returned
poisoned data, whether an access timed out (R422), and whether the descriptor itself was fetched as poisoned data (R417). -/
structure HostData where
  sectors : List Sector
  poisoned : Bool
  timedOut : Bool
  badFetch : Bool
  deriving DecidableEq, Repr

/-- Which part of MB_OUT a read covers (R390, R408). -/
inductive OutHalf where
  | full | low | high
  deriving DecidableEq, Repr

/-- A field of a device HDM decoder that software writes (R300); `target` stands for its standard target fields. -/
inductive HdmField where
  | base | size | granularity | ways | skip | target | lockOnCommit
  deriving DecidableEq, Repr

/-- The register a host or the sideband writes: a BAR2 offset; in BAR0 a field of decoder n, one of the four 32-bit words of an entry of
the MSI-X table, or the control register of the primary mailbox; or the MSI-X message control of the function (R423). -/
inductive RegTarget where
  | bar2 (offset : Nat)
  | hdm (decoder : Nat) (field : HdmField)
  | msix (vector : Nat) (part : Nat)
  | msixControl
  | mailboxControl
  deriving DecidableEq, Repr

/-- How a sideband target takes its dynamic address (R409): by SETDASA from a static address, or by ENTDAA, which reaches target n of
the table. -/
inductive I3cAssign where
  | setdasa (static : BitVec 7)
  | entdaa (target : Nat)
  deriving DecidableEq, Repr

/-- What the card shows CART_AUTH (R465, R468, R469), and its manifest bytes (R471): the ms until CSTS.RDY, CAP.TO in units of 500 ms,
namespace 1 (bytes of an LBA, bytes of metadata, protection information), Security Send and Receive, and the longest Read that MDTS
allows, in bytes. -/
structure CardInfo where
  readyAfter : Option Nat
  capTimeout : Nat
  namespace1 : Bool
  lbaBytes : Nat
  metadata : Nat
  protection : Bool
  security : Bool
  maxTransfer : Option Nat
  answers : Bool
  spdmAgreed : Bool
  rootX : BitVec 384
  rootY : BitVec 384
  certificates : Nat
  chainBytes : Nat
  chainP384 : Bool
  chainSigned : Bool
  leafX : BitVec 384
  leafY : BitVec 384
  challengeSigned : Bool
  sessionOpen : Bool
  manifest : List Byte
  deriving DecidableEq, Repr

/-- A memory request of the card (R467). -/
structure CardReq where
  write : Bool
  address : Nat
  bytes : Nat
  deriving DecidableEq, Repr

/-- How a card failure shows (R476). -/
inductive CardFault where
  | commandTimeout | fatalLink | linkDown
  deriving DecidableEq, Repr

/-- What a debug access port access names (R376, R396). -/
inductive DapTarget where
  | register (address : Nat)
  | dpa (address : Nat)
  | workingMemory (address : Nat)
  | sliceDram (slice : Nat) (address : Nat)
  | fuses
  | securityCore (address : Nat)
  | keyRegisters (alwaysOn : Bool)
  | processor (action : Nat)
  | testEnter
  deriving DecidableEq, Repr

/-- What a power loss leaves of an addressed 8-byte group of a page being programmed (R521). -/
inductive CutGroup where
  | old | new | broken
  deriving DecidableEq, Repr

/-- Where a power loss interrupts LIFECYCLE_ADVANCE, if one does (R353): after the root fuses, or after the lifecycle fuses. -/
inductive FuseCut where
  | never | afterRoot | afterLifecycle
  deriving DecidableEq, Repr

/-- The root fuses of a LIFECYCLE_ADVANCE that program wrong, and where the power fails, if it does (R353). -/
structure FuseProgram where
  errors : BitVec 288
  cut : FuseCut
  deriving DecidableEq, Repr

/-- The bytes of a channel write over I3C, and the words of it that fail their parity in the FIFO (R405, R410). -/
structure SidebandBytes where
  bytes : List Byte
  parityFails : List Nat
  deriving DecidableEq, Repr

/-- A read over I3C: the channel or the count of bytes, and the words of it that fail their parity (R405, R410, R411). -/
structure SidebandRead where
  operand : Nat
  parityFails : List Nat
  deriving DecidableEq, Repr

/-- The value of a register write over I3C, and whether it fails its parity in a mailbox FIFO (R405, R411). -/
structure SidebandValue where
  value : Word
  parityFail : Bool
  deriving DecidableEq, Repr

/-- The commands, one constructor per row of the opcode table. -/
inductive Instr where
  | tickBoundary (env : TickEnv)
  | checkpointCopyTaken (slice : Nat)
  | rekeySweepEnd (slice : Nat)
  | skippedTick
  | roundBoundary (selfCheckFails : List (Nat × Nat))
  | shadowCopyDone
  | dryTimeout (slice : Nat)
  | idleExit
  | firmwareVariantChange
  | thermalSample (input : ThermalInput)
  | cxlMemRead (port : Nat) (hpa : Nat) (tag : Nat) (env : AccessEnv)
  | streamUnitLoaded (entry : Nat) (unit : Nat) (data : List Byte)
  | cxlMemWrite (port : Nat) (hpa : Nat) (tag : Nat) (data : Sector) (poison : Bool) (env : AccessEnv)
  | alarmPolicyAction (slice : Nat)
  | pageReadComplete (slice : Nat) (flight : Nat) (errors : List Nat)
  | programComplete (slice : Nat) (reach : Nat) (group : Nat) (bank : Nat) (pass : Bool)
  | durableWriteComplete (slice : Nat) (write : Nat)
  | trim (slice : Nat)
  | clearSegmentComplete (slice : Nat) (reach : Nat) (group : Nat) (bank : Nat) (pass : Bool)
  | sourceInvalidate (slice : Nat) (slot : Nat)
  | sourceClearStart (slice : Nat) (slot : Nat)
  | verifyComplete (slice : Nat) (slot : Nat)
  | tailAdvance (slice : Nat)
  | hintWrite (port : Nat) (size : Nat) (record : BitVec 64)
  | globalPersistentFlush (port : Nat)
  | flushComplete (flush : Nat)
  | cacheClearingDone (slice : Nat)
  | cacheDrainDone (slice : Nat)
  | maintDone
  | maintClean (agent : Agent) (port : Nat) (value : Word)
  | maintInvalidate (agent : Agent) (port : Nat) (value : Word)
  | maintCleanInvalidate (agent : Agent) (port : Nat) (value : Word)
  | setwayClean (agent : Agent) (port : Nat) (value : Word)
  | setwayInvalidate (agent : Agent) (port : Nat) (value : Word)
  | setwayCleanInvalidate (agent : Agent) (port : Nat) (value : Word)
  | cacheCmdEnable (agent : Agent) (port : Nat)
  | drainDisable (agent : Agent) (port : Nat)
  | discardDisable (agent : Agent) (port : Nat)
  | swapRequest (agent : Agent) (port : Nat) (value : Word)
  | retrainAll (agent : Agent) (port : Nat) (value : Word)
  | registerWrite (agent : Agent) (port : Nat) (target : RegTarget) (size : Nat) (value : BitVec 64)
  | mbInWrite (agent : Agent) (port : Nat) (channel : Nat) (value : Word) (parityFail : Bool)
  | mbOutRead (agent : Agent) (port : Nat) (channel : Nat) (half : OutHalf) (parityFail : Bool)
  | mailboxDrop (agent : Agent) (port : Nat) (channel : Nat) (value : Word)
  | mbAssignWrite (agent : Agent) (port : Nat) (value : Word)
  | mailboxTimeout (channel : Nat)
  | ringEnable (agent : Agent) (port : Nat) (ring : Nat) (value : Word)
  | ringDisable (agent : Agent) (port : Nat) (ring : Nat) (value : Word)
  | ringReset (agent : Agent) (port : Nat) (ring : Nat) (value : Word)
  | ringDoorbell (port : Nat) (ring : Nat) (value : Word)
  | ringCplHeadWrite (agent : Agent) (port : Nat) (ring : Nat) (value : Word)
  | copy (ring : Nat) (descriptor : BitVec 512) (host : HostData)
  | install (ring : Nat) (descriptor : BitVec 512) (host : HostData)
  | installUnitLoaded (ring : Nat) (slot : Nat) (unit : Nat) (data : List Byte)
  | hint (ring : Nat) (descriptor : BitVec 512) (host : HostData)
  | persist (ring : Nat) (descriptor : BitVec 512) (host : HostData)
  | verify (ring : Nat) (descriptor : BitVec 512) (host : HostData)
  | zero (ring : Nat) (descriptor : BitVec 512) (host : HostData)
  | trimDescriptor (ring : Nat) (descriptor : BitVec 512) (host : HostData)
  | descriptorComplete (ring : Nat) (slot : Nat)
  | identifyMemoryDevice (port : Nat)
  | getHealthInfo (port : Nat)
  | getAlertConfiguration (port : Nat)
  | setAlertConfiguration (port : Nat) (valid : BitVec 5) (values : List Int)
  | getEventRecords (port : Nat) (log : Nat)
  | clearEventRecords (port : Nat) (log : Nat) (all : Bool) (handles : List Nat)
  | getEventInterruptPolicy (port : Nat)
  | setEventInterruptPolicy (port : Nat) (policy : BitVec 32)
  | getSupportedLogs (port : Nat)
  | getLog (port : Nat) (uuid : BitVec 128) (offset : Nat) (length : Nat)
  | getTimestamp (port : Nat)
  | setTimestamp (port : Nat) (value : BitVec 64)
  | getFwInfo (port : Nat)
  | unsupportedStandardCommand (port : Nat) (opcode : BitVec 16)
  | hdmDecoderCommit (port : Nat) (decoder : Nat)
  | hdmDecoderUncommit (port : Nat) (decoder : Nat)
  | portReset (port : Nat)
  | linkL1Entry (port : Nat)
  | linkL1Exit (port : Nat)
  | linkRecovery (port : Nat) (excluded : BitVec 16)
  | ideIntegrityFailure (port : Nat) (selective : Bool)
  | read (address : BitVec 24) (length : Nat)
  | fastRead (address : BitVec 24) (length : Nat)
  | readSfdp (address : BitVec 24) (length : Nat)
  | readStatus (length : Nat)
  | octalRead (address : BitVec 32) (length : Nat)
  | octalReadStatus (length : Nat)
  | writeEnable
  | writeVolatileConfig (address : BitVec 32) (value : Byte)
  | resetEnable
  | reset
  | xspiIgnoredCommand (opcode : Byte)
  | i3cAddressAssign (how : I3cAssign) (address : BitVec 7)
  | i3cChannelWrite (channel : Nat) (bytes : SidebandBytes)
  | i3cChannelRead (channel : SidebandRead)
  | regWrite (offset : BitVec 32) (value : SidebandValue)
  | regAddr (offset : BitVec 32)
  | bufWrite (offset : BitVec 16) (data : List Byte)
  | bufAddr (offset : BitVec 16)
  | drop (channel : Byte)
  | i3cControlRead (bytes : SidebandRead)
  | undefinedOpcode (channel : Nat)
  | identify (channel : Nat)
  | identifySlice (channel : Nat)
  | imageLoad (channel : Nat) (buffer : List Byte)
  | imageStagingTimeout
  | imageActivate (channel : Nat)
  | imageStatus (channel : Nat)
  | schedRead (channel : Nat)
  | schedSwap (channel : Nat)
  | contractReport (channel : Nat)
  | regionSet (channel : Nat)
  | regionGet (channel : Nat)
  | portClassSet (channel : Nat)
  | shadowRevert (channel : Nat)
  | cacheMaint (channel : Nat)
  | cacheDisable (channel : Nat)
  | cacheEnable (channel : Nat)
  | cacheStatus (channel : Nat)
  | titleImport (channel : Nat)
  | titleOpen (channel : Nat)
  | titleClose (channel : Nat)
  | titleStatus (channel : Nat)
  | titleBindRing (channel : Nat)
  | titleDelete (channel : Nat)
  | deviceKeyGet (channel : Nat)
  | ideKeySet (channel : Nat)
  | healthGet (channel : Nat)
  | recorderRead (channel : Nat)
  | recorderStatus (channel : Nat)
  | recorderClear (channel : Nat) (pass : Bool)
  | lastGaspRead (channel : Nat)
  | lifeGet (channel : Nat)
  | notifySet (channel : Nat)
  | modeEnter (channel : Nat)
  | orderlyShutdown (slice : Nat)
  | warmReset (channel : Nat)
  | thermalStatus (channel : Nat)
  | faultStatus (channel : Nat)
  | faultClear (channel : Nat)
  | cartStatus (channel : Nat)
  | cartPower (channel : Nat)
  | cartRefclkStart
  | cartPerstRelease
  | cartAuth (channel : Nat) (card : CardInfo)
  | cartManifestRead (channel : Nat)
  | cartTitleImport (channel : Nat) (status : BitVec 16) (key : BitVec 256)
  | cartStreamMap (channel : Nat) (hashTable : List Byte)
  | cardPresent
  | cardRemoved
  | cartFailure (fault : CardFault)
  | cardRequest (request : CardReq)
  | fwStage (channel : Nat) (buffer : List Byte)
  | fwActivate (channel : Nat)
  | fwInfo (channel : Nat)
  | lifecycleGet (channel : Nat)
  | lifecycleAdvance (channel : Nat) (fuses : FuseProgram)
  | secPolicySet (channel : Nat)
  | secAlarmStatus (channel : Nat)
  | secAlarmClear (channel : Nat)
  | rollbackRead (channel : Nat)
  | rollbackAdvance (channel : Nat)
  | keySlotWrite (channel : Nat)
  | testEnter (channel : Nat)
  | counterSnapshot (channel : Nat)
  | snapshotLatch
  | counterRead (channel : Nat)
  | bwWindowSet (channel : Nat)
  | bwWindowEnd
  | pstoreRead (channel : Nat) (correctedGroups : List Nat)
  | pstoreWrite (channel : Nat)
  | pstoreProgramDone (pass : Bool)
  | repeatCountWrite (readBackGood : Bool)
  | mirrorSave
  | extest (scan : List Bool)
  | samplePreload (scan : List Bool)
  | idcode
  | challenge
  | token (bytes : List Byte)
  | unlockStatus
  | fault
  | dapAccess (write : Bool) (target : DapTarget) (value : BitVec 64)
  | bypass (code : Byte)
  | alwaysOnPowerOn
  | aonPowerOff
  | resetNLow (cut : List CutGroup)
  | resetNHigh
  | powerFail (pfail : Bool) (cut : List CutGroup)
  | wakeEvent
  | startConditionMet
  | railGood (rail : Nat)
  | railRampTimeout (rail : Nat)
  | railFailure (rail : Nat)
  | railShortDrop (rail : Nat)
  | railOffTimeout (rail : Nat)
  | vppDischargeTimeout
  | vppClampRelease
  | barrierRelease
  | barrierTimeout
  | externalFault
  | watchdogExpiry
  | dramTrainingDone (slice : Nat) (failures : List (Nat × Nat)) (densityGood : Bool)
  | tickStart (sentinels : List (List (Option Nat))) (formatInterrupted : Bool)
  | bootComplete
  | dramRefresh (slice : Nat) (channel : Nat) (bank : Nat)
  | forcedRefresh (slice : Nat) (channel : Nat) (bank : Nat)
  | hostLinkUp (port : Nat) (width : Nat) (speed : Nat) (flit256 : Bool)
  | cartLinkUp (width : Nat) (speed : Nat)
  | cartClkreqChange (low : Bool)
  | cartShutdownDone
  | cartRefclkStop
  | cartPwrEnFall
  | drowseThermalSample (tdA : Option Nat) (thA : Option Nat)
  | railOff (rail : Nat)
  | protectedSpaceFillDone (slice : Nat)
  | descriptorFetchTimeout (ring : Nat) (slot : Option Nat)
  deriving DecidableEq, Repr

end Sys2Proof
end

