-- ==== Sys2Proof/Decode.lean ====
section
/-!
DEFINITION. The opcode table of this block gives its rows no bits, so no word spells a command.
-/
namespace Sys2Proof

/-- The command that a word spells by the bits of the opcode table: none, as no row has bits. -/
def decodeTableWord (_nbits _w : Nat) : Option Instr := none

end Sys2Proof
end

