-- ==== Sys2Proof/Config.lean ====
section
/-!
DEFINITION. Values that the manual leaves to the implementation, to a secret or to a published standard
whose content it does not repeat: constants without a body, so that every statement holds whatever they are.
-/
namespace Sys2Proof

/-- The n-th draw of a value that the manual leaves undefined or does not state. -/
opaque Config.freeNat : Nat → Nat

/-- The n-th draw of 128 bits from the DRBG (R28, R381). -/
opaque Config.drbg : Nat → BitVec 128

/-- The 768 bits of a DRAM key from the DRBG (R356, R369): the draw that dates the start, and the sweeps begun since. -/
opaque Config.dramKey : Nat → Nat → BitVec 768

/-- The firmware key fused in the security core (R455): false X, true Y. -/
opaque Config.firmwareKey : Bool → BitVec 384

/-- What READ_SFDP returns where R325 fixes nothing (R325): byte n of the JESD216 tables, and the place of the basic parameter table in
words past the headers. -/
opaque Config.sfdpByte : Nat → Byte
opaque Config.sfdpPlace : Nat

/-- The largest value that the GPF phase 2 duration field can encode, in ms (R294). -/
opaque Config.gpfLargest : Nat

/-- The interrupt message number that the capability register of the primary mailbox shows (R423). -/
opaque Config.mailboxVector : Nat

/-- Byte n of the Command Effects Log (R304), and its length. -/
opaque Config.effectsByte : Nat → Byte
opaque Config.effectsLength : Nat

/-- Whether a temperature between two steps of 0.25 °C reads as the upper one (R508): thermistor or diode, raw reading, th_beta or
td_ideality. -/
opaque Config.roundsUp : Bool → Nat → Nat → Bool

/-- What a card reads of the staging window (R466): the count of draws, bus address. -/
opaque Config.windowByte : Nat → Nat → Byte

/-- Field values of the built-in variant that the firmware carries (R173): rung, retired count, template, ROW_WORD, bit
position of the field. -/
opaque Config.builtinGrant : Nat → Nat → Nat → Nat → Nat → Nat

/-- Field values of the preserve table that the firmware carries (R173): template, ROW_WORD, bit position. -/
opaque Config.preserveGrant : Nat → Nat → Nat → Nat

/-- contract_id and security_version in the built-in image's header (R437). -/
opaque Config.builtinContract : BitVec 128
opaque Config.builtinVersion : Nat

/-- The references that calibration finds best (R72, R73), in calibration steps from the factory setting: the reach,
bank group × 48 + age class × 6 + temperature band, the number of samples read before, and which of the four
references (0–2 MLC, 3 SLC). -/
opaque Config.reference : Nat → Nat → Nat → Nat → Int

/-- The known pattern of a sentinel page (R77), which the manual does not give: SLC mode, level. -/
opaque Config.sentinelPattern : Bool → Nat → BitVec 2048

/-- The temperature band (0–5) of a slice's reaches before any sensor has been read (R72, R509). -/
opaque Config.unreadBand : Nat → Nat

/-- The 288 parity bits of the page code (R44) over the 2,176 information bits. The manual names a BCH code over
GF(2^12) and gives neither the field's polynomial nor the generator. -/
opaque Config.pageCode : BitVec 2176 → BitVec 288

/-- The 7-bit hash Sg of the row bits under a scramble seed (R332), whose function the manual does not give: seed, row. -/
opaque Config.rowHash : BitVec 7 → Nat → Nat

/-- Byte of a title directory entry, whose layout the manual does not give (R524): whether the slot holds a title, its
identifier and wrapped key, and the offset in the entry. -/
opaque Config.titleDirByte : Bool → BitVec 128 → BitVec 320 → Nat → Byte

end Sys2Proof
end

