-- ==== Sys2Proof/Machine/State.lean ====
section
/-!
DEFINITION. The state of the block as plain data, the reasons a command can stop, and the state right
after reset: a factory-fresh part (R572) whose always-on domain has just left reset (R482, R489), so the
package stands in HELD with its sequencer in state 1 (R490).
Sparse collections are lists of (key, value) pairs with rising keys; an unlisted key reads as the default
that the reading operation names.
-/
namespace Sys2Proof.Machine

open Sys2Proof

/-- Why a command stops with a fault: it names a unit that the part does not have (R1, R10, R14).
Safe: the hardware has no such unit to act. -/
inductive Fault where
  /-- Raised by a command that names a host port at or above the slice count. Safe. -/
  | noSuchPort
  /-- Raised by a command that names a slice at or above the slice count. Safe. -/
  | noSuchSlice
  /-- Raised by a command that names a mailbox channel above 15. Safe. -/
  | noSuchChannel
  deriving DecidableEq, Repr

/-- Why a command is refused. -/
inductive Refusal where
  /-- A command that has no meaning in the model. Safe: nothing is claimed of it. -/
  | notModelled (mnemonic : String)
  deriving DecidableEq, Repr

/-- A sparse map with Nat keys, in rising key order. -/
abbrev Sparse (α : Type) := List (Nat × α)

/-- The ordering code (R1, R2). -/
inductive Part where
  | tvq2 | tvq4 | tvq8
  deriving DecidableEq, Repr

/-- The twelve modes (R30). -/
inductive Mode where
  | off | held | boot | recovery | service | throttled | preserve | idle | drowse | dormant | test | halt
  deriving DecidableEq, Repr

/-- The lifecycle states (R352). -/
inductive Lifecycle where
  | anise | cumin | mace | clove
  deriving DecidableEq, Repr

/-- An AES-256-XTS key pair (R356), byte 0 of each key lowest. -/
structure XtsKey where
  data : BitVec 256
  tweak : BitVec 256
  deriving DecidableEq, Repr

/-- A DRAM key (R356): AES-256-XTS and AES-256-CMAC, 3 × 256 bits. -/
structure DramKey where
  xts : XtsKey
  mac : BitVec 256
  deriving DecidableEq, Repr

/-- A programmed bank of the root fuse block (R353): the device root and its CRC-32C. -/
structure RootBank where
  value : BitVec 256
  crc : BitVec 32
  deriving DecidableEq, Repr

/-- Fuses of the part: identity, lifecycle and device root (R351, R353, R393); an unprogrammed bank is `none`. -/
structure Fuses where
  deviceId : BitVec 64 := 0
  stepping : BitVec 8 := 0
  dram4 : Bool := false
  lifecycle : Lifecycle := .anise
  rootBanks : List (Option RootBank) := [none, none]
  rootKilled : Bool := false
  deriving DecidableEq, Repr

/-- The tick source (R16, R18, TICK_STATUS, R115). `abs` counts scheduled ticks since power-on and
`periods` the tick periods; both are the model's own, to date arrivals. -/
structure Clock where
  on : Bool := false
  tick : Nat := 0
  round : BitVec 32 := 0
  roundClosed : Bool := false
  skipN : Nat := 0
  skipCount : Nat := 0
  abs : Nat := 0
  periods : Nat := 0
  deriving DecidableEq, Repr

/-- Why a swap was requested (R180): every group, or the slot tables only. -/
inductive SwapKind where
  | all | tables
  deriving DecidableEq, Repr

/-- The swap machinery (R179–R182, SWAP_REQUEST). `wait` is the number of round boundaries still to pass
before the boundary that takes the swap; `copying` tells what it exchanged, from that boundary to the shadow copy's end. `rung` is the
package rung that waits for a swap of its own (R184), `taking` the one that the pending swap brings. -/
structure Swap where
  pending : Option SwapKind := none
  wait : Nat := 0
  copying : Option SwapKind := none
  refused : Bool := false
  lastRound : BitVec 32 := 0
  rung : Option Nat := none
  taking : Option Nat := none
  changeDue : Bool := false
  deriving DecidableEq, Repr

/-- A shadowed register group set (R397): region table, port classification, throttle configuration. -/
structure Groups where
  regionBase : List Word := List.replicate 64 0
  regionAttr : List Word := List.replicate 64 0
  portClass : List Word := List.replicate 8 7
  thermCtrl : Word := 0x81065D
  thermSkip : Word := 0x86432190
  thermLimit : List Word := [0x878695F, 0x8695F55, 0x45F5046]
  thermSrc : Word := 0x35AC80
  deriving DecidableEq, Repr

/-- A select pair (R394). -/
structure Sel where
  slice : Nat := 0
  reach : Nat := 0
  deriving DecidableEq, Repr

/-- ACCESS_ERROR (R391). -/
structure AccessError where
  offset : Nat := 0
  reason : Nat := 0
  port : Nat := 0
  secure : Bool := false
  valid : Bool := false
  count : Nat := 0
  deriving DecidableEq, Repr

/-- A range maintenance operation in progress (R284): operation 1–3, first and last line, who may be
answered, and whether protected lines are cleaned rather than dropped. -/
structure MaintOp where
  op : Nat
  first : Nat
  count : Nat
  deriving DecidableEq, Repr

/-- The global block's remaining registers (R393), and whether an exit from IDLE is due at the next tick boundary (R480). -/
structure GlobalRegs where
  selHost : Sel := {}
  selSecure : Sel := {}
  selFirmware : Sel := {}
  accessError : AccessError := {}
  mbAssign : Word := 0
  maintBase : Word := 0
  maintLines : Word := 0
  maintRun : Option MaintOp := none
  maintDone : Bool := false
  maintDenied : Bool := false
  counterUser : Bool := false
  idleExit : Bool := false
  deriving DecidableEq, Repr

/-- One stage of a mailbox FIFO (R402): the word, the first-of-message mark, and its parity verdict. -/
structure MbWord where
  word : Word
  first : Bool
  bad : Bool
  deriving DecidableEq, Repr

/-- A notification waiting for room in a channel's outbound FIFO (R433). -/
structure Notice where
  code : Nat
  payload : List Word
  merged : Bool
  deriving DecidableEq, Repr

/-- One mailbox channel (R402–R408, R433). `inbLeft` counts the payload words still due of the newest
inbound message; `resync` tells that a write was discarded and the firmware has yet to empty the inbound FIFO (R404); `waiting` holds responses that wait for room in the outbound FIFO. -/
structure Chan where
  inb : List MbWord := []
  inbLeft : Nat := 0
  resync : Bool := false
  outb : List MbWord := []
  overrun : Bool := false
  underrun : Bool := false
  outPoison : Bool := false
  inEmpty : Bool := false
  outReady : Bool := false
  inEmptyEn : Bool := false
  outReadyEn : Bool := false
  vector : Nat := 0
  bufAddr : Nat := 0
  bufPages : Nat := 0
  heldHalf : Option Nat := none
  mask : BitVec 16 := 0x1A
  waiting : List (List Word) := []
  notices : List Notice := []
  deriving DecidableEq, Repr

/-- A request in service: its channel, the opcode and tag of its header, and its words, header first. -/
structure Req where
  channel : Nat
  opcode : Nat
  tag : Nat
  words : List Word
  deriving DecidableEq, Repr

/-- How a command answers: now, with status, response flags and payload, or when an event it waits for
has come. -/
inductive Reply where
  | now (status flags : Nat) (payload : List Word)
  | later
  deriving DecidableEq, Repr

/-- The I3C sideband (R409–R413). -/
structure I3c where
  addresses : List (Option (BitVec 7)) := List.replicate 9 none
  regPointer : Nat := 0
  bufPointer : Nat := 0
  readsBuffer : Bool := false
  window : List Host.Cell := []
  deriving DecidableEq, Repr

/-- What a ring is bound to (R377). -/
inductive Binding where
  | title (slot : Nat)
  | region (n : Nat)
  deriving DecidableEq, Repr

/-- A fetched descriptor (R417–R422). `pending` counts the reads and writes it still waits for. -/
structure Desc where
  slot : Nat
  raw : BitVec 512
  started : Bool
  status : Option Nat
  pending : Nat
  moved : Nat
  dropped : Nat
  poisoned : Nat
  firstPoison : Option Nat
  flush : Option Nat
  deriving DecidableEq, Repr

/-- States of a work ring (R415). -/
inductive RingState where
  | disabled | running | draining | stopped
  deriving DecidableEq, Repr

/-- One work ring (R415–R421). -/
structure Ring where
  descBase : Nat := 0
  cplBase : Nat := 0
  sizeLog2 : Nat := 6
  enable : Bool := false
  hostPort : Nat := 0
  vector : Nat := 0
  irqEnable : Bool := false
  state : RingState := .disabled
  stopCode : Nat := 0
  produced : BitVec 32 := 0
  fetched : BitVec 32 := 0
  consumed : BitVec 32 := 0
  written : BitVec 32 := 0
  binding : Option Binding := none
  descs : List Desc := []
  resetting : Bool := false
  deriving DecidableEq, Repr

/-- Link state of a host port. -/
inductive Link where
  | down | l0 | l1
  deriving DecidableEq, Repr

/-- A device HDM decoder (R300, R301). -/
structure Hdm where
  base : Nat := 0
  size : Nat := 0
  granularity : Nat := 4096
  ways : Nat := 1
  skip : Nat := 0
  target : Nat := 0
  committed : Bool := false
  lockOnCommit : Bool := false
  notCommitted : Bool := false
  deriving DecidableEq, Repr

/-- An IDE key slot of a port (R449): stream, substream, direction, key set. -/
structure IdeKey where
  selector : Nat
  key : BitVec 256
  iv : BitVec 96
  deriving DecidableEq, Repr

/-- What a port's CDAT reports (R315): the DSMAS range, the latencies in ns, the bandwidths in GB/s. -/
structure Cdat where
  base : Nat
  length : Nat
  readLatency : Nat
  writeLatency : Nat
  readBandwidth : Nat
  writeBandwidth : Nat
  deriving DecidableEq, Repr

/-- One CXL host port (R296–R318); `cdat` is what it reports once the link has come up, `reads` and `writes` hold the tags of requests without a completion (R317). -/
structure Port where
  link : Link := .down
  width : Nat := 0
  speed : Nat := 0
  flit256 : Bool := false
  widthLimit : Nat := 16
  down : Bool := false
  recoveries : List (Nat × BitVec 16) := []
  decoders : List Hdm := List.replicate 4 {}
  position : Word := 0
  reads : List Nat := []
  writes : List Nat := []
  ideKeys : List IdeKey := []
  ideInsecure : List Bool := [false, false]
  policy : BitVec 32 := 0
  cdat : Option Cdat := none
  aer : Bool := false
  msixControl : BitVec 16 := 0
  mailboxIrq : Bool := false
  activeInRound : Bool := false
  bwRead : List Nat := List.replicate 8 0
  bwWrite : List Nat := List.replicate 8 0
  bwReadResult : List Nat := List.replicate 8 0
  bwWriteResult : List Nat := List.replicate 8 0
  deriving DecidableEq, Repr

/-- Kinds of CXL event record (R310). -/
inductive EvKind where
  | generalMedia | dram | memoryModule | vendor
  deriving DecidableEq, Repr

/-- An event as it is reported (R570): code, slice, reason, class or reach, parameter bytes, life clock. -/
structure Event where
  code : Nat
  slice : Nat
  reason : Nat
  cls : Nat
  params : List Byte
  clock : Nat
  deriving DecidableEq, Repr

/-- A record of a CXL event log (R307, R310). -/
structure LogRec where
  handle : Nat
  kind : EvKind
  event : Event
  deriving DecidableEq, Repr

/-- One CXL event log: its size (R305), its records and its overflow count (R310). -/
structure EvLog where
  size : Nat
  records : List LogRec
  overflow : Nat
  deriving DecidableEq, Repr

/-- The package's CXL logs, alert thresholds and timestamp (R304–R307). Logs are informational, warning,
failure, fatal. -/
structure StdState where
  logs : List EvLog := [⟨64, [], 0⟩, ⟨64, [], 0⟩, ⟨64, [], 0⟩, ⟨16, [], 0⟩]
  nextHandle : Nat := 1
  alertValid : BitVec 5 := 0
  alertValues : List Int := [0, 0, 0, 0, 0]
  timestamp : Nat := 0
  timestampClock : Nat := 0
  deriving DecidableEq, Repr

/-- Debug access (R380–R383): unlock, scope, failures since start, live nonce, and the JTAG scan state. `granted` is the scope of an
accepted token that waits until every title has closed, `closing` the flushes it waits for, each with its title slot (R366). -/
structure Debug where
  unlocked : Bool := false
  granted : Option (BitVec 8) := none
  closing : List (Nat × Nat) := []
  scope : BitVec 8 := 0
  failures : Nat := 0
  nonce : Option (BitVec 128) := none
  selected : BitVec 8 := 0xFF
  boundary : List Bool := []
  halted : Bool := false
  deriving DecidableEq, Repr

/-- Alarms (R384, R385, R458). -/
structure Alarms where
  causes : BitVec 6 := 0
  count : Nat := 0
  lastRound : BitVec 32 := 0
  asserted : Bool := false
  policy : Nat := 1
  deriving DecidableEq, Repr

/-- A re-key sweep (R369): its pointer and hop table. -/
structure Sweep where
  pointer : Nat
  hop : List Nat
  deriving DecidableEq, Repr

/-- The always-on key registers of slice 0 while they hold keys, in DROWSE (R35, R358): for each slice the DRAM key, the previous
DRAM key and the sweep state, and the frame keys of the open slots. -/
structure AonKeys where
  dram : List (Option DramKey × Option DramKey × Option Sweep)
  frames : Sparse XtsKey
  deriving DecidableEq, Repr

/-- Package-wide key material (R332, R356–R358): the DRAM scramble seed and the always-on key registers. The keys in the slices'
engines are in `MediumEngine` and `Dram`; what the security core derives from the root it derives when it needs it. -/
structure Keys where
  seed : BitVec 7 := 0
  aon : Option AonKeys := none
  deriving DecidableEq, Repr

/-- States of a title slot (R361). -/
inductive TitleState where
  | empty | installed | opened
  deriving DecidableEq, Repr

/-- One title slot (R361, R446): its state, its title key wrapped under the storage key (byte 0 lowest), its identifier and ranges
(base, size). The record stays while the slot is not EMPTY. -/
structure Title where
  state : TitleState := .empty
  key : BitVec 320 := 0
  id : BitVec 128 := 0
  ranges : List (Nat × Nat) := []
  deriving DecidableEq, Repr

/-- A register access of the control target that waits on a stalled resource (R413): a 64-bit write of `value`, or a read pointer set;
`bad` marks a written word whose parity fails in a mailbox FIFO. -/
structure RegAccess where
  offset : Nat
  value : Option Word
  bad : Bool
  deriving DecidableEq, Repr

/-- An access waiting for the parameter store (R523). `page2` marks a write at its second page, `fixed` the groups in which
a read finds a single-bit error (R522); `register` makes it a register access of the sideband that waits in the store's order (R413). -/
structure PAccess where
  address : Nat
  data : List Byte
  page2 : Bool
  channel : Option Nat
  tag : Nat
  opcode : Nat
  length : Nat
  isRead : Bool
  fixed : List Nat
  register : Option RegAccess := none
  deriving DecidableEq, Repr

/-- The parameter store (R519–R523): its bytes, the 8-byte groups that decode as uncorrectable, the groups written back
since the start (R522), and the accesses in progress and waiting, oldest first. -/
structure PStore where
  mem : List Host.Cell := []
  broken : List Nat := []
  rewritten : List Nat := []
  queue : List PAccess := []
  deriving DecidableEq, Repr

/-- The volatile mirrors (R528). -/
structure Mirror where
  lifeClock : Nat := 0
  seconds : Nat := 0
  bootCount : Nat := 0
  dirtyShutdowns : Nat := 0
  thermalLife : Nat := 0
  closed : Bool := true
  recorderFailed : Bool := false
  dirtyPresent : Bool := false
  repeats : Nat := 0
  newestOffset : Nat := 0
  droppedEvents : Nat := 0
  deriving DecidableEq, Repr

/-- The event recorder's working state (R531–R537). -/
structure Recorder where
  writePos : Nat := 0
  newest : Option Event := none
  generation : Nat := 0
  failed : Bool := false
  full : Bool := false
  repeatDirty : Bool := false
  records : Nat := 0
  deriving DecidableEq, Repr

/-- A stored copy of an image in the system area (R177, R457): bytes, generation number, CRC intact. -/
structure ImgCopy where
  bytes : List Byte
  generation : Nat
  intact : Bool
  deriving DecidableEq, Repr

/-- Schedule images (R175–R178, R437). `arriving` is the activated image whose swap is pending, `leaving` the
image in force before the swap whose shadow copy goes on (R133), `storing` the system copy
that IMAGE_ACTIVATE is writing: 0 on slice 0, 1 on slice 1 (R177). -/
structure Images where
  copies : List (Option ImgCopy) := [none, none]
  inForce : Option (List Byte) := none
  candidate : Option (List Byte) := none
  staging : Option (Nat × List Byte) := none
  report : Nat × Nat := (0, 0)
  arriving : Option (List Byte) := none
  leaving : Option (List Byte) := none
  storing : Option Nat := none
  failedAtStart : Bool := false
  deriving DecidableEq, Repr

/-- A firmware target (R454–R457): active revision and version, staged part and checked image, copies, and the system copy that
FW_ACTIVATE is writing: 0 on slice 0, 1 on slice 1 (R178, R457). -/
structure FwTarget where
  revision : Nat := 0
  version : Nat := 0
  payload : List Byte := []
  staging : Option (Nat × List Byte) := none
  staged : Option (List Byte) := none
  copies : List (Option ImgCopy) := [none, none]
  storing : Option Nat := none
  deriving DecidableEq, Repr

/-- Commands whose response waits for an event (R431, R432): channel, opcode, tag. -/
inductive WaitFor where
  | maint
  | cacheOff (slices : List Nat) (discard : Bool)
  | flush (id : Nat) (title : Nat) (delete : Bool)
  | trims (title left : Nat)
  | cartOff
  | swap
  | firmware (target : Nat)
  deriving DecidableEq, Repr

/-- A pending response. -/
structure Waiter where
  channel : Nat
  opcode : Nat
  tag : Nat
  what : WaitFor
  deriving DecidableEq, Repr

/-- A line waiting for a streamed unit (R475): port and tag of the read, line and sector. -/
structure StreamWait where
  port : Nat
  tag : Nat
  slice : Nat
  line : Nat
  sector : Nat
  title : Nat
  offset : Nat
  deriving DecidableEq, Repr

/-- What a streamed region maps (R475, R476): the region, the entry's title identifier, content length and hash table
digest, and the hash table of that digest. -/
structure StreamMap where
  region : Nat
  id : BitVec 128
  length : Nat
  digest : List Byte
  table : List Byte
  deriving DecidableEq, Repr

/-- The cartridge port (R461–R476). `step` is the place in the power-up or power-off sequence of R463:
0 idle, 1 powered and waiting for REFCLK, 2 waiting for PERST release, 3 waiting for link, 4 up,
5 waiting for the shutdown answer, 6 waiting for REFCLK to stop, 7 waiting for PWR_EN to fall. `queues` is set while the card has the
I/O queue pair, and `readLimit` is the longest Read in bytes (R464, R465). `streamShadow` holds the mappings written since the last
swap. -/
structure Cart where
  present : Bool := false
  pwrEn : Bool := false
  refclk : Bool := false
  refclkStarted : Bool := false
  clkreqLow : Bool := false
  perstHigh : Bool := false
  linkUp : Bool := false
  queues : Bool := false
  readLimit : Nat := 262144
  width : Nat := 0
  speed : Nat := 0
  step : Nat := 0
  auth : Nat := 0
  session : Bool := false
  manifest : List Byte := []
  hashTables : List (Nat × List Byte) := []
  stream : List (Nat × Nat × List Byte) := []
  streamWaits : List StreamWait := []
  streamMaps : List StreamMap := []
  streamShadow : List StreamMap := []
  deriving DecidableEq, Repr

/-- Sequencer timing settings (R498). -/
structure SeqTiming where
  tStable : Nat := 10
  tRamp : Nat := 10
  tGlitch : Nat := 20
  tOff : Nat := 10
  deriving DecidableEq, Repr

/-- The package's sequencer (R490–R502) and the control pins it samples. `turn` is the rail whose fall states 13 and
14 wait for. -/
structure Sequencer where
  state : Nat := 1
  target : Mode := .held
  en : BitVec 8 := 0
  pg : BitVec 8 := 0
  finished : Bool := false
  turn : Option Nat := none
  faultLow : Bool := false
  vppDischarge : Bool := false
  latch : BitVec 16 := 0
  stateAtFault : Nat := 0
  shortDrops : Nat := 0
  timing : SeqTiming := {}
  wake : Bool := false
  mayStart : Bool := true
  latchedStart : Bool := false
  rested : Mode := .held
  powerFailing : Bool := false
  vinGood : Bool := true
  resetHigh : Bool := true
  pfailHigh : Bool := true
  faultRecordDue : Bool := false
  watchdogDue : Bool := false
  deriving DecidableEq, Repr

/-- One temperature sensor (R507–R512): readings newest first (at most 60, quarter degrees), the run of
faulty samples, and the run of samples at or above critical. -/
structure Sensor where
  readings : List Int := []
  badRun : Nat := 0
  faulty : Bool := false
  criticalRun : Nat := 0
  deriving DecidableEq, Repr

/-- Warn state of a sensor group (R512). -/
structure WarnState where
  asserted : Bool := false
  upRun : Nat := 0
  downRun : Nat := 0
  deriving DecidableEq, Repr

/-- Thermal management (R507–R517) and the health page's temperature history (R545). `nextLevel` waits for the round
boundary at which it takes effect, `lifeMicros` is the part of a second of thermal life not yet in the mirror, and `sampled` is the
sample period that was sampled last. -/
structure Thermal where
  sensors : Sparse Sensor := []
  warns : List WarnState := [{}, {}, {}]
  level : Nat := 0
  nextLevel : Option Nat := none
  upRun : Nat := 0
  downRun : Nat := 0
  effectiveRound : Nat := 0
  fresh : Bool := true
  lifeMicros : Nat := 0
  peaks : List (Option Int) := [none, none, none]
  rorCounts : List Nat := [0, 0, 0]
  bins : List (List Nat) := List.replicate 3 (List.replicate 32 0)
  sampled : Option Nat := none
  drowseHigh : Option Int := none
  drowseSamples : Nat := 0
  deriving DecidableEq, Repr

/-- Boot port protocol (R323). -/
inductive XspiMode where
  | single | octal
  deriving DecidableEq, Repr

/-- The boot port (R323–R327); `missing` once a start found no valid boot image (R326). -/
structure BootPort where
  proto : XspiMode := .single
  writeEnabled : Bool := false
  resetArmed : Bool := false
  image : List Byte := []
  imageValid : Bool := false
  missing : Bool := false
  deriving DecidableEq, Repr

/-- Media Status of the standard Memory Device Status register (R319). -/
inductive MediaStatus where
  | notReady | ready | error | disabled
  deriving DecidableEq, Repr

/-- The message of an entry of a port's MSI-X table (R423). -/
structure MsixEntry where
  port : Nat
  vector : Nat
  address : BitVec 64 := 0
  data : BitVec 32 := 0
  deriving DecidableEq, Repr

/-- The MSI-X tables and pending-bit arrays of the ports, each vector with its port (R423): the entries whose mask bit is clear, those
whose pending bit is set, and the messages the host has written. After reset every entry is masked and holds zeros (PRESUMED: the
MSI-X standard). -/
structure Msix where
  enabled : List (Nat × Nat) := []
  waiting : List (Nat × Nat) := []
  entries : List MsixEntry := []
  deriving DecidableEq, Repr

/-- Output pins that follow the state (R319, R326, R312, R384), whether SEQ_SYNC and SEQ_FAULT_N are held low (R500, R501), and the
standard readiness indications of every linked port:
Media Status, `none` while the ports are not linked, Memory_Active, and Mailbox Interface Ready (R319). -/
structure Pins where
  memReady : Bool := false
  bootReady : Bool := false
  alertLow : Bool := false
  secAlarmLow : Bool := false
  syncLow : Bool := false
  faultLow : Bool := false
  media : Option MediaStatus := none
  memoryActive : Bool := false
  mailboxReady : Bool := false
  deriving DecidableEq, Repr

/-- Package pins named for the trace of outputs. -/
inductive Pin where
  | memReady | bootReady | alertN | secAlarmN | seqSync | seqFaultN
  deriving DecidableEq, Repr

/-- A message to the card's security protocol (R468, R470). -/
inductive CardMessage where
  | getVersion | getCapabilities | negotiateAlgorithms | getDigests | keyExchange | finish
  | getCertificate (slot : Nat)
  | challenge (slot : Nat) (nonce : BitVec 256)
  | vendorDefined (registry vendor command entry : Nat)
  deriving DecidableEq, Repr

/-- The NVMe commands that the device issues (R464); a Read names bytes of namespace 1. -/
inductive CardCommand where
  | identifyController | identifyNamespace | numberOfQueues
  | createCompletionQueue (depth : Nat) | createSubmissionQueue (depth : Nat)
  | deleteSubmissionQueue | deleteCompletionQueue
  | securitySend (m : CardMessage) | securityReceive
  | read (address bytes : Nat)
  deriving DecidableEq, Repr

/-- What an agent outside the package sees, in order. -/
inductive Output where
  /-- Data of a CXL.mem read, `none` poison. -/
  | cxlData (port tag : Nat) (data : Option Sector)
  /-- Completion of a CXL.mem write. -/
  | cxlDone (port tag : Nat)
  /-- A fabric error at an internal master (R404). -/
  | fabricError (agent : Agent)
  /-- A CXL.mem write refused with a bus error (R372, R373). -/
  | cxlError (port tag : Nat)
  /-- Completion of a Global Persistent Flush. -/
  | flushDone (port id : Nat)
  /-- A write of the device to host memory through a port. -/
  | hostWrite (port : Nat) (address : Nat) (data : List Byte)
  /-- An MSI-X vector signalled through a port, with its message (R423). -/
  | msix (port vector : Nat) (address : BitVec 64) (data : BitVec 32)
  /-- An in-band interrupt of a channel target with its data byte (R414). -/
  | ibi (channel : Nat) (data : Nat)
  /-- Data of a register read. -/
  | readData (value : BitVec 64) (poisoned : Bool)
  /-- Bytes the boot port returns; lines float when it is ignored. -/
  | xspi (bytes : List Byte)
  | xspiFloat
  /-- I3C read data, or a NACK. -/
  | i3cData (bytes : List Byte)
  | i3cNack
  /-- A standard mailbox answer: return code (0 success, 2 invalid input, 3 unsupported, 0xE invalid handle) and
  fields. -/
  | std (port : Nat) (code : Nat) (fields : List Nat)
  /-- A JTAG data register shifted out: its width and value. -/
  | jtag (width : Nat) (value : Nat)
  /-- A debug access answer. -/
  | dap (value : BitVec 64)
  /-- A pin changed level. -/
  | pin (p : Pin) (level : Bool)
  /-- An NVMe command that the device issues to the card (R464). -/
  | card (c : CardCommand)
  /-- Data that the root port returns to a card's read of the staging window (R467). -/
  | cardData (data : List Byte)
  /-- A card request refused (R467). -/
  | cardRefused
  /-- An NVMe shutdown notification to the card (R463). -/
  | cardShutdown
  /-- A write of the device to a secure buffer window or host buffer on behalf of a command. -/
  | buffer (channel : Nat) (data : List Byte)
  deriving DecidableEq, Repr

/-- A region's classification of an access (R399). -/
structure Class where
  cls : Nat
  durable : Bool
  sealedSlot : Option Nat
  secure : Bool
  access : Nat
  prefetch : Bool
  streamed : Bool
  region : Option Nat
  deriving DecidableEq, Repr

/-- Where the data of a sector is found short of the medium. -/
inductive Found where
  | hit (v : Sector) (victim : Bool)
  | newer (v : Sector) (address : Nat)
  | zero
  | poisoned
  | lost
  | medium
  deriving DecidableEq, Repr

/-- Data on one page (R42, R43): its data in clear, or for a parity page the exclusive-or that it stores, and the fields
of its tag; `title` names the slot whose frame key encrypts it, `none` the slice's media key; `key` is that key, `none` where the
data is stored as it is. `Page.image` gives the 312 bytes. -/
structure Page where
  data : List Sector
  lfn : Nat
  sub : Nat
  relocated : Bool
  slc : Bool
  title : Option Nat
  parity : Bool
  seq : Nat
  key : Option XtsKey
  deriving DecidableEq, Repr

/-- A programmed page position: a whole page, or the remains of an interrupted program (R45, R62). -/
inductive Cell where
  | page (p : Page)
  | torn
  deriving DecidableEq, Repr

/-- A map entry (R189). -/
structure MapEntry where
  slot : Nat := 0
  pos : Nat := 0
  trimmed : Bool := true
  slc : Bool := false
  sealed : Bool := false
  poisoned : Bool := false
  deriving DecidableEq, Repr

/-- A map cache way that holds an entry (R193), with its parity bit. -/
structure MapWay where
  way : Nat
  tag : Nat
  entry : MapEntry
  parity : Bool
  deriving DecidableEq, Repr

/-- States of a superblock slot (R200). -/
inductive SlotState where
  | unformed | free | reserved | opened | closed | verified | clearing | donor
  deriving DecidableEq, Repr

/-- The four write streams (R201). -/
inductive Stream where
  | host | relocation | durable | system
  deriving DecidableEq, Repr

/-- A slot descriptor (R200); `writePos` counts the frame positions consumed. `lane` is the next lane of the last of
them in a system slot, 0 once it is full (R220), `reports` are the positions reported since verify (R255). -/
structure Slot where
  state : SlotState := .free
  stream : Stream := .host
  slc : Bool := false
  epoch : Nat := 0
  laneReach : List Nat := []
  laneBank : List Nat := []
  writePos : Nat := 0
  lane : Nat := 0
  valid : Nat := 0
  age : Nat := 0
  reports : List Nat := []
  descEntry : Nat := 0
  clearEntry : Nat := 0
  deriving DecidableEq, Repr

/-- A borrowed parity block (R204, R205). -/
structure Lent where
  slot : Nat
  index : Nat
  donor : Nat
  lane : Nat
  group : Nat
  deriving DecidableEq, Repr

/-- A block being cleared (R63, R102): segments still to run. `age` is the round its slot entered
CLEARING; `lent` marks a returned parity block; `entry` is the journal entry number that must be durable first. -/
structure Clear where
  slot : Nat
  lane : Nat
  group : Nat
  reach : Nat
  bank : Nat
  left : Nat
  running : Bool
  age : Nat
  lent : Bool
  ready : Bool
  entry : Nat
  deriving DecidableEq, Repr

/-- The seven fill kinds of a row template (R96). -/
inductive FillKind where
  | host | durable | bulk | reloc | refresh | parity | system
  deriving DecidableEq, Repr

/-- Who waits for a page (R100, R25): host sectors, a descriptor, a fold or barge, upkeep, a rebuild. A calibration
sample names its entry of the reference table. -/
inductive Who where
  | host (port tag sector : Nat)
  | desc (ring slot sector : Nat)
  | rewrite (id : Nat)
  | hint
  | verify
  | scrub
  | calib (entry : Nat)
  | rebuild (id : Nat)
  deriving DecidableEq, Repr

/-- Kinds of towpath read (R90). -/
inductive TowKind where
  | reloc | refresh | verify | scrub | calib | retry
  deriving DecidableEq, Repr

/-- A queued page read: its class, arrival tick, page place and requesters (R98, R100), and its admission number, which
orders the requests of one class and arrival tick (R98). -/
structure ReadReq where
  cls : Nat
  arrival : Nat
  reach : Nat
  group : Nat
  bank : Nat
  slot : Nat
  pos : Nat
  lane : Nat
  lfn : Nat
  line : Nat
  who : List Who
  allocate : Bool
  covered : Bool
  attempt : Nat
  tow : Option TowKind
  order : Nat
  deriving DecidableEq, Repr

/-- A read between its array read and the end of its decode. `latch` is the page transferred out of the bank's read latch, which the
next array read of the bank overwrites; while `held` the page is still in that latch (R54). `refs` are the references used, `cls` the
age class that they belong to (R72, R74, R75), and `reuse` tells that it took capacity under reuse, so that it is dropped when the tick
ends before its transfer (R86, R103). `kept` are the requests that it serves and that keep their places in their queue or work list until
its transfer. -/
structure Flight where
  id : Nat
  req : ReadReq
  latch : Option Cell
  held : Bool
  refs : List Int
  cls : Nat
  reuse : Bool
  kept : List ReadReq
  deriving DecidableEq, Repr

/-- A pick pass under way (R99–R102): flights started, array reads per bank, picks per class, requests left,
the capacity that reuse may draw on, and counts of reuse picks and joined reads. -/
structure Pass where
  flights : List Flight
  banks : Sparse Nat
  taken : List Nat
  left : List ReadReq
  pool : Nat
  nextId : Nat
  reused : List Nat
  joined : Nat
  late : List Nat
  deriving DecidableEq, Repr

/-- A completion owed when a write is durable or accepted, or a trim performed (R142, R211, R420): that of a host write with its
receipt tick and class, of a part of a descriptor, or of a trim that ends the deletion of a title slot. -/
inductive Ack where
  | host (port tag arrival cls : Nat)
  | desc (ring slot : Nat)
  | title (slot : Nat)
  deriving DecidableEq, Repr

/-- What a write tells the basin of itself: class, durable, bulk, title and the completion it is owed. -/
structure Origin where
  cls : Nat
  durable : Bool
  bulk : Bool
  title : Option Nat
  acks : List Ack
  deriving DecidableEq, Repr

/-- A frame rewrite (R206–R210, R281, R240): a fold, or a frame of a barge. `snap` marks the sectors that
new data covers, `need` the subpages whose reads are outstanding, `done` an abandoned copy (R209). `home` is the slot in
which its fills have started (R60, R210), `fails` counts its failed programs (R144), `lost` the reach of a subpage that it could not read (R242),
`buffer` the fold buffer of a fold (R277); `key` is the key of the pages that a barge moves as they are, `none` where the engine encrypts
(R359, R360). -/
structure Rewrite where
  id : Nat
  lfn : Nat
  kind : FillKind
  cls : Nat
  snap : BitVec 64
  data : List Sector
  need : List Nat
  poison : BitVec 64
  title : Option Nat
  seq : Option Nat
  key : Option XtsKey
  source : Option (Nat × Nat)
  barge : Option Nat
  fails : Nat
  place : Option (Nat × Nat)
  home : Option Nat
  lost : Option Nat
  filled : List Nat
  passed : List Nat
  acks : List Ack
  fold : Bool
  buffer : Nat
  done : Bool
  deriving DecidableEq, Repr

/-- A filled chamber (R54, R56): its bank, the page it holds and where the page goes, for a parity page the page of its
donor block; `rewrite` names the frame rewrite, `sysSeq` the system page. -/
structure Chamber where
  reach : Nat
  group : Nat
  bank : Nat
  kind : FillKind
  slot : Nat
  pos : Nat
  lane : Nat
  page : Page
  rewrite : Option Nat
  sysSeq : Option Nat
  filledAt : Nat
  programming : Bool
  deriving DecidableEq, Repr

/-- The lanes still to fill of a position whose program failed on another lane, and its parity page: they are programmed
like any other, so that every block keeps its pages in order (R58, R203, R204); `rewrite` is the frame rewrite that left them. -/
structure Husk where
  rewrite : Nat
  slot : Nat
  pos : Nat
  kind : FillKind
  pages : List (Nat × Page)
  parity : Page
  deriving DecidableEq, Repr

/-- Journal entries (R213). `source` is where a relocation moved its frame from, which the entry's bits do not tell. -/
inductive JEntry where
  | map (lfn : Nat) (entry : MapEntry) (seq : Nat) (relocation : Bool) (source : Option (Nat × Nat))
  | trim (first count seq : Nat)
  | poison (lfn : Nat) (set : Bool) (mask : BitVec 64)
  | descriptor (slot : Nat) (unformed : Bool) (d : Slot)
  | parity (l : Lent) (borrow : Bool)
  | checkpoint (segment capturePage captureUnit captureSeq firstPage : Nat)
  | sentinel (reach : Nat) (setB : Bool) (clockE : Nat)
  | state (slot : Nat) (st : SlotState) (writePos : Nat)
  deriving DecidableEq, Repr

/-- A trailer record (R222). -/
inductive TrailRec where
  | slot (index : Nat) (d : Slot)
  | poison (index : Nat) (entries : List (Nat × BitVec 64))
  deriving DecidableEq, Repr

/-- Contents of a system page (R220–R222). A journal page carries its entries with their numbers, a chain header its own
slot and its successor with their descriptors. -/
inductive SysBody where
  | chain (number : Nat) (predecessor : Option Nat) (own successor : Nat × Slot)
  | journal (flush : Nat) (entries : List (Nat × JEntry)) (lastEntry : Nat)
  | trailer (flush frameSeq clock rotation : Nat) (records : List TrailRec)
  | checkpoint (segment page : Nat) (entries : List (Nat × MapEntry))
  deriving DecidableEq, Repr

/-- A system page: its system sequence, its place once given, and how far it is written. `torn` marks a page that keeps its
sequence when it is placed again (R60), `tornAt` the slot and page position of its last failed program, `copied` one that
verify had written again (R250). -/
structure SysPage where
  seq : Nat
  body : SysBody
  slot : Option Nat
  pos : Nat
  filled : Bool
  passed : Bool
  torn : Bool
  tornAt : Option (Nat × Nat) := none
  copied : Bool
  deriving DecidableEq, Repr

/-- The journal (R213–R217): buffered entries with their numbers, the units appended to the buffer so far (which place an entry in
its 16 MiB), the flush number, and the number below which every entry is durable. -/
structure Journal where
  buffer : List (Nat × JEntry) := []
  tail : Nat := 0
  next : Nat := 0
  durable : Nat := 0
  flush : Nat := 0
  flushedInRound : Bool := false
  rotation : Nat := 0
  held : Bool := false
  deriving DecidableEq, Repr

/-- A segment copy on its way to the medium (R218, R219): the segment, its capture position as the number of the next
entry at the capture, the capture sequence, the system sequence of its first page, the entries captured, and the number of its
CHECKPOINT entry. -/
structure SegCopy where
  segment : Nat
  capEntry : Nat
  capSeq : Nat
  firstPage : Nat
  entries : List (Nat × MapEntry)
  entry : Nat
  deriving DecidableEq, Repr

/-- Checkpointing (R218, R219): the next segment, the captures that wait for their copies with their capture sequences,
oldest first, the copies being written, the copies whose pages have passed, oldest first, and the segments changed since
their capture. -/
structure Checkpoint where
  next : Nat := 0
  capturing : List (Nat × Nat) := []
  copies : List SegCopy := []
  current : List SegCopy := []
  changed : List Nat := []
  deriving DecidableEq, Repr

/-- A root record (R224), with the tail slot and its descriptor. -/
structure Root where
  clean : Bool
  rootSeq : Nat
  tailChain : Nat
  replayPage : Nat
  replayUnit : Nat
  frameSeq : Nat
  tail : Option (Nat × Slot)
  deriving DecidableEq, Repr

/-- A programmed page of a root block (R224): the block as reach × 2, plus 1 for block B, the page and its record, `none` where its
program failed or was interrupted (R60, R62). -/
structure RootPage where
  block : Nat
  page : Nat
  record : Option Root
  deriving DecidableEq, Repr

/-- What such a page holds: a root record, or a sentinel page with its mode, level, life clock and age. -/
inductive BlockData where
  | root (r : Root)
  | sentinel (slc : Bool) (level clock age : Nat)
  deriving DecidableEq, Repr

/-- A page that waits to be programmed in a root or sentinel block (R77, R224), by the grants of the system stream: the block as
`reachBlock` numbers it, its page, what it holds, and whether its chamber has been filled. DESIGN CHOICE: the manual does not say
under which grants these pages are programmed. -/
structure BlockWrite where
  block : Nat
  page : Nat
  data : BlockData
  filled : Bool
  deriving DecidableEq, Repr

/-- A root record on its way to both blocks of its pair (R223, R224): the blocks whose page has yet to pass, and the slots that leave
the chain once it is durable. -/
structure RootWrite where
  record : Root
  left : List Nat
  drop : List Nat
  deriving DecidableEq, Repr

/-- What the factory format or the reformat of R354 left in the system stream: a copy of every map segment with every entry
trimmed, their CHECKPOINT entries and a pass of re-assertion records (R190). These pages, which follow from the format
alone, are not listed one by one: the j-th slot written holds the system sequences from `base` + 131,072 j on, and `live`
names the slots still holding them, as (slot, j); `order` are the slots in the order in which the format wrote them, with the
one opened after them last, and `chainBase` is the chain number of the first; `slots` are the descriptors that its re-assertion
records carry, `lent` the parity blocks that its PARITY entries borrow, `frameSeq` and `clockE` the frame sequence counter and the
equivalent clock in its trailers. -/
structure Format where
  base : Nat
  chainBase : Nat
  order : List Nat
  live : List (Nat × Nat)
  slots : Sparse Slot
  lent : List Lent
  frameSeq : Nat
  clockE : Nat
  deriving DecidableEq, Repr

/-- The system stream (R220–R224): the format's pages, its other pages, its slots in chain order, the newest root record, the current root pair,
the record being written, whether data-stream programs wait for it (R231), the pages of the root blocks, their wear and those
retired. `staging` sums the parity page of each system frame being
filled: slot, frame position, pages filled, and their exclusive-or as stored (R204, R220). -/
structure SysStream where
  format : Option Format := none
  pages : List SysPage := []
  nextSeq : Nat := 0
  chain : List Nat := []
  chainNumber : Nat := 0
  root : Option Root := none
  rootPair : Nat := 0
  rootWrite : Option RootWrite := none
  rootHold : Bool := false
  rootBlocks : List RootPage := []
  staging : List (Nat × Nat × Nat × BitVec 2048) := []
  rootWear : Sparse Nat := []
  rootBad : List Nat := []
  deriving DecidableEq, Repr

/-- A cache line (R270, R271): line number, protection bit, valid and dirty masks, sectors. -/
structure Line where
  line : Nat
  way : Nat
  prot : Bool
  valid : BitVec 4
  dirty : BitVec 4
  data : List Sector
  filling : Bool
  cls : Nat
  title : Option Nat
  deriving DecidableEq, Repr

/-- Line cache states (R286). -/
inductive CacheState where
  | invalidating | on | draining | off
  deriving DecidableEq, Repr

/-- The line cache and victim buffer (R270, R286). `plru` holds 15 bits per set, `cleaning` the lines that a set-and-way operation
named while the basin had no room for them, with whether they are dropped once cleaned (R283). -/
structure Cache where
  state : CacheState := .invalidating
  lines : List Line := []
  plru : Sparse (BitVec 15) := []
  victims : List Line := []
  denied : Bool := false
  enableAtTick : Bool := false
  discarding : Bool := false
  discarded : Nat := 0
  cleaning : List (Nat × Bool) := []
  deriving DecidableEq, Repr

/-- A basin entry (R277): the frame, its valid, dirty and folding masks, its data. A sector that a fold has released stays valid
while the entry stands. -/
structure BasinEntry where
  lfn : Nat
  index : Nat
  valid : BitVec 64
  dirty : BitVec 64
  folding : BitVec 64
  data : List Sector
  firstRound : Nat
  cls : Nat
  durable : Bool
  bulk : Bool
  named : Bool
  title : Option Nat
  acks : List Ack
  deriving DecidableEq, Repr

/-- The basin (R277–R281). A line in the overflow area carries the number of its record in `way`. -/
structure Basin where
  entries : List BasinEntry := []
  overflow : List Line := []
  foldAge : Nat := 0x10
  foldOccupancy : Nat := 0x32
  carry : List Nat := [0, 0, 0]
  draining : Bool := false
  deriving DecidableEq, Repr

/-- States of a reach (REACH_HEALTH). -/
inductive ReachState where
  | healthy | retiring | retired
  deriving DecidableEq, Repr

/-- A sentinel page (R77): its cell mode and level, and the two values that its data stores in clear: the life clock
at its program and the equivalent age the set had accumulated then. -/
structure SentinelPage where
  slc : Bool
  level : Nat
  clock : Nat
  age : Nat
  deriving DecidableEq, Repr

/-- The pages of a set programmed at a life clock: every MLC level and both SLC levels, at powered age 0 (R77). -/
def sentinelPages (clock : Nat) : List SentinelPage :=
  ((List.range 4).map fun l => ⟨false, l, clock, 0⟩) ++ (List.range 2).map fun l => ⟨true, l, clock, 0⟩

/-- A sentinel set (R77, R78): the pages of its block in order, `none` one whose program failed or was interrupted, and no page while
it is cleared; the slice's equivalent clock at its
program, from which its powered age counts (R222); the block's wear, and whether the block is retired (R67). -/
structure Sentinel where
  pages : List (Option SentinelPage) := (sentinelPages 0).map some
  atE : Nat := 0
  wear : Nat := 0
  bad : Bool := false
  deriving DecidableEq, Repr

/-- One reach (R9, R107, R258–R262). `reprogram` holds the clear segments left of a sentinel reprogram (R81). `refs`
is the reference table of its bank groups (R72), by group × 48 + age class × 6 + temperature band: three MLC references
and one SLC reference in calibration steps; an unlisted entry stands at its factory setting, step 0; `samples` counts the calibration samples read for an entry.
`scrub` is the scrub pointer, `scrubOpen` the OPEN slot it stands in with the write position found on reaching it (R256).
At reset set A is
programmed at life clock 0 and set B is cleared (DESIGN CHOICE: the manual does not say which sets the factory programs). -/
structure Reach where
  state : ReachState := .healthy
  retiredBanks : List Nat := []
  burst : Nat := 8
  burstNext : Option Nat := none
  selfFails : Nat := 0
  sentA : Sentinel := {}
  sentB : Sentinel := { pages := [] }
  reprogram : Option Nat := none
  refs : Sparse (List Int) := []
  samples : Sparse Nat := []
  scrub : Nat := 0
  scrubOpen : Option (Nat × Nat) := none
  calibrations : List Nat := [0, 0, 0, 0]
  deriving DecidableEq, Repr

/-- A fault of a bank, dated by round count (R258): reach × 64 + group × 16 + bank. -/
structure BankFault where
  bank : Nat
  round : Nat
  program : Bool
  deriving DecidableEq, Repr

/-- Watermark states (R233). -/
inductive Watermark where
  | normal | low | hold | dry
  deriving DecidableEq, Repr

/-- A barge in flight (R240): its rewrites, its source slot. -/
structure Barge where
  id : Nat
  source : Nat
  frames : List Nat
  rank : Nat
  deriving DecidableEq, Repr

/-- A parity rebuild in progress (R76): the request it serves, the lanes still to arrive (16 is the parity page), and
the pages that have arrived. -/
structure Rebuild where
  id : Nat
  req : ReadReq
  left : List Nat
  failed : Bool
  pages : List Page
  deriving DecidableEq, Repr

/-- Upkeep (R232–R264). `verifyCur` holds, by slot × 64 + lane × 4 + group, the next page that verify reads. -/
structure Upkeep where
  watermark : Watermark := .normal
  dryRounds : Nat := 0
  victim : Option Nat := none
  staticVictim : Option Nat := none
  staticOn : Bool := false
  barges : List Barge := []
  verifyQ : List Nat := []
  verifyCur : Sparse Nat := []
  marked : List (Nat × Nat) := []
  refreshQ : List Nat := []
  refreshFirst : List Nat := []
  refreshReported : List Nat := []
  refreshFrames : List Nat := []
  faults : List BankFault := []
  evacReach : Option Nat := none
  evacBanks : List Nat := []
  rebuilds : List Rebuild := []
  formable : Nat := 10368
  effective : Nat := 0
  writeOut : Bool := false
  deriving DecidableEq, Repr

/-- An access in a slice's DRAM controller (R336–R338, R342): its port, the line, the ticks that it has waited, whether its port's
reservation covers it, the ports it fences on, and whether it has been carried and waits only for older accesses of its port. -/
structure DramReq where
  port : Nat
  address : Nat
  waited : Nat
  reserved : Bool
  fence : List Nat
  done : Bool
  deriving DecidableEq, Repr

/-- The local DRAM of a slice (R330–R349, R367–R373). `size4` tells that training has read the density of 4 GiB (R331, R349). `key` and `previous` are the DRAM keys in its engine (R356, R369), `keyBase`
dates the start that drew the first of them and `keyDraws` counts those that sweeps drew since. `lostMap` lists the map lines whose
tag failed and that the firmware has yet to restore (R196), `dueAtRound` makes every channel due at the next round
boundary (R348). By channel × 16 + bank, `refreshes` counts the refreshes issued and `debt` the refresh intervals that a bank is
behind (R345). `mr4` is the refresh step read at the last thermal sample (R330). By channel, `settings` are the training results in
force, `captured` the oscillator reading, `tempAt` and `mr4At` the TD_A reading and refresh step at the last retrain, `lastRetrain` and
`retrainTick` its round and tick (R347, R348); `aonSettings` are the results that the AON domain keeps through DROWSE (R346).
`traffic` counts the lines accessed in the round, `trafficLast` those of the round before (R349). `versions` holds the version of each 64-byte line
(by A / 64) that is not 0. `filled` tells that the fill has ended and `fillMap` lists the 2 MiB blocks that accesses had moved to its
front (R368). `requests` holds the accesses in the controller, `openRows` the open row of each bank by channel × 16 + bank (R337). -/
structure Dram where
  healthy : BitVec 8 := 0xFF
  size4 : Bool := false
  trained : Bool := false
  guardBand : BitVec 8 := 0xFF
  due : BitVec 8 := 0
  dueAtRound : Bool := false
  lastRetrain : List Nat := List.replicate 8 0
  retrainTick : List Nat := List.replicate 8 0
  settings : List Nat := List.replicate 8 0
  aonSettings : Option (List Nat) := none
  captured : List Nat := List.replicate 8 0
  fails : List Nat := List.replicate 8 0
  rotation : Nat := 0
  selfRefresh : Bool := false
  rebuilding : Bool := false
  oscThreshold : Nat := 0x10
  tempAt : List (Option Int) := List.replicate 8 none
  mr4 : Option Nat := none
  mr4At : List (Option Nat) := List.replicate 8 none
  traffic : Nat := 0
  trafficLast : Nat := 0
  versions : Sparse Nat := []
  marked : List Nat := []
  sweep : Option Sweep := none
  key : Option DramKey := none
  previous : Option DramKey := none
  keyBase : Nat := 0
  keyDraws : Nat := 0
  waitingWrites : List Nat := []
  filled : Bool := false
  fillMap : List Nat := []
  refreshes : Sparse Nat := []
  debt : Sparse Nat := []
  mismatch : Bool := false
  lostMap : List Nat := []
  requests : List DramReq := []
  openRows : Sparse Nat := []
  deriving DecidableEq, Repr

/-- The inline encryption engine of a slice's medium (R28, R356): the slice's media key, and the frame keys of the open slots. -/
structure MediumEngine where
  media : Option XtsKey := none
  frames : Sparse XtsKey := []
  deriving DecidableEq, Repr

/-- A row template: ROW_WORD[0] to ROW_WORD[15] (R90). -/
abbrev Row := List Word

/-- A slot table set (R87): templates and sequences. -/
structure Table where
  templates : List Row := []
  sequences : List (List Nat) := []
  deriving DecidableEq, Repr

/-- Which variant a slot table set came from (R172, R173, R226). -/
inductive Source where
  | none
  | builtin (rung retired : Nat)
  | preserve
  | shutdown
  | image (index rung : Nat)
  deriving DecidableEq, Repr

/-- A trim waiting for started rewrites (R211). -/
structure TrimReq where
  first : Nat
  count : Nat
  ack : Option Ack
  deriving DecidableEq, Repr

/-- Durable writes of a frame whose map step is made and whose journal entry is awaited, with the failed programs of the frame and of
its journal page (R142–R144). -/
structure Durable where
  id : Nat
  entry : Nat
  lfn : Nat
  cls : Nat
  fails : Nat
  acks : List Ack
  deriving DecidableEq, Repr

/-- A write held at ingress (R275, R284, R152): `desc` names the descriptor of a bulk-engine write, `none` data is
poison. -/
structure HeldWrite where
  port : Nat
  tag : Nat
  dpa : Nat
  data : Option Sector
  cls : Class
  desc : Option (Nat × Nat)
  arrival : Nat
  deriving DecidableEq, Repr

/-- A host read held at ingress until the clearing of the line cache ends (R272). -/
structure HeldRead where
  port : Nat
  tag : Nat
  dpa : Nat
  cls : Class
  deriving DecidableEq, Repr

/-- Orderly shutdown of a slice (R225): whether its pages are written and it ends with the clean root record, and whether it has ended. -/
structure Shutdown where
  ending : Bool := false
  done : Bool := false
  deriving DecidableEq, Repr

/-- The data path and upkeep of one slice. `latches` holds the read latch of each bank that has been read, by bank number (R54).
`holdTicks` counts the ticks under a write hold, which suspend durable bounds (R152); `dramDelay` are the ticks by which late DRAM
accesses of the present tick delay what waits for them (R344). -/
structure Flow where
  queue : List ReadReq := []
  hold : List ReadReq := []
  tow : List ReadReq := []
  flights : List Flight := []
  latches : Sparse (Option Cell) := []
  rewrites : List Rewrite := []
  chambers : List Chamber := []
  husks : List Husk := []
  clears : List Clear := []
  parityQ : List (Nat × Nat × Page) := []
  blockQ : List BlockWrite := []
  lent : List Lent := []
  trims : List TrimReq := []
  durables : List Durable := []
  nextOrder : Nat := 0
  heldWrites : List HeldWrite := []
  heldReads : List HeldRead := []
  nextId : Nat := 0
  programmed : Nat := 0
  holdTicks : Nat := 0
  dramDelay : Nat := 0
  raised : List Nat := []
  deriving DecidableEq, Repr

/-- A fabric link endpoint of a slice (R14, R20): the bytes sent and received over it that do not yet make a 256-byte unit of
its counters. -/
structure LinkEnd where
  sent : Nat := 0
  received : Nat := 0
  deriving DecidableEq, Repr

/-- One slice (R9, R14). `unmapped` tells that it has no established map entries (R228, R264), `sequencer` is the state of its power
sequencer, `links` holds its two fabric link endpoints: A towards the next slice of the ring, B towards the one before (DESIGN
CHOICE: the manual does not say which is which). -/
structure Slice where
  inRecovery : Bool := false
  unmapped : Bool := false
  sequencer : Nat := 1
  links : List LinkEnd := [{}, {}]
  active : Table := {}
  shadow : Table := {}
  source : Source := .none
  shadowSource : Source := .none
  cache : Cache := {}
  basin : Basin := {}
  map : Sparse MapEntry := []
  poison : List (Nat × BitVec 64) := []
  mapCache : Sparse (List MapWay) := []
  mapPlru : Sparse (BitVec 7) := []
  slots : Sparse Slot := []
  nextEpoch : Nat := 0
  frameSeq : Nat := 0
  clockE : Nat := 0
  medium : Sparse Cell := []
  wear : Sparse Nat := []
  badBlocks : List Nat := []
  flow : Flow := {}
  journal : Journal := {}
  checkpoint : Checkpoint := {}
  sys : SysStream := {}
  upkeep : Upkeep := {}
  reaches : List Reach := List.replicate 18 {}
  dram : Dram := {}
  engine : MediumEngine := {}
  shutdown : Shutdown := {}
  alarmsInRound : Nat := 0
  policyActed : Bool := false
  counters : List Word := List.replicate 160 0
  snapshot : List Word := List.replicate 160 0
  deriving DecidableEq, Repr

/-- A Global Persistent Flush or persist under way (R293): who is answered, and per slice the frames it
still covers and the journal entry it waits for. -/
structure Flush where
  id : Nat
  host : Option Nat
  desc : Option (Nat × Nat)
  frames : List (Nat × Nat)
  entries : List (Nat × Nat)
  deriving DecidableEq, Repr

/-- Counters, snapshots and bandwidth windows of the package (R538–R544). `windowLast` is the round count at which counting
last began again or a new window was set. -/
structure Counters where
  package : List Word := List.replicate 32 0
  snapshot : List Word := List.replicate 32 0
  snapDue : Bool := false
  snapNumber : Nat := 0
  snapStatus : Nat := 0
  resets : Nat := 0
  window : Nat := 1024
  windowNext : Option Nat := none
  windowEnd : Nat := 0
  windowSpan : Nat := 0
  windowStart : Nat := 0
  windowLast : Nat := 0
  deriving DecidableEq, Repr

/-- A transition under way (R477, R481): the mode it leads to and the step reached. -/
structure Transition where
  target : Mode
  step : Nat
  deriving DecidableEq, Repr

/-- PRESERVE bookkeeping (R265–R267, R545): the causes to act on as (cause, slice), the causes raised since the start,
discarded writes and the first discarded DPA. -/
structure Preserve where
  due : List (Nat × Nat) := []
  seen : List (Nat × Nat) := []
  discarded : Nat := 0
  firstDpa : Option Nat := none
  deriving DecidableEq, Repr

/-- Everything of the package but its command queue. `notStarted` is the processor whose firmware failed its verification and does not
run (R29): 0 control, 1 security core. `working` are the bytes that debug has written to the 128 MiB of working memory of the control processor since it halted it (R27, R333,
R381); what that memory holds elsewhere, the firmware's own, the manual leaves open. -/
structure Dev where
  part : Part := .tvq2
  fuses : Fuses := {}
  mode : Mode := .held
  clock : Clock := {}
  swap : Swap := {}
  active : Groups := {}
  shadow : Groups := {}
  regs : GlobalRegs := {}
  chans : List Chan := List.replicate 16 {}
  i3c : I3c := {}
  rings : Sparse Ring := []
  ports : List Port := []
  msix : Msix := {}
  std : StdState := {}
  dbg : Debug := {}
  alarms : Alarms := {}
  keys : Keys := {}
  titles : List Title := List.replicate 32 {}
  pstore : PStore := {}
  mirror : Mirror := {}
  recorder : Recorder := {}
  images : Images := {}
  firmware : List FwTarget := [{}, {}, {}]
  waiters : List Waiter := []
  cart : Cart := {}
  seq : Sequencer := {}
  thermal : Thermal := {}
  boot : BootPort := {}
  pins : Pins := {}
  slices : List Slice := []
  flushes : List Flush := []
  nextFlush : Nat := 0
  counters : Counters := {}
  transition : Option Transition := none
  preserve : Preserve := {}
  rung : Nat := 0
  notStarted : Option Nat := none
  working : Sparse Byte := []
  draws : Nat := 0
  out : List Output := []
  deriving DecidableEq, Repr

/-- The machine: the package and the commands waiting, first in, first out. -/
structure State where
  dev : Dev
  pending : List Instr
  deriving DecidableEq, Repr

/-- Byte lists written at consecutive addresses, as memory cells. -/
def cellsAt : Nat → List Nat → List Host.Cell
  | _, [] => []
  | a, b :: rest => if b = 0 then cellsAt (a + 1) rest else (a, BitVec.ofNat 8 b) :: cellsAt (a + 1) rest

/-- The first blocks of records of the factory parameter store (R572): format record, recorder control,
sequencer timing record, mirror copies A and B. Every other byte below 0x400 is 0. -/
def factoryRecords : List Host.Cell :=
  cellsAt 0x010 [234, 154, 112, 66]
    ++ cellsAt 0x144 [199, 75, 103, 72]
    ++ cellsAt 0x1C0 [10, 10, 20, 10, 13, 223, 215, 108]
    ++ cellsAt 0x21E [1] ++ cellsAt 0x228 [1] ++ cellsAt 0x230 [181, 69, 217, 110]
    ++ cellsAt 0x25E [1] ++ cellsAt 0x270 [146, 56, 229, 39]

/-- Factory anti-rollback counter copies from base `a` (R526): `n` places of 64 bytes with the sequence
byte `sq` and the CRC bytes `crc`. -/
def factoryCounters (sq : Nat) (crc : List Nat) : Nat → Nat → List Host.Cell
  | 0, _ => []
  | n + 1, a => cellsAt (a + 8) [sq] ++ cellsAt (a + 16) crc ++ factoryCounters sq crc n (a + 64)

/-- Factory key slots from address `a`: `n` empty slots with a valid CRC (R525, R572). -/
def factoryKeySlots : Nat → Nat → List Host.Cell
  | 0, _ => []
  | n + 1, a => cellsAt (a + 0x64) [200, 191, 238, 105] ++ factoryKeySlots n (a + 128)

/-- The parameter store as it leaves the factory (R572). -/
def factoryStore : List Host.Cell :=
  factoryRecords
    ++ factoryCounters 1 [205, 231, 76, 11] 16 0x400
    ++ factoryCounters 0 [234, 154, 112, 66] 16 0x800
    ++ factoryKeySlots 10 0x1000

/-- The descriptor of slot of open epoch `e` as the factory format formed it: SLC, on the 16 reaches of lowest number, with the
same bank in every lane and bank group, after `n` page positions of the system stream (R199, R220). -/
def factorySlot (e : Nat) (st : SlotState) (stream : Stream) (bank n : Nat) : Slot :=
  { state := st, stream := stream, slc := true, epoch := e, laneReach := (List.range 16).map fun i => (i + e) % 16,
    laneBank := List.replicate 64 bank, writePos := (n + 15) / 16, lane := n % 16 }

/-- The slots that the factory format uses, one in each of the first 20 slabs: 17 that it fills and verifies, the OPEN one that
follows them in the chain, a DONOR slot, and the reserved successor. -/
def factorySlots : Sparse Slot :=
  ((List.range 16).map fun j => (18 * j, factorySlot j .verified .system 0 131072))
    ++ [(288, factorySlot 16 .verified .system 0 4401), (306, factorySlot 17 .opened .system 0 1),
        (324, factorySlot 18 .donor .host 2 0), (342, factorySlot 19 .reserved .system 1 0)]

/-- The factory format: its slots in the order in which it wrote them. -/
def factoryFormat : Format :=
  { base := 0, chainBase := 0, order := (List.range 20).filterMap fun j => if j = 18 then none else some (18 * j),
    live := (List.range 18).map fun j => (18 * j, j), slots := factorySlots,
    lent := (List.range 4).map fun i => ⟨306, i, 324, i, 0⟩, frameSeq := 0, clockE := 0 }

/-- The root record that the factory format ends with: its tail is the first slot, and its replay start the first trailer of the
re-assertion pass. -/
def factoryRoot : Root :=
  { clean := true, rootSeq := 1, tailChain := 0, replayPage := 2097755, replayUnit := 0, frameSeq := 0,
    tail := some (0, factorySlot 0 .verified .system 0 131072) }

/-- A slice as it leaves the factory, without power: what the factory format (R190) left on the medium, with four blocks of the
DONOR slot lent to the OPEN slot. Its descriptors and map come back with the first rebuild. Which slots, banks and donor blocks the
factory takes is the model's choice (DESIGN CHOICE). -/
def Slice.factory : Slice :=
  { nextEpoch := 20
    journal := { next := 1, durable := 1 }
    sys := { format := some factoryFormat, rootBlocks := [⟨0, 0, some factoryRoot⟩, ⟨19, 0, some factoryRoot⟩] } }

/-- The package right after always-on power-on of a factory-fresh TVQ-2 with 2 GiB slices (R482, R572). -/
def Dev.reset : Dev :=
  { ports := List.replicate 2 {}
    slices := List.replicate 2 Slice.factory
    pstore := { mem := factoryStore } }

/-- The machine right after reset: nothing waits. -/
def State.reset : State := { dev := Dev.reset, pending := [] }

end Sys2Proof.Machine
end

