-- ==== Sys2Proof/Machine/Bits.lean ====
section
/-!
DEFINITION. Bit fields, byte strings, CRC-32C, sparse maps and cell memories: the small operations over
plain data that every other definition of the machine is written with.
-/
namespace Sys2Proof.Machine

open Sys2Proof

/-- Bits [lo + width - 1 : lo] of a number. -/
def bits (v lo width : Nat) : Nat := (v >>> lo) % 2 ^ width

/-- Bit `i` of a number. -/
def bitAt (v i : Nat) : Bool := (v >>> i) % 2 == 1

/-- A flag as a number. -/
def b2n (b : Bool) : Nat := if b then 1 else 0

/-- A number with bits [lo + width - 1 : lo] replaced. -/
def setBits (v lo width x : Nat) : Nat :=
  v - (bits v lo width <<< lo) + ((x % 2 ^ width) <<< lo)

/-- A register word from a number. -/
def word (n : Nat) : Word := BitVec.ofNat 48 n

/-- Field of a register word. -/
def wbits (w : Word) (lo width : Nat) : Nat := bits w.toNat lo width

/-- Ceiling division. -/
def ceilDiv (a b : Nat) : Nat := (a + b - 1) / b

/-- Element `i` of a list, `d` beyond its end. -/
def nth {α : Type} (l : List α) (i : Nat) (d : α) : α := l.getD i d

/-- The list with element `i` changed by `f`. -/
def upd {α : Type} (l : List α) (i : Nat) (f : α → α) : List α := l.modify i f

/-- Sum of a list of numbers. -/
def total (l : List Nat) : Nat := l.foldl (· + ·) 0

/-- The numbers from `a` on, `n` of them. -/
def rangeFrom (a n : Nat) : List Nat := (List.range n).map (a + ·)

/-- The first element that meets `p`, with the others kept in order. -/
def takeFirst {α : Type} (p : α → Bool) : List α → Option (α × List α)
  | [] => none
  | x :: xs =>
    if p x then some (x, xs)
    else match takeFirst p xs with
      | none => none
      | some (y, ys) => some (y, x :: ys)

/-- Changes every element that meets `p`. -/
def updWhere {α : Type} (p : α → Bool) (f : α → α) (l : List α) : List α :=
  l.map fun x => if p x then f x else x

/-- Inserts before the first element that ranks later: a stable insertion by `le`. -/
def insertBy {α : Type} (le : α → α → Bool) (x : α) : List α → List α
  | [] => [x]
  | y :: ys => if le y x then y :: insertBy le x ys else x :: y :: ys

/-- Stable sort by `le`. -/
def sortBy {α : Type} (le : α → α → Bool) (l : List α) : List α :=
  l.foldl (fun acc x => insertBy le x acc) []

/-- The element of least `key`, the first of equals. -/
def minBy {α : Type} (key : α → Nat) : List α → Option α
  | [] => none
  | x :: xs => match minBy key xs with
    | none => some x
    | some y => if key x ≤ key y then some x else some y

/-- The list without repeats, first occurrences kept. -/
def dedup (l : List Nat) : List Nat :=
  l.foldl (fun acc x => if acc.contains x then acc else acc ++ [x]) []

/-! ### Sparse maps -/

/-- The value listed at key `k`. -/
def sget? {α : Type} : Sparse α → Nat → Option α
  | [], _ => none
  | (j, v) :: rest, k => if j = k then some v else sget? rest k

/-- The value at key `k`, `d` where none is listed. -/
def sget {α : Type} (m : Sparse α) (k : Nat) (d : α) : α := (sget? m k).getD d

/-- The map with key `k` set, keys kept in rising order. -/
def sset {α : Type} : Sparse α → Nat → α → Sparse α
  | [], k, v => [(k, v)]
  | (j, w) :: rest, k, v =>
    if k < j then (k, v) :: (j, w) :: rest
    else if k = j then (k, v) :: rest
    else (j, w) :: sset rest k v

/-- The map with key `k` removed. -/
def sdel {α : Type} (m : Sparse α) (k : Nat) : Sparse α := m.filter fun e => e.1 != k

/-- The entries with keys in [lo, hi). -/
def srange {α : Type} (m : Sparse α) (lo hi : Nat) : Sparse α :=
  m.filter fun e => decide (lo ≤ e.1) && decide (e.1 < hi)

/-! ### Cell memories: bytes by address, an unlisted address reads 0 -/

/-- The byte at an address. -/
def memByte : List Host.Cell → Nat → Byte
  | [], _ => 0
  | (j, v) :: rest, a => if j = a then v else memByte rest a

/-- Stores one byte, keeping the canonical form: rising addresses, no listed zero. -/
def memSet : List Host.Cell → Nat → Byte → List Host.Cell
  | [], a, v => if v = 0 then [] else [(a, v)]
  | (j, w) :: rest, a, v =>
    if a < j then (if v = 0 then (j, w) :: rest else (a, v) :: (j, w) :: rest)
    else if a = j then (if v = 0 then rest else (a, v) :: rest)
    else (j, w) :: memSet rest a v

/-- Stores bytes at rising addresses. -/
def memWrite : List Host.Cell → Nat → List Byte → List Host.Cell
  | m, _, [] => m
  | m, a, b :: bs => memWrite (memSet m a b) (a + 1) bs

/-- The bytes at `n` addresses from `a`. -/
def memRead (m : List Host.Cell) (a n : Nat) : List Byte := (rangeFrom a n).map (memByte m)

/-- The canonical form of a cell memory from address `lo` on: strictly rising addresses, no zero byte. -/
def memFrom : Nat → List Host.Cell → Bool
  | _, [] => true
  | lo, (a, v) :: rest => decide (lo ≤ a) && decide (v ≠ 0) && memFrom (a + 1) rest

/-- The canonical form of a cell memory. -/
def Memory.wf (m : List Host.Cell) : Bool := memFrom 0 m

/-! ### Byte strings -/

/-- Byte `i` of a byte string as a number, 0 beyond its end. -/
def byteAt (l : List Byte) (i : Nat) : Nat := (l.getD i 0).toNat

/-- Little-endian value of `n` bytes at `off`. -/
def leAt (l : List Byte) (off : Nat) : Nat → Nat
  | 0 => 0
  | n + 1 => byteAt l off + 256 * leAt l (off + 1) n

/-- Big-endian value of `n` bytes at `off`. -/
def beAt (l : List Byte) (off n : Nat) : Nat :=
  (rangeFrom off n).foldl (fun acc i => acc * 256 + byteAt l i) 0

/-- `n` little-endian bytes of a value. -/
def leBytes : Nat → Nat → List Byte
  | 0, _ => []
  | n + 1, v => BitVec.ofNat 8 v :: leBytes n (v / 256)

/-- `n` big-endian bytes of a value. -/
def beBytes (n v : Nat) : List Byte := (leBytes n v).reverse

/-- Bytes `off` to `off + n - 1` of a byte string. -/
def bytesAt (l : List Byte) (off n : Nat) : List Byte := (l.drop off).take n

/-- The string padded with zeros to `n` bytes, or cut there. -/
def padTo (n : Nat) (l : List Byte) : List Byte := (l ++ List.replicate (n - l.length) 0).take n

/-- The string with bytes from `off` on replaced. -/
def patchBytes (l : List Byte) (off : Nat) (b : List Byte) : List Byte :=
  l.take off ++ b ++ l.drop (off + b.length)

/-- A sector from 64 bytes, byte 0 lowest. -/
def sectorOf (l : List Byte) : Sector := BitVec.ofNat 512 (leAt l 0 64)

/-- The 64 bytes of a sector. -/
def sectorBytes (s : Sector) : List Byte := leBytes 64 s.toNat

/-- Sectors of a byte string, 64 bytes each, `n` of them. -/
def sectorsOf : Nat → List Byte → List Sector
  | 0, _ => []
  | n + 1, l => sectorOf (l.take 64) :: sectorsOf n (l.drop 64)

/-- 48-bit words of a byte string, 6 bytes each, byte 0 lowest (R460). -/
def wordsOf : Nat → List Byte → List Word
  | 0, _ => []
  | n + 1, l => word (leAt l 0 6) :: wordsOf n (l.drop 6)

/-- The bytes of 48-bit words, 6 each. -/
def bytesOfWords (l : List Word) : List Byte := l.flatMap fun w => leBytes 6 w.toNat

/-! ### CRC-32C (R158) -/

/-- One bit step of the reflected CRC-32C. -/
def crcBit (c : BitVec 32) : BitVec 32 :=
  if c.getLsbD 0 then (c >>> 1) ^^^ 0x82F6_3B78#32 else c >>> 1

/-- One byte step. -/
def crcByte (c : BitVec 32) (b : Byte) : BitVec 32 :=
  let x := c ^^^ b.setWidth 32
  crcBit (crcBit (crcBit (crcBit (crcBit (crcBit (crcBit (crcBit x)))))))

/-- CRC-32C of a byte string. -/
def crc32c (l : List Byte) : Nat := ((l.foldl crcByte 0xFFFF_FFFF#32) ^^^ 0xFFFF_FFFF#32).toNat

/-! ### Masks -/

/-- Whether bit `i` of a sector mask is set. -/
def has {w : Nat} (m : BitVec w) (i : Nat) : Bool := m.getLsbD i

/-- The mask with bit `i` set. -/
def withBit {w : Nat} (m : BitVec w) (i : Nat) : BitVec w := m ||| BitVec.twoPow w i

/-- The mask with bit `i` clear. -/
def sansBit {w : Nat} (m : BitVec w) (i : Nat) : BitVec w := m &&& ~~~ (BitVec.twoPow w i)

/-- The mask with its bit `i` given. -/
def putBit {w : Nat} (m : BitVec w) (i : Nat) (b : Bool) : BitVec w := if b then withBit m i else sansBit m i

/-- The number of set bits. -/
def popCount {w : Nat} (m : BitVec w) : Nat := ((List.range w).filter (has m ·)).length

/-- Bits 4i to 4i + 3: the sectors of subpage `i` in a frame mask. -/
def subMask (i : Nat) : BitVec 64 := (0xF : BitVec 64) <<< (4 * i)

end Sys2Proof.Machine
end

