-- ==== Sys2Proof/Machine/Crypto.lean ====
section
/-!
DEFINITION. The published algorithms the manual names for signatures and digests: SHA-384, ECDSA on P-384, and the
test that a point lies on P-384 (R163, R382, R455, R469, R471, R472).
-/
namespace Sys2Proof.Machine

open Sys2Proof

/-! ### SHA-384 -/

/-- Round constants 0–19 of SHA-384 (FIPS 180-4). -/
def shaK0 : List (BitVec 64) :=
  [0x428A2F98D728AE22, 0x7137449123EF65CD, 0xB5C0FBCFEC4D3B2F, 0xE9B5DBA58189DBBC,
   0x3956C25BF348B538, 0x59F111F1B605D019, 0x923F82A4AF194F9B, 0xAB1C5ED5DA6D8118,
   0xD807AA98A3030242, 0x12835B0145706FBE, 0x243185BE4EE4B28C, 0x550C7DC3D5FFB4E2,
   0x72BE5D74F27B896F, 0x80DEB1FE3B1696B1, 0x9BDC06A725C71235, 0xC19BF174CF692694,
   0xE49B69C19EF14AD2, 0xEFBE4786384F25E3, 0x0FC19DC68B8CD5B5, 0x240CA1CC77AC9C65]

/-- Round constants 20–39 of SHA-384 (FIPS 180-4). -/
def shaK1 : List (BitVec 64) :=
  [0x2DE92C6F592B0275, 0x4A7484AA6EA6E483, 0x5CB0A9DCBD41FBD4, 0x76F988DA831153B5,
   0x983E5152EE66DFAB, 0xA831C66D2DB43210, 0xB00327C898FB213F, 0xBF597FC7BEEF0EE4,
   0xC6E00BF33DA88FC2, 0xD5A79147930AA725, 0x06CA6351E003826F, 0x142929670A0E6E70,
   0x27B70A8546D22FFC, 0x2E1B21385C26C926, 0x4D2C6DFC5AC42AED, 0x53380D139D95B3DF,
   0x650A73548BAF63DE, 0x766A0ABB3C77B2A8, 0x81C2C92E47EDAEE6, 0x92722C851482353B]

/-- Round constants 40–59 of SHA-384 (FIPS 180-4). -/
def shaK2 : List (BitVec 64) :=
  [0xA2BFE8A14CF10364, 0xA81A664BBC423001, 0xC24B8B70D0F89791, 0xC76C51A30654BE30,
   0xD192E819D6EF5218, 0xD69906245565A910, 0xF40E35855771202A, 0x106AA07032BBD1B8,
   0x19A4C116B8D2D0C8, 0x1E376C085141AB53, 0x2748774CDF8EEB99, 0x34B0BCB5E19B48A8,
   0x391C0CB3C5C95A63, 0x4ED8AA4AE3418ACB, 0x5B9CCA4F7763E373, 0x682E6FF3D6B2B8A3,
   0x748F82EE5DEFB2FC, 0x78A5636F43172F60, 0x84C87814A1F0AB72, 0x8CC702081A6439EC]

/-- Round constants 60–79 of SHA-384 (FIPS 180-4). -/
def shaK3 : List (BitVec 64) :=
  [0x90BEFFFA23631E28, 0xA4506CEBDE82BDE9, 0xBEF9A3F7B2C67915, 0xC67178F2E372532B,
   0xCA273ECEEA26619C, 0xD186B8C721C0C207, 0xEADA7DD6CDE0EB1E, 0xF57D4F7FEE6ED178,
   0x06F067AA72176FBA, 0x0A637DC5A2C898A6, 0x113F9804BEF90DAE, 0x1B710B35131C471B,
   0x28DB77F523047D84, 0x32CAAB7B40C72493, 0x3C9EBE0A15C9BEBC, 0x431D67C49C100D4C,
   0x4CC5D4BECB3E42B6, 0x597F299CFC657E2A, 0x5FCB6FAB3AD6FAEC, 0x6C44198C4A475817]

/-- The 80 round constants. -/
def shaK : List (BitVec 64) := shaK0 ++ shaK1 ++ shaK2 ++ shaK3

/-- The initial hash value of SHA-384. -/
def shaInit : List (BitVec 64) :=
  [0xCBBB9D5DC1059ED8, 0x629A292A367CD507, 0x9159015A3070DD17, 0x152FECD8F70E5939,
   0x67332667FFC00B31, 0x8EB44A8768581511, 0xDB0C2E0D64F98FA7, 0x47B5481DBEFA4FA4]

/-- Rotation to the right of a 64-bit word. -/
def rotr (x : BitVec 64) (n : Nat) : BitVec 64 := (x >>> n) ||| (x <<< (64 - n))

/-- The message of a SHA-384 computation, padded to whole 128-byte blocks. -/
def shaPad (l : List Byte) : List Byte :=
  let n := l.length
  l ++ [0x80] ++ List.replicate ((239 - n % 128) % 128) 0 ++ beBytes 16 (8 * n)

/-- Words 0–15 of a block. -/
def shaWords (l : List Byte) : List (BitVec 64) := (List.range 16).map fun i => BitVec.ofNat 64 (beAt l (8 * i) 8)

/-- The next word of the message schedule from the last 16 words, newest first. -/
def shaNext (w : List (BitVec 64)) : BitVec 64 :=
  let s0 (x : BitVec 64) := rotr x 1 ^^^ rotr x 8 ^^^ (x >>> 7)
  let s1 (x : BitVec 64) := rotr x 19 ^^^ rotr x 61 ^^^ (x >>> 6)
  s1 (w.getD 1 0) + w.getD 6 0 + s0 (w.getD 14 0) + w.getD 15 0

/-- The message schedule of a block, newest word first. -/
def shaSchedule (l : List Byte) : List (BitVec 64) :=
  (List.range 64).foldl (fun w _ => shaNext w :: w) (shaWords l).reverse

/-- One round on the working variables a to h. -/
def shaRound (v : List (BitVec 64)) (kw : BitVec 64 × BitVec 64) : List (BitVec 64) :=
  match v with
  | [a, b, c, d, e, f, g, h] =>
    let t1 := h + (rotr e 14 ^^^ rotr e 18 ^^^ rotr e 41) + ((e &&& f) ^^^ (~~~e &&& g)) + kw.1 + kw.2
    let t2 := (rotr a 28 ^^^ rotr a 34 ^^^ rotr a 39) + ((a &&& b) ^^^ (a &&& c) ^^^ (b &&& c))
    [t1 + t2, a, b, c, d + t1, e, f, g]
  | v => v

/-- The compression of one block. -/
def shaBlock (h : List (BitVec 64)) (l : List Byte) : List (BitVec 64) :=
  List.zipWith (· + ·) h ((shaK.zip (shaSchedule l).reverse).foldl shaRound h)

/-- The blocks of a padded message, `n` of them. -/
def shaBlocks : Nat → List Byte → List (List Byte)
  | 0, _ => []
  | n + 1, l => l.take 128 :: shaBlocks n (l.drop 128)

/-- SHA-384 of a byte string: 48 bytes. -/
def sha384 (l : List Byte) : List Byte :=
  let p := shaPad l
  (((shaBlocks (p.length / 128) p).foldl shaBlock shaInit).take 6).flatMap fun w => beBytes 8 w.toNat

/-! ### P-384 -/

/-- The field prime of P-384. -/
def p384 : Nat := 2 ^ 384 - 2 ^ 128 - 2 ^ 96 + 2 ^ 32 - 1

/-- The order of its base point. -/
def n384 : Nat :=
  0xffffffffffffffffffffffffffffffffffffffffffffffffc7634d81f4372ddf581a0db248b0a77aecec196accc52973

/-- The coefficient b. -/
def b384 : Nat :=
  0xb3312fa7e23ee7e4988e056be3f82d19181d9c6efe8141120314088f5013875ac656398d8a2ed19d2a85c8edd3ec2aef

/-- The base point. -/
def g384 : Nat × Nat :=
  (0xaa87ca22be8b05378eb1c71ef320ad746e1d3b628ba79b9859f741e082542a385502f25dbf55296c3a545e3872760ab7,
   0x3617de4a96262c6f5d9e98bf9292dc29f8f41dbd289a147ce9da3113b5f0b8c00a60b1ce1d7e819d7a431d7c90ea0e5f)

/-- Whether (x, y) is a point of P-384. -/
def onCurve (x y : Nat) : Bool :=
  decide (x < p384) && decide (y < p384) && (y * y) % p384 == (x * x * x + (p384 - 3) * x + b384) % p384

/-- A power modulo `m` with a 384-bit exponent: square and multiply from the top bit. -/
def pow384 (m b e : Nat) : Nat :=
  (List.range 384).foldl (fun r i =>
    let s := r * r % m
    if bitAt e (383 - i) then s * b % m else s) (1 % m)

/-- The inverse modulo a prime. -/
def invMod (m a : Nat) : Nat := pow384 m a (m - 2)

/-- Doubling in Jacobian coordinates; Z = 0 is the point at infinity. -/
def jDouble (q : Nat × Nat × Nat) : Nat × Nat × Nat :=
  let (x, y, z) := q
  let p := p384
  let yy := y * y % p
  let s := 4 * x * yy % p
  let zz := z * z % p
  let m := 3 * ((x + zz) % p) * ((x + p - zz) % p) % p
  let x3 := (m * m + p - 2 * s % p) % p
  let y3 := (m * ((s + p - x3) % p) + p - 8 * (yy * yy % p) % p) % p
  (x3, y3, 2 * y * z % p)

/-- Addition in Jacobian coordinates. -/
def jAdd (a b : Nat × Nat × Nat) : Nat × Nat × Nat :=
  let (x1, y1, z1) := a
  let (x2, y2, z2) := b
  let p := p384
  if z1 = 0 then b
  else if z2 = 0 then a
  else
    let z1z1 := z1 * z1 % p
    let z2z2 := z2 * z2 % p
    let u1 := x1 * z2z2 % p
    let u2 := x2 * z1z1 % p
    let s1 := y1 * z2 % p * z2z2 % p
    let s2 := y2 * z1 % p * z1z1 % p
    if u1 = u2 then (if s1 = s2 then jDouble a else (1, 1, 0))
    else
      let h := (u2 + p - u1) % p
      let r := (s2 + p - s1) % p
      let hh := h * h % p
      let hhh := h * hh % p
      let v := u1 * hh % p
      let x3 := (r * r + 3 * p - hhh - 2 * v % p) % p
      let y3 := (r * ((v + p - x3) % p) + p - s1 * hhh % p) % p
      (x3, y3, z1 * z2 % p * h % p)

/-- A multiple of a point by a 384-bit scalar. -/
def jMul (k : Nat) (q : Nat × Nat) : Nat × Nat × Nat :=
  (List.range 384).foldl (fun r i =>
    let d := jDouble r
    if bitAt k (383 - i) then jAdd d (q.1, q.2, 1) else d) (1, 1, 0)

/-- ECDSA P-384 verification of a signature (r, s) over a 48-byte digest with the public key (x, y). -/
def ecdsaVerify (x y r s : Nat) (digest : List Byte) : Bool :=
  if r = 0 ∨ n384 ≤ r ∨ s = 0 ∨ n384 ≤ s ∨ !onCurve x y then false
  else
    let e := beAt digest 0 48
    let w := invMod n384 s
    let (px, _, pz) := jAdd (jMul (e * w % n384) g384) (jMul (r * w % n384) (x, y))
    if pz = 0 then false
    else
      let zi := invMod p384 pz
      px * (zi * zi % p384) % p384 % n384 == r

/-- Verifies a 112-byte signature section over the bytes before it (R163). -/
def sectionVerifies (x y : Nat) (b : List Byte) : Bool :=
  let n := b.length - 112
  ecdsaVerify x y (beAt b (n + 0x10) 48) (beAt b (n + 0x40) 48) (sha384 (b.take n))

end Sys2Proof.Machine
end

