-- ==== Sys2Proof/Machine/Ops.lean ====
section
/-!
DEFINITION. The shared operations over the package's state: its units, counters, outputs, mailbox output,
notifications, the event recorder, the event logs and alarms, and the frame in which every command runs.
-/
namespace Sys2Proof.Machine

open Sys2Proof

/-! ### Units of the part -/

/-- Slices of a part (R1, R2). -/
def Part.slices : Part → Nat
  | .tvq2 => 2
  | .tvq4 => 4
  | .tvq8 => 8

/-- Slice count, which is also the number of host ports (R14). -/
def Dev.sliceCount (d : Dev) : Nat := d.part.slices

/-- Bits of the slice select (R19). -/
def Part.log2 : Part → Nat
  | .tvq2 => 1
  | .tvq4 => 2
  | .tvq8 => 3

/-- Work rings of the package (R2, R14). -/
def Dev.ringCount (d : Dev) : Nat := 1024 * d.sliceCount

/-- User capacity of a part in bytes: 512 GiB per slice (R2, R3). -/
def Part.capacity : Part → Nat
  | .tvq2 => 2 ^ 40
  | .tvq4 => 2 ^ 41
  | .tvq8 => 2 ^ 42

/-- User capacity in bytes (R2, R3). -/
def Dev.capacity (d : Dev) : Nat := d.part.capacity

/-- Logical frames of a slice (R19). -/
def framesPerSlice : Nat := 2 ^ 27

/-- The slice `i`. -/
def Dev.slice (d : Dev) (i : Nat) : Slice := d.slices.getD i {}

/-- The package with slice `i` changed. -/
def Dev.onSlice (d : Dev) (i : Nat) (f : Slice → Slice) : Dev := { d with slices := upd d.slices i f }

/-- The package with every slice changed. -/
def Dev.onSlices (d : Dev) (f : Slice → Slice) : Dev := { d with slices := d.slices.map f }

/-- Port `p`. -/
def Dev.port (d : Dev) (p : Nat) : Port := d.ports.getD p {}

/-- The package with port `p` changed. -/
def Dev.onPort (d : Dev) (p : Nat) (f : Port → Port) : Dev := { d with ports := upd d.ports p f }

/-- Mailbox channel `c`. -/
def Dev.chan (d : Dev) (c : Nat) : Chan := d.chans.getD c {}

/-- The package with channel `c` changed. -/
def Dev.onChan (d : Dev) (c : Nat) (f : Chan → Chan) : Dev := { d with chans := upd d.chans c f }

/-- Work ring `r`; an unlisted ring is at its reset values. -/
def Dev.ring (d : Dev) (r : Nat) : Ring := sget d.rings r {}

/-- The package with ring `r` changed; a ring back at its reset values is not listed. -/
def Dev.onRing (d : Dev) (r : Nat) (f : Ring → Ring) : Dev :=
  let v := f (d.ring r)
  { d with rings := if v = ({} : Ring) then sdel d.rings r else sset d.rings r v }

/-- Title slot `t`. -/
def Dev.title (d : Dev) (t : Nat) : Title := d.titles.getD t {}

/-- The package with title slot `t` changed. -/
def Dev.onTitle (d : Dev) (t : Nat) (f : Title → Title) : Dev := { d with titles := upd d.titles t f }

/-! ### Modes (R30, R31) -/

/-- Encoding of a mode in MODE_STATUS. -/
def Mode.code : Mode → Nat
  | .off => 0
  | .held => 1
  | .boot => 2
  | .recovery => 3
  | .service => 4
  | .throttled => 5
  | .preserve => 6
  | .idle => 7
  | .drowse => 8
  | .dormant => 9
  | .test => 10
  | .halt => 11

/-- The service group (R30). -/
def Mode.isService : Mode → Bool
  | .service | .throttled | .preserve | .idle => true
  | _ => false

/-- The modes in which the tick runs (R18); in these slice 0's CONTROL domain is on (R35). -/
def Mode.ticks : Mode → Bool
  | .boot | .recovery | .service | .throttled | .preserve | .idle | .test => true
  | _ => false

/-- The modes with the external rails up (R31). -/
def Mode.rails (m : Mode) : Bool := m.ticks || m == .drowse

/-- Encoding of a lifecycle state in DEVICE_INFO. -/
def Lifecycle.code : Lifecycle → Nat
  | .anise => 0
  | .cumin => 1
  | .mace => 2
  | .clove => 3

/-! ### Outputs and counters -/

/-- The package with one more thing seen outside. -/
def Dev.emit (d : Dev) (o : Output) : Dev := { d with out := d.out ++ [o] }

/-- A slice with counter `i` of R539 raised by `n`, modulo 2^48 (R538). -/
def Slice.count (s : Slice) (i n : Nat) : Slice :=
  { s with counters := upd s.counters i (· + word n) }

/-- The package with counter `i` of slice `s` raised by `n`. -/
def Dev.count (d : Dev) (s i n : Nat) : Dev := d.onSlice s (·.count i n)

/-- The package with package counter `i` of R540 raised by `n`. -/
def Dev.countPkg (d : Dev) (i n : Nat) : Dev :=
  { d with counters := { d.counters with package := upd d.counters.package i (· + word n) } }

/-- The next free value below `m` (a value the manual leaves open), with the draw counted. -/
def Dev.draw (d : Dev) (m : Nat) : Nat × Dev :=
  (Config.freeNat d.draws % m, { d with draws := d.draws + 1 })

/-- The next 128 bits of the DRBG (R28). -/
def Dev.random (d : Dev) : BitVec 128 × Dev :=
  (Config.drbg d.draws, { d with draws := d.draws + 1 })

/-- The life clock in rounds (R18, R528). -/
def Dev.lifeClock (d : Dev) : Nat := d.mirror.lifeClock

/-! ### Mailbox output (R402–R407, R414, R423, R433) -/

/-- The host port of a non-secure channel (R408). -/
def Dev.chanPort (d : Dev) (c : Nat) : Nat := wbits d.regs.mbAssign (3 * c) 3

/-- Whether a vector is signalled: its table entry is not masked, and the message control of its port's function has MSI-X enabled
(bit 15) and not masked (bit 14) (R423; PRESUMED: the bits are those of the MSI-X standard). -/
def Dev.vectorOn (d : Dev) (v : Nat × Nat) : Bool :=
  let c := (d.port v.1).msixControl
  d.msix.enabled.contains v && c.getLsbD 15 && !c.getLsbD 14

/-- The MSI-X table entry of a vector: its message (R423). -/
def Msix.entry (m : Msix) (v : Nat × Nat) : MsixEntry :=
  (m.entries.find? fun e => e.port == v.1 && e.vector == v.2).getD ⟨v.1, v.2, 0, 0⟩

/-- The message that a vector sends. -/
def Msix.message (m : Msix) (v : Nat × Nat) : Output := .msix v.1 v.2 (m.entry v).address (m.entry v).data

/-- Interrupts of vectors, each with its port: one that the host has enabled is signalled, of any other the pending bit is set
(R423). -/
def Dev.signals (d : Dev) (vs : List (Nat × Nat)) : Dev :=
  { d with
    out := d.out ++ (vs.filter d.vectorOn).map d.msix.message
    msix := { d.msix with
      waiting := d.msix.waiting ++ vs.filter fun v => !d.vectorOn v && !d.msix.waiting.contains v } }

/-- Pending vectors among those of `which` that have been unmasked are sent, and their pending bits cleared (R423). -/
def Dev.releaseVectors (d : Dev) (which : Nat × Nat → Bool) : Dev :=
  { d with
    out := d.out ++ (d.msix.waiting.filter fun v => which v && d.vectorOn v).map d.msix.message
    msix := { d.msix with waiting := d.msix.waiting.filter fun v => !(which v && d.vectorOn v) } }

/-- The interrupt of a channel: MSI-X for a non-secure channel, an in-band interrupt for a secure one. -/
def Dev.chanIrq (d : Dev) (c data : Nat) : Dev :=
  if c < 8 then d.signals [(d.chanPort c, (d.chan c).vector)] else d.emit (.ibi c data)

/-- The in_empty cause (R407). -/
def Dev.causeInEmpty (d : Dev) (c : Nat) : Dev :=
  let d := d.onChan c fun ch => { ch with inEmpty := true }
  if (d.chan c).inEmptyEn then d.chanIrq c 1 else d

/-- The out_ready cause (R407). -/
def Dev.causeOutReady (d : Dev) (c : Nat) : Dev :=
  let d := d.onChan c fun ch => { ch with outReady := true }
  if (d.chan c).outReadyEn then d.chanIrq c 2 else d

/-- The words of a message as FIFO stages, the first marked (R402). -/
def marked : List Word → List MbWord
  | [] => []
  | w :: ws => ⟨w, true, false⟩ :: ws.map (⟨·, false, false⟩)

/-- Places a whole message in the outbound FIFO of a channel. -/
def Dev.pushMessage (d : Dev) (c : Nat) (ws : List Word) : Dev :=
  (d.onChan c fun ch => { ch with outb := ch.outb ++ marked ws }).causeOutReady c

/-- A response or notification header (R425). -/
def replyHeader (opcode len tag flags status : Nat) : Word :=
  word (opcode * 2 ^ 32 + len * 2 ^ 28 + tag * 2 ^ 12 + flags * 2 ^ 8 + status)

/-- The message of a notification (R433). -/
def Notice.words (n : Notice) : List Word :=
  replyHeader n.code n.payload.length 0 (if n.merged then 5 else 1) 0 :: n.payload

/-- Moves waiting responses, then waiting notifications, into the outbound FIFO while the next whole
message has room (R404). `fuel` bounds the messages moved. -/
def Dev.drainOut (d : Dev) (c : Nat) : Nat → Dev
  | 0 => d
  | fuel + 1 =>
    let ch := d.chan c
    match ch.waiting with
    | ws :: rest =>
      if ch.outb.length + ws.length ≤ 16 then
        ((d.onChan c fun ch => { ch with waiting := rest }).pushMessage c ws).drainOut c fuel
      else d
    | [] =>
      match ch.notices with
      | n :: rest =>
        if ch.outb.length + n.words.length ≤ 16 then
          ((d.onChan c fun ch => { ch with notices := rest }).pushMessage c n.words).drainOut c fuel
        else d
      | [] => d

/-- Moves what fits into the outbound FIFO of a channel. -/
def Dev.pump (d : Dev) (c : Nat) : Dev :=
  d.drainOut c ((d.chan c).waiting.length + (d.chan c).notices.length)

/-- Answers a request with a response (R425). -/
def Dev.respond (d : Dev) (c opcode tag flags status : Nat) (payload : List Word) : Dev :=
  let ws := replyHeader opcode payload.length tag flags status :: payload
  (d.onChan c fun ch => { ch with waiting := ch.waiting ++ [ws] }).pump c

/-- Queues a notification on a channel: while one of the code waits for room, the payload is replaced and
merged is set (R433). -/
def Dev.notifyOn (d : Dev) (c code : Nat) (payload : List Word) : Dev :=
  if (d.chan c).notices.any (·.code == code) then
    (d.onChan c fun ch => { ch with
      notices := updWhere (·.code == code) (fun n => { n with payload := payload, merged := true }) ch.notices
      }).countPkg 6 1
  else
    (d.onChan c fun ch => { ch with notices := ch.notices ++ [⟨code, payload, false⟩] }).pump c

/-- Notifies every channel whose mask enables index `i`, while the firmware runs. -/
def Dev.notify (d : Dev) (i code : Nat) (payload : List Word) : Dev :=
  if d.mode.ticks then
    (List.range 16).foldl
      (fun d c => if has (d.chan c).mask i then d.notifyOn c code payload else d) d
  else d

/-- Notifies every secure channel whatever its mask (R384). -/
def Dev.notifySecure (d : Dev) (code : Nat) (payload : List Word) : Dev :=
  if d.mode.ticks then (rangeFrom 8 8).foldl (fun d c => d.notifyOn c code payload) d else d

/-! ### Parameter store, as its internal writers use it (R519–R523) -/

/-- The 8-byte groups that a range touches. -/
def groupsOf (a n : Nat) : List Nat := rangeFrom (a / 8) ((a + n + 7) / 8 - a / 8)

/-- Whether a range reads without an uncorrectable group (R522). -/
def PStore.readable (p : PStore) (a n : Nat) : Bool := (groupsOf a n).all fun g => !p.broken.contains g

/-- The bytes of a range, `none` when a group is uncorrectable (R522). -/
def PStore.read (p : PStore) (a n : Nat) : Option (List Byte) :=
  if p.readable a n then some (memRead p.mem a n) else none

/-- Whether a write of a range can be performed: no partly covered group is uncorrectable (R520). -/
def PStore.writable (p : PStore) (a n : Nat) : Bool :=
  (groupsOf a n).all fun g => !p.broken.contains g || (decide (a ≤ 8 * g) && decide (8 * g + 8 ≤ a + n))

/-- A whole write: fully covered groups take fresh check bits, a write that cannot be performed leaves the
store as it is (R520). -/
def PStore.write (p : PStore) (a : Nat) (b : List Byte) : PStore :=
  if p.writable a b.length then
    { p with mem := memWrite p.mem a b, broken := p.broken.filter fun g => !(groupsOf a b.length).contains g }
  else p

/-- An internal write of the package to its parameter store. -/
def Dev.store (d : Dev) (a : Nat) (b : List Byte) : Dev :=
  { d with pstore := d.pstore.write a b }.countPkg 16 1

/-- Bytes followed by their CRC-32C. -/
def withCrc (b : List Byte) : List Byte := b ++ leBytes 4 (crc32c b)

/-- Whether bytes end in their CRC-32C. -/
def crcHolds (b : List Byte) : Bool :=
  crc32c (b.take (b.length - 4)) == leAt b (b.length - 4) 4

/-- A record of 20 bytes (R526, R571): bytes 0x00–0x0F and their CRC, valid when it decodes and holds. -/
def PStore.record16 (p : PStore) (a : Nat) : Option (List Byte) :=
  match p.read a 24 with
  | none => none
  | some b => if crc32c (b.take 16) == leAt b 16 4 then some (b.take 16) else none

/-! ### Event recorder (R531–R537) -/

/-- The parameter bytes of an event in whole 8-byte groups (R570). -/
def Event.padded (e : Event) : List Byte := padTo (8 * ceilDiv e.params.length 8) e.params

/-- The bytes of a record (R531). -/
def recordBytes (generation : Nat) (e : Event) : List Byte :=
  leBytes 2 generation
    ++ [BitVec.ofNat 8 (3 + ceilDiv e.params.length 8), BitVec.ofNat 8 e.slice]
    ++ leBytes 2 e.code ++ [BitVec.ofNat 8 e.reason, 0x5A]
    ++ leBytes 6 e.clock ++ [BitVec.ofNat 8 e.cls, 0] ++ leBytes 8 0 ++ e.padded

/-- Codes whose records keep the parameters of their first occurrence (R570). -/
def firstOnly (code : Nat) : Bool := code == 0x010C

/-- Whether event `e` repeats event `n` (R534). -/
def Event.repeats (e n : Event) : Bool :=
  e.code == n.code && e.slice == n.slice && e.reason == n.reason && e.cls == n.cls
    && ceilDiv e.params.length 8 == ceilDiv n.params.length 8
    && (firstOnly e.code || e.padded == n.padded)

/-- The recorder control page (R533): generation and flags with their CRC. -/
def controlPage (generation : Nat) (failed full : Bool) : List Byte :=
  withCrc (leBytes 2 generation ++ [BitVec.ofNat 8 (b2n failed + 2 * b2n full), 0])

/-- Writes the recorder control page from the recorder's state. -/
def Dev.storeControl (d : Dev) : Dev :=
  d.store 0x140 (controlPage d.recorder.generation d.recorder.failed d.recorder.full)

/-- One more dropped event, saturating (R528, R535, R536). -/
def Dev.dropEvent (d : Dev) : Dev :=
  { d with mirror := { d.mirror with droppedEvents := min 0xFFFFFF (d.mirror.droppedEvents + 1) } }.countPkg 21 1

/-- The recorder becomes failed (R536). -/
def Dev.failRecorder (d : Dev) : Dev :=
  let d := { d with
    recorder := { d.recorder with failed := true }
    mirror := { d.mirror with recorderFailed := true } }
  d.storeControl.notify 1 0x0681 []

/-- Writes the pending repeat count into the newest record (R534); a group that does not decode makes the
recorder failed (R536). -/
def Dev.storeRepeats (d : Dev) : Dev :=
  if d.recorder.repeatDirty && !d.recorder.failed then
    let a := 0x10000 + 8 * d.mirror.newestOffset + 0x10
    let d := { d with recorder := { d.recorder with repeatDirty := false } }
    if d.pstore.writable a 2 then d.store a (leBytes 2 d.mirror.repeats) else d.failRecorder
  else d

/-- Writes a new record at the write position (R532, R535). -/
def Dev.appendRecord (d : Dev) (e : Event) : Dev :=
  let d := d.storeRepeats
  let b := recordBytes d.recorder.generation e
  if d.recorder.failed then d.dropEvent
  else if d.recorder.writePos + b.length ≤ 0x10000 then
    { d.store (0x10000 + d.recorder.writePos) b with
      recorder := { d.recorder with
        writePos := d.recorder.writePos + b.length
        newest := some e
        records := d.recorder.records + 1 }
      mirror := { d.mirror with repeats := 0, newestOffset := d.recorder.writePos / 8 } }.countPkg 19 1
  else { d with recorder := { d.recorder with full := true } }.storeControl.dropEvent

/-- Gives an event to the recorder: a repeat is counted, any other event is written or dropped (R534–R536). -/
def Dev.recordEvent (d : Dev) (e : Event) : Dev :=
  if d.recorder.failed then d.dropEvent
  else match d.recorder.newest with
    | some n =>
      if e.repeats n && d.mirror.repeats < 0xFFFE then
        { d with
          mirror := { d.mirror with repeats := d.mirror.repeats + 1 }
          recorder := { d.recorder with repeatDirty := true } }.countPkg 20 1
      else d.appendRecord e
    | none => d.appendRecord e

/-! ### CXL event logs (R305, R307, R310) -/

/-- The record kind and log (0 informational, 1 warning, 2 failure, 3 fatal) of an event (R310). -/
def Event.logging (e : Event) : EvKind × Nat :=
  match e.code with
  | 0x0101 | 0x0102 => (.generalMedia, 2)
  | 0x010C => if e.reason = 6 then (.generalMedia, 2) else (.vendor, 0)
  | 0x0304 => if e.reason = 1 then (.dram, 2) else (.vendor, 0)
  | 0x0109 | 0x010A | 0x010B => (.memoryModule, 2)
  | 0x0106 | 0x0108 | 0x0303 => (.memoryModule, 1)
  | 0x0505 =>
    if e.reason = 3 then (.memoryModule, 3)
    else if e.reason = 4 then (.vendor, 0) else (.memoryModule, 1)
  | 0x0302 => (.memoryModule, 0)
  | 0x0402 => (.vendor, 1)
  | _ => (.vendor, 0)

/-- The event interrupts of a log: each linked port whose policy asks for one signals its own (R304, R423). -/
def Dev.eventInterrupts (d : Dev) (l : Nat) : Dev :=
  d.signals <| (List.range d.ports.length).filterMap fun p =>
    let x := (d.port p).policy.toNat
    if (d.port p).link != .down && bits x (8 * l) 2 == 1 then some (p, bits x (8 * l + 4) 4) else none

/-- Adds a record to a log, or counts it as overflow when the log is full; the first record of a log interrupts. -/
def Dev.logEvent (d : Dev) (e : Event) : Dev :=
  let (kind, l) := e.logging
  let log := d.std.logs.getD l ⟨64, [], 0⟩
  if log.records.length < log.size then
    let d := { d with std := { d.std with
      logs := upd d.std.logs l fun g => { g with records := g.records ++ [⟨d.std.nextHandle, kind, e⟩] }
      nextHandle := d.std.nextHandle + 1 } }
    if log.records.isEmpty then d.eventInterrupts l else d
  else
    { d with std := { d.std with logs := upd d.std.logs l fun g => { g with overflow := g.overflow + 1 } } }

/-- An event of the device (R570): it reaches the recorder, its CXL record and the EVENT_RECORDED
notification (R535). -/
def Dev.event (d : Dev) (code slice reason cls : Nat) (params : List Byte) : Dev :=
  let e : Event := ⟨code, slice, reason, cls, params, d.lifeClock⟩
  ((d.recordEvent e).logEvent e).notify 0 0x0680
    [word (code + slice * 2 ^ 16 + reason * 2 ^ 24), word e.clock]

/-- A package event without parameters. -/
def Dev.packageEvent (d : Dev) (code reason : Nat) : Dev := d.event code 0xFF reason 0xFF []

/-! ### Alarms (R384, R385, R388) -/

/-- A security alarm with cause bit `cause`, of slice `slice` or of the package, naming `counter` for cause 5.
In the boot/recovery and test mode groups it is a record only (R388). -/
def Dev.alarm (d : Dev) (cause : Nat) (slice : Option Nat) (counter : Nat) : Dev :=
  let s := slice.getD 0xFF
  if d.mode.isService then
    let d := { d with alarms := { d.alarms with
      causes := withBit d.alarms.causes cause
      count := min 0xFFFF (d.alarms.count + 1)
      lastRound := d.clock.round
      asserted := true } }
    let d := d.notifySecure 0x0A80
      [word (2 ^ cause), word (slice.getD 8 + counter * 16)]
    let d := match slice with
      | some i => d.count i 135 1
      | none => d
    (d.countPkg 11 1).event 0x0401 s cause 0xFF []
  else if d.mode.ticks then d.event 0x0401 s cause 0xFF []
  else d

/-! ### Time-stamped helpers -/

/-- A 6-byte parameter. -/
def p6 (n : Nat) : List Byte := leBytes 6 n

/-- CONTRACT_EXCEEDED of a slice with the reason of R154 and a class: at most one event per reason and round. -/
def Dev.contractExceeded (d : Dev) (s reason cls : Nat) : Dev :=
  if (d.slice s).flow.raised.contains reason then d
  else
    let d := d.onSlice s fun x => { x with flow := { x.flow with raised := x.flow.raised ++ [reason] } }
    (d.count s (95 + reason) 1).event 0x0201 s reason cls []

/-- Zeros for a swap abandoned by a reset or power event (R181): the event, and no swap pending. -/
def Dev.abandonSwap (d : Dev) (reason : Nat) : Dev :=
  match d.swap.pending with
  | some _ => { d.packageEvent 0x0205 reason with swap := { d.swap with pending := none, copying := none, taking := none } }
  | none => { d with swap := { d.swap with copying := none, taking := none } }

/-! ### Levels that follow the state (R18, R30, R312, R319, R326, R384) -/

/-- MEM_READY: high in the service group, low from the acceptance of a transition that leaves it (R319, R322). -/
def Dev.memReady (d : Dev) : Bool := d.mode.isService && !d.transition.any fun t => decide (1 ≤ t.step)

/-- BOOT_READY: high while a valid boot image stands in the boot buffer, the CONTROL domain is on and the
part is not CLOVE (R37, R326, R355). -/
def Dev.bootReady (d : Dev) : Bool :=
  d.mode.ticks && d.boot.imageValid && d.fuses.lifecycle != .clove

/-- Tags that ALERT_N is low (R312), with the rails up: an uncleared failure or fatal record, a crossed threshold, a failed
recorder, a missing boot image, a slice in recovery, PRESERVE. -/
def Dev.alert (crossed : Bool) (d : Dev) : Bool :=
  d.mode.rails &&
    (!(d.std.logs.getD 2 ⟨64, [], 0⟩).records.isEmpty || !(d.std.logs.getD 3 ⟨16, [], 0⟩).records.isEmpty
      || crossed || d.recorder.failed || d.boot.missing || d.slices.any (·.inRecovery) || d.mode == .preserve)

end Sys2Proof.Machine
end

