-- ==== Sys2Proof/Machine/Operands.lean ====
section
/-!
DEFINITION. How the operands of a command name parts of the package: the interleave of a DPA, HDM decoding,
region classification, line numbers, and the fields of registers.
-/
namespace Sys2Proof.Machine

open Sys2Proof

/-! ### Device addresses (R19, R271) -/

/-- The slice that owns a DPA. -/
def Dev.sliceOf (d : Dev) (dpa : Nat) : Nat := (dpa >>> 12) % d.sliceCount

/-- The logical frame of a DPA within its slice. -/
def Dev.frameOf (d : Dev) (dpa : Nat) : Nat := dpa >>> (12 + d.part.log2)

/-- The subpage of a DPA. -/
def subOf (dpa : Nat) : Nat := bits dpa 8 4

/-- The sector of a DPA within its 256-byte line. -/
def sectorIn (dpa : Nat) : Nat := bits dpa 6 2

/-- The sector of a DPA within its frame, 0–63. -/
def sectorInFrame (dpa : Nat) : Nat := bits dpa 6 6

/-- The DPA of sector `k` of a frame of a slice. -/
def Dev.dpaOf (d : Dev) (s lfn k : Nat) : Nat := ((lfn <<< d.part.log2) + s) * 4096 + 64 * k

/-- The line number of a frame's subpage (R271). -/
def lineOf (lfn sub : Nat) : Nat := lfn * 16 + sub

/-- The cache set of a line. -/
def setOf (line : Nat) : Nat := line % 4096

/-- The line number that DPA[41:8] = `n` names in its slice, with the slice. -/
def Dev.lineAt (d : Dev) (n : Nat) : Nat × Nat :=
  (d.sliceOf (n <<< 8), lineOf (d.frameOf (n <<< 8)) (subOf (n <<< 8)))

/-! ### HDM decoders (R300, R301) -/

/-- HDM_POSITION field of decoder `n`. -/
def Port.positionOf (p : Port) (n : Nat) : Nat := wbits p.position (3 * n) 3

/-- The DPA base of decoder `n`: the end of the previous decoder's DPA range plus its skip. -/
def Port.dpaBase (p : Port) : Nat → Nat
  | 0 => (p.decoders.getD 0 {}).skip
  | n + 1 => p.dpaBase n + (p.decoders.getD n {}).size + (p.decoders.getD (n + 1) {}).skip

/-- Whether decoder `n` may be committed (R300). -/
def Dev.commitOk (d : Dev) (p n : Nat) : Bool :=
  let pt := d.port p
  let h := pt.decoders.getD n {}
  h.granularity == 4096
    && (h.ways == 1 || h.ways == 2 || h.ways == 4 || h.ways == 8) && decide (h.ways ≤ d.sliceCount)
    && h.base % (h.ways * 4096) == 0 && decide (pt.positionOf n < h.ways)
    && pt.dpaBase n % (h.ways * 4096) == 0
    && (n == 0 || (pt.decoders.getD (n - 1) {}).committed)

/-- What a port makes of an HPA: a DPA, a decoder whose position bits differ (with the DPA the address would
have), or no decoder. -/
def Port.decode (pt : Port) (hpa : Nat) : Option (Nat × Bool) :=
  (List.range 4).foldr (fun n acc =>
    let h := pt.decoders.getD n {}
    if h.committed && decide (h.base ≤ hpa) && decide (hpa < h.base + h.size) then
      let o := hpa - h.base
      some (pt.dpaBase n + o, (o / 4096) % h.ways == pt.positionOf n)
    else acc) none

/-! ### Regions (R399, R400) -/

/-- Base of region `n` in MiB. -/
def regionBaseMib (b : Word) : Nat := wbits b 0 22

/-- Size of a region in MiB. -/
def regionSizeMib (b : Word) : Nat := wbits b 22 22

/-- Whether an enabled region of a REGION_BASE value contains a DPA. -/
def regionHas (b : Word) (dpa : Nat) : Bool :=
  decide (regionBaseMib b * 2 ^ 20 ≤ dpa) && decide (dpa < (regionBaseMib b + regionSizeMib b) * 2 ^ 20)

/-- The region that classifies a DPA: the lowest-numbered enabled one that contains it. -/
def Groups.regionOf (g : Groups) (dpa : Nat) : Option Nat :=
  (List.range 64).find? fun n => regionHas (g.regionBase.getD n 0) dpa

/-- Whether a REGION_ATTR value has sealed, secure or streamed set. -/
def attrProtected (a : Word) : Bool := wbits a 4 1 == 1 || wbits a 10 1 == 1 || wbits a 14 1 == 1

/-- The classification of an access through port `p` at a DPA (R399). -/
def Groups.classify (g : Groups) (p dpa : Nat) : Class :=
  match g.regionOf dpa with
  | some n =>
    let a := g.regionAttr.getD n 0
    { cls := wbits a 0 3
      durable := wbits a 3 1 == 1
      sealedSlot := if wbits a 4 1 == 1 then some (wbits a 5 5) else none
      secure := wbits a 10 1 == 1
      access := wbits a 11 2
      prefetch := wbits a 13 1 == 1
      streamed := wbits a 14 1 == 1
      region := some n }
  | none =>
    let c := g.portClass.getD p 7
    { cls := wbits c 0 3
      durable := false
      sealedSlot := none
      secure := false
      access := wbits c 3 2
      prefetch := false
      streamed := false
      region := none }

/-- The classification of a DPA: a region that extends beyond the user capacity classifies only the DPA below it (R400). -/
def Dev.classOf (d : Dev) (p dpa : Nat) : Class :=
  if dpa < d.capacity then d.active.classify p dpa else ({ d.active with regionBase := [] } : Groups).classify p dpa

/-- Whether a classification is of a protected range (R375). -/
def Class.isProtected (c : Class) : Bool := c.secure || c.sealedSlot.isSome

/-- Whether a range of DPA overlaps an enabled region with a property of its attributes. -/
def Groups.overlaps (g : Groups) (p : Word → Bool) (base size : Nat) : Bool :=
  (List.range 64).any fun n =>
    let b := g.regionBase.getD n 0
    regionSizeMib b != 0 && p (g.regionAttr.getD n 0)
      && decide (regionBaseMib b * 2 ^ 20 < base + size)
      && decide (base < (regionBaseMib b + regionSizeMib b) * 2 ^ 20)

/-- Whether a range overlaps a protected range: a secure or sealed region, or a range of a title slot that is
not empty (R375). -/
def Dev.protectedRange (d : Dev) (base size : Nat) : Bool :=
  d.active.overlaps (fun a => wbits a 4 1 == 1 || wbits a 10 1 == 1) base size
    || d.titles.any fun t => t.state != .empty
        && t.ranges.any fun r => decide (r.1 < base + size) && decide (base < r.1 + r.2)

/-- Whether a write of a register field may keep `new`: every field outside a range keeps the old value. -/
def putField (old new : Word) (lo width : Nat) (ok : Bool) : Word :=
  if ok then word (setBits old.toNat lo width (wbits new lo width)) else old

/-- A word with only the bits of a mask. -/
def masked (w : Word) (m : Nat) : Word := w &&& word m

/-! ### The frame in which a command runs -/

/-- The unit that a command names must exist (R10, R14, R402). -/
def guardIf (c : Bool) (r : Fault) (k : Host.Outcome State Fault Refusal) : Host.Outcome State Fault Refusal :=
  if c then k else .fault r

end Sys2Proof.Machine
end

