-- ==== Sys2Proof/Machine/Flags.lean ====
section
/-!
DEFINITION. The status registers and status values computed from the state, the levels of the output pins,
and the frame that keeps the pins in step with the state after every command.
-/
namespace Sys2Proof.Machine

open Sys2Proof

/-! ### Counts -/

/-- F, the slots in state FREE (R232). -/
def Slice.free (s : Slice) : Nat :=
  10368 - (s.slots.filter fun e => e.2.state != .free).length

/-- The number of an enumerated watermark (UPKEEP_STATUS). -/
def Watermark.code : Watermark → Nat
  | .normal => 0
  | .low => 1
  | .hold => 2
  | .dry => 3

/-- The number of a reach state (REACH_HEALTH). -/
def ReachState.code : ReachState → Nat
  | .healthy => 0
  | .retiring => 1
  | .retired => 2

/-- The number of a cache state (CACHE_STATUS). -/
def CacheState.code : CacheState → Nat
  | .invalidating => 0
  | .on => 1
  | .draining => 2
  | .off => 3

/-- Reach `r` of a slice. -/
def Slice.reach (s : Slice) (r : Nat) : Reach := s.reaches.getD r {}

/-- The slice with reach `r` changed. -/
def Slice.onReach (s : Slice) (r : Nat) (f : Reach → Reach) : Slice := { s with reaches := upd s.reaches r f }

/-- Whether reach `r` is HEALTHY. -/
def Slice.healthyReach (s : Slice) (r : Nat) : Bool := decide (r < 18) && (s.reach r).state == .healthy

/-- Retired reaches of a slice. -/
def Slice.retiredCount (s : Slice) : Nat := (s.reaches.filter fun r => r.state == .retired).length

/-- Folds in progress: fold buffers in use (R277, R280). -/
def Slice.foldCount (s : Slice) : Nat := (s.flow.rewrites.filter fun r => r.fold && !r.done).length

/-- Faults of a bank within the last 1,024 rounds (R258). -/
def Slice.faultsOf (s : Slice) (bank now : Nat) (program : Bool) : Nat :=
  (s.upkeep.faults.filter fun f => f.bank == bank && f.program == program && decide (now < f.round + 1024)).length

/-- The largest of a list of numbers. -/
def largest (l : List Nat) : Nat := l.foldl max 0

/-! ### Status registers -/

/-- DEVICE_INFO (0x0000). -/
def Dev.deviceInfo (d : Dev) : Word :=
  word (d.sliceCount + b2n d.fuses.dram4 * 2 ^ 4 + d.fuses.lifecycle.code * 2 ^ 5
    + d.fuses.stepping.toNat * 2 ^ 16)

/-- Bit s for every slice in slice recovery. -/
def Dev.recoveryMask (d : Dev) : Nat :=
  total ((List.range d.slices.length).map fun i => b2n (d.slice i).inRecovery * 2 ^ i)

/-- MODE_STATUS (0x0008). -/
def Dev.modeStatus (d : Dev) : Word :=
  word (d.mode.code + b2n d.pins.memReady * 2 ^ 4 + b2n d.pins.bootReady * 2 ^ 5
    + d.recoveryMask * 2 ^ 6 + d.rung * 2 ^ 14)

/-- ACCESS_ERROR (0x0020). -/
def Dev.accessErrorWord (d : Dev) : Word :=
  let e := d.regs.accessError
  word (e.offset + e.reason * 2 ^ 26 + e.port * 2 ^ 30 + b2n e.secure * 2 ^ 33 + b2n e.valid * 2 ^ 34
    + e.count * 2 ^ 35)

/-- Whether a swap is pending (R179, R182). -/
def Dev.swapPending (d : Dev) : Bool := d.swap.pending.isSome || d.swap.copying.isSome

/-- SWAP_REQUEST (0x0028). -/
def Dev.swapStatus (d : Dev) : Word :=
  word (b2n d.swapPending * 2 + b2n d.swap.refused * 4 + d.swap.lastRound.toNat * 2 ^ 16)

/-- TICK_STATUS (0x0100). -/
def Dev.tickStatus (d : Dev) : Word :=
  word (d.clock.tick + b2n (d.clock.skipN != 0) * 2 ^ 10 + d.clock.skipN * 2 ^ 11 + d.clock.round.toNat * 2 ^ 16)

/-- MAINT_CMD (0x0410). -/
def Dev.maintStatus (d : Dev) : Word :=
  word (b2n d.regs.maintRun.isSome * 4 + b2n d.regs.maintDone * 8 + b2n d.regs.maintDenied * 16)

/-- Whether a whole message stands at the outbound front. -/
def Chan.outMsg (ch : Chan) : Bool :=
  match ch.outb with
  | [] => false
  | w :: _ => decide (wbits w.word 28 4 + 1 ≤ ch.outb.length) && w.first

/-- MB_STATUS. -/
def Chan.status (ch : Chan) : Word :=
  word (ch.inb.length + ch.outb.length * 2 ^ 5 + b2n ch.outMsg * 2 ^ 10 + b2n ch.overrun * 2 ^ 11
    + b2n ch.underrun * 2 ^ 12 + b2n ch.outPoison * 2 ^ 13 + b2n ch.inEmpty * 2 ^ 14 + b2n ch.outReady * 2 ^ 15)

/-- CACHE_STATUS (0x0308). -/
def Slice.cacheStatus (s : Slice) : Word :=
  word (s.cache.state.code + b2n s.cache.denied * 4
    + (s.cache.lines.filter fun l => l.dirty != 0).length * 2 ^ 3 + s.cache.victims.length * 2 ^ 20)

/-- BASIN_STATUS (0x0320). -/
def Slice.basinStatus (s : Slice) : Word :=
  word (s.basin.entries.length + s.foldCount * 2 ^ 18 + s.basin.overflow.length * 2 ^ 29)

/-- BASIN_CFG (0x0318). -/
def Slice.basinCfg (s : Slice) : Word := word (s.basin.foldAge + s.basin.foldOccupancy * 2 ^ 8)

/-- Place of the PRESERVE entry record. -/
def preserveAt : Nat := 0x100

/-- Whether the PRESERVE entry is recorded (R265, R571). -/
def Dev.preserveRecorded (d : Dev) : Bool := (d.pstore.record16 preserveAt).isSome

/-- UPKEEP_STATUS (0x0200), with the PRESERVE latch; it reads its reset value until the tick starts (R236). -/
def Dev.upkeepStatus (d : Dev) (i : Nat) : Word :=
  let s := d.slice i
  let u := s.upkeep
  if d.clock.on then
    word (s.free + u.watermark.code * 2 ^ 14 + u.effective * 2 ^ 17
      + b2n (u.evacReach.isSome || !u.evacBanks.isEmpty) * 2 ^ 19 + u.evacReach.getD 0x1F * 2 ^ 20
      + b2n u.staticVictim.isSome * 2 ^ 25 + b2n d.preserveRecorded * 2 ^ 26)
  else word (0x1F * 2 ^ 20)

/-- REACH_HEALTH (reach window 0x0048); it reads its reset value until the tick starts. -/
def Dev.reachHealth (d : Dev) (i r : Nat) : Word :=
  let s := d.slice i
  let now := d.clock.round.toNat
  let worst (program : Bool) := min 15 (largest ((rangeFrom (64 * r) 64).map fun b => s.faultsOf b now program))
  if d.clock.on then
    word ((s.reach r).retiredBanks.length + (s.reach r).state.code * 2 ^ 7 + worst true * 2 ^ 9
      + worst false * 2 ^ 13)
  else 0

/-- DRAM_STATUS (0x0600). -/
def Dev.dramStatus (d : Dev) (i : Nat) : Word :=
  let m := (d.slice i).dram
  word (b2n m.size4 + m.healthy.toNat * 2 + b2n m.trained * 2 ^ 9 + m.guardBand.toNat * 2 ^ 10
    + popCount m.due * 2 ^ 18 + b2n m.rebuilding * 2 ^ 22)

/-- RING_CTRL. -/
def Ring.ctrl (r : Ring) : Word :=
  word (r.sizeLog2 + b2n r.enable * 2 ^ 5 + r.hostPort * 2 ^ 6 + r.vector * 2 ^ 9 + b2n r.irqEnable * 2 ^ 20)

/-- Number of a ring state (RING_STATUS). -/
def RingState.code : RingState → Nat
  | .disabled => 0
  | .running => 1
  | .draining => 2
  | .stopped => 3

/-- RING_STATUS. -/
def Ring.status (r : Ring) : Word := word (r.fetched.toNat + r.state.code * 2 ^ 32 + r.stopCode * 2 ^ 34)

/-- COUNTER_EPOCH (R542). -/
def Dev.counterEpoch (d : Dev) : Word := word (d.counters.resets + d.mirror.bootCount * 2 ^ 24)

/-- HDM_POSITION is kept as a word; SNAP_STATUS (R543) too. -/
def Dev.snapStatusWord (d : Dev) : Word := word d.counters.snapStatus

/-! ### Life used and thresholds (R269, R306, R546) -/

/-- Thermal life used in 0.01 %: equivalent seconds at 55 °C over 182,625 hours. -/
def Dev.thermalLifeUsed (d : Dev) : Nat := d.mirror.thermalLife * 10000 / (182625 * 3600)

/-- A block's number within its slice: bank (reach × 64 + group × 16 + bank) × 576 + block. -/
def blockKey (bank block : Nat) : Nat := bank * 576 + block

/-- Whether bank number `b` of a slice is retired. -/
def Slice.bankRetired (s : Slice) (b : Nat) : Bool := (s.reach (b / 64)).retiredBanks.contains (b % 64)

/-- Whether a block is healthy: not retired itself, nor its bank, nor its reach. -/
def Slice.blockHealthy (s : Slice) (k : Nat) : Bool :=
  !s.badBlocks.contains k && !s.bankRetired (k / 576) && (s.reach (k / 576 / 64)).state == .healthy

/-- Number of a bank within its slice. -/
def bankNo (reach group bank : Nat) : Nat := reach * 64 + group * 16 + bank

/-- Banks of a group of a reach whose block of a slab is not retired (R239). -/
def Slice.soundBanks (s : Slice) (slab reach group : Nat) : List Nat :=
  (List.range 16).filter fun b =>
    let n := bankNo reach group b
    !s.bankRetired n && !s.badBlocks.contains (blockKey n slab)

/-- The largest number of slots, at most 18, that a slab can form when its healthy reaches have `ms` sound blocks left in
their poorest bank group (R239). -/
def mostSlots (ms : List Nat) : Nat :=
  (List.range 19).foldl (fun best n => if 16 * n ≤ total (ms.map (min n)) then n else best) 0

/-- Sound blocks left to a reach in its poorest bank group of a slab, outside the banks `taken`. -/
def Slice.poorest (s : Slice) (taken : List Nat) (slab reach : Nat) : Nat :=
  (minBy id ((List.range 4).map fun g =>
    ((s.soundBanks slab reach g).filter fun b => !taken.contains (bankNo reach g b)).length)).getD 0

/-- The formable count of a slab (R239). -/
def Slice.formableIn (s : Slice) (slab : Nat) : Nat :=
  mostSlots (((List.range 18).filter s.healthyReach).map (s.poorest [] slab))

/-- Wear of the healthy blocks in formable slots (R253, R269): those of slabs that can form a slot (DEDUCED: where a slab has
more healthy blocks than its slots take, the manual does not say which of them count). -/
def Slice.wornBlocks (s : Slice) : List Nat :=
  (s.wear.filter fun e => s.blockHealthy e.1 && decide (0 < s.formableIn (e.1 % 576))).map (·.2)

/-- The number of healthy blocks in formable slots. -/
def Slice.healthyBlocks (s : Slice) : Nat :=
  total (((List.range 576).filter fun j => decide (0 < s.formableIn j)).map fun j =>
    total (((List.range 18).filter s.healthyReach).map fun r => total ((List.range 4).map fun g => (s.soundBanks j r g).length)))

/-- Mean wear of the healthy blocks in formable slots, in units; a block never cleared has none. -/
def Slice.meanWear (s : Slice) : Nat :=
  let sum := total s.wornBlocks
  if sum = 0 then 0 else sum / s.healthyBlocks

/-- Highest and lowest wear of those blocks in units. -/
def Slice.highWear (s : Slice) : Nat := largest s.wornBlocks
def Slice.lowWear (s : Slice) : Nat :=
  let worn := s.wornBlocks
  if worn.isEmpty || decide (worn.length < s.healthyBlocks) then 0 else (minBy id worn).getD 0

/-- Wear life used of a slice in 0.01 %. -/
def Slice.wearLifeUsed (s : Slice) : Nat := s.meanWear * 10000 / 500000

/-- Wear life used of the package: the highest over the slices. -/
def Dev.wearLifeUsed (d : Dev) : Nat := largest (d.slices.map (·.wearLifeUsed))

/-- Life used in 0.01 % (R269). -/
def Dev.lifeUsed (d : Dev) : Nat := max d.thermalLifeUsed d.wearLifeUsed

/-- Highest valid internal sensor reading, in quarter degrees. -/
def Dev.internalHigh (d : Dev) : Option Int :=
  (d.thermal.sensors.filter fun e => decide (e.1 < 4 * d.sliceCount) && !e.2.faulty).foldl
    (fun acc e => match e.2.readings, acc with
      | r :: _, some m => some (max r m)
      | r :: _, none => some r
      | [], a => a) none

/-- Corrected volatile errors (R546). -/
def Dev.correctedVolatile (d : Dev) : Nat :=
  min (2 ^ 32 - 1)
    (total (d.slices.map fun s => (s.counters.getD 82 0).toNat) + (d.counters.package.getD 17 0).toNat)

/-- Corrected persistent errors (R546). -/
def Dev.correctedPersistent (d : Dev) : Nat :=
  min (2 ^ 32 - 1)
    (total (d.slices.map fun s => (s.counters.getD 66 0).toNat + (s.counters.getD 68 0).toNat))

/-- The thresholds of Set Alert Configuration that are crossed (R304, R312): life used, over-temperature,
under-temperature, corrected volatile errors, corrected persistent errors. -/
def Dev.alertsCrossed (d : Dev) : List Bool :=
  let v (i : Nat) : Int := d.std.alertValues.getD i 0
  let temp (p : Int → Bool) : Bool :=
    match d.internalHigh with
    | some q => p (q / 4)
    | none => false
  [has d.std.alertValid 0 && decide (v 0 ≤ (min 100 (d.lifeUsed / 100) : Nat)),
   has d.std.alertValid 1 && temp (fun t => decide (v 1 ≤ t)),
   has d.std.alertValid 2 && temp (fun t => decide (t ≤ v 2)),
   has d.std.alertValid 3 && decide (v 3 ≤ (d.correctedVolatile : Nat)),
   has d.std.alertValid 4 && decide (v 4 ≤ (d.correctedPersistent : Nat))]

/-! ### Pins and the frame of a command -/

/-- Media Status of the standard Memory Device Status register (R319). From the acceptance of a transition that leaves the
service group it no longer reads Ready (R322); until the mode changes it reads Disabled on the way to TEST, else Not Ready (DESIGN
CHOICE: R322 does not say which value it takes). -/
def Dev.mediaStatus (d : Dev) : Option MediaStatus :=
  match d.mode with
  | .boot => some .notReady
  | .recovery => some .error
  | .test => some .disabled
  | .service | .throttled | .preserve | .idle =>
    if d.memReady then some .ready
    else if d.transition.any (·.target == .test) then some .disabled else some .notReady
  | .off | .held | .drowse | .dormant | .halt => none

/-- Whether the sequencer holds SEQ_SYNC low: in the barrier states until it has finished the state (R500). The 10 µs pulse of a
package that starts is no level of its own: its barrier is the next BARRIER_RELEASE (DESIGN CHOICE). -/
def Sequencer.holdsSync (q : Sequencer) : Bool :=
  !q.finished && ((decide (2 ≤ q.state) && decide (q.state ≤ 10)) || (decide (12 ≤ q.state) && decide (q.state ≤ 14)))

/-- The levels the output pins and the readiness indications take from the state (R312, R319, R326, R384, R500, R501). -/
def Dev.levels (d : Dev) : Pins :=
  { memReady := d.memReady
    bootReady := d.bootReady
    alertLow := d.alert ((d.std.alertValid != 0) && d.alertsCrossed.contains true)
    secAlarmLow := d.alarms.asserted
    syncLow := d.seq.holdsSync
    faultLow := d.seq.faultLow
    media := d.mediaStatus
    memoryActive := d.mediaStatus == some .ready
    mailboxReady := d.mediaStatus.isSome }

/-- The output of one pin when its level changes. -/
def pinChange (p : Pin) (old new : Bool) : List Output := if old = new then [] else [.pin p new]

/-- The tick stands still, TICK_STATUS at its reset value (R18). -/
def Clock.stop (c : Clock) : Clock :=
  { c with on := false, tick := 0, round := 0, roundClosed := false, skipN := 0, skipCount := 0 }

/-- The pins take their levels, changes are seen outside, and the tick stands still, TICK_STATUS at its
reset value, outside the modes of R18. -/
def settle (d : Dev) : Dev :=
  let p := d.levels
  { d with
    pins := p
    clock := if d.mode.ticks then d.clock
      else d.clock.stop
    out := d.out ++ pinChange .memReady d.pins.memReady p.memReady
      ++ pinChange .bootReady d.pins.bootReady p.bootReady
      ++ pinChange .alertN (!d.pins.alertLow) (!p.alertLow)
      ++ pinChange .secAlarmN (!d.pins.secAlarmLow) (!p.secAlarmLow)
      ++ pinChange .seqSync (!d.pins.syncLow) (!p.syncLow)
      ++ pinChange .seqFaultN (!d.pins.faultLow) (!p.faultLow) }

/-- A command's effect on the package; the queue is as it was. -/
def run (s : State) (f : Dev → Dev) : Host.Outcome State Fault Refusal := .next { s with dev := settle (f s.dev) }

/-- A command at a host port. -/
def runPort (p : Nat) (s : State) (f : Dev → Dev) : Host.Outcome State Fault Refusal :=
  guardIf (decide (p < s.dev.sliceCount)) .noSuchPort (run s f)

/-- A command at a slice. -/
def runSlice (i : Nat) (s : State) (f : Dev → Dev) : Host.Outcome State Fault Refusal :=
  guardIf (decide (i < s.dev.sliceCount)) .noSuchSlice (run s f)

/-- A command at a mailbox channel. -/
def runChan (c : Nat) (s : State) (f : Dev → Dev) : Host.Outcome State Fault Refusal :=
  guardIf (decide (c < 16)) .noSuchChannel (run s f)

/-- A command at a work ring. A ring at or above the part's ring count is reserved space, where nothing runs (R390, R392). -/
def runRing (r : Nat) (s : State) (f : Dev → Dev) : Host.Outcome State Fault Refusal :=
  run s fun d => if r < d.ringCount then f d else d

end Sys2Proof.Machine
end

