-- ==== Sys2Proof/Machine/Aes.lean ====
section
/-!
DEFINITION. The published algorithms that the manual names for keys and encryption: AES-256, XTS, AES key wrap, CMAC,
HMAC-SHA-384, the counter-mode KDF of SP 800-108, ECDH P-384 and the one-step KDF of SP 800-56C; and the keys that
the device derives with them (R356, R357, R359, R363, R367, R472).
-/
namespace Sys2Proof.Machine

open Sys2Proof

/-! ### AES-256 (FIPS 197) -/

/-- Values 0–63 of the S-box of AES (FIPS 197). -/
def sbox0 : List Byte :=
  [0x63, 0x7C, 0x77, 0x7B, 0xF2, 0x6B, 0x6F, 0xC5, 0x30, 0x01, 0x67, 0x2B, 0xFE, 0xD7, 0xAB, 0x76,
   0xCA, 0x82, 0xC9, 0x7D, 0xFA, 0x59, 0x47, 0xF0, 0xAD, 0xD4, 0xA2, 0xAF, 0x9C, 0xA4, 0x72, 0xC0,
   0xB7, 0xFD, 0x93, 0x26, 0x36, 0x3F, 0xF7, 0xCC, 0x34, 0xA5, 0xE5, 0xF1, 0x71, 0xD8, 0x31, 0x15,
   0x04, 0xC7, 0x23, 0xC3, 0x18, 0x96, 0x05, 0x9A, 0x07, 0x12, 0x80, 0xE2, 0xEB, 0x27, 0xB2, 0x75]

/-- Values 64–127 of the S-box of AES (FIPS 197). -/
def sbox1 : List Byte :=
  [0x09, 0x83, 0x2C, 0x1A, 0x1B, 0x6E, 0x5A, 0xA0, 0x52, 0x3B, 0xD6, 0xB3, 0x29, 0xE3, 0x2F, 0x84,
   0x53, 0xD1, 0x00, 0xED, 0x20, 0xFC, 0xB1, 0x5B, 0x6A, 0xCB, 0xBE, 0x39, 0x4A, 0x4C, 0x58, 0xCF,
   0xD0, 0xEF, 0xAA, 0xFB, 0x43, 0x4D, 0x33, 0x85, 0x45, 0xF9, 0x02, 0x7F, 0x50, 0x3C, 0x9F, 0xA8,
   0x51, 0xA3, 0x40, 0x8F, 0x92, 0x9D, 0x38, 0xF5, 0xBC, 0xB6, 0xDA, 0x21, 0x10, 0xFF, 0xF3, 0xD2]

/-- Values 128–191 of the S-box of AES (FIPS 197). -/
def sbox2 : List Byte :=
  [0xCD, 0x0C, 0x13, 0xEC, 0x5F, 0x97, 0x44, 0x17, 0xC4, 0xA7, 0x7E, 0x3D, 0x64, 0x5D, 0x19, 0x73,
   0x60, 0x81, 0x4F, 0xDC, 0x22, 0x2A, 0x90, 0x88, 0x46, 0xEE, 0xB8, 0x14, 0xDE, 0x5E, 0x0B, 0xDB,
   0xE0, 0x32, 0x3A, 0x0A, 0x49, 0x06, 0x24, 0x5C, 0xC2, 0xD3, 0xAC, 0x62, 0x91, 0x95, 0xE4, 0x79,
   0xE7, 0xC8, 0x37, 0x6D, 0x8D, 0xD5, 0x4E, 0xA9, 0x6C, 0x56, 0xF4, 0xEA, 0x65, 0x7A, 0xAE, 0x08]

/-- Values 192–255 of the S-box of AES (FIPS 197). -/
def sbox3 : List Byte :=
  [0xBA, 0x78, 0x25, 0x2E, 0x1C, 0xA6, 0xB4, 0xC6, 0xE8, 0xDD, 0x74, 0x1F, 0x4B, 0xBD, 0x8B, 0x8A,
   0x70, 0x3E, 0xB5, 0x66, 0x48, 0x03, 0xF6, 0x0E, 0x61, 0x35, 0x57, 0xB9, 0x86, 0xC1, 0x1D, 0x9E,
   0xE1, 0xF8, 0x98, 0x11, 0x69, 0xD9, 0x8E, 0x94, 0x9B, 0x1E, 0x87, 0xE9, 0xCE, 0x55, 0x28, 0xDF,
   0x8C, 0xA1, 0x89, 0x0D, 0xBF, 0xE6, 0x42, 0x68, 0x41, 0x99, 0x2D, 0x0F, 0xB0, 0x54, 0xBB, 0x16]

/-- The S-box. -/
def sbox : List Byte := sbox0 ++ sbox1 ++ sbox2 ++ sbox3

/-- A byte through the S-box, and back. -/
def subByte (b : Byte) : Byte := sbox.getD b.toNat 0
def unsubByte (b : Byte) : Byte := BitVec.ofNat 8 (sbox.idxOf b)

/-- Multiplication by x in GF(2^8). -/
def xtime (b : Byte) : Byte := (b <<< 1) ^^^ (if b.msb then 0x1B else 0)

/-- Multiplication by a constant below 16 in GF(2^8). -/
def gmul (k : Nat) (b : Byte) : Byte :=
  let pick (i : Nat) (x : Byte) : Byte := if bitAt k i then x else 0
  pick 0 b ^^^ pick 1 (xtime b) ^^^ pick 2 (xtime (xtime b)) ^^^ pick 3 (xtime (xtime (xtime b)))

/-- Byte-wise exclusive-or. -/
def xorBytes (a b : List Byte) : List Byte := List.zipWith (· ^^^ ·) a b

/-- The next word of the key schedule before the words so far, newest first. -/
def keyStep (w : List (List Byte)) (i : Nat) : List (List Byte) :=
  let t := w.headD []
  let t :=
    if i % 8 = 0 then xorBytes ((t.drop 1 ++ t.take 1).map subByte) [BitVec.ofNat 8 (2 ^ (i / 8 - 1)), 0, 0, 0]
    else if i % 8 = 4 then t.map subByte
    else t
  xorBytes (w.getD 7 []) t :: w

/-- The 15 round keys of a 32-byte key. -/
def roundKeys (key : List Byte) : List (List Byte) :=
  let start := ((List.range 8).map fun i => bytesAt key (4 * i) 4).reverse
  let words := ((rangeFrom 8 52).foldl keyStep start).reverse
  (List.range 15).map fun r => ((List.range 4).map fun c => words.getD (4 * r + c) []).flatten

/-- The bytes of a block with row r of each column taken from column c + k r: ShiftRows for k = 1, its inverse for k = 3. -/
def shiftRows (k : Nat) (s : List Byte) : List Byte :=
  (List.range 16).map fun i => s.getD (4 * ((i / 4 + k * (i % 4)) % 4) + i % 4) 0

/-- Every column times the matrix whose first row is given. -/
def mixColumns (k : List Nat) (s : List Byte) : List Byte :=
  (List.range 16).map fun i =>
    (List.range 4).foldl (fun b j => b ^^^ gmul (k.getD j 0) (s.getD (i / 4 * 4 + (i % 4 + j) % 4) 0)) 0

/-- AES-256 of a 16-byte block. -/
def aesEncrypt (key block : List Byte) : List Byte :=
  let ks := roundKeys key
  let s := (rangeFrom 1 13).foldl (fun s r =>
    xorBytes (mixColumns [2, 3, 1, 1] (shiftRows 1 (s.map subByte))) (ks.getD r [])) (xorBytes block (ks.getD 0 []))
  xorBytes (shiftRows 1 (s.map subByte)) (ks.getD 14 [])

/-- Its inverse. -/
def aesDecrypt (key block : List Byte) : List Byte :=
  let ks := roundKeys key
  let s := (rangeFrom 1 13).foldl (fun s r =>
    mixColumns [14, 11, 13, 9] (xorBytes ((shiftRows 3 s).map unsubByte) (ks.getD (14 - r) []))) (xorBytes block (ks.getD 14 []))
  xorBytes ((shiftRows 3 s).map unsubByte) (ks.getD 0 [])

/-- AES-256 on a key and block whose byte 0 is lowest. -/
def aesEnc (key : BitVec 256) (b : BitVec 128) : BitVec 128 :=
  BitVec.ofNat 128 (leAt (aesEncrypt (leBytes 32 key.toNat) (leBytes 16 b.toNat)) 0 16)
def aesDec (key : BitVec 256) (b : BitVec 128) : BitVec 128 :=
  BitVec.ofNat 128 (leAt (aesDecrypt (leBytes 32 key.toNat) (leBytes 16 b.toNat)) 0 16)

/-! ### XTS (IEEE 1619) -/

/-- Multiplication of an XTS tweak by the primitive element. -/
def tweakStep (t : BitVec 128) : BitVec 128 := (t <<< 1) ^^^ (if t.msb then 0x87 else 0)

/-- The tweak of cipher block `j` of a data unit. -/
def tweakOf (k : XtsKey) (unit j : Nat) : BitVec 128 :=
  Nat.repeat tweakStep j (aesEnc k.tweak (BitVec.ofNat 128 unit))

/-- `n` cipher blocks of a data unit from block `first` on, the first lowest: encrypted, or decrypted (R359, R367, R472). -/
def xtsEnc (k : XtsKey) (unit first : Nat) {w : Nat} (x : BitVec w) : BitVec w :=
  (List.range (w / 128)).foldl (fun (y : BitVec w) j =>
    let t := tweakOf k unit (first + j)
    y ||| (aesEnc k.data (x.extractLsb' (128 * j) 128 ^^^ t) ^^^ t).setWidth w <<< (128 * j)) 0
def xtsDec (k : XtsKey) (unit first : Nat) {w : Nat} (x : BitVec w) : BitVec w :=
  (List.range (w / 128)).foldl (fun (y : BitVec w) j =>
    let t := tweakOf k unit (first + j)
    y ||| (aesDec k.data (x.extractLsb' (128 * j) 128 ^^^ t) ^^^ t).setWidth w <<< (128 * j)) 0

/-! ### AES key wrap (SP 800-38F, KW) -/

/-- One step of the wrap of four 64-bit semiblocks: the integrity register, the semiblocks, the step number from 1. -/
def wrapStep (key : BitVec 256) (s : List (List Byte)) (t : Nat) : List (List Byte) :=
  let i := (t - 1) % 4 + 1
  let b := aesEncrypt (leBytes 32 key.toNat) (s.getD 0 [] ++ s.getD i [])
  upd (upd s 0 fun _ => xorBytes (b.take 8) (beBytes 8 t)) i fun _ => b.drop 8

/-- A 256-bit key wrapped: 40 bytes. -/
def keyWrap (key : BitVec 256) (plain : List Byte) : List Byte :=
  ((rangeFrom 1 24).foldl (wrapStep key)
    (List.replicate 8 0xA6 :: (List.range 4).map fun i => bytesAt plain (8 * i) 8)).flatten

/-- One step of the unwrap. -/
def unwrapStep (key : BitVec 256) (s : List (List Byte)) (t : Nat) : List (List Byte) :=
  let i := (t - 1) % 4 + 1
  let b := aesDecrypt (leBytes 32 key.toNat) (xorBytes (s.getD 0 []) (beBytes 8 t) ++ s.getD i [])
  upd (upd s 0 fun _ => b.take 8) i fun _ => b.drop 8

/-- The 32 bytes of a wrapped key; `none` when the integrity value fails. -/
def keyUnwrap (key : BitVec 256) (wrapped : List Byte) : Option (List Byte) :=
  let s := ((rangeFrom 1 24).reverse).foldl (unwrapStep key) ((List.range 5).map fun i => bytesAt wrapped (8 * i) 8)
  if s.getD 0 [] == List.replicate 8 0xA6 then some (s.drop 1).flatten else none

/-! ### CMAC (SP 800-38B) -/

/-- Doubling of a CMAC subkey, byte 0 the most significant. -/
def cmacDouble (l : List Byte) : List Byte :=
  let v := beAt l 0 16
  xorBytes (beBytes 16 (2 * v % 2 ^ 128)) (beBytes 16 (if 2 ^ 127 ≤ v then 0x87 else 0))

/-- AES-256-CMAC of a nonempty byte string. -/
def cmac (key : BitVec 256) (m : List Byte) : List Byte :=
  let k := leBytes 32 key.toNat
  let k1 := cmacDouble (aesEncrypt k (List.replicate 16 0))
  let n := ceilDiv m.length 16
  let rest := m.drop (16 * (n - 1))
  let last := if rest.length = 16 then xorBytes rest k1 else xorBytes (padTo 16 (rest ++ [0x80])) (cmacDouble k1)
  let x := (List.range (n - 1)).foldl (fun x i => aesEncrypt k (xorBytes x (bytesAt m (16 * i) 16))) (List.replicate 16 0)
  aesEncrypt k (xorBytes x last)

/-! ### Key derivation (R357, R363, R472) -/

/-- HMAC-SHA-384 under a key of at most 128 bytes. -/
def hmac384 (key m : List Byte) : List Byte :=
  let k := padTo 128 key
  sha384 (k.map (· ^^^ 0x5C) ++ sha384 (k.map (· ^^^ 0x36) ++ m))

/-- Bytes of a label. -/
def asciiOf (s : String) : List Byte := s.toList.map fun c => BitVec.ofNat 8 c.toNat

/-- `n` bytes, at most 96, of the counter-mode KDF of SP 800-108 with HMAC-SHA-384 (R357). DESIGN CHOICE: the counter and the
output length in bits are 32-bit big-endian values, and a zero byte stands between label and context; the manual names only the
mode. -/
def kdf (key : List Byte) (label : String) (context : List Byte) (n : Nat) : List Byte :=
  (([1, 2].flatMap fun i => hmac384 key (beBytes 4 i ++ asciiOf label ++ [0] ++ context ++ beBytes 4 (8 * n)))).take n

/-- The 256-bit key in 32 bytes of a string, byte 0 lowest. -/
def keyAt (b : List Byte) (off : Nat) : BitVec 256 := BitVec.ofNat 256 (leAt b off 32)

/-- The XTS key pair in 64 derived bytes: the data key first. -/
def xtsKeyOf (b : List Byte) : XtsKey := ⟨keyAt b 0, keyAt b 32⟩

/-- The keys that the device derives from its root (R356, R357): a slice's media key, a slot's frame key, the storage key.
DESIGN CHOICE: labels are the names of R356 as ASCII, a slice number is one byte. -/
def mediaKeyOf (root : BitVec 256) (slice : Nat) : XtsKey :=
  xtsKeyOf (kdf (leBytes 32 root.toNat) "Media key" [BitVec.ofNat 8 slice] 64)
def frameKeyOf (root title : BitVec 256) : XtsKey :=
  xtsKeyOf (kdf (leBytes 32 root.toNat) "Slot frame key" (leBytes 32 title.toNat) 64)
def storageKeyOf (root : BitVec 256) : BitVec 256 := keyAt (kdf (leBytes 32 root.toNat) "Storage key" [] 32) 0

/-- Whether the CRC of a root bank holds (R353). -/
def RootBank.good (b : RootBank) : Bool := crc32c (leBytes 32 b.value.toNat) == b.crc.toNat

/-- The root that keys are derived from (R352–R354): all-zero in ANISE, that of the first good bank in CUMIN and MACE, none in
CLOVE. -/
def Fuses.root (f : Fuses) : Option (BitVec 256) :=
  match f.lifecycle with
  | .anise => some 0
  | .clove => none
  | _ => f.rootBanks.findSome? fun b => (b.filter RootBank.good).map (·.value)

/-- The root as the security core uses it. -/
def Dev.root (d : Dev) : BitVec 256 := d.fuses.root.getD 0

/-- The title key of a slot, unwrapped under the storage key (R361). -/
def Dev.titleKey (d : Dev) (t : Nat) : BitVec 256 :=
  ((keyUnwrap (storageKeyOf d.root) (leBytes 40 (d.titles.getD t {}).key.toNat)).map fun b => keyAt b 0).getD 0

/-- The content key pair of a title (R472): the KDF of R357 with the title key as key and the label "content". -/
def contentKeyOf (title : BitVec 256) : XtsKey := xtsKeyOf (kdf (leBytes 32 title.toNat) "content" [] 64)

/-- The scalar of the device agreement key (R356). DESIGN CHOICE: 48 derived bytes, taken big-endian, modulo n - 1, plus 1. -/
def agreementScalar (root : BitVec 256) : Nat :=
  beAt (kdf (leBytes 32 root.toNat) "Device agreement key" [] 48) 0 48 % (n384 - 1) + 1

/-- The affine point of a multiple; `none` at infinity. -/
def affineMul (k : Nat) (q : Nat × Nat) : Option (Nat × Nat) :=
  let (x, y, z) := jMul k q
  if z = 0 then none
  else
    let zi := invMod p384 z
    some (x * (zi * zi % p384) % p384, y * (zi * (zi * zi % p384) % p384) % p384)

/-- A coordinate of the device agreement public key (R448): false X, true Y. -/
def agreementPublic (root : BitVec 256) (y : Bool) : BitVec 384 :=
  match affineMul (agreementScalar root) g384 with
  | some p => BitVec.ofNat 384 (if y then p.2 else p.1)
  | none => 0

/-- The one-step KDF of SP 800-56C with SHA-384 (R363): 32 bytes of the digest of counter 1 and the shared value. DESIGN CHOICE: the
fixed information is empty. -/
def oneStepKdf (z : List Byte) : List Byte := (sha384 (beBytes 4 1 ++ z)).take 32

/-- The title key in a transported record (R363): ephemeral point, then the wrapped key; `none` when the point is not on the curve
or the integrity value fails. -/
def unwrapTitle (root : BitVec 256) (x y : Nat) (wrapped : List Byte) : Option (BitVec 256) :=
  if !onCurve x y then none
  else match affineMul (agreementScalar root) (x, y) with
    | none => none
    | some p => (keyUnwrap (keyAt (oneStepKdf (beBytes 48 p.1)) 0) wrapped).map fun b => keyAt b 0

end Sys2Proof.Machine
end

