-- ==== Sys2Proof/Machine/Layout.lean ====
section
/-!
DEFINITION. What the medium and the local DRAM hold as bits: map entries, slot descriptors, journal entries, the system
pages and root records, and the 312 bytes of a page with its decoder (R42–R45, R189, R193, R200, R204, R213, R214,
R220–R224).
-/
namespace Sys2Proof.Machine

open Sys2Proof

/-- Fields placed at bit positions: the sum of each value, cut to its width, at its position. -/
def fields (l : List (Nat × Nat × Nat)) : Nat := total (l.map fun f => f.2.2 % 2 ^ f.2.1 * 2 ^ f.1)

/-! ### Map entries and slot descriptors (R189, R193, R200) -/

/-- The 32 bits of a map entry (R189). -/
def MapEntry.bits (e : MapEntry) : Nat :=
  fields [(0, 14, e.pos), (14, 14, e.slot), (28, 1, b2n e.trimmed), (29, 1, b2n e.slc), (30, 1, b2n e.sealed),
    (31, 1, b2n e.poisoned)]

/-- Bits [40:0] of a map cache way that holds an entry (R193). -/
def wayBits (tag : Nat) (e : MapEntry) : Nat := fields [(0, 32, e.bits), (32, 8, tag), (40, 1, 1)]

/-- The even parity of bits [40:0] of a way. -/
def wayParity (tag : Nat) (e : MapEntry) : Bool := popCount (BitVec.ofNat 41 (wayBits tag e)) % 2 == 1

/-- Code of a slot state (R200). -/
def SlotState.code : SlotState → Nat
  | .unformed => 0
  | .free => 1
  | .reserved => 2
  | .opened => 3
  | .closed => 4
  | .verified => 5
  | .clearing => 6
  | .donor => 7

/-- Code of a stream (R200). -/
def Stream.code : Stream → Nat
  | .host => 0
  | .relocation => 1
  | .durable => 2
  | .system => 3

/-- The 512 bits of a slot's descriptor (R200). -/
def Slot.bits (number : Nat) (k : Slot) : Nat :=
  fields ([(0, 14, number), (14, 4, k.state.code), (18, 2, k.stream.code), (20, 1, b2n k.slc), (24, 48, k.epoch),
    (408, 15, k.writePos), (423, 15, k.valid), (438, 48, k.age)]
    ++ ((List.range 16).map fun i => (72 + 5 * i, 5, k.laneReach.getD i 0))
    ++ (List.range 64).map fun i => (152 + 4 * i, 4, k.laneBank.getD i 0))

/-! ### Journal entries and pages (R213, R214) -/

/-- Units of a journal entry. -/
def JEntry.units : JEntry → Nat
  | .descriptor _ _ _ => 5
  | .checkpoint _ _ _ _ _ => 2
  | _ => 1

/-- The bits of a journal entry (R213). -/
def JEntry.bits : JEntry → Nat
  | .map lfn e seq relocation _ => fields [(0, 4, 1), (7, 1, b2n relocation), (8, 27, lfn), (35, 32, e.bits), (67, 48, seq)]
  | .trim first count seq => fields [(0, 4, 2), (8, 27, first), (35, 27, count - 1), (62, 48, seq)]
  | .poison lfn set mask => fields [(0, 4, 3), (8, 27, lfn), (35, 1, b2n set), (64, 64, mask.toNat)]
  | .descriptor slot unformed d => fields [(0, 4, 4), (4, 3, 4), (8, 3, b2n unformed), (128, 512, d.bits slot)]
  | .parity l borrow =>
    fields [(0, 4, 5), (8, 14, l.slot), (22, 2, l.index), (24, 14, l.donor), (38, 4, l.lane), (42, 2, l.group),
      (44, 1, b2n borrow)]
  | .checkpoint segment page unit seq first =>
    fields [(0, 4, 6), (4, 3, 1), (8, 12, segment), (20, 48, page), (68, 4, unit), (72, 48, seq), (120, 48, first)]
  | .sentinel reach setB clock => fields [(0, 4, 7), (8, 5, reach), (13, 1, b2n setB), (14, 48, clock)]
  | .state slot st pos => fields [(0, 4, 8), (8, 14, slot), (22, 4, st.code), (26, 15, pos)]

/-- The bytes of entries in order. -/
def entryBytes (es : List (Nat × JEntry)) : List Byte := es.flatMap fun e => leBytes (16 * e.2.units) e.2.bits

/-- The 256 bytes of a journal page: header, entries, and NOP units of zeros up to its end (R214). DEDUCED: the units used
are those of the entries, without the NOPs that fill the page. -/
def journalBytes (flush : Nat) (es : List (Nat × JEntry)) : List Byte :=
  padTo 256 (leBytes 6 flush ++ [BitVec.ofNat 8 (total (es.map fun e => e.2.units))] ++ List.replicate 9 0 ++ entryBytes es)

/-! ### Other system pages and root records (R221, R222, R224) -/

/-- 252 bytes with the CRC-32C over them. -/
def withCrc252 (b : List Byte) : List Byte := padTo 252 b ++ leBytes 4 (crc32c (padTo 252 b))

/-- The 64 bytes of a slot's descriptor. -/
def Slot.bytes (number : Nat) (k : Slot) : List Byte := leBytes 64 (k.bits number)

/-- The 64 bytes of a re-assertion record (R222). -/
def TrailRec.bytes : TrailRec → List Byte
  | .slot index d => d.bytes index
  | .poison _ entries =>
    padTo 64 (entries.flatMap fun e => leBytes 16 (fields [(0, 27, e.1), (27, 1, 1), (64, 64, e.2.toNat)]))

/-- The 256 data bytes of a system page (R214, R219, R221, R222). -/
def SysBody.bytes : SysBody → List Byte
  | .chain number predecessor own successor =>
    withCrc252 (padTo 64 (leBytes 6 number ++ [0, 0] ++ leBytes 2 (predecessor.getD 0xFFFF))
      ++ own.2.bytes own.1 ++ successor.2.bytes successor.1)
  | .journal flush entries _ => journalBytes flush entries
  | .trailer flush frameSeq clock rotation records =>
    padTo 256 (padTo 64 (leBytes 8 flush ++ leBytes 8 frameSeq ++ leBytes 8 clock ++ leBytes 4 rotation
      ++ [BitVec.ofNat 8 records.length]) ++ records.flatMap TrailRec.bytes)
  | .checkpoint segment page entries =>
    (List.range 64).flatMap fun i => leBytes 4 (sget entries (segment * 32768 + page * 64 + i) {}).bits

/-- The 256 bytes of a root record (R224). -/
def Root.bytes (r : Root) : List Byte :=
  withCrc252 (padTo 64 (leBytes 4 0x544F4F52 ++ [BitVec.ofNat 8 (b2n r.clean), 0, 0, 0] ++ leBytes 8 r.rootSeq
      ++ leBytes 8 r.tailChain ++ leBytes 6 r.replayPage ++ [BitVec.ofNat 8 r.replayUnit, 0] ++ leBytes 6 r.frameSeq)
    ++ match r.tail with
      | some (k, d) => d.bytes k
      | none => [])

/-- The kind and index that the tag of a system page carries (R220). -/
def SysBody.tag : SysBody → Nat
  | .chain _ _ _ _ => 1 * 2 ^ 24
  | .journal _ _ _ => 2 * 2 ^ 24
  | .trailer _ _ _ _ _ => 3 * 2 ^ 24
  | .checkpoint segment page _ => 4 * 2 ^ 24 + segment * 512 + page

/-- A page of the system stream or a root block: its kind, subpage index and sequence over its data bytes, under the slice's media
key. -/
def systemPage (key : XtsKey) (kind sub seq : Nat) (relocated : Bool) (data : List Byte) : Page :=
  { data := sectorsOf 4 data, lfn := kind, sub := sub, relocated := relocated, slc := true, title := none, parity := false,
    seq := seq, key := some key }

/-- A system page as the medium holds it, at its lane (R220). -/
def SysPage.asPage (key : XtsKey) (p : SysPage) : Page := systemPage key p.body.tag (p.pos % 16) p.seq p.copied p.body.bytes

/-! ### The page format (R42–R45, R204) -/

/-- Four sectors as the 256 data bytes of a page, the first byte lowest. -/
def joinSectors (l : List Sector) : BitVec 2048 := l.getD 3 0 ++ l.getD 2 0 ++ l.getD 1 0 ++ l.getD 0 0

/-- The sectors of the 256 data bytes of a page. -/
def splitSectors (w : BitVec 2048) : List Sector := (List.range 4).map fun k => w.extractLsb' (512 * k) 512

/-- The tag area of a page (R43). -/
def Page.tag (p : Page) : BitVec 128 :=
  BitVec.ofNat 48 p.seq ++ (0#8 : BitVec 8) ++ BitVec.ofBool p.parity ++ BitVec.ofNat 5 (p.title.getD 0)
    ++ BitVec.ofBool p.title.isSome ++ BitVec.ofBool p.slc ++ BitVec.ofBool p.relocated ++ BitVec.ofNat 4 p.sub
    ++ BitVec.ofNat 27 p.lfn |>.setWidth 128

/-- The data bytes of a page as they are stored: cipher blocks 16 i to 16 i + 15 of its frame's XTS data unit, with the logical frame
number as tweak (R42, R359, R360); the exclusive-or of a parity page (R204) and the data of a sentinel page (R77) as they are. -/
def Page.stored (p : Page) : BitVec 2048 :=
  match p.key with
  | some k => xtsEnc k p.lfn (16 * p.sub) (joinSectors p.data)
  | none => joinSectors p.data

/-- The data of a page as an engine reads it that decrypts with key `k`: the page's own, or what its ciphertext decrypts to under
another key. -/
def Page.under (p : Page) (k : XtsKey) : List Sector :=
  if p.key = some k || p.key.isNone then p.data else splitSectors (xtsDec k p.lfn (16 * p.sub) p.stored)

/-! ### The medium engine (R28, R356, R360) -/

/-- The key under which a slice's medium engine encrypts and decrypts a page: that of a title slot's frames, or the media key. The
keys are loaded whenever the tick runs; an engine that holds none leaves the key at 0 (R387). -/
def MediumEngine.keyOf (m : MediumEngine) : Option Nat → XtsKey
  | none => m.media.getD ⟨0, 0⟩
  | some t => sget m.frames t ⟨0, 0⟩

/-! ### Lines of local DRAM (R367, R373) -/

/-- The XTS tweak of a DRAM line: slice number, address ÷ 64 and version. -/
def lineTweak (slice a version : Nat) : Nat := fields [(0, 8, slice), (8, 32, a / 64), (40, 24, version)]

/-- The 64 bytes of ciphertext in which a line is stored. -/
def lineCipher (k : DramKey) (slice a version : Nat) (plain : Sector) : Sector :=
  xtsEnc k.xts (lineTweak slice a version) 0 plain

/-- The 40 bits of a line's mac. DESIGN CHOICE: the CMAC runs over the slice number in one byte, A in four and the version in three,
little-endian, and the ciphertext. -/
def lineMac (k : DramKey) (slice a version : Nat) (cipher : Sector) : Nat :=
  leAt (cmac k.mac ([BitVec.ofNat 8 slice] ++ leBytes 4 a ++ leBytes 3 version ++ leBytes 64 cipher.toNat)) 0 5

/-- The tag word of a stored line, and the poisoned-line marker. -/
def lineTag (k : DramKey) (slice a version : Nat) (plain : Sector) : BitVec 64 :=
  BitVec.ofNat 64 (fields [(0, 40, lineMac k slice a version (lineCipher k slice a version plain)), (40, 24, version)])
def markerTag (k : DramKey) (slice a : Nat) : BitVec 64 :=
  BitVec.ofNat 64 (fields [(0, 40, lineMac k slice a 0xFFFFFF 0), (40, 24, 0xFFFFFF)])

/-- The tag check of a line as it is read back: the mac must match under the key for the slice, address and stored version. -/
def tagMatches (k : DramKey) (slice a : Nat) (cipher : Sector) (tag : BitVec 64) : Bool :=
  bits tag.toNat 0 40 == lineMac k slice a (bits tag.toNat 40 24) cipher

/-- The 312 bytes of a programmed page, byte 0 lowest: data, tag, page code and the program mark of zeros (R42–R45). -/
def Page.image (p : Page) : BitVec 2496 := (0#32 : BitVec 32) ++ Config.pageCode (p.tag ++ p.stored) ++ p.tag ++ p.stored

/-- The 312 bytes of a position: a cleared page holds every bit at 1 (R45). -/
def cellImage : Option Cell → BitVec 2496
  | some (.page p) => p.image
  | _ => BitVec.allOnes 2496

/-- The bytes read from a position, some bits of which are read wrong. -/
def sensed (cell : Option Cell) (errors : List Nat) : BitVec 2496 :=
  errors.foldl (fun w i => w ^^^ BitVec.twoPow 2496 i) (cellImage cell)

/-- The class that the decoder gives a page (R45): `m` counts the 1 bits of the mark, `z` the 0 bits of the other 2,464,
and the code corrects up to 24 errors among those (R44). A page whose program was cut or failed is torn (R60, R62). -/
def decodeClass (cell : Option Cell) (errors : List Nat) : PageClass :=
  let errors := dedup errors
  let marks := (errors.filter fun i => decide (2464 ≤ i) && decide (i < 2496)).length
  let n := (errors.filter fun i => decide (i < 2464)).length
  match cell with
  | some .torn => .torn
  | none =>
    if 24 + marks ≤ 32 then (if n ≤ 24 then .cleared else .torn)
    else if 9 + marks ≤ 32 then .torn else .uncorrectable
  | some (.page _) =>
    if marks ≤ 8 then (if n = 0 then .clean else if n ≤ 24 then .corrected n else .uncorrectable)
    else if marks ≤ 23 then .torn
    else if 2464 ≤ popCount ((sensed cell errors).setWidth 2464) + 24 then .cleared else .torn

/-- The parity page of a position from the pages of its 16 subpages: the exclusive-or of their data as stored, under the
frame's number and sequence (R204). -/
def parityOf (first : Page) (pages : List Page) : Page :=
  { first with
    data := splitSectors (pages.foldl (fun w p => w ^^^ p.stored) 0)
    sub := 0
    parity := true
    key := none }

/-- The page of subpage `lane` rebuilt from the parity page and the 15 other subpages: their exclusive-or as stored,
decrypted under the tag of the frame's other pages (R76). -/
def rebuiltPage (lane : Nat) (pages : List Page) : Option Page :=
  (pages.find? fun p => !p.parity).map fun like =>
    let sum := pages.foldl (fun w p => w ^^^ p.stored) 0
    { like with
      data := splitSectors (match like.key with
        | some k => xtsDec k like.lfn (16 * lane) sum
        | none => sum)
      sub := lane }

end Sys2Proof.Machine
end

