-- ==== Sys2Proof/Machine/Map.lean ====
section
/-!
DEFINITION. Translation of one slice: local DRAM lines and their versions, the map and its cache, the poison
list, the journal buffer, superblock slots and the pages on the medium.
-/
namespace Sys2Proof.Machine

open Sys2Proof

/-! ### Tree pseudo-LRU -/

/-- The tree bits after a use of way `w`: every node on its path points to the other half. -/
def plruTouch {n : Nat} (m : BitVec n) (w : Nat) : Nat → Nat → BitVec n
  | 0, _ => m
  | levels + 1, node =>
    let right := bitAt w levels
    plruTouch (putBit m (node - 1) (!right)) w levels (2 * node + b2n right)

/-- The way the tree points to among the eligible ways: at each node the half pointed to, or the other half
when no way of it is eligible. -/
def plruVictim {n : Nat} (m : BitVec n) (ok : Nat → Bool) : Nat → Nat → Nat → Option Nat
  | 0, _, base => if ok base then some base else none
  | levels + 1, node, base =>
    let half := 2 ^ levels
    let right := has m (node - 1)
    let go (r : Bool) := plruVictim m ok levels (2 * node + b2n r) (base + b2n r * half)
    match go right with
    | some w => some w
    | none => go (!right)

/-! ### Local DRAM (R332, R333, R367–R370) -/

/-- The tag base: the end of the protected space (R333, R335). -/
def tagBase (dram4 : Bool) (healthy : BitVec 8) : Nat :=
  if dram4 then (if healthy = 0xFF then 0xE0000000 else 0xC4000000) else 0x70000000

/-- The DRAM line of a map entry (R189, R333). -/
def mapAddress (lfn : Nat) : Nat := 64 * (4 * lfn / 64)

/-- The DRAM line of sector `k` of basin frame slot `i` (R277, R333): the index, the overflow area and the fold
buffers come first. -/
def basinAddress (i k : Nat) : Nat := 0x20000000 + (16 + 17 + 4) * 2 ^ 20 + 4096 * i + 64 * k

/-- Whether a line is under the new key of a running sweep (R370). -/
def Sweep.underNew (w : Sweep) (a : Nat) : Bool := decide (a < w.pointer) || w.hop.contains a

/-- The version of a line. -/
def Dram.version (m : Dram) (a : Nat) : Nat := sget m.versions (a / 64) 0

/-- A line written in full at a version; a version of 0 is not listed. A marker on it is replaced (R373). -/
def Dram.setVersion (m : Dram) (a v : Nat) : Dram :=
  { m with
    versions := if v = 0 then sdel m.versions (a / 64) else sset m.versions (a / 64) v
    marked := m.marked.filter (· != a) }

/-- Base of the journal buffer (R333). -/
def journalBase (dram4 : Bool) : Nat := if dram4 then 0x60000000 else 0x50000000

/-- Base of the parity staging, of the region of firmware data and of the control processor's working memory, which follow it. -/
def stagingBase (dram4 : Bool) : Nat := journalBase dram4 + 2 ^ 24
def firmwareBase (dram4 : Bool) : Nat := journalBase dram4 + 3 * 2 ^ 24
def workingBase (dram4 : Bool) : Nat := journalBase dram4 + 7 * 2 ^ 24

/-- The DRAM port (R336) that writes a line of a region: the map engine, the basin, the journal, parity staging or the firmware. -/
def Dram.portOf (m : Dram) (a : Nat) : Nat :=
  if a < 0x20000000 then 0
  else if a < journalBase m.size4 then 1
  else if a < stagingBase m.size4 then 3
  else if a < firmwareBase m.size4 then 6
  else 5

/-- The sources on which the dependent accesses of a port fence (R338): a fold snapshot read on the basin writes, a checkpoint
capture on the map engine, firmware reads of descriptors and the poison list on the map engine and the journal. -/
def fencesOf (port : Nat) : List Nat := if port = 2 then [1] else if port = 3 then [0] else if port = 5 then [0, 3] else []

/-- While the fill of the protected space runs, an access to an unfilled block moves that block to its front and waits for it
(R368). -/
def Dram.fillAhead (m : Dram) (a : Nat) : Dram :=
  if m.filled || m.fillMap.contains (a / 2 ^ 21) then m else { m with fillMap := m.fillMap ++ [a / 2 ^ 21] }

/-- An access enters the DRAM controller (R337). -/
def Dram.access (m : Dram) (port a : Nat) : Dram :=
  { m.fillAhead a with
    requests := m.requests ++ [⟨port, a, 0, false, fencesOf port, false⟩]
    traffic := m.traffic + 1 }

/-- A slice's access to its DRAM through a port. -/
def Slice.access (s : Slice) (port a : Nat) : Slice := { s with dram := s.dram.access port a }

/-- A DRAM key from 768 bits of the DRBG. -/
def dramKeyOf (b : BitVec 768) : DramKey :=
  ⟨⟨b.extractLsb' 0 256, b.extractLsb' 256 256⟩, b.extractLsb' 512 256⟩

/-- A re-key sweep starts (R369): a new DRAM key is drawn, and the old one kept as the previous key. -/
def Dram.startSweep (m : Dram) : Dram :=
  { m with
    sweep := some ⟨0, []⟩
    previous := m.key
    key := some (dramKeyOf (Config.dramKey m.keyBase (m.keyDraws + 1)))
    keyDraws := m.keyDraws + 1 }

/-- The key under which a line stands and is checked (R370). -/
def Dram.keyAt (m : Dram) (a : Nat) : Option DramKey :=
  match m.sweep with
  | some w => if w.underNew a then m.key else m.previous
  | none => m.key

/-- Whether a write of a line must wait, for the sweep's pointer or its end (R370). -/
def Dram.mustWait (m : Dram) (a : Nat) : Bool :=
  match m.sweep with
  | some w => !m.marked.contains a && decide (0xFFFFFF ≤ m.version a + 1) && (w.underNew a || decide (64 ≤ w.hop.length))
  | none => false

/-- A full-line write of a DRAM line (R368–R370): the next version; a version of 0xF0_0000 or more starts a
sweep; a write that would store 0xFF_FFFF hops to the new key, or waits for the sweep. -/
def Dram.storeLine (m : Dram) (a : Nat) : Dram :=
  if m.marked.contains a then m.setVersion a 0
  else
    let v := m.version a + 1
    match m.sweep with
    | none =>
      let m := m.setVersion a v
      if 0xF00000 ≤ v then m.startSweep else m
    | some w =>
      if v < 0xFFFFFF then m.setVersion a v
      else if w.underNew a then { m with waitingWrites := m.waitingWrites ++ [a] }
      else if w.hop.length < 64 then
        { m.setVersion a 0 with sweep := some { w with hop := w.hop ++ [a] } }
      else { m with waitingWrites := m.waitingWrites ++ [a] }

/-- Entries of the hop table. -/
def Dram.hops (m : Dram) : Nat := (m.sweep.map (·.hop.length)).getD 0

/-- A slice whose DRAM line takes a new version without an access of its own; a hop table entry made for it is counted. -/
def Slice.restoreLine (s : Slice) (a : Nat) : Slice :=
  let m := (s.dram.fillAhead a).storeLine a
  { s with
    dram := m
    counters := if s.dram.hops < m.hops then upd s.counters 94 (· + word 1) else s.counters }

/-- A slice that writes a DRAM line through the port of its region. -/
def Slice.storeLine (s : Slice) (a : Nat) : Slice := (s.restoreLine a).access (s.dram.portOf a) a

/-! ### Journal buffer (R213, R214) -/

/-- Units in the journal buffer. -/
def Journal.units (j : Journal) : Nat := total (j.buffer.map fun e => e.2.units)

/-- Whether the 16 MiB buffer cannot take an entry of five units (R213, R217). -/
def Journal.full (j : Journal) : Bool := decide (2 ^ 20 < j.units + 5)

/-- The DRAM line of unit `n` of the journal buffer, four units to a line (R213, R333). -/
def Slice.journalLine (s : Slice) (n : Nat) : Nat := journalBase s.dram.size4 + n % 2 ^ 20 / 4 * 64

/-- The lines that an appended entry of `n` units writes: one access for every four entries appended, so one for each line begun
(R340). -/
def Slice.storeUnits (s : Slice) (n : Nat) : Slice :=
  (rangeFrom s.journal.tail n).foldl (fun s u =>
    if u % 4 = 0 then s.storeLine (s.journalLine u)
    else if u = s.journal.tail then s.restoreLine (s.journalLine u)
    else s) s

/-- Appends an entry to the journal buffer. -/
def Slice.log (s : Slice) (e : JEntry) : Slice :=
  { s.storeUnits e.units with journal := { s.journal with
    buffer := s.journal.buffer ++ [(s.journal.next, e)]
    tail := s.journal.tail + e.units
    next := s.journal.next + 1 } }

/-! ### The map and its cache (R189–R196) -/

/-- The map entry of a frame. -/
def Slice.entry (s : Slice) (lfn : Nat) : MapEntry := sget s.map lfn {}

/-- Set of a frame in the map cache, and its tag (R193). -/
def mapSet (lfn : Nat) : Nat := lfn % 2 ^ 19

/-- Tag of a frame in the map cache. -/
def mapTag (lfn : Nat) : Nat := lfn / 2 ^ 19

/-- Whether the map line of a frame is lost to the map engine: its tag failed, or it carries the poisoned-line marker (R196, R373). -/
def Slice.mapLost (s : Slice) (lfn : Nat) : Bool :=
  s.dram.lostMap.contains (mapAddress lfn) || s.dram.marked.contains (mapAddress lfn)

/-- The firmware restores the lost map lines: a marked one is written whole (R196, R373). -/
def Slice.restoreMap (s : Slice) : Slice :=
  let s := (s.dram.marked.filter fun a => decide (a < 0x20000000)).foldl Slice.storeLine s
  { s with dram := { s.dram with lostMap := [] } }

/-- The write of an entry in its map line: a partial write, two line operations (R340), which a marked line refuses (R373). -/
def Slice.storeMapLine (s : Slice) (lfn : Nat) : Slice :=
  if s.dram.marked.contains (mapAddress lfn) then s else (s.access 0 (mapAddress lfn)).storeLine (mapAddress lfn)

/-- Writes a map entry in one map-engine step: the DRAM map, and the cache way if it is present (R194). The
segment counts as changed since its copy (R225). -/
def Slice.setEntry (s : Slice) (lfn : Nat) (e : MapEntry) : Slice :=
  let seg := lfn / 32768
  { s with
    map := if e = ({} : MapEntry) then sdel s.map lfn else sset s.map lfn e
    mapCache := match sget? s.mapCache (mapSet lfn) with
      | some ws => sset s.mapCache (mapSet lfn)
          (updWhere (fun w => w.tag == mapTag lfn) (fun w => { w with entry := e, parity := wayParity w.tag e }) ws)
      | none => s.mapCache
    checkpoint := { s.checkpoint with
      changed := if s.checkpoint.changed.contains seg then s.checkpoint.changed
        else s.checkpoint.changed ++ [seg] } }.storeMapLine lfn

/-- Whether the parity of a way fails: its parity bit does not fit its contents (R193, R196). -/
def MapWay.bad (w : MapWay) : Bool := w.parity != wayParity w.tag w.entry

/-- A bit of a map cache way flips. -/
def Slice.flipWay (s : Slice) (set way : Nat) : Slice :=
  { s with mapCache := match sget? s.mapCache set with
    | some ws => sset s.mapCache set (updWhere (·.way == way) (fun w => { w with parity := !w.parity }) ws)
    | none => s.mapCache }

/-- A map lookup of a request of class `cls` (R195, R196): a hit uses its way, a way whose parity fails is
reloaded from the DRAM map, a miss of classes 0–6 allocates the least-recent way. -/
def Slice.lookupMap (s : Slice) (lfn cls : Nat) (parityFail : Bool) : Slice :=
  let k := mapSet lfn
  let ws := sget s.mapCache k []
  let m := sget s.mapPlru k 0
  match ws.find? (·.tag == mapTag lfn) with
  | some w =>
    let fresh := updWhere (·.way == w.way)
      (fun w => { w with entry := s.entry lfn, parity := wayParity w.tag (s.entry lfn) }) ws
    let s := if parityFail || w.bad then
        ({ s with mapCache := sset s.mapCache k fresh }.count 82 1).access 0 (mapAddress lfn)
      else s.count 80 1
    { s with mapPlru := sset s.mapPlru k (plruTouch m w.way 3 1) }
  | none =>
    let s := (s.count 81 1).access 0 (mapAddress lfn)
    if cls = 7 then s
    else match plruVictim m (fun _ => true) 3 1 0 with
      | none => s
      | some v =>
        { s with
          mapCache := sset s.mapCache k (ws.filter (·.way != v) ++ [⟨v, mapTag lfn, s.entry lfn, wayParity (mapTag lfn) (s.entry lfn)⟩])
          mapPlru := sset s.mapPlru k (plruTouch m v 3 1) }

/-- The poisoned sectors of a frame (R191, R192). -/
def Slice.poisonMask (s : Slice) (lfn : Nat) : BitVec 64 :=
  if (s.entry lfn).poisoned then
    match s.poison.find? (·.1 == lfn) with
    | some (_, m) => m
    | none => BitVec.allOnes 64
  else 0

/-- Gives a frame its poisoned sectors: 0 clears its poison; a list entry is made where the list has room, and
a frame without one is poisoned in all 64 sectors (R191, R192). -/
def Slice.setPoison (s : Slice) (lfn : Nat) (m : BitVec 64) : Slice :=
  let e := s.entry lfn
  let rest := s.poison.filter (·.1 != lfn)
  let listed := s.poison.any (·.1 == lfn)
  let poison :=
    if m = 0 then rest
    else if listed then updWhere (·.1 == lfn) (fun _ => (lfn, m)) s.poison
    else if s.poison.length < 4096 && !(e.poisoned && m = BitVec.allOnes 64) then s.poison ++ [(lfn, m)]
    else rest
  { s.setEntry lfn { e with poisoned := m != 0 } with poison := poison }

/-- Marks sectors of a frame poisoned, with a POISON journal entry (R191, R213). -/
def Slice.markPoison (s : Slice) (lfn : Nat) (m : BitVec 64) : Slice :=
  if m = 0 then s else (s.setPoison lfn (s.poisonMask lfn ||| m)).log (.poison lfn true m)

/-! ### Slots and pages (R197–R200, R204) -/

/-- One all-bank refresh of every healthy channel, at the entry to self-refresh and at the exit from it; open rows close (R345). -/
def Dram.refreshAll (m : Dram) : Dram :=
  let next (k : Nat) : Option (Nat × Nat) :=
    if has m.healthy (k / 16) then some (k, sget m.refreshes k 0 + 1) else (sget? m.refreshes k).map fun n => (k, n)
  { m with refreshes := (List.range 128).filterMap next, openRows := [] }

/-- Slot `k`; an unlisted slot is FREE. -/
def Slice.slot (s : Slice) (k : Nat) : Slot := sget s.slots k {}

/-- The slice with slot `k` changed. -/
def Slice.onSlot (s : Slice) (k : Nat) (f : Slot → Slot) : Slice :=
  let v := f (s.slot k)
  { s with slots := if v = ({} : Slot) then sdel s.slots k else sset s.slots k v }

/-- Frame positions of a slot. -/
def Slot.capacity (k : Slot) : Nat := if k.slc then 8192 else 16384

/-- Block index of a slot (R197). -/
def slabOf (slot : Nat) : Nat := slot / 18

/-- Reach of a lane. -/
def Slot.reachOf (k : Slot) (lane : Nat) : Nat := k.laneReach.getD lane 0

/-- Bank of a lane in a bank group. -/
def Slot.bankOf (k : Slot) (lane group : Nat) : Nat := k.laneBank.getD (4 * lane + group) 0

/-- The bank numbers of a slot. -/
def Slot.banks (k : Slot) : List Nat :=
  if k.laneReach.isEmpty then []
  else (List.range 64).map fun i => bankNo (k.reachOf (i / 4)) (i % 4) (k.bankOf (i / 4) (i % 4))

/-- Key of a page on the medium: page ⌊pos ÷ 4⌋ of the block that the slot has on the lane in group pos mod 4 (R198). -/
def pageKey (slot pos lane : Nat) : Nat := (slot * 16384 + pos) * 16 + lane

/-- Slot, frame position and lane of a page key. -/
def keySlot (key : Nat) : Nat := key / 262144
def keyPos (key : Nat) : Nat := key / 16 % 16384
def keyLane (key : Nat) : Nat := key % 16

/-! ### The factory format and the reformat (R190, R354) -/

/-- Page positions of a system slot (R220). -/
def systemPositions : Nat := 131072

/-- The map segment of a frame. -/
def segmentOf (lfn : Nat) : Nat := lfn / 32768

/-- Segments of a slice's map. -/
def segments : Nat := 4096

/-- System pages that the format writes behind the chain headers: 512 for each segment, 586 pages of CHECKPOINT entries of
which 7 fit in a page, and the 3,798 trailers of a pass. -/
def formatPages : Nat := 512 * segments + 586 + 3798

/-- The system sequence of the `n`-th page of a format, past the chain headers in position 0 of its slots. -/
def Format.seqOf (f : Format) (n : Nat) : Nat := f.base + n / 131071 * systemPositions + n % 131071 + 1

/-- The slots that a format fills. -/
def formatSlots : Nat := ceilDiv formatPages 131071

/-- The key under which the slice's medium engine writes its own pages: the media key. -/
def Slice.mediaKey (s : Slice) : XtsKey := s.engine.keyOf none

/-- The descriptor with which the `j`-th slot of a format was opened, and the one with which it was reserved before (R221). -/
def Format.descriptor (f : Format) (j : Nat) (st : SlotState) : Nat × Slot :=
  let k := f.order.getD j 0
  (k, { sget f.slots k {} with state := st, writePos := 0, lane := 0, valid := 0, age := 0 })

/-- What a format wrote in page position `p` of its `j`-th slot (R190, R221, R222): a chain header, a page of a trimmed segment, a page of
seven CHECKPOINT entries or a trailer of the re-assertion pass. DESIGN CHOICE: the manual does not give the flush numbers of these
pages nor the numbers in their CHECKPOINT entries; the flush number is 0, every capture stands at the format's first page with
capture sequence 0. -/
def Format.body (f : Format) (j p : Nat) : SysBody :=
  if p = 0 then
    .chain (f.chainBase + j) (if j = 0 then none else f.order[j - 1]?) (f.descriptor j .opened) (f.descriptor (j + 1) .reserved)
  else
    let n := 131071 * j + p - 1
    if n < 512 * segments then .checkpoint (n / 512) (n % 512) []
    else if n < 512 * segments + 586 then
      let m := n - 512 * segments
      .journal 0 ((rangeFrom (7 * m) (min 7 (segments - 7 * m))).map fun g =>
        (0, .checkpoint g f.base 0 0 (f.seqOf (512 * g)))) 0
    else
      let x := 3 * (n - 512 * segments - 586)
      .trailer 0 f.frameSeq f.clockE x ((rangeFrom x (min 3 (11392 - x))).map fun i =>
        if i < 10368 then .slot i (sget f.slots i {}) else .poison (i - 10368) [])

/-- A page of a format as verify has it written again (R250). -/
def SysStream.formatPage (y : SysStream) (slot p : Nat) : Option SysPage :=
  y.format.bind fun f => (f.live.find? (·.1 == slot)).map fun e =>
    { seq := f.base + systemPositions * e.2 + p, body := f.body e.2 p, slot := none, pos := p, filled := false, passed := false,
      torn := true, copied := true }

/-- The page of a format, under the media key, at a lane of a frame position of its `j`-th slot; of the one that follows its last,
the chain header only. -/
def Format.page (f : Format) (key : XtsKey) (j pos lane : Nat) : Option Page :=
  let p := 16 * pos + lane
  let body := f.body j p
  if (p = 0 || 131071 * j + p ≤ formatPages) && p < systemPositions then
    some (systemPage key body.tag lane (f.base + systemPositions * j + p) false body.bytes)
  else none

/-- The page of a format at a position of a slot. -/
def SysStream.formatCell (y : SysStream) (key : XtsKey) (slot pos lane : Nat) : Option Cell :=
  y.format.bind fun f =>
    (f.live.find? (·.1 == slot)).bind fun e => (f.page key e.2 pos lane).map .page

/-- The number that stands for a block outside the superblock space (R77, R224) where pages are named by slot: block `b` of
reach `r`, 0 root A, 1 root B, 2 sentinel A, 3 sentinel B. Its pages are positions 0, 1, … of lane 0. -/
def reachBlock (r b : Nat) : Nat := 10368 + 4 * r + b

/-- A root record as a page (kind 6, R220). -/
def rootPage (key : XtsKey) (r : Root) : Page := systemPage key (6 * 2 ^ 24) 0 r.rootSeq false r.bytes

/-- Programmed pages of a block outside the superblock space. -/
def Slice.blockPages (s : Slice) (r b : Nat) : Nat :=
  if b < 2 then (s.sys.rootBlocks.filter fun p => p.block == 2 * r + b).length
  else ((if b = 2 then (s.reaches.getD r {}).sentA else (s.reaches.getD r {}).sentB).pages).length

/-- A sentinel page on the medium (R77): the pattern of its level, with the life clock and the equivalent age in the first 12 bytes, in
clear (DESIGN CHOICE: the manual does not say where in the data they stand). -/
def SentinelPage.asPage (p : SentinelPage) : Page :=
  { data := splitSectors (setBits (Config.sentinelPattern p.slc p.level).toNat 0 96 (p.clock % 2 ^ 48 + p.age % 2 ^ 48 * 2 ^ 48)),
    lfn := 0, sub := 0, relocated := false, slc := p.slc, title := none, parity := false, seq := 0, key := none }

/-- Page `pos` of a block outside the superblock space: a root record (kind 6, R220) or a sentinel page. -/
def Slice.blockCell (s : Slice) (r b pos : Nat) : Option Cell :=
  if b < 2 then
    (s.sys.rootBlocks.find? fun p => p.block == 2 * r + b && p.page == pos).map fun p =>
      match p.record with
      | some x => .page (rootPage s.mediaKey x)
      | none => .torn
  else
    (((if b = 2 then (s.reaches.getD r {}).sentA else (s.reaches.getD r {}).sentB).pages)[pos]?).map fun p =>
      match p with
      | some x => .page x.asPage
      | none => .torn

/-- What a page position holds; `none` is cleared. -/
def Slice.cell (s : Slice) (slot pos lane : Nat) : Option Cell :=
  if slot < 10368 then
    (sget? s.medium (pageKey slot pos lane)).orElse fun _ => s.sys.formatCell s.mediaKey slot pos lane
  else s.blockCell ((slot - 10368) / 4) ((slot - 10368) % 4) pos

/-- Reach, bank group and bank of a lane of a slot at a position. A root or sentinel block `b` is taken to lie in bank 0 of
bank group `b` of its reach (DESIGN CHOICE: the manual does not say where in the reach it lies). -/
def Slice.placeAt (s : Slice) (slot pos lane : Nat) : Nat × Nat × Nat :=
  if slot < 10368 then
    let k := sget s.slots slot {}
    (k.laneReach.getD lane 0, pos % 4, k.laneBank.getD (4 * lane + pos % 4) 0)
  else ((slot - 10368) / 4, (slot - 10368) % 4, 0)

/-- Stores what a page position holds. -/
def Slice.setCell (s : Slice) (slot pos lane : Nat) (c : Cell) : Slice :=
  { s with medium := sset s.medium (pageKey slot pos lane) c }

/-- The page at a position, when it decodes. -/
def Slice.page (s : Slice) (slot pos lane : Nat) : Option Page :=
  match s.cell slot pos lane with
  | some (.page p) => some p
  | _ => none

/-- Clears every page of the block that a slot has on a lane in a bank group; a slot of the format is no longer whole. -/
def Slice.clearPages (s : Slice) (slot lane group : Nat) : Slice :=
  let gone (k p : Nat) := k == slot && p % 16 == lane && p / 16 % 4 == group
  { s with
    medium := s.medium.filter fun e => !(keySlot e.1 == slot && keyLane e.1 == lane && keyPos e.1 % 4 == group)
    sys := { s.sys with
      format := s.sys.format.map fun f => { f with live := f.live.filter (·.1 != slot) }
      pages := s.sys.pages.filter fun p => !p.slot.any fun k => gone k p.pos } }

/-- Where the parity page of a position lies: page ⌊pos ÷ 4⌋ of the donor block that the slot borrowed as its parity
block pos mod 4, as slot, position and lane of the donor (R204). -/
def Slice.parityPlace (s : Slice) (slot pos : Nat) : Option (Nat × Nat × Nat) :=
  (s.flow.lent.find? fun l => l.slot == slot && l.index == pos % 4).map fun l => (l.donor, pos / 4 * 4 + l.group, l.lane)

/-- The parity page of a position, when it is on the medium and decodes. -/
def Slice.parityPage (s : Slice) (slot pos : Nat) : Option Page :=
  (s.parityPlace slot pos).bind fun w => s.page w.1 w.2.1 w.2.2

/-- A frame of zero sectors. -/
def zeroFrame : List Sector := List.replicate 64 0

/-- The sectors of subpage `i` of a frame. -/
def subSectors (l : List Sector) (i : Nat) : List Sector := (l.drop (4 * i)).take 4

/-- A frame with the sectors of a mask taken from `new`. -/
def mergeSectors (old new : List Sector) (m : BitVec 64) : List Sector :=
  (List.range 64).map fun k => if has m k then new.getD k 0 else old.getD k 0

/-- A frame with one sector replaced. -/
def putSector (l : List Sector) (k : Nat) (v : Sector) : List Sector := upd l k fun _ => v

/-- An equivalent age as its 48-bit count holds it (R69); it stays at the largest count (DESIGN CHOICE: the manual does not
say what follows it). -/
def capAge (ms : Nat) : Nat := min ms (2 ^ 48 - 1)

/-- Adds to the valid count of a slot. -/
def Slice.addValid (s : Slice) (slot : Nat) (n : Nat) : Slice := s.onSlot slot fun k => { k with valid := k.valid + n }

/-- Takes one from the valid count of the slot an entry names (R208). -/
def Slice.dropValid (s : Slice) (e : MapEntry) : Slice :=
  if e.trimmed then s else s.onSlot e.slot fun k => { k with valid := k.valid - 1 }

/-- Whether a rewrite has started its fills (R210); it stays so when a program of it fails. -/
def Rewrite.started (r : Rewrite) : Bool := r.home.isSome

/-- A fresh identifier of a rewrite, flight or wait in the slice. -/
def Slice.newId (s : Slice) : Nat × Slice :=
  (s.flow.nextId, { s with flow := { s.flow with nextId := s.flow.nextId + 1 } })

end Sys2Proof.Machine
end

