-- ==== Sys2Proof/Machine/Cache.lean ====
section
/-!
DEFINITION. The line cache, the victim buffer, the basin, the start of folds, and admission of page reads
(R270–R289, R98). The meanings of the commands over them stand at the end.
-/
namespace Sys2Proof.Machine

open Sys2Proof

/-! ### Page reads (R98, R100) -/

/-- Where subpage `sub` of a mapped frame is read. -/
def Slice.readAt (s : Slice) (lfn sub : Nat) : Nat × Nat × Nat × Nat × Nat :=
  let e := s.entry lfn
  let k := s.slot e.slot
  (e.slot, e.pos, k.reachOf sub, e.pos % 4, k.bankOf sub (e.pos % 4))

/-- Requests of a reach and class in its admission queue. -/
def Flow.queued (f : Flow) (reach cls : Nat) : Nat :=
  (f.queue.filter fun q => q.reach == reach && q.cls == cls).length

/-- Whether the admission queue of a request's reach and class takes it: it is not full (R98), and the reach is not retired
(R89). -/
def Slice.admits (s : Slice) (q : ReadReq) : Bool :=
  (s.reaches.getD q.reach {}).state != .retired && decide (s.flow.queued q.reach q.cls < 512)

/-- Admits a request: to its queue, or to the ingress hold list while the queue is full (R98). A request for a retired reach waits
there for its answer (R89, R263). -/
def Slice.takeIn (s : Slice) (q : ReadReq) : Slice :=
  let q := { q with order := s.flow.nextOrder }
  if s.admits q then
    { s with flow := { s.flow with queue := s.flow.queue ++ [q], nextOrder := s.flow.nextOrder + 1 } }
  else
    { s with flow := { s.flow with hold := s.flow.hold ++ [q], nextOrder := s.flow.nextOrder + 1 } }.count (24 + q.cls) 1

/-- A read request of subpage `sub` of a frame. -/
def Slice.request (s : Slice) (now lfn sub cls : Nat) (who : Who) (alloc covered : Bool) : ReadReq :=
  let (slot, pos, reach, group, bank) := s.readAt lfn sub
  { cls := cls, arrival := now, reach := reach, group := group, bank := bank, slot := slot, pos := pos,
    lane := sub, lfn := lfn, line := lineOf lfn sub, who := [who], allocate := alloc, covered := covered,
    attempt := 0, tow := none, order := 0 }

/-! ### The basin (R277, R278) -/

/-- Frame slots of the basin (R277). -/
def basinSlots (dram4 : Bool) : Nat := if dram4 then 252672 else 187136

/-- The basin entry of a frame. -/
def Slice.basinOf (s : Slice) (lfn : Nat) : Option BasinEntry := s.basin.entries.find? (·.lfn == lfn)

/-- The lowest basin frame slot not in use. -/
def Basin.freeIndex (b : Basin) (n : Nat) : Option Nat :=
  (List.range n).find? fun i => !b.entries.any (·.index == i)

/-- The DRAM line of the index header of a basin frame slot (R277, R333). -/
def headerAddress (index : Nat) : Nat := 0x20000000 + 64 * index

/-- The sectors of a mask. -/
def sectorsIn (m : BitVec 64) : List Nat := (List.range 64).filter (has m ·)

/-- The DRAM lines that a basin entry's sectors and its index header take (R277). -/
def basinLines (index : Nat) (m : BitVec 64) : List Nat := headerAddress index :: (sectorsIn m).map (basinAddress index)

/-- The DRAM lines of the 272 bytes of overflow record `n`, and those that hold its sector `k` behind the 16 bytes of its header
(R277; DESIGN CHOICE: the manual does not say that the header comes first). -/
def overflowLines (n : Nat) : List Nat :=
  (List.range 5).map fun i => 0x20000000 + 2 ^ 24 + (272 * n / 64 + i) * 64
def overflowSector (n k : Nat) : List Nat :=
  (List.range 2).map fun i => 0x20000000 + 2 ^ 24 + ((272 * n + 16 + 64 * k) / 64 + i) * 64

/-- The DRAM line of sector `k` of fold buffer `n` (R277). -/
def bufferAddress (n k : Nat) : Nat := 0x20000000 + (16 + 17) * 2 ^ 20 + 4096 * n + 64 * k

/-- Writes DRAM lines. -/
def Slice.storeLines (s : Slice) (ls : List Nat) : Slice := ls.foldl Slice.storeLine s

/-- Writes sectors of a fold buffer. Its lines take new versions; R340 lists no access for them, so none enters the controller. -/
def Slice.storeBuffer (s : Slice) (n : Nat) (m : BitVec 64) : Slice :=
  ((sectorsIn m).map (bufferAddress n)).foldl Slice.restoreLine s

/-- Whether a write of some line must wait for the sweep (R370). -/
def Slice.linesWait (s : Slice) (ls : List Nat) : Bool := s.dram.sweep.isSome && ls.any s.dram.mustWait

/-- Whether the index header of a frame's basin entry is lost: its line carries the poisoned-line marker, which refuses the partial
write of an index update (R373). -/
def Slice.headerMarked (s : Slice) (e : BasinEntry) : Bool := s.dram.marked.contains (headerAddress e.index)

/-- Drops sectors of a frame from a line list; a line left without a valid sector goes. -/
def dropSectors (ls : List Line) (lfn : Nat) (m : BitVec 64) : List Line :=
  (ls.map fun l =>
    if l.line / 16 = lfn then
      let sub : BitVec 4 := (m >>> (4 * (l.line % 16))).setWidth 4
      { l with valid := l.valid &&& ~~~ sub, dirty := l.dirty &&& ~~~ sub }
    else l).filter fun l => l.valid != 0 || l.filling

/-- Drops sectors of a frame from the overflow records, which newer data in its basin entry replaces (R278). -/
def Slice.dropOverflow (s : Slice) (lfn : Nat) (m : BitVec 64) : Slice :=
  { s with basin := { s.basin with overflow := (dropSectors s.basin.overflow lfn m).filter fun l => l.dirty != 0 } }

/-- Whether a durable write to a frame joins a rewrite: its durable fold, before its fills have started (R143). -/
def Rewrite.joinable (lfn : Nat) (r : Rewrite) : Bool :=
  r.fold && r.kind == .durable && !r.done && !r.started && r.lfn == lfn

/-- A rewrite that a durable write joins: its sectors go into the snapshot, and it completes with it (R143). -/
def Rewrite.joined (m : BitVec 64) (data : List Sector) (o : Origin) (r : Rewrite) : Rewrite :=
  { r with snap := r.snap ||| m, data := mergeSectors r.data data m, poison := r.poison &&& ~~~ m, acks := r.acks ++ o.acks }

/-- A basin entry with sectors of a write merged in; those that a fold carries which the write joins count as folding. The region
class of host data stays when bulk data lands on it. -/
def BasinEntry.merged (e : BasinEntry) (m : BitVec 64) (data : List Sector) (o : Origin) (joins : Bool) : BasinEntry :=
  { e with
    valid := e.valid ||| m
    dirty := e.dirty ||| m
    folding := if joins then e.folding ||| m else e.folding &&& ~~~ m
    data := mergeSectors e.data data m
    durable := e.durable || o.durable
    bulk := e.bulk && o.bulk
    cls := if o.bulk && !e.bulk then e.cls else o.cls
    title := o.title
    acks := if joins then e.acks else e.acks ++ o.acks }

/-- A basin entry without a sector yet. -/
def BasinEntry.fresh (lfn index round : Nat) (o : Origin) : BasinEntry :=
  { lfn := lfn, index := index, valid := 0, dirty := 0, folding := 0, data := zeroFrame, firstRound := round, cls := o.cls,
    durable := o.durable, bulk := o.bulk, named := false, title := o.title, acks := [] }

/-- Whether the basin has no frame slot for a frame: it holds no entry of it, and every slot is in use (R278). -/
def Slice.basinFull (s : Slice) (dram4 : Bool) (lfn : Nat) : Bool :=
  (s.basinOf lfn).isNone && decide (basinSlots dram4 ≤ s.basin.entries.length)

/-- The basin entry that takes a write to a frame: its own, or a new one in the lowest free slot. -/
def Slice.basinTarget (s : Slice) (dram4 : Bool) (round lfn : Nat) (o : Origin) : Option BasinEntry :=
  match s.basinOf lfn with
  | some e => if s.headerMarked e then none else some e
  | none =>
    if s.basinFull dram4 lfn then none
    else (s.basin.freeIndex (s.basin.entries.length + 1)).map fun i => BasinEntry.fresh lfn i round o

/-- Merges sectors of a frame into its basin entry, or into a new one; `none` when no frame slot is free, when the index header
is marked (R373), and while a line must wait for the sweep (R370). A durable write joins the durable rewrite of its frame that has
not started its fills (R143). -/
def Slice.basinPut (s : Slice) (dram4 : Bool) (round lfn : Nat) (m : BitVec 64) (data : List Sector)
    (o : Origin) : Option Slice :=
  let s := s.dropOverflow lfn m
  match s.basinTarget dram4 round lfn o with
  | none => none
  | some e =>
    if s.linesWait (basinLines e.index m) then none
    else
      let joins := o.durable && s.flow.rewrites.any (Rewrite.joinable lfn)
      let e' := e.merged m data o joins
      let es := if (s.basinOf lfn).isSome then updWhere (·.lfn == lfn) (fun _ => e') s.basin.entries else s.basin.entries ++ [e']
      let rs := if joins then updWhere (Rewrite.joinable lfn) (Rewrite.joined m data o) s.flow.rewrites else s.flow.rewrites
      let joined := if joins then s.flow.rewrites.filter (Rewrite.joinable lfn) else []
      let s := joined.foldl (fun s (r : Rewrite) => s.storeBuffer r.buffer m) s
      some ({ s with basin := { s.basin with entries := es }, flow := { s.flow with rewrites := rs } }.storeLines
        (basinLines e.index m))

/-- Drops sectors of a frame from the basin and the overflow area (R309). -/
def Slice.dropBasin (s : Slice) (lfn : Nat) (m : BitVec 64) : Slice :=
  let s := s.dropOverflow lfn m
  { s with basin := { s.basin with
    entries := (updWhere (·.lfn == lfn)
      (fun e => { e with valid := e.valid &&& ~~~ m, dirty := e.dirty &&& ~~~ m, folding := e.folding &&& ~~~ m })
      s.basin.entries).filter fun e => e.dirty != 0 } }

/-! ### Folds (R280, R281) -/

/-- Whether a fold of a frame is in flight. -/
def Slice.folding (s : Slice) (lfn : Nat) : Bool := s.flow.rewrites.any fun r => r.fold && !r.done && r.lfn == lfn

/-- Subpages that hold a sector outside a mask. -/
def outsideSubs (m : BitVec 64) : List Nat := (List.range 16).filter fun i => m &&& subMask i != subMask i

/-- The fold reads of a snapshot's subpages from the basin: 4 lines each (R340). -/
def Slice.foldReads (s : Slice) (lfn : Nat) (m : BitVec 64) : Slice :=
  let index := ((s.basinOf lfn).map (·.index)).getD 0
  ((List.range 64).filter fun k => m &&& subMask (k / 4) != 0).foldl (fun s k => s.access 2 (basinAddress index k)) s

/-- The lowest fold buffer that no fold holds. -/
def Slice.freeBuffer (s : Slice) : Nat :=
  let used := (s.flow.rewrites.filter fun r => r.fold && !r.done).map (·.buffer)
  ((List.range 1024).find? fun i => !used.contains i).getD 0

/-- Starts a frame rewrite from sectors in hand: it takes a fold buffer, looks the frame up in the map unless it replaces it whole, and
issues fold reads of the subpages outside the mask, unless the frame is trimmed; while its map line is lost those subpages are poison
(R195, R196). In PRESERVE the reads are relocation towpath reads (R267). -/
def Slice.startRewrite (s : Slice) (now lfn : Nat) (kind : FillKind) (cls : Nat) (m : BitVec 64)
    (data : List Sector) (title : Option Nat) (acks : List Ack) (tow : Bool) : Slice :=
  let (id, s) := s.newId
  let lost := s.mapLost lfn
  let outside := outsideSubs m
  let absent := lost || (s.entry lfn).trimmed
  let subs := if absent then [] else outside
  let buffer := s.freeBuffer
  let r : Rewrite :=
    { id := id, lfn := lfn, kind := kind, cls := cls, snap := m, data := mergeSectors zeroFrame data m,
      need := subs, poison := if lost then ~~~ m else 0, title := title, seq := none, key := none, source := none, barge := none, fails := 0, place := none, home := none, lost := none,
      filled := [], passed := [], acks := acks, fold := true, buffer := buffer, done := false }
  let s := { s with flow := { s.flow with rewrites := s.flow.rewrites ++ [r] } }
  let s := (s.foldReads lfn m).storeBuffer buffer m
  let s := (if absent then outside.take 1 else outside).foldl (fun s _ => s.lookupMap lfn cls false) s
  let s := s.count 43 subs.length
  let s := match kind with
    | .host => s.count 40 1
    | .durable => s.count 41 1
    | .bulk => s.count 42 1
    | _ => s
  subs.foldl (fun s i =>
    let q := s.request now lfn i cls (.rewrite id) false false
    if tow then { s with flow := { s.flow with tow := s.flow.tow ++ [{ q with tow := some .reloc }] } }
    else s.takeIn q) s

/-- Whether a fold buffer is free and the frame has no fold in flight. -/
def Slice.mayFold (s : Slice) (lfn : Nat) : Bool := decide (s.foldCount < 1024) && !s.folding lfn

/-- Sectors of a basin entry whose DRAM lines carry the poisoned-line marker: the engine that reads them loses them (R373, R374). -/
def Slice.markedSectors (s : Slice) (e : BasinEntry) : BitVec 64 :=
  if s.dram.marked.isEmpty then 0
  else ((List.range 64).filter fun k => has e.dirty k && s.dram.marked.contains (basinAddress e.index k)).foldl withBit 0

/-- Starts the fold of a basin entry: its dirty sectors are the snapshot, and its index header takes their folding bits (R281 step
1). Sectors whose lines are marked are poisoned, all of them when the header is. -/
def Slice.foldEntry (s : Slice) (now : Nat) (e : BasinEntry) (kind : FillKind) (tow : Bool) : Slice :=
  let bad := if s.headerMarked e then e.dirty else s.markedSectors e
  let s := if bad = 0 then s else (s.dropBasin e.lfn bad).markPoison e.lfn bad
  let e := { e with dirty := e.dirty &&& ~~~ bad }
  if e.dirty = 0 then s
  else
  let s := s.startRewrite now e.lfn kind e.cls e.dirty e.data e.title e.acks tow
  let es := updWhere (·.lfn == e.lfn) (fun b => { b with folding := b.dirty, acks := [] }) s.basin.entries
  { s with basin := { s.basin with entries := es } }.storeLine (headerAddress e.index)

/-! ### Lines (R270–R278) -/

/-- The frame of a line. -/
def Line.frame (l : Line) : Nat := l.line / 16

/-- The dirty sectors of a line as a frame mask. -/
def Line.dirty64 (l : Line) : BitVec 64 := l.dirty.setWidth 64 <<< (4 * (l.line % 16))

/-- The data of a line at its place in the frame. -/
def Line.data64 (l : Line) : List Sector :=
  (List.range 64).map fun k => if k / 4 = l.line % 16 then l.data.getD (k % 4) 0 else 0

/-- The cached line. -/
def Slice.lineOf? (s : Slice) (line : Nat) : Option Line := s.cache.lines.find? (·.line == line)

/-- The line in the victim buffer. -/
def Slice.victimOf (s : Slice) (line : Nat) : Option Line := s.cache.victims.find? (·.line == line)

/-- Changes a cached line. -/
def Slice.onLine (s : Slice) (line : Nat) (f : Line → Line) : Slice :=
  { s with cache := { s.cache with lines := updWhere (·.line == line) f s.cache.lines } }

/-- Changes a line of the victim buffer. -/
def Slice.onVictim (s : Slice) (line : Nat) (f : Line → Line) : Slice :=
  { s with cache := { s.cache with victims := updWhere (·.line == line) f s.cache.victims } }

/-- A use of a way of a set. -/
def Slice.useWay (s : Slice) (set way : Nat) : Slice :=
  { s with cache := { s.cache with plru := sset s.cache.plru set (plruTouch (sget s.cache.plru set 0) way 4 1) } }

/-- The line in a way of a set. -/
def Slice.wayLine (s : Slice) (set way : Nat) : Option Line :=
  s.cache.lines.find? fun l => setOf l.line == set && l.way == way

/-- A line with sector `k` written. -/
def Line.write (l : Line) (k : Nat) (v : Sector) (dirty : Bool) : Line :=
  { l with
    valid := withBit l.valid k
    dirty := putBit l.dirty k dirty
    data := putSector l.data k v }

/-- The lowest record of the overflow area that no line holds. -/
def Basin.freeRecord (b : Basin) : Option Nat := (List.range 65536).find? fun i => !b.overflow.any (·.way == i)

/-- A dirty line goes into a record of the overflow area, and its older sectors there go (R277, R279). -/
def Slice.spill (s : Slice) (l : Line) : Option Slice :=
  let s := s.dropOverflow l.frame l.dirty64
  s.basin.freeRecord.bind fun i =>
    if s.linesWait (overflowLines i) then none
    else
      let rec' : Line := { l with way := i }
      some (({ s with basin := { s.basin with overflow := s.basin.overflow ++ [rec'] } }.storeLines (overflowLines i)).count 44 1)

/-- A line offered to the basin (R278): a clean one is declined and dropped, a dirty one accepted into its frame's entry or a new
one; a drain places it in the overflow area when no frame slot is free (R279). `false` when it is not accepted; where the basin is
full, it is then folded straight from the victim buffer. -/
def Slice.offer (s : Slice) (dram4 : Bool) (round : Nat) (drain : Bool) (l : Line) : Slice × Bool :=
  if l.dirty = 0 then (s.count 38 1, true)
  else match s.basinPut dram4 round l.frame l.dirty64 l.data64 ⟨l.cls, false, false, l.title, []⟩ with
    | some s => (s.count 37 1, true)
    | none =>
      if drain && s.basinFull dram4 l.frame then
        match s.spill l with
        | some s => (s, true)
        | none => (s, false)
      else (s, false)

/-- Offers the lines of the victim buffer, oldest first; those not accepted stay (R278). -/
def Slice.pumpVictims (s : Slice) (dram4 : Bool) (round : Nat) : Slice :=
  s.cache.victims.foldl (fun s l =>
    let (s', ok) := s.offer dram4 round false l
    if ok then { s' with cache := { s'.cache with victims := s'.cache.victims.filter (·.line != l.line) } } else s) s

/-- Writes a sector of a volatile region into the line cache in state ON (R275): a hit, a merge into a victim
entry (R282), or an allocation of the least-recent way, whose dirty line moves to the victim buffer; `none` when
the victim buffer is full and the write waits. -/
def Slice.writeLine (s : Slice) (line k : Nat) (v : Sector) (prot : Bool) (cls : Nat) (title : Option Nat) : Option Slice :=
  match s.lineOf? line with
  | some l => some (((s.onLine line fun l => { l.write k v true with prot := prot, cls := cls, title := title }).useWay
      (setOf line) l.way).count 34 1)
  | none =>
    match s.victimOf line with
    | some _ => some ((s.onVictim line fun l => { l.write k v true with prot := prot, cls := cls, title := title }).count 34 1)
    | none =>
      let set := setOf line
      match plruVictim (sget s.cache.plru set 0) (fun _ => true) 4 1 0 with
      | none => none
      | some w =>
        let empty : Line := ⟨line, w, prot, 0, 0, List.replicate 4 0, false, cls, title⟩
        let new := empty.write k v true
        let place (s : Slice) : Slice :=
          let ls := s.cache.lines.filter fun l => !(setOf l.line == set && l.way == w)
          ({ s with cache := { s.cache with lines := ls ++ [new] } }.useWay set w).count 35 1
        match s.wayLine set w with
        | none => some (place s)
        | some old =>
          if old.dirty = 0 then some (place (s.count 38 1))
          else if s.cache.victims.length < 32 then
            some (place { s with cache := { s.cache with victims := s.cache.victims ++ [old] } })
          else none

/-- Allocates a way for a read miss (R274): the least-recent way that holds no dirty sector and no fill in
flight; the slice as it was when there is none. A line already present waits for the fill as it is. -/
def Slice.allocRead (s : Slice) (line : Nat) (prot : Bool) (cls : Nat) (title : Option Nat) : Slice × Bool :=
  if s.cache.state != .on then (s, false)
  else match s.lineOf? line with
    | some _ => (s.onLine line fun l => { l with filling := true }, true)
    | none =>
      let set := setOf line
      let ok (w : Nat) := match s.wayLine set w with
        | none => true
        | some l => l.dirty == 0 && !l.filling
      match plruVictim (sget s.cache.plru set 0) ok 4 1 0 with
      | none => (s, false)
      | some w =>
        let new : Line := ⟨line, w, prot, 0, 0, List.replicate 4 0, true, cls, title⟩
        let declined := (s.wayLine set w).isSome
        let ls := s.cache.lines.filter fun l => !(setOf l.line == set && l.way == w)
        let s := { s with cache := { s.cache with lines := ls ++ [new] } }.useWay set w
        (if declined then s.count 38 1 else s, true)

/-- The newest copy of a sector in the basin, its overflow area or a fold buffer, with the DRAM lines that hold it (R273 steps 2 and
3, R277, R279). -/
def Slice.newerAt (s : Slice) (lfn k : Nat) : Option (Sector × List Nat) :=
  let gathered := ((s.basinOf lfn).filter fun e => has e.dirty k).map fun e => (e.data.getD k 0, [basinAddress e.index k])
  let spilled := (s.basin.overflow.reverse.find? fun l => l.frame == lfn && has l.dirty64 k).map
    fun l => (l.data.getD (k % 4) 0, overflowSector l.way (k % 4))
  let buffered := (s.flow.rewrites.reverse.find? fun r => r.fold && !r.done && r.lfn == lfn && has r.snap k).map
    fun r => (r.data.getD k 0, [bufferAddress r.buffer k])
  (gathered.orElse fun _ => spilled).orElse fun _ => buffered

/-- The newest copy of a sector short of the medium. -/
def Slice.newer (s : Slice) (lfn k : Nat) : Option Sector := (s.newerAt lfn k).map (·.1)

/-- The newest copy of a sector as an internal engine reads it: `none` where there is none, `some none` where a line that holds it is
marked (R373). -/
def Slice.newerRead (s : Slice) (lfn k : Nat) : Option (Option Sector) :=
  (s.newerAt lfn k).map fun x => if x.2.any s.dram.marked.contains then none else some x.1

/-- Fills the sectors of a line that are not valid from an arriving page (R274): a newer copy in the victim buffer, the basin or a
fold buffer goes before the page; a poisoned sector, or one whose DRAM line is marked, stays not valid. -/
def Slice.fillLine (s : Slice) (line : Nat) (data : List Sector) (bad : BitVec 64) : Slice :=
  let lfn := line / 16
  let evicted (k : Nat) : Option Sector :=
    ((s.victimOf line).filter fun l => has l.valid k).map fun l => l.data.getD k 0
  let value (k : Nat) : Option Sector :=
    (evicted k).orElse fun _ =>
      match s.newerRead lfn (4 * (line % 16) + k) with
      | some v => v
      | none => if has bad (4 * (line % 16) + k) then none else some (data.getD k 0)
  s.onLine line fun l =>
    (List.range 4).foldl (fun l k =>
      if has l.valid k then l
      else match value k with
        | some v => { l with valid := withBit l.valid k, data := putSector l.data k v }
        | none => l) { l with filling := false }

/-- A bulk-engine write or a poisoned write drops its sectors from the line cache and the victim buffer (R282, R309). -/
def Slice.invalidateSectors (s : Slice) (lfn : Nat) (m : BitVec 64) : Slice :=
  { s with cache := { s.cache with
    lines := dropSectors s.cache.lines lfn m
    victims := (dropSectors s.cache.victims lfn m).filter fun l => l.dirty != 0 } }

/-! ### Drains and maintenance (R279, R283–R285) -/

/-- Cleans the cached lines that meet `p` into the basin; with `drain` the overflow area may take them. A line
that is not accepted stays dirty. -/
def Slice.cleanLines (s : Slice) (dram4 : Bool) (round : Nat) (drain : Bool) (p : Line → Bool) : Slice :=
  s.cache.lines.foldl (fun s l =>
    if p l && l.dirty != 0 then
      let (s', ok) := s.offer dram4 round drain l
      if ok then s'.onLine l.line fun l => { l with dirty := 0 } else s
    else s) s

/-- Cleans the lines of the victim buffer that meet `p`. -/
def Slice.cleanVictims (s : Slice) (dram4 : Bool) (round : Nat) (drain : Bool) (p : Line → Bool) : Slice :=
  s.cache.victims.foldl (fun s l =>
    if p l then
      let (s', ok) := s.offer dram4 round drain l
      if ok then { s' with cache := { s'.cache with victims := s'.cache.victims.filter (·.line != l.line) } } else s
    else s) s

/-- A drain of the whole slice: victims first, as their transfers are older, then every line (R279, R282). -/
def Slice.drain (s : Slice) (dram4 : Bool) (round : Nat) (p : Line → Bool) : Slice :=
  (s.cleanVictims dram4 round true p).cleanLines dram4 round true p

/-- Drops the lines that meet `p`, from the cache and the victim buffer. -/
def Slice.dropLines (s : Slice) (p : Line → Bool) : Slice :=
  { s with cache := { s.cache with
    lines := s.cache.lines.filter fun l => !p l
    victims := s.cache.victims.filter fun l => !p l } }

/-- One maintenance operation on the lines that meet `p` (R283): 1 clean, 2 invalidate, 3 clean-and-invalidate.
Clean-and-invalidate drops what has been cleaned. -/
def Slice.maintain (s : Slice) (dram4 : Bool) (round op : Nat) (p : Line → Bool) : Slice :=
  if op = 1 then (s.cleanVictims dram4 round false p).cleanLines dram4 round false p
  else if op = 2 then s.dropLines p
  else if op = 3 then
    ((s.cleanVictims dram4 round false p).cleanLines dram4 round false p).dropLines fun l => p l && l.dirty == 0
  else s

/-- The cached lines of a set-and-way operation that the basin had no room for wait to be offered again, and are dropped once cleaned
where the operation also drops them (R283). -/
def Slice.keepCleaning (s : Slice) (drop : Bool) (p : Line → Bool) : Slice :=
  let left := (s.cache.lines.filter fun l => p l && l.dirty != 0).map fun l => (l.line, drop)
  { s with cache := { s.cache with cleaning := s.cache.cleaning ++ left.filter fun e => !s.cache.cleaning.contains e } }

/-- Offers again the lines that set-and-way operations have still to clean. -/
def Slice.retryCleaning (s : Slice) (dram4 : Bool) (round : Nat) : Slice :=
  let named (drop : Bool) (l : Line) := s.cache.cleaning.contains (l.line, drop)
  let left := s.cache.cleaning
  if left.isEmpty then s
  else
    let s := { s with cache := { s.cache with cleaning := [] } }
    let s := s.cleanLines dram4 round false fun l => named true l || named false l
    ((s.dropLines fun l => named true l && l.dirty == 0).keepCleaning true (named true)).keepCleaning false (named false)

/-- The context of the slice operations: DRAM size, round and tick. -/
def Dev.round (d : Dev) : Nat := d.clock.round.toNat

/-- The scheduled tick of the package since power-on. -/
def Dev.now (d : Dev) : Nat := d.clock.abs

/-- Whether the line of slice `i` lies in a range of `count` lines from DPA[41:8] = `base`. -/
def Dev.inRange (d : Dev) (i base count : Nat) (l : Line) : Bool :=
  let n := (d.dpaOf i l.frame (4 * (l.line % 16))) >>> 8
  decide (base ≤ n) && decide (n < base + count)

/-- A range maintenance operation on every slice (R284). -/
def Dev.maintainRange (d : Dev) (op base count : Nat) : Dev :=
  (List.range d.sliceCount).foldl (fun d i =>
    d.onSlice i fun s => s.maintain d.fuses.dram4 d.round op (d.inRange i base count)) d

/-- Whether a range operation is refused: a non-secure invalidate that overlaps a protected range (R285). -/
def Dev.maintForbidden (d : Dev) (secure : Bool) (op base count : Nat) : Bool :=
  !secure && op == 2 && d.protectedRange (base * 256) (count * 256)

/-- Starts a range operation (R284, R285): refused with denied while one runs, and when a non-secure invalidate
overlaps a protected range. -/
def Dev.startMaint (d : Dev) (secure : Bool) (op base count : Nat) : Dev :=
  if op = 0 then d
  else if d.regs.maintRun.isSome then { d with regs := { d.regs with maintDenied := true } }
  else if d.maintForbidden secure op base count then
    { d with regs := { d.regs with maintDenied := true } }.alarm 3 none 0
  else { d with regs := { d.regs with maintRun := some ⟨op, base, count⟩ } }.maintainRange op base count

/-- A set-and-way operation on slice `i` (R283, R285): a non-secure invalidate that finds a protected line cleans
it first, counts it and raises the alarm of cause 4. -/
def Dev.setway (d : Dev) (secure : Bool) (i set way : Nat) (allWays : Bool) (op : Nat) : Dev :=
  let named (l : Line) := setOf l.line == set && (allWays || l.way == way)
  let s := d.slice i
  let cached (l : Line) := named l && (s.lineOf? l.line).isSome
  if op = 2 && !secure then
    let found := s.cache.lines.filter fun l => named l && l.prot
    let d := d.onSlice i fun s =>
      ((s.maintain d.fuses.dram4 d.round 3 fun l => cached l && l.prot).maintain d.fuses.dram4 d.round 2
        fun l => cached l && !l.prot).keepCleaning true cached
    if found.isEmpty then d else (d.count i 133 found.length).alarm 4 (some i) 0
  else d.onSlice i fun s =>
    let s := s.maintain d.fuses.dram4 d.round op cached
    if op = 1 || op = 3 then s.keepCleaning (op == 3) cached else s

/-! ### Enabling and disabling (R286–R289) -/

/-- Clears every way (R272). -/
def Cache.clear (c : Cache) (st : CacheState) : Cache := { c with state := st, lines := [], plru := [], cleaning := [] }

/-- Sets denied in CACHE_STATUS. -/
def Slice.denyCache (s : Slice) : Slice := { s with cache := { s.cache with denied := true } }

/-- Enable (R289): from OFF the cache is ON at the next tick boundary. -/
def Slice.cacheEnable (s : Slice) : Slice :=
  match s.cache.state with
  | .off => { s with cache := { s.cache with enableAtTick := true } }
  | .on => s
  | .draining | .invalidating => s.denyCache

/-- Drain-disable (R287): DRAINING, and every dirty line cleaned into the basin. -/
def Slice.drainDisable (s : Slice) (dram4 : Bool) (round : Nat) : Slice :=
  match s.cache.state with
  | .on =>
    let s := { s with
      cache := { s.cache with state := .draining, discarding := false, discarded := 0 }
      basin := { s.basin with draining := true } }
    s.drain dram4 round fun _ => true
  | .off => { s with cache := { s.cache with enableAtTick := false } }
  | .draining | .invalidating => s.denyCache

/-- Whether slice `i` qualifies for a discard-disable (R288). -/
def Dev.mayDiscard (d : Dev) (i : Nat) : Bool :=
  d.mode == .test || d.mode == .recovery || (d.slice i).inRecovery

/-- Discard-disable (R288): the dirty sectors are discarded and their frames poisoned for them. -/
def Slice.discardDisable (s : Slice) : Slice :=
  let ls := (s.cache.lines ++ s.cache.victims).filter fun l => l.dirty != 0
  let n := total (ls.map fun l => popCount l.dirty)
  let s := ls.foldl (fun s l => s.markPoison l.frame l.dirty64) s
  { s with cache := { s.cache with
    state := .draining
    discarding := true
    discarded := n
    lines := (s.cache.lines.map fun (l : Line) => { l with valid := l.valid &&& ~~~ l.dirty, dirty := 0 }).filter fun l => l.valid != 0
    victims := [] } }.count 47 n

/-- A cache command for slice `i` (CACHE_CTRL). -/
def Dev.cacheCommand (d : Dev) (secure : Bool) (i cmd : Nat) : Dev :=
  let s := d.slice i
  if cmd = 1 then d.onSlice i Slice.cacheEnable
  else if cmd = 2 then d.onSlice i fun s => s.drainDisable d.fuses.dram4 d.round
  else if cmd = 3 then
    if secure && d.mayDiscard i && s.cache.state == .on then d.onSlice i Slice.discardDisable
    else if secure && d.mayDiscard i && s.cache.state == .off then d
    else d.onSlice i Slice.denyCache
  else d

/-- Answers the commands that wait for slices to reach OFF (R444). -/
def Dev.answerCacheOff (d : Dev) : Dev :=
  d.waiters.foldl (fun d w =>
    match w.what with
    | .cacheOff ss discard =>
      if ss.all fun i => (d.slice i).cache.state == .off then
        let n := if discard then total (ss.map fun i => (d.slice i).cache.discarded) else 0
        { d with waiters := d.waiters.erase w }.respond w.channel w.opcode w.tag 0 0 [word (n % 2 ^ 32)]
      else d
    | _ => d) d

/-- CACHE_DRAIN_DONE (R287, R288): what is still dirty is cleaned, every way is cleared, the state is OFF; a
discard is recorded. While the basin takes a dirty line nowhere the cache stays DRAINING. -/
def execCacheDrainDone (slice : Nat) (s : State) : Host.Outcome State Fault Refusal :=
  runSlice slice s fun d =>
    let c := (d.slice slice).cache
    let cleaned := (d.slice slice).drain d.fuses.dram4 d.round fun _ => true
    if c.state == .draining && cleaned.cache.lines.all (·.dirty == 0) then
      let d := d.onSlice slice fun _ =>
        let s := cleaned
        let c := s.cache.clear .off
        { s with cache := { c with enableAtTick := false, discarding := false } }.count 137 1
      let d := if c.discarding then d.event 0x0301 slice 0 0xFF (p6 c.discarded) else d
      d.answerCacheOff
    else d

/-- Whether a running range operation has a dirty line left to clean (R283). -/
def Dev.maintLeft (d : Dev) (m : MaintOp) : Bool :=
  m.op != 2 && (List.range d.sliceCount).any fun i =>
    let left (l : Line) := l.dirty != 0 && d.inRange i m.first m.count l
    (d.slice i).cache.lines.any left || (d.slice i).cache.victims.any left

/-- MAINT_DONE (R283, R284): the walk ends, after what the basin had not accepted has been offered again. Once no named line is
left to clean, done is set, writes held for the operation are released by the next tick, and the command that started it is
answered. -/
def execMaintDone (s : State) : Host.Outcome State Fault Refusal :=
  run s fun d =>
    match d.regs.maintRun with
    | none => d
    | some m =>
      let d := if d.maintLeft m then d.maintainRange m.op m.first m.count else d
      if d.maintLeft m then d
      else
      let d := { d with regs := { d.regs with maintRun := none, maintDone := true } }
      (d.waiters.filter (·.what == .maint)).foldl (fun d w =>
        { d with waiters := d.waiters.erase w }.respond w.channel w.opcode w.tag 0 0 []) d

end Sys2Proof.Machine
end

