-- ==== Sys2Proof/Machine/Schedule.lean ====
section
/-!
DEFINITION. Slot tables: the fields of row templates, images as byte strings, the built-in, preserve and shutdown
tables, variant selection, and the swap machinery (R87–R94, R156–R162, R171–R188, R226, R397).
-/
namespace Sys2Proof.Machine

open Sys2Proof

/-! ### Row fields (R90) -/

/-- A field of a row template. -/
def Row.field (r : Row) (w lo width : Nat) : Nat := wbits (r.getD w 0) lo width

/-- Read allotment of a class. -/
def Row.alloc (r : Row) (c : Nat) : Nat := r.field 1 (6 * c) 6

/-- Word and bit of a fill grant. -/
def FillKind.at : FillKind → Nat × Nat
  | .host => (2, 0)
  | .durable => (2, 12)
  | .bulk => (2, 24)
  | .reloc => (3, 6)
  | .refresh => (3, 24)
  | .parity => (4, 0)
  | .system => (4, 18)

/-- Fill grant of a kind. -/
def Row.fill (r : Row) (k : FillKind) : Nat := r.field k.at.1 k.at.2 6

/-- Program grant of a kind. -/
def Row.prog (r : Row) (k : FillKind) : Nat := r.field k.at.1 (k.at.2 + 6) 6

/-- Word and bit of a towpath read grant. -/
def TowKind.at : TowKind → Nat × Nat
  | .reloc => (3, 0)
  | .refresh => (3, 18)
  | .verify => (5, 0)
  | .scrub => (5, 6)
  | .calib => (5, 12)
  | .retry => (5, 18)

/-- Read grant of a towpath kind. -/
def Row.tow (r : Row) (k : TowKind) : Nat := r.field k.at.1 k.at.2 6

/-- Clear-segment grant. -/
def Row.clearSeg (r : Row) : Nat := r.field 4 12 6

/-- Slice flags: journal_flush, dram_retrain, checkpoint_segment (R91). -/
def Row.flag (r : Row) (bit : Nat) : Bool := r.field 0 bit 1 == 1

/-- The seven fill kinds. -/
def fillKinds : List FillKind := [.host, .durable, .bulk, .reloc, .refresh, .parity, .system]

/-- Power-equivalents of a row (R96). -/
def Row.power (r : Row) : Nat := total (fillKinds.map r.prog) + r.clearSeg

/-- The template a reach applies in a tick: none on a retired reach or without a sequence (R87, R89). -/
def Slice.row (s : Slice) (reach tick : Nat) : Option Row :=
  if (s.reach reach).state == .retired then none
  else match (s.active.sequences.getD reach [])[tick]? with
    | none => none
    | some t => s.active.templates[t]?

/-! ### Images as byte strings (R157–R162) -/

/-- variant_count of an image. -/
def imgVariants (b : List Byte) : Nat := byteAt b 0x0F

/-- section_count. -/
def imgSections (b : List Byte) : Nat := leAt b 0x24 2

/-- Offset of section table entry `i`. -/
def imgEntry (b : List Byte) (i : Nat) : Nat := leAt b 0x28 4 + 16 * i

/-- Section table entry `i`: type, variant, offset, length, crc. -/
def imgSection (b : List Byte) (i : Nat) : Nat × Nat × Nat × Nat × Nat :=
  let e := imgEntry b i
  (leAt b e 2, byteAt b (e + 2), leAt b (e + 4) 4, leAt b (e + 8) 4, leAt b (e + 12) 4)

/-- Table index of the section of a type and variant. -/
def imgFind (b : List Byte) (type variant : Nat) : Option Nat :=
  (List.range (imgSections b)).find? fun i =>
    let (t, v, _) := imgSection b i
    t == type && v == variant

/-- Offset of the section of a type and variant, 0 when there is none. -/
def imgOffset (b : List Byte) (type variant : Nat) : Nat :=
  match imgFind b type variant with
  | some i => (imgSection b i).2.2.1
  | none => 0

/-- Variant table entry: rung, retired, template_count, sequence_count (R160). -/
def imgVariant (b : List Byte) (v : Nat) : Nat × Nat × Nat × Nat :=
  let o := imgOffset b 1 0xFF + 16 * v
  (byteAt b o, byteAt b (o + 1), leAt b (o + 2) 2, byteAt b (o + 4))

/-- The templates of a variant. -/
def imgTemplates (b : List Byte) (v : Nat) : List Row :=
  let o := imgOffset b 2 v
  (List.range (imgVariant b v).2.2.1).map fun t => wordsOf 16 (bytesAt b (o + 96 * t) 96)

/-- The sequences of a variant. -/
def imgSequences (b : List Byte) (v : Nat) : List (List Nat) :=
  let o := imgOffset b 3 v
  (List.range (imgVariant b v).2.2.2).map fun j => (bytesAt b (o + 1024 * j) 1024).map (·.toNat)

/-- contract_id and security_version of an image. -/
def imgContract (b : List Byte) : Nat := leAt b 0x10 16

/-- security_version. -/
def imgSecurity (b : List Byte) : Nat := leAt b 0x20 4

/-- A SUMMARY field of a variant. -/
def imgSummary (b : List Byte) (v off n : Nat) : Nat := leAt b (imgOffset b 4 v + off) n

/-- A class record field of a SUMMARY (R162). -/
def imgClass (b : List Byte) (v c off n : Nat) : Nat := imgSummary b v (0x10 + 16 * c + off) n

/-! ### Row and tick limits (R96, R137, R140) -/

/-- Transfers of a row (R96). -/
def Row.transfers (r : Row) : Nat :=
  total ((List.range 8).map r.alloc) + total (fillKinds.map r.fill)
    + total ([TowKind.reloc, .refresh, .verify, .scrub, .calib, .retry].map r.tow)

/-- Fills of a row. -/
def Row.fillsSum (r : Row) : Nat := total (fillKinds.map r.fill)

/-- Power-equivalents of a tick per slice that a rung allows (R168). -/
def rungPower (rung : Nat) : Nat := 464 * (8 - rung) / 8

/-- DRAM reservation of a row, all ports. -/
def Row.dram (r : Row) : Nat :=
  total ([0, 8, 16, 24, 32, 40].map fun lo => r.field 6 lo 8) + r.field 7 0 8

/-- Programs of a row that update the map (R341). -/
def Row.mapPrograms (r : Row) : Nat := total ([FillKind.host, .durable, .bulk, .reloc, .refresh].map r.prog)

/-- Lines that the rows of a tick need of the map engine (R341). -/
def mapLines (rs : List Row) : Nat :=
  total (rs.map fun r => total ((List.range 7).map r.alloc))
    + ceilDiv (total (rs.map fun r => 2 * r.mapPrograms + r.tow .reloc + r.tow .refresh)) 16

/-- Whether a declared budget `w` stays below the ceiling of R137: `wa` in thousandths, `durable` the durable classes'
Σ write_rate × fold, `h` healthy reaches, `rMin` the refresh minimum. -/
def underCeiling (w wa durable h rMin rung : Nat) : Bool :=
  decide (w * wa * 85 * 1920 + durable * 17 * 7680 + 51 * 1920000 + w * wa * 51 * 16 + h * rMin * 85 * 1875
    ≤ rungPower rung * 122880000)

/-- Whether a table meets the capacities of R140: `lane` sums a grant over a round by the lane rule, `each` over every
healthy reach. -/
def meetsCapacity (w wa durable refresh flushes : Nat) (lane each : (Row → Nat) → Nat) : Bool :=
  -- quantities of R140 in thousandths of a page per round
  let l := w * wa * 1024
  let sys := 512 + ceilDiv l 240000 + flushes
  let prog (ks : List FillKind) (r : Row) := total (ks.map r.prog)
  decide (w * 1024 ≤ lane (prog [.host, .durable, .bulk]))
    && decide (l ≤ 1000 * (w * 1024 + lane (·.tow .reloc))) && decide (l ≤ 1000 * (w * 1024 + lane (·.fill .reloc)))
    && decide (l ≤ 1000 * (w * 1024 + lane (·.prog .reloc))) && decide (sys ≤ lane (·.prog .system))
    && decide (l + 1000 * (sys + refresh) ≤ 16000 * each (·.prog .parity))
    && decide (17 * (l + 4096 * durable + 1000 * refresh + 2000 * sys) ≤ 64000 * lane Row.clearSeg)
    && decide (l + 1000 * (sys + refresh) ≤ 1000 * lane (·.tow .verify))

/-! ### The firmware's own tables (R173, R226) -/

/-- Places a field value in a row word. -/
def put (lo v : Nat) : Nat := v * 2 ^ lo

/-- A row with its write mask and flags and the values of its fields by word and bit position (R90). -/
def rowOf (flags : Nat) (g : Nat → Nat → Nat) : Row :=
  let six (w : Nat) (los : List Nat) := total (los.map fun lo => put lo (g w lo % 64))
  ([flags,
    six 1 [0, 6, 12, 18, 24, 30, 36, 42],
    six 2 [0, 6, 12, 18, 24, 30],
    six 3 [0, 6, 12, 18, 24, 30],
    six 4 [0, 6, 12, 18, 24],
    six 5 [0, 6, 12, 18],
    total ([0, 8, 16, 24, 32, 40].map fun lo => put lo (g 6 lo % 256)),
    g 7 0 % 256].map word) ++ List.replicate 8 0

/-- Write mask and flags of the five templates of the firmware's tables: even, odd, entry 0 with the flush, retrain and
checkpoint flags (R145), and the pair of entries 2 and 3. -/
def templateFlags : List Nat := [0x03, 0x0C, 0x73, 0x03, 0x0C]

/-- The sequence of the firmware's tables (R94). DESIGN CHOICE: every reach applies the same five templates; the manual leaves
the division of the rows to the firmware. -/
def fiveSequence : List Nat :=
  (List.range 1024).map fun k => if k = 0 then 2 else if k = 2 then 3 else if k = 3 then 4 else k % 2

/-- The five templates with the field values that `g` gives. -/
def fiveTemplates (g : Nat → Nat → Nat → Nat) : List Row :=
  (List.range 5).map fun t => rowOf (templateFlags.getD t 0) (g t)

/-- The templates of consecutive entries. -/
def templatePairs : List (Nat × Nat) := [(2, 1), (0, 1), (3, 4), (1, 0), (1, 3), (4, 0), (1, 2)]

/-- The sum of a grant over the entries of the five-template sequence. -/
def fiveSum (ts : List Row) (f : Row → Nat) : Nat :=
  total (([510, 511, 1, 1, 1].zip ts).map fun e => e.1 * f e.2)

/-- Whether five templates on 18 sequences meet the row, tick and DRAM limits of R96 at a rung, with a
read allotment of at least 1 for every class. -/
def fiveFit (rung : Nat) (ts : List Row) : Bool :=
  (ts.all fun r =>
    (List.range 8).all (fun c => decide (1 ≤ r.alloc c)) && decide (r.transfers ≤ 64) && decide (r.fillsSum ≤ 32)
      && decide (r.power ≤ 29) && decide (18 * r.power ≤ rungPower rung) && decide (18 * r.dram ≤ 327)
      && decide (mapLines (List.replicate 18 r) ≤ 4 * (18 * r.field 6 0 8)))
    && templatePairs.all fun p => fillKinds.all fun k =>
      decide ((ts.getD p.1 []).fill k ≤ (ts.getD p.2 []).prog k)

/-- WA of a retired count in thousandths (R135). -/
def retiredWa (k : Nat) : Nat := ceilDiv (1000 * (648 - 36 * k)) (648 - 36 * k - 512)

/-- Whether five templates carry a declared budget `w` with no covered and no durable class (R137, R140). -/
def fiveCarry (rung k w : Nat) (ts : List Row) : Bool :=
  underCeiling w (retiredWa k) 0 (18 - k) 1 rung
    && meetsCapacity w (retiredWa k) 0 (18 - k) 1 (fun f => 16 * fiveSum ts f) fun f => (18 - k) * fiveSum ts f

/-- Whether five templates make a built-in variant of a rung and retired count: the grants of R173, the limits of R96, the
capacities of R140 and the minima of R145. -/
def builtinFit (rung k : Nat) (ts : List Row) : Bool :=
  fiveFit rung ts && fiveCarry rung k 0 ts
    && (ts.all fun r => [FillKind.host, .durable, .bulk, .system].all fun f => decide (1 ≤ r.fill f ∧ 1 ≤ r.prog f))
    && [TowKind.scrub, .calib, .refresh, .retry].all (fun t => ts.all fun r => decide (1 ≤ r.tow t))
    && decide (1 ≤ fiveSum ts (·.fill .refresh)) && decide (1 ≤ fiveSum ts (·.prog .refresh))

/-- The field values of the plainest built-in variant: 1 wherever R173 or R145 asks for a grant, and relocation where the
rung's power leaves room for it; entries 2 and 3 carry the refresh. -/
def plainGrant (rung t w lo : Nat) : Nat :=
  match w with
  | 3 => if lo = 18 then 1 else if lo = 24 then b2n (t == 3) else if lo = 30 then b2n (t == 4) else b2n (decide (rung ≤ 5))
  | 4 => if lo = 12 then b2n (t != 4) else 1
  | 6 => if lo = 0 then 2 else 1
  | _ => 1

/-- The templates of a built-in variant (R173): the firmware's choice, which is left open, where it meets what R173 asks of it; else
the plainest variant. At rung 7 the four program grants that R173 asks of every row exceed the power of R96, so that no choice meets both;
the grants are kept. -/
def builtinTemplates (rung k : Nat) : List Row :=
  let chosen := fiveTemplates (Config.builtinGrant rung k)
  if builtinFit rung k chosen then chosen else fiveTemplates (plainGrant rung)

/-- declared_w of a built-in variant: the largest that it passes with (R173). -/
def builtinW (rung k : Nat) : Nat :=
  largest ((List.range 73).filter fun w => fiveCarry rung k w (builtinTemplates rung k))

/-- Whether five templates make a preserve table (R173). -/
def preserveFit (ts : List Row) : Bool :=
  fiveFit 0 ts
    && ts.all fun r =>
      ([FillKind.host, .durable, .bulk].all fun f => r.fill f == 0 && r.prog f == 0)
        && ([FillKind.reloc, .parity, .system].all fun f => decide (1 ≤ r.fill f ∧ 1 ≤ r.prog f))
        && decide (1 ≤ r.tow .reloc) && decide (1 ≤ r.clearSeg)

/-- The field values of the plainest preserve table. -/
def plainPreserve (w lo : Nat) : Nat :=
  match w with
  | 2 => 0
  | 6 => if lo = 0 then 2 else 1
  | _ => 1

/-- The templates of the preserve table (R173). -/
def preserveTemplates : List Row :=
  let chosen := fiveTemplates Config.preserveGrant
  if preserveFit chosen then chosen else fiveTemplates fun _ => plainPreserve

/-- A row of the shutdown table (R226). -/
def shutdownRow (mask flags : Nat) : Row :=
  ([mask + flags, 0, 0, 0, put 0 2 + put 6 2 + put 18 23 + put 24 23, put 18 1, 0, 0].map word)
    ++ List.replicate 8 0

/-- Templates of the shutdown table: even, odd, and even with journal_flush (R226). -/
def shutdownTemplates : List Row := [shutdownRow 3 0x40, shutdownRow 12 0, shutdownRow 3 0x50]

/-- The sequence of the shutdown table: checkpoint_segment in every even tick, journal_flush in every 16th. -/
def shutdownSequence : List Nat := (List.range 1024).map fun k => if k % 16 = 0 then 2 else k % 2

/-- Assigns sequences to the reaches that are not retired, in ascending order (R171). -/
def assignSequences (seqs : List (List Nat)) : List Reach → List (List Nat)
  | [] => []
  | r :: rs =>
    if r.state == .retired then [] :: assignSequences seqs rs
    else seqs.headD [] :: assignSequences seqs.tail rs

/-- The image in force, as the firmware reads it (R437): the installed image, or none for the built-in. -/
def Dev.image (d : Dev) : Option (List Byte) := d.images.inForce

/-- The slot table of a source for a slice. -/
def Dev.tableOf (d : Dev) (i : Nat) (src : Source) : Table :=
  let rs := (d.slice i).reaches
  let built (t : List Row) (q : List Nat) : Table := ⟨t, assignSequences (List.replicate 18 q) rs⟩
  match src with
  | .none => {}
  | .builtin rung retired => built (builtinTemplates rung retired) fiveSequence
  | .preserve => built preserveTemplates fiveSequence
  | .shutdown => built shutdownTemplates shutdownSequence
  | .image v _ =>
    match d.image with
    | some b => ⟨imgTemplates b v, assignSequences (imgSequences b v) rs⟩
    | none => {}

/-! ### Variant selection (R171–R174) -/

/-- Reaches that are not retired: those a variant must have sequences for. -/
def Slice.runnable (s : Slice) : Nat := 18 - s.retiredCount

/-- Variants of an image usable by a slice with effective count `k`, as (index, rung). -/
def usableVariants (b : List Byte) (k need : Nat) : List (Nat × Nat) :=
  ((List.range (imgVariants b)).filter fun v =>
    (imgVariant b v).2.1 == k && decide (need ≤ (imgVariant b v).2.2.2)).map fun v => (v, (imgVariant b v).1)

/-- The variant a slice runs at a package rung (R172), with RUNG_SHORT or VARIANT_FALLBACK due. -/
def Dev.selectVariant (d : Dev) (i rung : Nat) : Source × Option Nat :=
  let s := d.slice i
  let k := s.upkeep.effective
  if 3 ≤ k then (.preserve, none)
  else match d.image with
    | none => (.builtin rung k, none)
    | some b =>
      let us := usableVariants b k s.runnable
      match minBy (·.2) (us.filter fun u => decide (rung ≤ u.2)) with
      | some u => (.image u.1 u.2, none)
      | none =>
        match minBy (fun u => 8 - u.2) us with
        | some u => (.image u.1 u.2, some 0x0202)
        | none => (.builtin rung k, some 0x0203)

/-- Loads the selected variant of every slice into its shadow set and raises the events of R172. -/
def Dev.loadShadows (d : Dev) (rung : Nat) (events : Bool) : Dev :=
  (List.range d.sliceCount).foldl (fun d i =>
    let (src, ev) := d.selectVariant i rung
    let t := d.tableOf i src
    let d := d.onSlice i fun s => { s with shadow := t, shadowSource := src }
    match ev with
    | some 0x0202 => if events then (d.countPkg 26 1).event 0x0202 i rung 0xFF [] else d
    | some _ =>
      if events then (d.countPkg 27 1).event 0x0203 i (d.slice i).upkeep.effective 0xFF [] else d
    | none => d) d

/-- Loads the selected variants of an image into the shadow sets; the image comes into force with the swap (R177 step 4, R188). -/
def Dev.loadImage (d : Dev) (b : List Byte) (events : Bool) : Dev :=
  let now := d.images.inForce
  let d := { d with images := { d.images with inForce := some b } }
  let d := d.loadShadows (if wbits d.active.thermCtrl 0 2 = 1 then d.rung else 0) events
  { d with images := { d.images with inForce := now, arriving := some b } }

/-- Whether a slice's contract is lapsed by its variant (R174). -/
def Dev.variantLapsed (d : Dev) (i : Nat) : Bool :=
  match (d.slice i).source with
  | .image _ r => wbits d.active.thermCtrl 0 2 == 1 && decide (r < d.rung)
  | _ => true

/-- The declared bound of a covered class under a table source of an image (R124). -/
def sourceBound (image : Option (List Byte)) (src : Source) (c : Nat) : Option Nat :=
  match src, image with
  | .image v _, some b =>
    if c < 6 && bitAt (imgSummary b v 0x05 1) c then some (imgClass b v c 0x0C 2) else none
  | _, _ => none

/-- The declared bound of a covered class of a slice, while a variant of the installed image runs (R124, R150). -/
def Dev.boundOf (d : Dev) (i c : Nat) : Option Nat := sourceBound d.image (d.slice i).source c

/-- Whether a class is covered in a summary. -/
def imgCovered (b : List Byte) (v c : Nat) : Bool := decide (c < 6) && bitAt (imgSummary b v 0x05 1) c
/-- Whether a class is durable in a summary. -/
def imgDurable (b : List Byte) (v c : Nat) : Bool := decide (c < 6) && bitAt (imgSummary b v 0x06 1) c

/-- Whether the variant in force on a slice declares a class durable (R142, R155). -/
def Dev.declaresDurable (d : Dev) (i c : Nat) : Bool :=
  match (d.slice i).source, d.image with
  | .image v _, some b => imgDurable b v c
  | _, _ => false

/-- declared_w of the variant a slice runs. -/
def Dev.declaredW (d : Dev) (i : Nat) : Nat :=
  match (d.slice i).source, d.image with
  | .image v _, some b => imgSummary b v 0x0A 2
  | .builtin r k, _ => builtinW r k
  | _, _ => 0

/-! ### Swap (R179–R183, R518) -/

/-- Round boundaries to the one at which a swap accepted now takes effect: a request of ticks 0–991 takes effect at the
next, a later one at the one after (R179). Past a round's boundary the next round has begun. -/
def Dev.swapWait (d : Dev) : Nat := if d.clock.roundClosed || decide (d.clock.tick ≤ 991) then 1 else 2

/-- Accepts a swap (R179). -/
def Dev.acceptSwap (d : Dev) (k : SwapKind) : Dev :=
  { d with swap := { d.swap with pending := some k, wait := d.swapWait } }

/-- The round_count at the boundary that a request accepted now takes (R179, R439). -/
def Dev.swapRound (d : Dev) : Nat := (d.clock.round.toNat + d.swapWait) % 2 ^ 32

/-- A shadow throttle configuration as a swap takes it (R518): a limit out of order and a reserved method stay
as they were. -/
def takeThermal (old new : Groups) : Groups × List (Nat × Nat) :=
  let signed (w : Word) (lo : Nat) : Int := (BitVec.ofNat 8 (wbits w lo 8)).toInt
  let bad (w : Word) : Bool := decide (signed w 8 ≤ signed w 0) || decide (signed w 16 ≤ signed w 8)
  let badMethod := wbits new.thermCtrl 0 2 == 3
  let rejected := (List.range 3).filter fun g => bad (new.thermLimit.getD g 0)
  ({ new with
      thermCtrl := if badMethod then old.thermCtrl else new.thermCtrl
      thermLimit := (List.range 3).map fun g =>
        if bad (new.thermLimit.getD g 0) then old.thermLimit.getD g 0 else new.thermLimit.getD g 0 },
   rejected.map (fun g => (1, g)) ++ if badMethod then [(2, 0xFF)] else [])

/-- The mode that the rung gives in SERVICE and THROTTLED (R477, R515). -/
def modeForRung (m : Mode) (rung : Nat) : Mode :=
  match m with
  | .service | .throttled => if rung = 0 then .service else .throttled
  | m => m

/-- The slices that run a built-in variant although an image has come into force (R172). -/
def Dev.fallbacks (d : Dev) : Dev :=
  (List.range d.sliceCount).foldl (fun d i =>
    match (d.slice i).source with
    | .builtin _ k => (d.countPkg 27 1).event 0x0203 i k 0xFF []
    | _ => d) d

/-- A swap takes effect: the shadow sets of the exchanged groups become active in every slice (R180), and the package
rung that it brings changes (R184). -/
def Dev.takeSwap (d : Dev) (k : SwapKind) : Dev :=
  let changed := (List.range d.sliceCount).filter fun i => (d.slice i).source != (d.slice i).shadowSource
  let d := d.onSlices fun s =>
    { s with active := s.shadow, shadow := s.active, source := s.shadowSource, shadowSource := s.source }.count 150 1
  let entering := d.mode == .boot && d.images.arriving.isSome
  let images := { d.images with
    inForce := d.images.arriving.orElse fun _ => d.images.inForce, arriving := none, leaving := d.images.inForce }
  let d := { d with images := images }
  let d := if entering then d.fallbacks else d
  let d := match k with
    | .tables => d
    | .all =>
      let (g, rej) := takeThermal d.active d.shadow
      let next := d.cart.streamShadow
      let cart := { d.cart with
        streamMaps := next ++ d.cart.streamMaps.filter fun (m : StreamMap) => !next.any fun (x : StreamMap) => x.region == m.region, streamShadow := [] }
      let d := { d with active := g, shadow := d.active, cart := cart }
      rej.foldl (fun d (e : Nat × Nat) => d.event 0x0508 0xFF e.1 e.2 []) d
  let rung := d.swap.taking.getD d.rung
  let d := { d with
    swap := { d.swap with pending := none, wait := 0, copying := some k, lastRound := d.clock.round, taking := none }
    rung := rung
    mode := modeForRung d.mode rung }
  let d := d.countPkg 24 1
  if changed.isEmpty then d
  else (d.countPkg 25 1).notify 2 0x0280 [word (total (changed.map (2 ^ ·)) + rung * 2 ^ 8)]

/-- Answers the commands that wait for a swap (R177 step 6). -/
def Dev.answerSwap (d : Dev) : Dev :=
  (d.waiters.filter (·.what == .swap)).foldl (fun d w =>
    { d with waiters := d.waiters.erase w }.respond w.channel w.opcode w.tag 0 0 []) d

/-- What a swap does at a round boundary: it counts down, or takes effect. -/
def Dev.swapBoundary (d : Dev) : Dev :=
  match d.swap.pending with
  | none => d
  | some k =>
    if d.swap.wait ≤ 1 then
      if d.images.arriving.isSome then (d.takeSwap k).answerSwap else d.takeSwap k
    else { d with swap := { d.swap with wait := d.swap.wait - 1 } }

/-- SHADOW_COPY_DONE (R182): the shadows of the exchanged groups again equal the active sets, and the swap is no longer
pending. -/
def execShadowCopyDone (s : State) : Host.Outcome State Fault Refusal :=
  run s fun d =>
    match d.swap.copying with
    | none => d
    | some k =>
      { d.onSlices fun s => { s with shadow := s.active, shadowSource := s.source } with
        shadow := if k = .all then d.active else d.shadow
        images := { d.images with leaving := none }
        swap := { d.swap with copying := none } }

/-- The throttle method in force (R515): 0 none, 1 power-step, 2 clock-step. -/
def Dev.throttleMethod (d : Dev) : Nat := wbits d.active.thermCtrl 0 2

/-- The rung that variants are selected for: that of the level under power-step, 0 otherwise (R515). -/
def Dev.selectRung (d : Dev) : Nat := if d.throttleMethod = 1 then d.rung else 0

/-- A change of the package rung that waits becomes the one that the next swap brings (R184). -/
def Dev.bringRung (d : Dev) : Dev :=
  { d with swap := { d.swap with changeDue := false, taking := d.swap.rung, rung := none } }

/-- FIRMWARE_VARIANT_CHANGE (R172, R184): with a change due and no swap pending, the firmware loads the selected
variants and requests a swap of the slot tables. -/
def execFirmwareVariantChange (s : State) : Host.Outcome State Fault Refusal :=
  run s fun d =>
    if d.swap.changeDue && !d.swapPending && d.clock.on then
      let d := d.bringRung
      let rung := if d.throttleMethod = 1 then d.swap.taking.getD d.rung else 0
      (d.loadShadows rung true).acceptSwap .tables
    else d

end Sys2Proof.Machine
end

