-- ==== Sys2Proof/Machine/Slots.lean ====
section
/-!
DEFINITION. Superblock slots: formation, reservation, opening, closing, donor pools, parity blocks and clears
(R197–R205, R235, R239, R249, R259, R63–R67).
-/
namespace Sys2Proof.Machine

open Sys2Proof

/-! ### Blocks -/

/-- Slots of a slice (R197). -/
def slotCount : Nat := 10368

/-- Whether a slot's banks hold blocks of its slab (it is formed). -/
def Slot.bound (k : Slot) : Bool :=
  match k.state with
  | .unformed | .free => false
  | _ => true

/-- Banks of slab `j` bound to its other slots. -/
def Slice.boundBanks (s : Slice) (slot : Nat) : List Nat :=
  (rangeFrom (18 * slabOf slot) 18).flatMap fun k => if k ≠ slot ∧ (s.slot k).bound then (s.slot k).banks else []

/-- Wear of the block of a slab in a bank. -/
def Slice.wearOf (s : Slice) (bank slab : Nat) : Nat := sget s.wear (blockKey bank slab) 0

/-- Banks of a reach and group with a cleared healthy block of the slab of a slot. -/
def Slice.cleared (s : Slice) (taken : List Nat) (slot reach group : Nat) : List Nat :=
  (List.range 16).filter fun b =>
    let n := bankNo reach group b
    !taken.contains n && s.blockHealthy (blockKey n (slabOf slot))
      && !s.flow.clears.any fun c => slabOf c.slot == slabOf slot && bankNo c.reach c.group c.bank == n

/-- Banks used by OPEN or RESERVED slots of the slice. -/
def Slice.busyBanks (s : Slice) : List Nat :=
  (s.slots.filter fun e => e.2.state == .opened || e.2.state == .reserved).flatMap fun e => e.2.banks

/-- Banks used by OPEN slots. -/
def Slice.openBanks (s : Slice) : List Nat :=
  (s.slots.filter fun e => e.2.state == .opened).flatMap fun e => e.2.banks

/-- Slots of a slab that are bound to blocks, but for one. -/
def Slice.boundIn (s : Slice) (slot : Nat) : Nat :=
  ((rangeFrom (18 * slabOf slot) 18).filter fun k => k ≠ slot && (s.slot k).bound).length

/-- Whether a slab keeps its formable count when a slot takes the lane set `set` (R239). -/
def Slice.keepsCount (s : Slice) (taken : List Nat) (slot : Nat) (set : List Nat) : Bool :=
  let slab := slabOf slot
  let left := ((List.range 18).filter s.healthyReach).map fun r =>
    s.poorest taken slab r - b2n (set.contains r)
  let due := s.formableIn slab - (s.boundIn slot + 1)
  decide (16 * due ≤ total (left.map (min due)))

/-- The lanes and banks of a slot at an open epoch (R199): the 16 healthy reaches of lowest total wear with a
cleared block in every group, rotated by the epoch, and in each group the least-worn bank, first among those no
OPEN or RESERVED slot uses. Where those reaches would leave the slab short of its formable count, the 16 with most blocks
left are taken (R239). A reach's total wear is taken over its cleared healthy blocks of the slot's slab (DESIGN CHOICE: R199
does not say which blocks it sums), and among banks whose blocks have the same lowest wear the lowest bank number is taken (DESIGN
CHOICE: R199 gives no tie rule). `none` when the slot cannot be formed. -/
def Slice.formLanes (s : Slice) (slot epoch : Nat) : Option (List Nat × List Nat) :=
  let taken := s.boundBanks slot
  let slab := slabOf slot
  let able := (List.range 18).filter fun r =>
    s.healthyReach r && (List.range 4).all fun g => !(s.cleared taken slot r g).isEmpty
  let wear (r : Nat) := total ((List.range 4).flatMap fun g =>
    (s.cleared taken slot r g).map fun b => s.wearOf (bankNo r g b) slab)
  let byWear := sortBy (fun a b => decide (wear a ≤ wear b)) able
  let first := byWear.take 16
  let chosen := if s.keepsCount taken slot first then first
    else (sortBy (fun a b => decide (s.poorest taken slab b ≤ s.poorest taken slab a)) byWear).take 16
  let set := sortBy (fun a b => decide (a ≤ b)) chosen
  if set.length < 16 then none
  else
    let busy := s.busyBanks
    let lanes := (List.range 16).map fun i => set.getD ((i + epoch) % 16) 0
    let bank (r g : Nat) :=
      let all := s.cleared taken slot r g
      let idle := all.filter fun b => !busy.contains (bankNo r g b)
      (minBy (fun b => s.wearOf (bankNo r g b) slab) (if idle.isEmpty then all else idle)).getD 0
    some (lanes, lanes.flatMap fun r => (List.range 4).map (bank r))

/-- The formable slot count (R239). -/
def Slice.formableSlots (s : Slice) : Nat := total ((List.range 576).map s.formableIn)

/-- The effective retired count (R239): 64 MiB times the formable slots against 648 GiB less 36 GiB each. -/
def Slice.effectiveRetired (s : Slice) (formable : Nat) : Nat :=
  ((List.range 19).find? fun k => decide (s.retiredCount ≤ k) && decide (648 * 16 ≤ formable + 36 * 16 * k)).getD 18

/-- Recomputes the formable count and the effective retired count after a retirement; a change is due a variant
change (R239, R184). -/
def Dev.recountFormable (d : Dev) (i : Nat) : Dev :=
  let s := d.slice i
  let f := s.formableSlots
  let e := s.effectiveRetired f
  let d := d.onSlice i fun s => { s with upkeep := { s.upkeep with formable := f, effective := min 3 e } }
  if min 3 e ≠ s.upkeep.effective then { d with swap := { d.swap with changeDue := true } } else d

/-! ### Reservation and opening (R202, R235) -/

/-- Slots of a stream in a state, in epoch order. -/
def Slice.streamSlots (s : Slice) (st : Stream) (state : SlotState) : List Nat :=
  (sortBy (fun (a b : Nat × Slot) => decide (a.2.epoch ≤ b.2.epoch))
    (s.slots.filter fun e => e.2.state == state && e.2.stream == st)).map (·.1)

/-- Cell mode of a stream (R201). -/
def Stream.slc : Stream → Bool
  | .host | .relocation => false
  | .durable | .system => true

/-- Whether a stream may reserve at the present free count (R235). -/
def Slice.mayReserve (s : Slice) : Stream → Bool
  | .host | .durable => decide (6 < s.free)
  | .relocation | .system => decide (1 ≤ s.free)

/-- The FREE slot that a stream or a donor pool takes: the lowest-numbered one that can be formed at an epoch (DESIGN CHOICE: R202 does
not say which). -/
def Slice.freeFormable (s : Slice) (epoch : Nat) : Option (Nat × List Nat × List Nat) :=
  (List.range slotCount).findSome? fun k =>
    if (s.slot k).state == .free then (s.formLanes k epoch).map fun l => (k, l.1, l.2) else none

/-- A slot becomes UNFORMED, with its DESCRIPTOR entry (R199, R213). -/
def Slice.unform (s : Slice) (k : Nat) : Slice :=
  let d : Slot := { state := .unformed }
  ((s.onSlot k fun _ => d).log (.descriptor k true d)).count 157 1

/-- The FREE slots below `limit`, which could not be given 64 blocks, become UNFORMED (R199). -/
def Slice.unformBelow (s : Slice) (limit : Nat) : Slice :=
  ((List.range limit).filter fun k => (s.slot k).state == .free).foldl Slice.unform s

/-- UNFORMED slots of a slab that can be formed again become FREE (R199), as many as the slab's formable count allows. -/
def Slice.reform (s : Slice) (slab : Nat) : Slice :=
  (rangeFrom (18 * slab) 18).foldl (fun s k =>
    if (s.slot k).state == .unformed && (s.formLanes k s.nextEpoch).isSome
        && decide (((rangeFrom (18 * slab) 18).filter fun j => (s.slot j).state != .unformed).length < s.formableIn slab) then
      (s.onSlot k fun _ => {}).log (.state k .free 0)
    else s) s

/-- Reserves a slot for a stream: lanes, banks and open epoch are fixed, and a DESCRIPTOR entry is appended
(R199, R202). -/
def Slice.reserve (s : Slice) (st : Stream) : Slice :=
  if s.mayReserve st && decide ((s.streamSlots st .reserved).length < 3) then
    match s.freeFormable s.nextEpoch with
    | none => s.unformBelow slotCount
    | some (k, lanes, banks) =>
      let desc : Slot :=
        { state := .reserved, stream := st, slc := st.slc, epoch := s.nextEpoch, laneReach := lanes, laneBank := banks }
      let s := s.unformBelow k
      let desc := { desc with descEntry := s.journal.next }
      { (s.onSlot k fun _ => desc).log (.descriptor k false desc) with nextEpoch := s.nextEpoch + 1 }
  else s

/-- Whether a slot stays in the allocation: none of its banks is retired and all its reaches are healthy (R259, R260). -/
def Slice.allocated (s : Slice) (k : Slot) : Bool := !k.banks.any s.bankRetired && k.laneReach.all s.healthyReach

/-- Blocks of the donor pool of a mode: healthy, cleared and not lent, of a slot in the allocation, as (donor, lane, group)
(R249). -/
def Slice.donorPool (s : Slice) (slc : Bool) : List (Nat × Nat × Nat) :=
  (s.slots.filter fun e => e.2.state == .donor && e.2.slc == slc && s.allocated e.2).flatMap fun e =>
    ((List.range 64).map fun i => (e.1, i / 4, i % 4)).filter fun b =>
      s.blockHealthy (blockKey (bankNo (e.2.reachOf b.2.1) b.2.2 (e.2.bankOf b.2.1 b.2.2)) (slabOf e.1))
      && !(s.flow.lent.any fun l => l.donor == b.1 && l.lane == b.2.1 && l.group == b.2.2)
        && !(s.flow.clears.any fun c => c.lent && c.slot == b.1 && c.lane == b.2.1 && c.group == b.2.2)

/-- Adjusts the donor pool of a mode (R249): a FREE slot becomes DONOR below 8 blocks, and a DONOR slot with all
64 blocks in the pool returns to FREE above 72. -/
def Slice.adjustPool (s : Slice) (slc : Bool) : Slice :=
  let pool := s.donorPool slc
  if pool.length < 8 then
    if 1 ≤ s.free then
      match s.freeFormable s.nextEpoch with
      | none => s.unformBelow slotCount
      | some (k, lanes, banks) =>
        let s := s.unformBelow k
        let desc : Slot := { state := .donor, slc := slc, epoch := s.nextEpoch, laneReach := lanes, laneBank := banks }
        { ((s.onSlot k fun _ => desc).log (.descriptor k false desc)).log (.state k .donor 0) with
          nextEpoch := s.nextEpoch + 1 }
    else s
  else if 72 < pool.length then
    match (s.slots.filter fun e => e.2.state == .donor && e.2.slc == slc
        && (pool.filter fun b => b.1 == e.1).length == 64).map (·.1) with
    | [] => s
    | k :: _ => (s.onSlot k fun _ => {}).log (.state k .free 0)
  else s

/-- Adjusts both donor pools. -/
def Slice.adjustPools (s : Slice) : Slice := (s.adjustPool false).adjustPool true

/-- The bank of a donor block. -/
def Slice.donorBank (s : Slice) (b : Nat × Nat × Nat) : Nat :=
  let k := s.slot b.1
  bankNo (k.reachOf b.2.1) b.2.2 (k.bankOf b.2.1 b.2.2)

/-- The donor block that a slot's parity index borrows, by the preferences of R205, on a bank none of its other
parity blocks lies on. Among blocks equal in all of them the first by donor slot, lane and group is taken (DESIGN CHOICE: R205 gives
no further rule). -/
def Slice.parityChoice (s : Slice) (slot : Nat) : Option (Nat × Nat × Nat) :=
  let k := s.slot slot
  let used := (s.flow.lent.filter (·.slot == slot)).map fun l => s.donorBank (l.donor, l.lane, l.group)
  let busy := s.openBanks
  let rank (b : Nat × Nat × Nat) :=
    let n := s.donorBank b
    ((b2n (busy.contains n) * 2 + b2n (k.laneReach.contains (n / 64))) * 2 ^ 20 + s.wearOf n (slabOf b.1)) * 32 + n / 64
  minBy rank ((s.donorPool k.slc).filter fun b => !used.contains (s.donorBank b))

/-- Borrows the parity block of an index for a slot, with its PARITY entry (R204, R205). -/
def Slice.borrow (s : Slice) (slot index : Nat) : Slice :=
  match s.parityChoice slot with
  | none => s
  | some (donor, lane, group) =>
    let l : Lent := ⟨slot, index, donor, lane, group⟩
    { s with flow := { s.flow with lent := s.flow.lent ++ [l] } }.log (.parity l true)

/-- Whether the DESCRIPTOR entry of a slot is durable (R202, R216). -/
def Slice.descDurable (s : Slice) (k : Slot) : Bool := decide (k.descEntry < s.journal.durable)

/-- Slots of the system stream at most (R223). -/
def chainLimit : Nat := 96

/-- A system slot joins the chain: its header, which names its successor, takes position 0 (R221). -/
def Slice.joinChain (s : Slice) (k next : Nat) : Slice :=
  let header : SysPage :=
    { seq := s.sys.nextSeq, body := .chain s.sys.chainNumber s.sys.chain.getLast? (k, s.slot k) (next, s.slot next),
      slot := some k, pos := 0, filled := false, passed := false, torn := false, copied := false }
  { s.onSlot k fun d => { d with writePos := 1, lane := 1 } with
    sys := { s.sys with
      pages := s.sys.pages ++ [header]
      staging := s.sys.staging.filter (·.1 != k)
      nextSeq := s.sys.nextSeq + 1
      chain := s.sys.chain ++ [k]
      chainNumber := s.sys.chainNumber + 1 } }

/-- Opens the next reserved slot of a stream when its descriptor is durable and no OPEN slot uses its banks; four
parity blocks are borrowed, and the slot waits while the donor pool has no four for it. A system slot waits for its successor to be
reserved and joins the chain (R202, R204, R221, R223). -/
def Slice.openNext (s : Slice) (st : Stream) : Slice :=
  match s.streamSlots st .reserved with
  | [] => s
  | k :: rest =>
    let desc := s.slot k
    let busy := s.openBanks
    let ready := st != .system || (!rest.isEmpty && decide (s.sys.chain.length < chainLimit))
    if s.descDurable desc && ready && !desc.banks.any busy.contains then
      let ready := s.adjustPools
      let s := (List.range 4).foldl (fun s i => s.borrow k i) (ready.onSlot k fun d => { d with state := .opened, age := 0 })
      if (s.flow.lent.filter (·.slot == k)).length < 4 then ready
      else match st, rest with
        | .system, next :: _ => s.joinChain k next
        | _, _ => s
    else s

/-- Closes an OPEN slot, which is queued for verify (R203, R246). -/
def Slice.closeSlot (s : Slice) (k : Nat) : Slice :=
  let d := s.slot k
  if d.state == .opened then
    let s := (s.onSlot k fun d => { d with state := .closed }).log (.state k .closed d.writePos)
    { s with upkeep := { s.upkeep with verifyQ := s.upkeep.verifyQ ++ [k] } }
  else s

/-! ### Releasing and clearing (R63–R65, R244, R249) -/

/-- The parity blocks of a slot returned: PARITY return entries, and a clear of each donor block (R238, R247). -/
def Slice.returnParity (s : Slice) (slot age : Nat) : Slice :=
  let ls := s.flow.lent.filter (·.slot == slot)
  let s := ls.foldl (fun s l => s.log (.parity l false)) s
  let clears := ls.map fun l =>
    let n := s.donorBank (l.donor, l.lane, l.group)
    ({ slot := l.donor, lane := l.lane, group := l.group, reach := n / 64, bank := n % 16, left := 1024,
       running := false, age := age, lent := true, ready := false, entry := s.journal.next } : Clear)
  { s with flow := { s.flow with
    lent := s.flow.lent.filter (·.slot != slot)
    clears := s.flow.clears ++ clears
    parityQ := s.flow.parityQ.filter (·.1 != slot) } }

/-- The clears of the 64 blocks of a slot. -/
def Slice.slotClears (s : Slice) (slot age : Nat) (ready : Bool) : List Clear :=
  let k := s.slot slot
  (List.range 64).map fun i =>
    { slot := slot, lane := i / 4, group := i % 4, reach := k.reachOf (i / 4), bank := k.bankOf (i / 4) (i % 4),
      left := 1024, running := false, age := age, lent := false, ready := ready, entry := 0 }

/-- Moves a slot to CLEARING with its STATE entry (R244 step 3): its parity is returned by the same journal step. -/
def Slice.startClearing (s : Slice) (slot age : Nat) : Slice :=
  let s := s.returnParity slot age
  let cs := s.slotClears slot age false
  let entry := s.journal.next
  let s := (s.onSlot slot fun k => { k with state := .clearing, clearEntry := entry }).log
    (.state slot .clearing (s.slot slot).writePos)
  { s with
    flow := { s.flow with clears := s.flow.clears ++ cs }
    upkeep := { s.upkeep with verifyQ := s.upkeep.verifyQ.filter (· != slot) } }

/-- Wear units of a clear (R66). -/
def wearUnits (slc : Bool) : Nat := if slc then 1 else 5

/-- The root block, as reach × 2 plus 1 for B, that a clear clears; a clear of a slot's or parity block is of none. -/
def Clear.root (c : Clear) : Option Nat := if c.slot < slotCount then none else some (2 * ((c.slot - slotCount) / 4) + (c.slot - slotCount) % 4)

/-- Wear of the block that a clear clears. -/
def Slice.clearWear (s : Slice) (c : Clear) : Nat :=
  match c.root with
  | some b => sget s.sys.rootWear b 0
  | none => s.wearOf (bankNo c.reach c.group c.bank) (slabOf c.slot)

/-- Whether a read names a page of the block that a clear clears. -/
def Clear.holds (c : Clear) (q : ReadReq) : Bool := q.slot == c.slot && q.lane == c.lane && q.pos % 4 == c.group

/-- Segment 0 of a block's clear starts: its data, that of a returned parity block included, is void and its wear rises
(R64, R65, R251). Towpath reads still queued for its pages are dropped, for nothing may read them. -/
def Slice.startClear (s : Slice) (c : Clear) : Slice :=
  match c.root with
  | some b =>
    { s with sys := { s.sys with
      rootBlocks := s.sys.rootBlocks.filter (·.block != b)
      rootWear := sset s.sys.rootWear b (sget s.sys.rootWear b 0 + wearUnits true) } }
  | none =>
    let slc := (s.slot c.slot).slc
    let k := blockKey (bankNo c.reach c.group c.bank) (slabOf c.slot)
    let s := s.clearPages c.slot c.lane c.group
    let s := { s with flow := { s.flow with tow := s.flow.tow.filter fun q => !c.holds q } }
    { s with wear := sset s.wear k (sget s.wear k 0 + wearUnits slc) }

/-- Retires a block (R67, R251, R252). A root block is of no slab. -/
def Dev.retireBlock (d : Dev) (i : Nat) (c : Clear) (reason : Nat) : Dev :=
  let k := blockKey (bankNo c.reach c.group c.bank) (slabOf c.slot)
  if c.root.isSome then
    match c.root with
    | some b =>
      if (d.slice i).sys.rootBad.contains b then d
      else (d.onSlice i fun s => { s with sys := { s.sys with rootBad := s.sys.rootBad ++ [b] } }.count 152 1).event
        0x0105 i reason c.reach (leBytes 2 c.slot)
    | none => d
  else if (d.slice i).badBlocks.contains k then d
  else
    let d := d.onSlice i fun s => { s with badBlocks := s.badBlocks ++ [k] }.count 152 1
    (d.event 0x0105 i reason c.reach (leBytes 2 c.slot)).recountFormable i

/-- A slot whose 64 blocks are all cleared returns to FREE, or becomes UNFORMED when its slab cannot form it
(R63, R199, R232, R244). -/
def Slice.finishClearing (s : Slice) (slot : Nat) : Slice :=
  if (s.slot slot).state == .clearing && !s.flow.clears.any fun c => !c.lent && c.slot == slot then
    let formed := (rangeFrom (18 * slabOf slot) 18).filter fun k => k ≠ slot && (s.slot k).state != .unformed
    if formed.length < s.formableIn (slabOf slot) then
      (((s.onSlot slot fun _ => {}).log (.state slot .free 0)).count 77 1).reform (slabOf slot)
    else (s.unform slot).reform (slabOf slot)
  else s

/-! ### Faults and retirement (R258–R262) -/

/-- The page that a rewrite puts on a lane (R43). -/
def Slice.lanePage (s : Slice) (r : Rewrite) (slot lane : Nat) : Page :=
  { data := subSectors r.data lane, lfn := r.lfn, sub := lane, relocated := r.source.isSome,
    slc := (s.slot slot).slc, title := r.title, parity := false, seq := r.seq.getD 0,
    key := some (r.key.getD (s.engine.keyOf r.title)) }

/-- Whether a lane of a position still takes fills: its reach is healthy and its bank not retired (R259, R260). -/
def Slice.laneUsable (s : Slice) (slot pos lane : Nat) : Bool :=
  let (reach, group, bank) := s.placeAt slot pos lane
  s.healthyReach reach && !s.bankRetired (bankNo reach group bank)

/-- The DRAM lines of the parity staging in which a parity page waits (R333). DESIGN CHOICE: the manual does not say how the staging is laid
out; eight barges of 64 KiB come first (R240), and a page of a slot's position takes one of the 129,024 places of 256 bytes behind them. -/
def Slice.stagingLines (s : Slice) (slot pos : Nat) : List Nat :=
  (List.range 4).map fun i => stagingBase s.dram.size4 + 2 ^ 19 + (slot * 16384 + pos) % 129024 * 256 + 64 * i

/-- A parity page is staged until its fill (R204, R340). -/
def Slice.queueParity (s : Slice) (slot pos : Nat) (page : Page) : Slice :=
  { s with flow := { s.flow with parityQ := s.flow.parityQ ++ [(slot, pos, page)] } }.storeLines (s.stagingLines slot pos)

/-- Abandons the position of a rewrite (R203): its frame is written again elsewhere, and the lanes not yet filled are programmed with
what they were to hold, so that their blocks keep their page order (R58). -/
def Slice.abandonPosition (s : Slice) (r : Rewrite) : Slice :=
  match r.place with
  | none => s
  | some (slot, pos) =>
    let left := (List.range 16).filter fun l => !r.filled.contains l && s.laneUsable slot pos l
    let parity := parityOf (s.lanePage r slot 0) ((List.range 16).map (s.lanePage r slot))
    let husk : Husk := ⟨r.id, slot, pos, r.kind, left.map fun l => (l, s.lanePage r slot l), parity⟩
    let s := { s with flow := { s.flow with
      rewrites := updWhere (fun (x : Rewrite) => x.id == r.id) (fun x => { x with place := none, filled := [], passed := [] })
        s.flow.rewrites
      husks := if left.isEmpty then s.flow.husks else s.flow.husks ++ [husk] } }
    if left.isEmpty && decide (r.filled.length < 16) then s.queueParity slot pos parity else s

/-- Fills that a retirement has made impossible: positions with such a lane still to fill are abandoned, and system pages placed on
one wait for another place (R259, R260). -/
def Slice.abandonUnusable (s : Slice) : Slice :=
  let stuck := s.flow.rewrites.filter fun r => match r.place with
    | some (slot, pos) => (List.range 16).any fun l => !r.filled.contains l && !s.laneUsable slot pos l
    | none => false
  let s := stuck.foldl Slice.abandonPosition s
  let lost (p : SysPage) := !p.filled && p.slot.any fun k => !s.laneUsable k (p.pos / 16) (p.pos % 16)
  { s with
    flow := { s.flow with
      husks := (s.flow.husks.map fun (h : Husk) => { h with pages := h.pages.filter fun e => s.laneUsable h.slot h.pos e.1 }).filter
        fun h => !h.pages.isEmpty
      parityQ := s.flow.parityQ.filter fun q => match s.parityPlace q.1 q.2.1 with
        | some (donor, pos, lane) => s.laneUsable donor pos lane
        | none => true }
    sys := { s.sys with pages := updWhere lost (fun p => { p with slot := none, torn := true }) s.sys.pages } }

/-- A fault of a bank, kept with the round it occurred in. -/
def Slice.addFault (s : Slice) (bank round : Nat) (program : Bool) : Slice :=
  { s with upkeep := { s.upkeep with
    faults := (s.upkeep.faults.filter fun f => decide (round < f.round + 1024)) ++ [⟨bank, round, program⟩] } }

/-- A slot that holds no data leaves its blocks: it returns to FREE, or becomes UNFORMED where its slab's formable count no
longer allows that (R259). -/
def Slice.dissolve (s : Slice) (k : Nat) : Slice :=
  let formed := (rangeFrom (18 * slabOf k) 18).filter fun j => j ≠ k && (s.slot j).state != .unformed
  if formed.length < s.formableIn (slabOf k) then (s.onSlot k fun _ => {}).log (.state k .free 0) else s.unform k

/-- The slots of a bank or reach that retires leave the allocation (R259, R260): OPEN slots close, RESERVED slots are
dissolved, and what can no longer be filled is abandoned. -/
def Slice.withdraw (s : Slice) (hit : Slot → Bool) : Slice :=
  ((s.slots.filter fun e => hit e.2).foldl (fun s (e : Nat × Slot) =>
    match e.2.state with
    | .opened => s.closeSlot e.1
    | .reserved => s.dissolve e.1
    | _ => s) s).abandonUnusable

/-- DONOR slots with a block on a retired bank or on a reach that is not healthy are dissolved once none of their blocks is lent or being
cleared (R259, R260). DEDUCED: the manual evacuates every slot of a retiring reach and does not say how a DONOR slot, which
holds no frames, is released. -/
def Slice.releaseDonors (s : Slice) : Slice :=
  (s.slots.filter fun e => e.2.state == .donor
    && !s.allocated e.2
    && !(s.flow.lent.any fun l => l.donor == e.1) && !(s.flow.clears.any fun c => c.slot == e.1)).foldl
      (fun s (e : Nat × Slot) => s.dissolve e.1) s

/-- The chambers of a lost reach that are filled and not yet programmed are not programmed: their frames and system pages
wait to be written again (R263). -/
def Slice.dropChambers (s : Slice) (r : Nat) : Slice :=
  let gone := s.flow.chambers.filter fun c => c.reach == r && !c.programming
  { s with
    flow := { s.flow with
      chambers := s.flow.chambers.filter fun c => !gone.contains c
      rewrites := updWhere (fun (x : Rewrite) => gone.any fun c => c.rewrite == some x.id && x.place == some (c.slot, c.pos))
        (fun x => { x with place := none, home := none, filled := [], passed := [] }) s.flow.rewrites }
    sys := { s.sys with
      pages := updWhere (fun (p : SysPage) => gone.any fun c => c.sysSeq == some p.seq && p.slot == some c.slot)
        (fun p => { p with slot := none, filled := false, torn := true }) s.sys.pages } }

/-- A condition of R265 that the device has met, to be acted on. -/
def Dev.owePreserve (d : Dev) (cause i : Nat) : Dev :=
  { d with preserve := { d.preserve with
    due := if d.preserve.due.contains (cause, i) then d.preserve.due else d.preserve.due ++ [(cause, i)] } }

/-- A reach becomes RETIRING (R260); in a slice with two retired reaches a third retires only by an engine fault,
and then without evacuation (R263). -/
def Dev.retireReach (d : Dev) (i r reason : Nat) : Dev :=
  let s := d.slice i
  let on (k : Slot) := k.laneReach.contains r
  if (s.reach r).state != .healthy then d
  else if 2 ≤ s.retiredCount then
    if reason = 2 then
      let d := d.onSlice i fun s => ((s.dropChambers r).withdraw on).onReach r fun h => { h with state := .retired }
      (d.event 0x0108 i 2 r []).recountFormable i
    else d.owePreserve 4 i
  else
    let d := d.onSlice i fun s =>
      { s.onReach r fun h => { h with state := .retiring } with
        upkeep := { s.upkeep with evacReach := some (s.upkeep.evacReach.getD r) } }
    let d := d.onSlice i fun s => (s.withdraw on).releaseDonors
    ((d.event 0x0107 i reason r []).contractExceeded i 5 0xFF).recountFormable i

/-- A bank retires (R259): its OPEN slots close, its RESERVED slots return to FREE or become UNFORMED, its other
slots are queued for evacuation; the reach retires above 8 retired banks (R258). -/
def Dev.retireBank (d : Dev) (i bank reason : Nat) : Dev :=
  let r := bank / 64
  let s := d.slice i
  if s.bankRetired bank then d
  else
    let d := d.onSlice i fun s => s.onReach r fun h => { h with retiredBanks := h.retiredBanks ++ [bank % 64] }
    let d := d.onSlice i fun s => (s.withdraw fun k => k.banks.contains bank).releaseDonors
    let d := d.onSlice i fun s =>
      { s.count 153 1 with upkeep := { s.upkeep with evacBanks := s.upkeep.evacBanks ++ [bank] } }
    let d := (d.event 0x0106 i reason r []).recountFormable i
    if 8 < ((d.slice i).reach r).retiredBanks.length then d.retireReach i r 1 else d

/-- Counts a program or clear failure, or an uncorrectable read, against its bank (R258). -/
def Dev.bankFault (d : Dev) (i bank : Nat) (program : Bool) : Dev :=
  let d := d.onSlice i fun s => s.addFault bank d.round program
  let n := (d.slice i).faultsOf bank d.round program
  if (if program then 4 else 8) ≤ n then d.retireBank i bank (if program then 1 else 2) else d

end Sys2Proof.Machine
end

