-- ==== Sys2Proof/Machine/Journal.lean ====
section
/-!
DEFINITION. The journal and the system stream of one slice: sealing, trailers, durability, checkpoint capture and
completion, the places of system pages and their fills, root records (R213–R226).
-/
namespace Sys2Proof.Machine

open Sys2Proof

/-! ### Sealing (R214, R215, R222) -/

/-- Groups journal entries into pages of 15 units, no entry across two pages (R214). -/
def packEntries : List (Nat × JEntry) → List (Nat × JEntry) → Nat → List (List (Nat × JEntry))
  | [], page, _ => if page.isEmpty then [] else [page]
  | e :: rest, page, used =>
    if used + e.2.units ≤ 15 then packEntries rest (page ++ [e]) (used + e.2.units)
    else page :: packEntries rest [e] e.2.units

/-- A system page that waits for a position; its system sequence is given when it is placed (R223). -/
def SysPage.waiting (body : SysBody) : SysPage :=
  { seq := 0, body := body, slot := none, pos := 0, filled := false, passed := false, torn := false, copied := false }

/-- Adds waiting system pages. -/
def Slice.queuePages (s : Slice) (ps : List SysBody) : Slice :=
  { s with sys := { s.sys with pages := s.sys.pages ++ ps.map SysPage.waiting } }

/-- Entries of a pass of re-assertion records (R222). -/
def rotationLength : Nat := 11392

/-- The re-assertion record of a rotation index (R222). -/
def Slice.assertion (s : Slice) (x : Nat) : TrailRec :=
  if x < slotCount then .slot x (s.slot x)
  else .poison (x - slotCount) ((s.poison.drop (4 * (x - slotCount))).take 4)

/-- A trailer page from a rotation index on. -/
def Slice.trailer (s : Slice) (flush rotation : Nat) : SysBody :=
  .trailer flush s.frameSeq s.clockE rotation
    ((rangeFrom rotation (min 3 (rotationLength - rotation))).map s.assertion)

/-- The rotation index after a trailer. -/
def nextRotation (x : Nat) : Nat := if x + 3 < rotationLength then x + 3 else 0

/-- The journal buffer's lines read at a seal: one for 4 entries (R340), which are taken to be entries of one unit, a line being four
units. -/
def Slice.sealReads (s : Slice) : Slice :=
  let n := s.journal.units
  (List.range (ceilDiv n 4)).foldl (fun s i => s.access 3 (s.journalLine (s.journal.tail - n + 4 * i))) s

/-- A journal flush: the buffer is sealed into pages with the next flush number, and the first flush of a round
writes its trailer (R215, R222). The seal gives the space of its entries back at once (DESIGN CHOICE: R217 does not say whether
space returns at the seal or when the sealed pages have passed). -/
def Slice.flush (s : Slice) : Slice :=
  let j := s.journal
  let number := j.flush + 1
  let packed := packEntries j.buffer [] 0
  let bodies := packed.map fun (p : List (Nat × JEntry)) =>
    SysBody.journal number p ((p.getLast?.map (·.1)).getD 0 + 1)
  let s := (s.queuePages bodies).count 83 packed.length
  let s := (s.count 84 1).sealReads
  let first := !j.flushedInRound
  let s := if first then s.queuePages [s.trailer number j.rotation] else s
  { s with journal := { s.journal with
    buffer := []
    flush := number
    flushedInRound := true
    rotation := if first then nextRotation j.rotation else j.rotation
    held := false } }

/-! ### Durability (R216) -/

/-- Whether a system page is of the journal. -/
def SysPage.lastEntry (p : SysPage) : Option Nat :=
  match p.body with
  | .journal _ _ n => some n
  | _ => none

/-- The entry number below which every entry is durable: pages are taken in seal order up to the first whose
program has not passed. -/
def durableUpTo : List SysPage → Nat → Nat
  | [], n => n
  | p :: rest, n =>
    match p.lastEntry with
    | none => durableUpTo rest n
    | some m => if p.passed then durableUpTo rest (max n m) else n

/-- Journal pages in seal order. -/
def Slice.journalPages (s : Slice) : List SysPage :=
  sortBy (fun a b => decide (a.lastEntry.getD 0 ≤ b.lastEntry.getD 0)) (s.sys.pages.filter fun p => p.lastEntry.isSome && !p.copied)

/-- Copies of a segment that a later copy with a durable CHECKPOINT entry supersedes go (R219). -/
def pruneCopies (durable : Nat) : List SegCopy → List SegCopy
  | [] => []
  | c :: rest =>
    let rest' := pruneCopies durable rest
    if rest.any fun x => x.segment == c.segment && decide (x.entry < durable) then rest' else c :: rest'

/-- Recomputes what is durable. -/
def Slice.settleJournal (s : Slice) : Slice :=
  let n := durableUpTo s.journalPages s.journal.durable
  { s with
    journal := { s.journal with durable := n }
    checkpoint := { s.checkpoint with current := pruneCopies n s.checkpoint.current } }

/-! ### Checkpoints (R218, R219) -/

/-- Starts the capture of the next segment; earlier captures may still wait for their copies. -/
def Slice.startCapture (s : Slice) : Slice :=
  { s with checkpoint := { s.checkpoint with
    capturing := s.checkpoint.capturing ++ [(s.checkpoint.next, s.frameSeq)]
    next := (s.checkpoint.next + 1) % segments } }.count 85 1

/-- Whether a capture still waits for a rewrite of its segment with a sequence below its capture sequence. -/
def Slice.captureWaits (s : Slice) (segment c : Nat) : Bool :=
  s.flow.rewrites.any fun r =>
    !r.done && segmentOf r.lfn == segment && match r.seq with
      | some q => decide (q < c)
      | none => false

/-- Whether a rewrite's map step is held for a capture (R218). -/
def Slice.captureHolds (s : Slice) (r : Rewrite) : Bool :=
  match r.seq with
  | some q => s.checkpoint.capturing.any fun x => segmentOf r.lfn == x.1 && decide (x.2 ≤ q)
  | none => false

/-- Takes the copy of the segment under capture: its 512 pages wait for positions. -/
def Slice.takeCopy (s : Slice) (segment c : Nat) : Slice :=
  let entries := srange s.map (segment * 32768) (segment * 32768 + 32768)
  let copy : SegCopy :=
    { segment := segment, capEntry := s.journal.next, capSeq := c, firstPage := s.sys.nextSeq, entries := entries,
      entry := 0 }
  let pages := (List.range 512).map fun i =>
    SysBody.checkpoint segment i (srange s.map (segment * 32768 + 64 * i) (segment * 32768 + 64 * i + 64))
  let s := s.queuePages pages
  { s with checkpoint := { s.checkpoint with
    capturing := s.checkpoint.capturing.filter (·.1 != segment)
    copies := s.checkpoint.copies ++ [copy]
    changed := s.checkpoint.changed.filter (· != segment) } }

/-- CHECKPOINT_COPY_TAKEN (R218): the oldest capture that waits for no rewrite is copied. -/
def execCheckpointCopyTaken (slice : Nat) (s : State) : Host.Outcome State Fault Refusal :=
  runSlice slice s fun d => d.onSlice slice fun s =>
    match s.checkpoint.capturing.find? fun x => !s.captureWaits x.1 x.2 with
    | some (segment, c) => s.takeCopy segment c
    | none => s

/-- Whether a system page belongs to a segment copy. -/
def SegCopy.owns (c : SegCopy) (p : SysPage) : Bool :=
  match p.body with
  | .checkpoint segment _ _ => segment == c.segment && !p.copied && (p.slot.isNone || decide (c.firstPage ≤ p.seq))
  | _ => false

/-- The unit index that marks a CHECKPOINT entry whose capture position still stands as an entry number: the position is
known, and takes its place, when the entry's own page is placed. -/
def openUnit : Nat := 15

/-- Segment copies all of whose pages have passed become current, with their CHECKPOINT entries (R219). -/
def Slice.finishCopies (s : Slice) : Slice :=
  s.checkpoint.copies.foldl (fun s c =>
    if s.sys.pages.all fun p => !c.owns p || p.passed then
      let first := (minBy (·.seq) (s.sys.pages.filter c.owns)).map (·.seq)
      let entry := s.journal.next
      let s := s.log (.checkpoint c.segment c.capEntry openUnit c.capSeq (first.getD c.firstPage))
      { s with checkpoint := { s.checkpoint with
        copies := s.checkpoint.copies.filter (· != c)
        current := s.checkpoint.current ++ [{ c with firstPage := first.getD c.firstPage, entry := entry }] } }
    else s) s

/-! ### Places of system pages (R220, R221) -/

/-- Page positions consumed of a system slot. -/
def Slot.sysPos (k : Slot) : Nat := if k.lane = 0 then 16 * k.writePos else 16 * (k.writePos - 1) + k.lane

/-- A system slot whose first `n` page positions are consumed. -/
def Slot.atPage (k : Slot) (n : Nat) : Slot := { k with writePos := ceilDiv n 16, lane := n % 16 }

/-- Priority of a waiting system page: sealed journal and trailer pages go first (R92). -/
def SysPage.rank (p : SysPage) : Nat :=
  match p.body with
  | .chain _ _ _ _ => 0
  | .journal _ _ _ => 1
  | .trailer _ _ _ _ _ => 1
  | .checkpoint _ _ _ => 2

/-- The waiting system page to place next. -/
def Slice.nextSysPage (s : Slice) : Option SysPage := minBy (·.rank) (s.sys.pages.filter (·.slot.isNone))

/-- Changes the first system page equal to `p`. -/
def replaceFirst (p q : SysPage) : List SysPage → List SysPage
  | [] => []
  | x :: xs => if x = p then q :: xs else x :: replaceFirst p q xs

/-- The unit index of entry `n` among the entries of a page (R214). -/
def unitOf (n : Nat) : List (Nat × JEntry) → Nat → Option Nat
  | [], _ => none
  | e :: rest, u => if e.1 = n then some u else unitOf n rest (u + e.2.units)

/-- The journal position of entry `n`, once its page is placed (R214). -/
def Slice.positionOf (s : Slice) (n : Nat) : Option (Nat × Nat) :=
  s.sys.pages.findSome? fun p =>
    match p.body with
    | .journal _ es _ => if p.slot.isSome then (unitOf n es 0).map fun u => (p.seq, u) else none
    | _ => none

/-- A journal page's body with the capture positions of its CHECKPOINT entries, `seq` being its own system sequence. -/
def Slice.resolved (s : Slice) (seq : Nat) (b : SysBody) : SysBody :=
  match b with
  | .journal flush es last =>
    .journal flush (es.map fun e => match e.2 with
      | .checkpoint segment n 15 c first =>
        let at_ := match unitOf n es 0 with
          | some u => (seq, u)
          | none => (s.positionOf n).getD (seq, 0)
        (e.1, .checkpoint segment at_.1 at_.2 c first)
      | _ => e) last
  | b => b

/-- Moves a system page to position `pos` of a slot: a page placed for the first time takes the next system
sequence, a page whose program failed keeps its own (R60, R220). -/
def Slice.placeSysPage (s : Slice) (p : SysPage) (slot pos : Nat) : SysPage × Slice :=
  let seq := if p.torn then p.seq else s.sys.nextSeq
  let q : SysPage :=
    { p with seq := seq, body := s.resolved seq p.body, slot := some slot, pos := pos, torn := false, filled := false,
             passed := false }
  (q, { s.onSlot slot fun k => k.atPage (pos + 1) with
    sys := { s.sys with
      pages := replaceFirst p q s.sys.pages
      nextSeq := if p.torn then s.sys.nextSeq else s.sys.nextSeq + 1 } })

/-- A page filled at a position of a system slot joins the parity of its frame; with the sixteenth the parity page, a
system page of its own, is staged (R204, R220). -/
def Slice.stageSystem (s : Slice) (slot pos : Nat) (page : Page) : Slice :=
  let (n, sum) := match s.sys.staging.find? fun x => x.1 == slot && x.2.1 == pos with
    | some (_, _, n, sum) => (n + 1, sum ^^^ page.stored)
    | none => (1, page.stored)
  let rest := s.sys.staging.filter fun x => !(x.1 == slot && x.2.1 == pos)
  if n < 16 then { s with sys := { s.sys with staging := rest ++ [(slot, pos, n, sum)] } }
  else
    let parity : Page :=
      { data := splitSectors sum, lfn := 5 * 2 ^ 24 + pos, sub := 0, relocated := false, slc := true, title := none,
        parity := true, seq := s.sys.nextSeq, key := none }
    { s with sys := { s.sys with staging := rest, nextSeq := s.sys.nextSeq + 1 } }.queueParity slot pos parity

/-! ### Root records (R223, R224) -/

/-- A journal position as one number, in journal order. -/
def positionKey (p : Nat × Nat) : Nat := 16 * p.1 + p.2

/-- System sequence of the page at which the newest complete re-assertion pass began: the trailer with rotation index 0,
or the pass that the format wrote. -/
def Slice.passStart (s : Slice) : Option Nat :=
  let starts := s.sys.pages.filterMap fun (p : SysPage) =>
    match p.body with
    | .trailer _ _ _ 0 _ => if p.passed then some p.seq else none
    | _ => none
  let ends := s.sys.pages.filterMap fun (p : SysPage) =>
    match p.body with
    | .trailer _ _ _ x _ => if p.passed && decide (rotationLength ≤ x + 3) then some p.seq else none
    | _ => none
  if ends.isEmpty then s.sys.format.map fun f => f.seqOf (512 * segments + 586)
  else some (largest (starts.filter fun q => decide (q ≤ largest ends)))

/-- The capture position of a current copy; that of an entry not yet placed is the next page's. -/
def Slice.capPosition (s : Slice) (c : SegCopy) : Nat × Nat := (s.positionOf c.capEntry).getD (s.sys.nextSeq, 0)

/-- The replay start (R223): the earlier of the oldest current capture position and the start of the newest complete
re-assertion pass. The format captured every segment before its first page. -/
def Slice.replayStart (s : Slice) : Nat × Nat :=
  let listed := (dedup (s.checkpoint.current.map (·.segment))).length
  let caps := s.checkpoint.current.map s.capPosition
    ++ if listed < segments then [((s.sys.format.map (·.base)).getD 0, 0)] else []
  let all := caps ++ [(s.passStart.getD 0, 0)]
  (minBy positionKey all).getD (s.sys.nextSeq, 0)

/-- The highest system sequence of a slot of the chain. -/
def Slice.newestIn (s : Slice) (k : Nat) : Nat :=
  let explicit := largest ((s.sys.pages.filter fun p => p.slot == some k).map (·.seq))
  match s.sys.format with
  | some f => match f.live.find? (·.1 == k) with
    | some (_, j) =>
      max explicit (f.base + systemPositions * j + min 131071 (formatPages - 131071 * j))
    | none => explicit
  | none => explicit

/-- The tail: the earliest slot in chain order with a page at or after the replay start (R223). -/
def Slice.tailSlot (s : Slice) : Option Nat :=
  let start := s.replayStart.1
  s.sys.chain.find? fun k => decide (start ≤ s.newestIn k)

/-- The two blocks of a root pair: A of reach q and B of reach (q + 9) mod 18, as reach × 2 plus 1 for B (R224). -/
def pairBlocks (q : Nat) : List Nat := [2 * q, 2 * ((q + 9) % 18) + 1]

/-- Root pairs that include no retired reach, nor a retired block (R67, R224), nor, as DEDUCED, a RETIRING reach, which takes no new
fills (R260). -/
def Slice.rootPairs (s : Slice) : List Nat :=
  (List.range 18).filter fun q =>
    s.healthyReach q && s.healthyReach ((q + 9) % 18)
      && !(pairBlocks q).any s.sys.rootBad.contains

/-- Pages of a root block (an SLC block). -/
def rootPages : Nat := 2048

/-- The number of a root block among the blocks outside the superblock space. -/
def rootBlockNo (b : Nat) : Nat := reachBlock (b / 2) (b % 2)

/-- Programmed pages of a root block. -/
def Slice.rootUsed (s : Slice) (b : Nat) : Nat := (s.sys.rootBlocks.filter (·.block == b)).length

/-- The clears of the blocks of a root pair that hold pages (R63, R224). -/
def Slice.pairClears (s : Slice) (q age : Nat) : List Clear :=
  ((pairBlocks q).filter fun b => decide (0 < s.rootUsed b)).map fun b =>
    let (reach, group, bank) := s.placeAt (rootBlockNo b) 0 0
    { slot := rootBlockNo b, lane := 0, group := group, reach := reach, bank := bank, left := 1024, running := false,
      age := age, lent := false, ready := true, entry := 0 }

/-- The chain number of a slot of the chain. -/
def Slice.chainNo (s : Slice) (k : Nat) : Nat :=
  s.sys.chainNumber - s.sys.chain.length + (s.sys.chain.takeWhile (· != k)).length

/-- Queues a root record for the next pages of both blocks of the current pair; when the pair is full, or has a retired reach or block,
the next pair is cleared first and takes it (R224). Pages of an earlier record that are not yet filled give way to it. -/
def Slice.queueRoot (s : Slice) (r : Root) (drop : List Nat) (round : Nat) : Slice :=
  let pairs := s.rootPairs
  let next := (pairs.find? (fun q => decide (s.sys.rootPair < q))).getD (pairs.headD 0)
  let full := (pairBlocks s.sys.rootPair).any fun b => decide (rootPages ≤ s.rootUsed b)
  let moved := full || !pairs.contains s.sys.rootPair
  let q := if moved then next else s.sys.rootPair
  let cleared := if moved then s.pairClears q round else []
  let keep := s.flow.blockQ.filter fun w => w.filled || match w.data with
    | .root _ => false
    | .sentinel _ _ _ _ => true
  let page (b : Nat) := if moved then 0 else s.rootUsed b + (keep.filter (·.block == rootBlockNo b)).length
  { s with
    flow := { s.flow with
      clears := s.flow.clears ++ cleared
      blockQ := keep ++ (pairBlocks q).map fun b => ⟨rootBlockNo b, page b, .root r, false⟩ }
    sys := { s.sys with rootPair := q, rootWrite := some ⟨r, pairBlocks q, drop⟩ } }

/-- Writes a root record (R223, R224); the slots `drop` leave the chain once it is durable. -/
def Slice.writeRoot (s : Slice) (clean : Bool) (drop : List Nat) (round : Nat) : Slice :=
  let start := s.replayStart
  let tail := s.tailSlot
  let pass := (s.passStart.map fun p => (p, 0)).getD start
  let r : Root :=
    { clean := clean, rootSeq := (s.sys.root.map (·.rootSeq)).getD 0 + 1,
      tailChain := (tail.map s.chainNo).getD s.sys.chainNumber, replayPage := if clean then pass.1 else start.1,
      replayUnit := if clean then pass.2 else start.2, frameSeq := if clean then s.frameSeq else 0,
      tail := tail.map fun k => (k, s.slot k) }
  s.queueRoot r drop round

/-- A root record on its way to a pair that can no longer be written moves to another (R224). -/
def Slice.moveRoot (s : Slice) (round : Nat) : Slice :=
  match s.sys.rootWrite with
  | some w =>
    if s.rootPairs.isEmpty || s.rootPairs.contains s.sys.rootPair then s else s.queueRoot w.record w.drop round
  | none => s

/-- The root record being written has passed in both blocks (DEDUCED: a record written to both blocks is durable then): it is the
newest, data-stream programs that waited for it may run (R231), and the slots before the tail it names leave the chain and start
clearing (R223). -/
def Slice.rootPassed (s : Slice) (round : Nat) : Slice :=
  match s.sys.rootWrite with
  | none => s
  | some w =>
    let s := { s with sys := { s.sys with
      root := some w.record
      rootWrite := none
      rootHold := false
      chain := s.sys.chain.filter fun k => !w.drop.contains k
      pages := s.sys.pages.filter fun p => !p.slot.any w.drop.contains } }
    w.drop.foldl (fun s k => s.startClearing k round) s

/-- Root A or B of a block number. -/
def BlockWrite.rootBlock (w : BlockWrite) : Nat := 2 * ((w.block - slotCount) / 4) + (w.block - slotCount) % 4

/-- Changes the sentinel set that a block number names. -/
def Slice.onSentinel (s : Slice) (block : Nat) (f : Sentinel → Sentinel) : Slice :=
  s.onReach ((block - slotCount) / 4) fun h =>
    if (block - slotCount) % 4 = 2 then { h with sentA := f h.sentA } else { h with sentB := f h.sentB }

/-- The pages of the sentinel set of a reach have all been programmed: the reprogram has ended, and its SENTINEL entry follows
(R81, R213). -/
def Slice.sentinelDone (s : Slice) (block : Nat) : Slice :=
  if s.flow.blockQ.any (·.block == block) then s
  else
    let r := (block - slotCount) / 4
    let s := (s.onSentinel block fun x => { x with atE := s.clockE }).onReach r fun h => { h with reprogram := none }
    s.log (.sentinel r ((block - slotCount) % 4 == 3) s.clockE)

/-- The program of a page of a root or sentinel block has ended. A page that fails stays unused, and what it was to hold is written to
the next page of its block (R60); a root pair that has no page left moves on (R224). -/
def Slice.blockProgrammed (s : Slice) (block page round : Nat) (pass : Bool) : Slice :=
  match s.flow.blockQ.find? fun w => w.block == block && w.page == page && w.filled with
  | none => s
  | some w =>
    let rest := s.flow.blockQ.erase w
    match w.data with
    | .root r =>
      let b := w.rootBlock
      let s := { s with
        flow := { s.flow with blockQ := rest }
        sys := { s.sys with rootBlocks := s.sys.rootBlocks ++ [({ block := b, page := page, record := if pass then some r else none } : RootPage)] } }
      match s.sys.rootWrite with
      | some x =>
        if x.record != r then s
        else if pass then
          let left := x.left.erase b
          let s := { s with sys := { s.sys with rootWrite := some { x with left := left } } }
          if left.isEmpty then s.rootPassed round else s
        else if page + 1 < rootPages then
          { s with flow := { s.flow with blockQ := s.flow.blockQ ++ [({ block := block, page := page + 1, data := .root r, filled := false } : BlockWrite)] } }
        else s.queueRoot r x.drop round
      | none => s
    | .sentinel slc level clock age =>
      let s := { s with flow := { s.flow with
        blockQ := if pass then rest
          else (rest.map fun (x : BlockWrite) => if x.block = block then { x with page := x.page + 1 } else x)
            ++ [({ block := block, page := page + 1 + (rest.filter fun (x : BlockWrite) => x.block == block).length, data := w.data,
                   filled := false } : BlockWrite)] } }
      let s := s.onSentinel block fun x =>
        { x with pages := x.pages ++ [if pass then some (⟨slc, level, clock, age⟩ : SentinelPage) else none] }
      s.sentinelDone block

/-- TAIL_ADVANCE (R223, R224): a root record naming the new tail is written; once it is durable the slots before the tail leave
the chain and start clearing. -/
def execTailAdvance (slice : Nat) (s : State) : Host.Outcome State Fault Refusal :=
  runSlice slice s fun d => d.onSlice slice fun s =>
    match s.tailSlot with
    | none => s
    | some t =>
      let before := s.sys.chain.takeWhile (· != t)
      if before.isEmpty || !d.clock.on || s.sys.rootWrite.isSome then s
      else s.writeRoot false before d.round

end Sys2Proof.Machine
end

