-- ==== Sys2Proof/Machine/Pick.lean ====
section
/-!
DEFINITION. Reads within a tick on one reach: the pick pass, the reuse pass, and the towpath reads with the work
lists of verify, scrub and calibration (R83–R86, R98–R103, R246, R256, R73).
-/
namespace Sys2Proof.Machine

open Sys2Proof

/-- Whether a bank group is in the read half of a tick (R94, R95). -/
def inReadHalf (tick group : Nat) : Bool := (tick % 2 == 0) == decide (2 ≤ group)

/-! ### Picks (R98–R101) -/

/-- Whether a request is one of the reads of a parity rebuild (R76). -/
def ReadReq.rebuilds (q : ReadReq) : Bool := q.who.any fun w => match w with
  | .rebuild _ => true
  | _ => false

/-- Whether two requests name one page and read it in one way: with the references of the same attempt (R74), both for
rebuilds or neither. -/
def ReadReq.samePage (a b : ReadReq) : Bool :=
  a.slot == b.slot && a.pos == b.pos && a.lane == b.lane && a.attempt == b.attempt && a.rebuilds == b.rebuilds

/-- A request joined to a read of the same page: both requesters receive the data (R100). -/
def ReadReq.join (a b : ReadReq) : ReadReq :=
  { a with who := a.who ++ b.who, allocate := a.allocate || b.allocate, covered := a.covered || b.covered }

/-- Key of a bank within its reach. -/
def ReadReq.bankKey (q : ReadReq) : Nat := q.group * 16 + q.bank

/-- Whether a covered request picked in a tick is past its declared bound (R150, R151). -/
def ReadReq.isLate (q : ReadReq) (now : Nat) (bound : Nat → Option Nat) : Bool :=
  q.covered && match bound q.cls with
    | some m => decide (q.arrival + m < now)
    | none => false

/-- A flight that serves one more request: under reuse the request keeps its place until the transfer. A granted towpath read, which
reuse never displaces (R103), makes the flight its own. -/
def Flight.takes (f : Flight) (granted : Bool) (q : ReadReq) : Flight :=
  if f.reuse && granted then { f with req := f.req.join q, reuse := false }
  else { f with req := f.req.join q, kept := if f.reuse then f.kept ++ [q] else f.kept }

/-- Joins a request to the flight of its page, when that page is picked in this pass; a covered request that is late is
noted like one that is picked (R150). Under `granted` it is a granted towpath read. -/
def Pass.tryJoin (p : Pass) (now : Nat) (bound : Nat → Option Nat) (granted : Bool) (q : ReadReq) : Option Pass :=
  if p.flights.any fun f => f.req.samePage q then
    some { p with
      flights := updWhere (fun (f : Flight) => f.req.samePage q) (fun f => f.takes granted q) p.flights
      joined := p.joined + 1
      late := if q.isLate now bound then p.late ++ [q.cls] else p.late }
  else none

/-- Whether a request meets the phase and bank conditions of R99. -/
def Pass.open (p : Pass) (tick : Nat) (q : ReadReq) : Bool :=
  inReadHalf tick q.group && decide (sget p.banks q.bankKey 0 < 8)

/-- Whether a request that has been served in this pass keeps its place: its flight runs under reuse (R103). -/
def Pass.keeps (p : Pass) (q : ReadReq) : Bool := p.flights.any fun f => f.reuse && f.kept.contains q

/-- Starts the array read of a request; the pass ends by latching the pages (R54). -/
def Pass.start (p : Pass) (now : Nat) (bound : Nat → Option Nat) (reuse : Bool) (q : ReadReq) : Pass :=
  { p with
    flights := p.flights ++ [{ id := p.nextId, req := q, latch := none, held := false, refs := [], cls := 0, reuse := reuse,
                               kept := if reuse then [q] else [] }]
    nextId := p.nextId + 1
    banks := sset p.banks q.bankKey (sget p.banks q.bankKey 0 + 1)
    late := if q.isLate now bound then p.late ++ [q.cls] else p.late }

/-- The pick pass over requests in pick order (R99). -/
def Pass.pick (tick now : Nat) (bound : Nat → Option Nat) (row : Row) : Pass → List ReadReq → Pass
  | p, [] => p
  | p, q :: rest =>
    match p.tryJoin now bound false q with
    | some p => Pass.pick tick now bound row p rest
    | none =>
      if p.open tick q && decide (p.taken.getD q.cls 0 < row.alloc q.cls) then
        let p := p.start now bound false q
        Pass.pick tick now bound row { p with taken := upd p.taken q.cls (· + 1) } rest
      else Pass.pick tick now bound row { p with left := p.left ++ [q] } rest

/-- The reuse picks of one class: each draws on allotments that lower classes left unused (R101). A request picked or joined under reuse
keeps its place in the queue until its transfer (R86, R103). -/
def Pass.reuseClass (tick now : Nat) (bound : Nat → Option Nat) (c : Nat) : Pass → List ReadReq → Pass
  | p, [] => p
  | p, q :: rest =>
    match (if q.cls = c then p.tryJoin now bound false q else none) with
    | some p => Pass.reuseClass tick now bound c (if p.keeps q then { p with left := p.left ++ [q] } else p) rest
    | none =>
      if q.cls = c && p.pool != 0 && p.open tick q then
        let p := p.start now bound true q
        Pass.reuseClass tick now bound c { p with pool := p.pool - 1, reused := p.reused ++ [c], left := p.left ++ [q] } rest
      else Pass.reuseClass tick now bound c { p with left := p.left ++ [q] } rest

/-- The reuse pass: classes 0 to 7, each class's unused allotment joining the pool after its turn. -/
def Pass.reuse (tick now : Nat) (bound : Nat → Option Nat) (row : Row) (p : Pass) : Pass :=
  (List.range 8).foldl (fun p c =>
    let p := Pass.reuseClass tick now bound c { p with left := [] } p.left
    { p with pool := p.pool + (row.alloc c - p.taken.getD c 0) }) p

/-- Whether a request ranks no later than another in pick order (R98): arrival tick, then class, then admission. -/
def ReadReq.before (a b : ReadReq) : Bool :=
  decide (a.arrival < b.arrival)
    || (a.arrival == b.arrival && (decide (a.cls < b.cls) || (a.cls == b.cls && decide (a.order ≤ b.order))))

/-- Pick order (R98). -/
def pickOrder (l : List ReadReq) : List ReadReq := sortBy ReadReq.before l

/-! ### References (R71, R72, R74) -/

/-- Lower limits of the age classes in ms (R71). -/
def ageLimits : List Nat := [0, 1000, 60000, 3600000, 86400000, 604800000, 2592000000, 7776000000]

/-- Age class of an equivalent age. -/
def ageClass (ms : Nat) : Nat := (ageLimits.filter fun l => decide (l ≤ ms)).length - 1

/-- The age class whose references attempt `n` uses for a superblock of class `c`, and its drift steps (R74). -/
def attemptClass (c n : Nat) : Nat × Int :=
  match n with
  | 1 => if 7 ≤ c then (7, 1) else (c + 1, 0)
  | 2 => if c = 0 then (0, -1) else (c - 1, 0)
  | 3 => if 7 < c + 2 then (7, 2) else (c + 2, 0)
  | _ => (c, 0)

/-- The references of a bank group's table entry (R72): three for MLC and one for SLC. -/
def Reach.entry (h : Reach) (group cls band : Nat) : List Int := sget h.refs (group * 48 + cls * 6 + band) [0, 0, 0, 0]

/-- Whether a position is of an SLC block (R49): by its superblock's mode; root blocks are SLC, a sentinel block has four MLC pages
before its SLC ones (R77). -/
def Slice.slcAt (s : Slice) (slot pos : Nat) : Bool :=
  if slot < slotCount then (s.slot slot).slc
  else if (slot - slotCount) % 4 < 2 then true
  else
    let pages := (if (slot - slotCount) % 4 = 2 then (s.reach ((slot - slotCount) / 4)).sentA
      else (s.reach ((slot - slotCount) / 4)).sentB).pages
    decide (4 ≤ ((pages.take pos).filter (·.isSome)).length)

/-- The references with which a request's page is read, at the temperature band of its reach: those of its superblock's
age class for attempt 0 and for a rebuild, moved as R74 says for a retry. DESIGN CHOICE: the manual does not say which class serves a
page of a parity block, whose DONOR slot is never opened; its age stays 0, so class 0. -/
def Slice.refsOf (s : Slice) (bands : List Nat) (q : ReadReq) : List Int :=
  let (c, step) := attemptClass (ageClass (s.slot q.slot).age) q.attempt
  let e := ((s.reach q.reach).entry q.group c (bands.getD q.reach 0)).map (· + step)
  if s.slcAt q.slot q.pos then e.drop 3 else e.take 3

/-- The age class whose references a request's page is read with. -/
def Slice.refClass (s : Slice) (q : ReadReq) : Nat := (attemptClass (ageClass (s.slot q.slot).age) q.attempt).1

/-! ### Towpath work lists (R102) -/

/-- A maintenance read of a page. -/
def Slice.towRequest (s : Slice) (now key : Nat) (kind : TowKind) (who : Who) : ReadReq :=
  let lane := keyLane key
  let pos := keyPos key
  let slot := keySlot key
  let (reach, group, bank) := s.placeAt slot pos lane
  let lfn := match s.page slot pos lane with
    | some p => p.lfn
    | none => 0
  { cls := 8, arrival := now, reach := reach, group := group, bank := bank, slot := slot, pos := pos, lane := lane, lfn := lfn, line := lineOf lfn lane, who := [who], allocate := false, covered := false,
    attempt := 0, tow := some kind, order := 0 }

/-- Whether verify reads a programmed page (R246): in a data slot those of positions that were not abandoned, in a
system slot every page that was not torn. -/
def Slice.verifies (s : Slice) (slot pos lane : Nat) : Bool :=
  if (s.slot slot).stream == .system then (s.page slot pos lane).isSome
  else (List.range 16).all fun lane => (s.page slot pos lane).isSome

/-- The last page position that a format wrote in its `j`-th slot; of the slot opened after its last that is the chain header. -/
def formatLast (j : Nat) : Nat := min 131071 (formatPages - 131071 * j)

/-- The first page of a slot on a lane and bank group that stands on the medium from page `cur` of its block on. -/
def Slice.nextPage (s : Slice) (slot lane group cur : Nat) : Option Nat :=
  let listed := (srange s.medium (pageKey slot (4 * cur + group) lane) (pageKey (slot + 1) 0 0)).find? fun (e : Nat × Cell) =>
    keyLane e.1 == lane && keyPos e.1 % 4 == group
  let formatted := (s.sys.format.bind fun f => f.live.find? (·.1 == slot)).filter fun e =>
    decide (16 * (4 * cur + group) + lane ≤ formatLast e.2)
  minBy id (listed.toList.map (·.1) ++ formatted.toList.map fun _ => pageKey slot (4 * cur + group) lane)

/-- The next page that verify reads of a slot on a lane and group, past those of abandoned positions (R246); none on a reach that is
retired. -/
def Slice.verifyFrom (s : Slice) (slot lane group : Nat) : Nat → Nat → Option Nat
  | 0, _ => none
  | n + 1, cur =>
    match s.nextPage slot lane group cur with
    | none => none
    | some key =>
      if s.verifies slot (keyPos key) lane then some key else s.verifyFrom slot lane group n (keyPos key / 4 + 1)

def Slice.verifyNext (s : Slice) (slot lane group : Nat) : Option Nat :=
  if (s.reach ((s.slot slot).reachOf lane)).state == .retired then none
  else s.verifyFrom slot lane group 4096 (sget s.upkeep.verifyCur (slot * 64 + lane * 4 + group) 0)

/-- The next verify read on a reach: slots in close order, banks of the read half with capacity. -/
def Slice.verifyItem (s : Slice) (now tick reach : Nat) (p : Pass) : Option (ReadReq × Slice) :=
  s.upkeep.verifyQ.findSome? fun slot =>
    let k := s.slot slot
    (List.range 64).findSome? fun i =>
      let lane := i / 4
      let group := i % 4
      if k.reachOf lane == reach && inReadHalf tick group && decide (sget p.banks (group * 16 + k.bankOf lane group) 0 < 8) then
        match s.verifyNext slot lane group with
        | none => none
        | some key =>
          some (s.towRequest now key .verify .verify, { s with upkeep := { s.upkeep with
            verifyCur := sset s.upkeep.verifyCur (slot * 64 + lane * 4 + group) (keyPos key / 4 + 1) } })
      else none

/-- Whether the scrub walk reads the pages of a slot (R256). -/
def Slot.scrubbed (k : Slot) : Bool :=
  match k.state with
  | .opened | .closed | .verified | .donor => true
  | _ => false

/-- The blocks of the scrub walk on a reach, as slot, lane and bank group: those of its slots by number, and the reach's root and
sentinel blocks, whose groups stand for the pages by number mod 4 (R256). -/
def Slice.scrubBlocks (s : Slice) (reach : Nat) : List (Nat × Nat × Nat) :=
  ((s.slots.filter (·.2.scrubbed)).flatMap fun e =>
    ((List.range 16).filter fun lane => e.2.reachOf lane == reach && !e.2.laneReach.isEmpty).flatMap fun lane =>
      (List.range 4).map fun group => (e.1, lane, group))
    ++ (List.range 4).flatMap fun b => (List.range 4).map fun g => (reachBlock reach b, 0, g)

/-- The first page of a block of the walk from key `from_` on. -/
def Slice.scrubFirst (s : Slice) (reach from_ : Nat) (b : Nat × Nat × Nat) : Option Nat :=
  let (slot, lane, group) := b
  let cur :=
    if keySlot from_ < slot then 0
    else if keySlot from_ = slot then
      (keyPos from_ + 3 - group) / 4 + b2n (keyPos from_ % 4 == group && decide (lane < keyLane from_))
    else 2 ^ 14
  if slot < slotCount then
    if cur < 4096 then s.nextPage slot lane group cur else none
  else if 4 * cur + group < s.blockPages reach ((slot - slotCount) % 4) then some (pageKey slot (4 * cur + group) 0) else none

/-- The pages that the scrub walk of a reach has next in each block from a key on, in its order: slots by number, then position, then
page (R256). -/
def Slice.scrubKeys (s : Slice) (reach from_ : Nat) : List Nat :=
  sortBy (fun a b => decide (a ≤ b)) ((s.scrubBlocks reach).filterMap (s.scrubFirst reach from_))

/-- Whether the scrub pointer of a reach leaves a page out: one that an OPEN slot wrote after the pointer reached it. -/
def Slice.scrubSkips (s : Slice) (reach key : Nat) : Bool :=
  match (s.reach reach).scrubOpen with
  | some (slot, pos) => keySlot key == slot && decide (pos ≤ keyPos key)
  | none => false

/-- The reach's scrub pointer past a page that it has reached. -/
def Slice.passScrub (s : Slice) (reach key : Nat) : Slice :=
  let k := s.slot (keySlot key)
  s.onReach reach fun h =>
    { h with
      scrub := key + 1
      scrubOpen := if h.scrubOpen.any (·.1 == keySlot key) then h.scrubOpen
        else if k.state == .opened then some (keySlot key, k.writePos) else none }

/-- The pages of the walk that it has next from a key on. -/
def Slice.scrubNext (s : Slice) (reach from_ : Nat) : List Nat := (s.scrubKeys reach from_).filter fun k => !s.scrubSkips reach k

/-- The pages of the walk between two keys, which stay pending for their banks. -/
def Slice.scrubPassed (s : Slice) (reach limit : Nat) : Nat → Nat → List Nat
  | 0, _ => []
  | n + 1, from_ =>
    match (s.scrubNext reach from_).head? with
    | some k => if k < limit then k :: s.scrubPassed reach limit n (k + 1) else []
    | none => []

/-- The next scrub read on a reach: the first page from its pointer on, or from the beginning once the walk has ended,
whose bank has read capacity. Pages passed over stay pending for their banks (R102). -/
def Slice.scrubItem (s : Slice) (now tick reach : Nat) (p : Pass) : Option (ReadReq × Slice) :=
  let at_ := (s.reach reach).scrub
  let start := if (s.scrubNext reach at_).isEmpty then 0 else at_
  let ready (k : Nat) := p.open tick (s.towRequest now k .scrub .scrub)
  match (s.scrubNext reach start).find? ready with
  | none => none
  | some key =>
    let passed := (s.scrubPassed reach key 131072 start).map fun k => s.towRequest now k .scrub .scrub
    some (s.towRequest now key .scrub .scrub,
      { s with flow := { s.flow with tow := s.flow.tow ++ passed } }.passScrub reach key)

/-- The table entry that a calibration sample of a page serves: its group, the age class of its superblock, and the
temperature band of its reach (R72, R73). -/
def Slice.calibEntry (s : Slice) (bands : List Nat) (reach key : Nat) : Nat :=
  let (_, group, _) := s.placeAt (keySlot key) (keyPos key) (keyLane key)
  group * 48 + ageClass (s.slot (keySlot key)).age * 6 + bands.getD reach 0

/-- Whether a page is already read in a pass. -/
def Pass.reads (p : Pass) (q : ReadReq) : Bool := p.flights.any fun f => f.req.samePage q

/-- The next calibration sample read on a reach, of a page that the tick does not read already (R73). DESIGN CHOICE: R73 says no more of
the sample than its age class and group; the model takes the first page of a block, of the bank group calibrated least, and in it of the
table entry sampled least, those of this tick counted. -/
def Slice.calibItem (s : Slice) (bands : List Nat) (now tick reach : Nat) (p : Pass) : Option (ReadReq × Slice) :=
  let h := s.reach reach
  let sample (key : Nat) := s.towRequest now key .calib (.calib (s.calibEntry bands reach key))
  let rank (key : Nat) :=
    let e := s.calibEntry bands reach key
    let flying := (p.flights.filter fun f => f.req.who.contains (.calib e)).length
    h.calibrations.getD (e / 48) 0 * 2 ^ 32 + sget h.samples e 0 + flying
  (minBy rank ((s.scrubKeys reach 0).filter fun key => p.open tick (sample key) && !p.reads (sample key))).map
    fun key => (sample key, s)

/-- Rank of a queued relocation or refresh read: that of its barge (R243); other work goes first. -/
def Slice.towRank (s : Slice) (q : ReadReq) : Nat :=
  match q.who with
  | .rewrite id :: _ =>
    match s.flow.rewrites.find? (·.id == id) with
    | some r => match r.barge with
      | some b => ((s.upkeep.barges.find? (·.id == b)).map (·.rank)).getD 0
      | none => 0
    | none => 0
  | _ => 0

/-- The next queued towpath read of a kind on a reach: the oldest among the banks of the read half with capacity (R102),
relocation and refresh work in the order of R243. -/
def Slice.queuedItem (s : Slice) (tick reach : Nat) (kind : TowKind) (p : Pass) : Option (ReadReq × Slice) :=
  let items := s.flow.tow.filter fun q => q.reach == reach && q.tow == some kind && (p.open tick q || p.reads q) && !p.keeps q
  let rank (q : ReadReq) := if kind == .reloc || kind == .refresh then s.towRank q else 0
  match (sortBy (fun a b => decide (rank a < rank b) || (rank a == rank b && decide (a.arrival ≤ b.arrival))) items).head? with
  | some q => some (q, { s with flow := { s.flow with tow := s.flow.tow.erase q } })
  | none => none

/-- The next towpath read of a kind on a reach: one that is pending, or the next of the kind's walk. -/
def Slice.towItem (s : Slice) (bands : List Nat) (now tick reach : Nat) (kind : TowKind) (p : Pass) :
    Option (ReadReq × Slice) :=
  (s.queuedItem tick reach kind p).orElse fun _ =>
    match kind with
    | .verify => s.verifyItem now tick reach p
    | .scrub => s.scrubItem now tick reach p
    | .calib => s.calibItem bands now tick reach p
    | .reloc | .refresh | .retry => none

/-- Counter of a towpath read kind (R539). -/
def TowKind.counter : TowKind → Option Nat
  | .verify => some 72
  | .scrub => some 73
  | .calib => some 74
  | _ => none

/-- Places towpath reads of a kind, up to `n` granted ones or, under `reuse`, in up to `n` positions left over; the number left unused
is returned. A read that joins one of the tick uses no grant and no position (R100). `fuel` bounds the reads. -/
def Slice.placeTow (bands : List Nat) (now tick reach : Nat) (reuse : Bool) (kind : TowKind) :
    Nat → Nat → Slice × Pass → (Slice × Pass) × Nat
  | 0, n, sp => (sp, n)
  | fuel + 1, n, (s, p) =>
    if n = 0 then ((s, p), 0)
    else match s.towItem bands now tick reach kind p with
    | none => ((s, p), n)
    | some (q, s) =>
      let s := match kind.counter with
        | some c => s.count c 1
        | none => s
      let keep (p : Pass) : Slice :=
        if p.keeps q then { s with flow := { s.flow with tow := s.flow.tow ++ [q] } } else s
      match p.tryJoin now (fun _ => none) (!reuse) q with
      | some p => Slice.placeTow bands now tick reach reuse kind fuel n (keep p, p)
      | none =>
        let p := p.start now (fun _ => none) reuse q
        Slice.placeTow bands now tick reach reuse kind fuel (n - 1) (keep p, p)

/-- Kinds of towpath reads in the order in which their grants, and the positions left over, are spent (DESIGN CHOICE:
R102 gives no order between the kinds). -/
def towKinds : List TowKind := [.retry, .reloc, .refresh, .verify, .scrub, .calib]

/-- Kinds that leftover positions serve: any towpath read (R102), but relocation only outside NORMAL (R233). -/
def Slice.extraKinds (s : Slice) : List TowKind :=
  if s.upkeep.watermark == .normal then towKinds.filter (· != .reloc) else towKinds

/-- The bank number of a request. -/
def ReadReq.bankNumber (q : ReadReq) : Nat := bankNo q.reach q.group q.bank

/-- The flights of a pass with the references used: each array read overwrites its bank's read latch, out of which the page read before
it has been transferred by then (R54, R72). -/
def Slice.latched (s : Slice) (bands : List Nat) : List Flight → List Flight
  | [] => []
  | f :: rest =>
    { f with
      latch := s.cell f.req.slot f.req.pos f.req.lane
      held := !rest.any fun o => o.req.bankNumber == f.req.bankNumber
      refs := s.refsOf bands f.req
      cls := s.refClass f.req } :: s.latched bands rest

/-- The read latches after flights in order. -/
def latchesAfter (l : Sparse (Option Cell)) (fs : List Flight) : Sparse (Option Cell) :=
  fs.foldl (fun l f => sset l f.req.bankNumber f.latch) l

/-- The page of a flight as it is transferred: out of the bank's read latch while it is the last one read there. -/
def Slice.transferred (s : Slice) (f : Flight) : Option Cell := if f.held then sget s.flow.latches f.req.bankNumber none else f.latch

/-- The reads of one reach in a tick: pick, reuse and towpath passes (steps 4–6 of R86), at the temperature bands of the
reaches. `fills` is the number of transfer positions that chamber fills take; the positions left free are returned. -/
def Slice.readReach (s : Slice) (bands : List Nat) (now tick : Nat) (bound : Nat → Option Nat) (reach fills : Nat)
    (row : Row) : Slice × Nat :=
  let mine := s.flow.queue.filter fun q => q.reach == reach
  let others := s.flow.queue.filter fun q => q.reach != reach
  let eligible := pickOrder (mine.filter fun q => decide (q.arrival < now))
  let young := mine.filter fun q => !decide (q.arrival < now)
  let p0 : Pass :=
    { flights := [], banks := [], taken := List.replicate 8 0, left := [], pool := 0, nextId := s.flow.nextId,
      reused := [], joined := 0, late := [] }
  let p := Pass.pick tick now bound row p0 eligible
  let p := Pass.reuse tick now bound row p
  let picks := (List.range 8).map fun c => p.taken.getD c 0 + (p.reused.filter (· == c)).length
  let s := { s with flow := { s.flow with queue := others ++ p.left ++ young } }
  let (sp, unused) := towKinds.foldl (fun (acc : (Slice × Pass) × Nat) kind =>
    let (sp, left) := Slice.placeTow bands now tick reach false kind 1024 (row.tow kind) acc.1
    (sp, acc.2 + left)) ((s, p), 0)
  let free := 64 - fills - sp.2.flights.length
  let (sp, free) := (s.extraKinds).foldl (fun (acc : (Slice × Pass) × Nat) kind =>
    Slice.placeTow bands now tick reach true kind 1024 acc.2 acc.1) (sp, free)
  let (s, p) := sp
  let fs := s.latched bands p.flights
  let s := { s with flow := { s.flow with
    flights := s.flow.flights ++ fs, latches := latchesAfter s.flow.latches fs, nextId := p.nextId } }
  let s := (List.range 8).foldl (fun s c =>
    ((s.count c (picks.getD c 0)).count (8 + c) ((p.reused.filter (· == c)).length)).count (16 + c)
      ((p.late.filter (· == c)).length)) s
  (((s.count 140 p.joined).count 143 unused), free)

/-- Classes whose covered reads were picked late in a pass are told by counters 16–23; this names the class that the one
event of a round carries: the lowest class late between two states of a slice (DESIGN CHOICE: R154 allows one event per
reason and round and does not say which class it names). -/
def lateClass (old new : Slice) : Option Nat :=
  (List.range 8).find? fun c => old.counters.getD (16 + c) 0 != new.counters.getD (16 + c) 0

/-- Moves requests of the ingress hold list into queues that have room; they arrive in the present tick (R98). -/
def Slice.releaseHold (s : Slice) (now : Nat) : Slice :=
  s.flow.hold.foldl (fun s q =>
    if s.admits q then
      { s with flow := { s.flow with
        queue := s.flow.queue ++ [{ q with arrival := now, order := s.flow.nextOrder }]
        hold := s.flow.hold.erase q
        nextOrder := s.flow.nextOrder + 1 } }
    else s) s

end Sys2Proof.Machine
end

