-- ==== Sys2Proof/Machine/Fill.lean ====
section
/-!
DEFINITION. Chamber fills, programs and clear segments of a tick, the start of folds and the forming of barges
(R56–R61, R93, R102, R201–R204, R206, R210, R220, R240–R243, R280).
-/
namespace Sys2Proof.Machine

open Sys2Proof

/-! ### Grants of a tick -/

/-- Number of a fill kind. -/
def FillKind.index : FillKind → Nat
  | .host => 0
  | .durable => 1
  | .bulk => 2
  | .reloc => 3
  | .refresh => 4
  | .parity => 5
  | .system => 6

/-- Key of the grants of a kind on a reach; 7 stands for the program grants of the next row that no fill of this row
counts against, which extra fills may use (R102). -/
def grantKey (kind reach : Nat) : Nat := kind * 32 + reach

/-- Whether a kind of fill is held: host, durable and bulk fills at the hold watermark or while the journal
buffer is full (R152, R217, R233). -/
def Slice.holds (s : Slice) (kind : FillKind) : Bool :=
  match kind with
  | .host | .durable | .bulk =>
    s.upkeep.watermark == .hold || s.upkeep.watermark == .dry || s.journal.held
  | _ => false

/-- Fill grants of a tick: those of the row that the next row's program grants can serve (R93), none on a reach that
takes no new fills (R260), and none in tick 1,023 with a swap due (R61). -/
def Slice.fillGrants (s : Slice) (tick : Nat) (swapDue : Bool) : Sparse Nat :=
  if tick = 1023 && swapDue then []
  else
    (List.range 18).foldl (fun g reach =>
      match s.row reach tick, s.row reach ((tick + 1) % 1024) with
      | some row, some next =>
        if s.healthyReach reach then
          let counts := fillKinds.map fun k => (k, if s.holds k then 0 else min (row.fill k) (next.prog k))
          let spare := total (fillKinds.map next.prog) - total (counts.map (·.2))
          sset (counts.foldl (fun g (c : FillKind × Nat) => sset g (grantKey c.1.index reach) c.2) g)
            (grantKey 7 reach) spare
        else g
      | _, _ => g) []

/-- Fills granted of a kind over the reaches. -/
def grantTotal (g : Sparse Nat) (kind : Nat) : Nat :=
  total ((List.range 18).map fun r => sget g (grantKey kind r) 0)

/-- Takes one grant of a kind on a reach. -/
def takeGrant (g : Sparse Nat) (kind reach : Nat) : Sparse Nat :=
  sset g (grantKey kind reach) (sget g (grantKey kind reach) 0 - 1)

/-! ### Placing and filling frames (R201–R203, R206, R210) -/

/-- Whether the chamber of a bank is empty (R57). -/
def Slice.chamberEmpty (s : Slice) (reach group bank : Nat) : Bool :=
  !s.flow.chambers.any fun c => c.reach == reach && c.group == group && c.bank == bank

/-- The stream of a fill kind (R201). -/
def FillKind.stream : FillKind → Stream
  | .host | .bulk => .host
  | .durable => .durable
  | .reloc | .refresh => .relocation
  | .parity | .system => .system

/-- Whether position `pos` of a slot can be filled in a tick: its bank group is in the read half, its reaches take
fills and its banks' chambers are empty (R202). -/
def Slice.positionOpen (s : Slice) (tick : Nat) (k : Slot) (pos : Nat) : Bool :=
  inReadHalf tick (pos % 4) && (List.range 16).all fun lane =>
    s.healthyReach (k.reachOf lane) && s.chamberEmpty (k.reachOf lane) (pos % 4) (k.bankOf lane (pos % 4))

/-- Frames of a barge that have not started their fills. -/
def Slice.unstarted (s : Slice) (b : Nat) : List Rewrite :=
  s.flow.rewrites.filter fun o => o.barge == some b && !o.done && !o.started

/-- The slot that a rewrite is bound to: that of its own failed position (R60), or that of the earlier frames of its barge,
which takes consecutive positions (R241). -/
def Slice.boundTo (s : Slice) (r : Rewrite) : Option Nat :=
  r.home.orElse fun _ => r.barge.bind fun b =>
    ((s.flow.rewrites.filter fun o => o.barge == some b && o.started).getLast?).bind (·.home)

/-- Whether a slot stands in the middle of the frames of another barge. -/
def Slice.claimed (s : Slice) (r : Rewrite) (k : Nat) : Bool :=
  s.flow.rewrites.any fun o => o.home == some k && o.barge != r.barge && match o.barge with
    | some b => !(s.unstarted b).isEmpty
    | none => false

/-- The OPEN slots in which a rewrite may be placed: the one it is bound to, while that is open, else those of its stream
that no other barge is being placed in. -/
def Slice.openFor (s : Slice) (r : Rewrite) : List Nat :=
  let all := s.streamSlots r.kind.stream .opened
  match s.boundTo r with
  | some k => if all.contains k then [k] else all.filter fun k => !s.claimed r k
  | none => all.filter fun k => !s.claimed r k

/-- The place for a rewrite: the OPEN slot of lowest epoch whose next position can be filled (R202). -/
def Slice.nextPosition (s : Slice) (tick : Nat) (r : Rewrite) : Option (Nat × Nat) :=
  (s.openFor r).findSome? fun k =>
    let d := s.slot k
    if decide (d.writePos < d.capacity) && s.positionOpen tick d d.writePos then some (k, d.writePos) else none

/-- Whether the fills of a rewrite may start: its data is complete, with that of its whole barge (R241), and no other
rewrite of its frame has started its fills (R210). -/
def Slice.mayPlace (s : Slice) (kind : FillKind) (r : Rewrite) : Bool :=
  r.kind == kind && !r.done && r.need.isEmpty && r.place.isNone
    && (match r.barge with
      | some b => (s.unstarted b).all (·.need.isEmpty)
      | none => true)
    && !s.flow.rewrites.any fun o => o.lfn == r.lfn && o.id != r.id && !o.done && o.started

/-- Changes a rewrite. -/
def Slice.onRewrite (s : Slice) (id : Nat) (f : Rewrite → Rewrite) : Slice :=
  { s with flow := { s.flow with rewrites := updWhere (fun (r : Rewrite) => r.id == id) f s.flow.rewrites } }

/-- Accepts a rewrite for filling at a position: it takes its sequence, unless it keeps its source's (R206). -/
def Slice.placeRewrite (s : Slice) (r : Rewrite) (slot pos : Nat) : Slice :=
  let s := s.onRewrite r.id fun r =>
    { r with place := some (slot, pos), home := some slot, filled := [], passed := [], seq := some (r.seq.getD s.frameSeq) }
  let s := if r.seq.isNone then { s with frameSeq := s.frameSeq + 1 } else s
  let s := s.onSlot slot fun k => { k with writePos := pos + 1 }
  if (s.slot slot).capacity ≤ pos + 1 then s.closeSlot slot else s

/-- Whether every earlier position of the slot has filled a lane: fills keep position order (R203). -/
def Slice.laneInOrder (s : Slice) (slot pos lane : Nat) : Bool :=
  !(s.flow.rewrites.any fun r => match r.place with
    | some (k, p) => k == slot && decide (p < pos) && !r.filled.contains lane
    | none => false)
    && !s.flow.husks.any fun h => h.slot == slot && decide (h.pos < pos) && h.pages.any (·.1 == lane)

/-- The chambers of a slice with one more filled at `now`. -/
def Slice.fillChamber (s : Slice) (c : Chamber) : Slice := { s with flow := { s.flow with chambers := s.flow.chambers ++ [c] } }

/-- Whether a lane of a position may be filled in a tick under a grant of number `gk`: phase, grant, an empty chamber, and
position order. -/
def Slice.laneOpen (s : Slice) (g : Sparse Nat) (tick gk slot pos lane : Nat) : Bool :=
  let (reach, group, bank) := s.placeAt slot pos lane
  sget g (grantKey gk reach) 0 != 0 && inReadHalf tick group && s.chamberEmpty reach group bank
    && !s.bankRetired (bankNo reach group bank) && s.laneInOrder slot pos lane

/-- A chamber filled at `now` with a page for a lane of a position. -/
def Slice.chamberFor (s : Slice) (now : Nat) (kind : FillKind) (slot pos lane : Nat) (page : Page) : Chamber :=
  let (reach, group, bank) := s.placeAt slot pos lane
  { reach := reach, group := group, bank := bank, kind := kind, slot := slot, pos := pos, lane := lane, page := page,
    rewrite := none, sysSeq := none, filledAt := now, programming := false }

/-- Fills one lane of a placed rewrite under a grant of number `gk`, when the phase, the chamber and the grant
allow it. -/
def Slice.fillLane (tick now gk id lane : Nat) (sg : Slice × Sparse Nat) : Slice × Sparse Nat :=
  let (s, g) := sg
  match s.flow.rewrites.find? (·.id == id) with
  | none => sg
  | some r =>
    match r.place with
    | none => sg
    | some (slot, pos) =>
      if !r.filled.contains lane && s.laneOpen g tick gk slot pos lane then
        let c := s.chamberFor now r.kind slot pos lane (s.lanePage r slot lane)
        let s := (s.fillChamber { c with rewrite := some id }).onRewrite id fun r => { r with filled := r.filled ++ [lane] }
        let s := if r.filled.length = 15 then
            s.queueParity slot pos (parityOf (s.lanePage r slot 0) ((List.range 16).map (s.lanePage r slot)))
          else s
        (s, takeGrant g gk c.reach)
      else sg

/-- Takes a lane out of an abandoned position; with the last one its parity page is staged, once. -/
def Slice.huskFilled (s : Slice) (h : Husk) (lane : Nat) : Slice :=
  let mine (x : Husk) := x.slot == h.slot && x.pos == h.pos
  let rest := s.flow.husks.map fun (x : Husk) => if mine x then { x with pages := x.pages.filter (·.1 != lane) } else x
  let ends := rest.any fun x => mine x && x.pages.isEmpty
  let s := { s with flow := { s.flow with husks := rest.filter fun x => !x.pages.isEmpty } }
  if ends then s.queueParity h.slot h.pos h.parity else s

/-- Fills what lanes of an abandoned position the grants allow. -/
def Slice.fillHusk (tick now gk : Nat) (sg : Slice × Sparse Nat) (h : Husk) : Slice × Sparse Nat :=
  h.pages.foldl (fun sg (e : Nat × Page) =>
    let (s, g) := sg
    let left := s.huskFilled h e.1
    if left.laneOpen g tick gk h.slot h.pos e.1 then
      let c := s.chamberFor now h.kind h.slot h.pos e.1 e.2
      (left.fillChamber { c with rewrite := some h.rewrite }, takeGrant g gk c.reach)
    else sg) sg

/-- Fills what lanes of a rewrite the grants allow. -/
def Slice.fillRewrite (tick now gk id : Nat) (sg : Slice × Sparse Nat) : Slice × Sparse Nat :=
  (List.range 16).foldl (fun sg lane => Slice.fillLane tick now gk id lane sg) sg

/-- Rank of a rewrite's source work (R243): that of its barge; 0 for a fold. -/
def Slice.rewriteRank (s : Slice) (r : Rewrite) : Nat :=
  match r.barge with
  | some b => ((s.upkeep.barges.find? (·.id == b)).map (·.rank)).getD 0
  | none => 0

/-- Rewrites in the order in which fill grants serve them: by the rank of their work (R153, R243), then as they stand. -/
def Slice.inRank (s : Slice) (rs : List Rewrite) : List Rewrite :=
  sortBy (fun a b => decide (s.rewriteRank a ≤ s.rewriteRank b)) rs

/-- Whether a waiting rewrite may go into a slot that opens: it is bound to none that is open. -/
def Slice.unbound (s : Slice) (r : Rewrite) : Bool :=
  match s.boundTo r with
  | some k => !(s.streamSlots r.kind.stream .opened).contains k
  | none => true

/-- Places and fills rewrites of a kind whose work ranks no later than `rank`, while grants of number `gk` and positions last; a stream
whose fills find no position opens its next reserved slot (R202). -/
def Slice.placeKind (tick now gk rank : Nat) (kind : FillKind) : Nat → Slice × Sparse Nat → Slice × Sparse Nat
  | 0, sg => sg
  | n + 1, (s, g) =>
    if grantTotal g gk = 0 then (s, g)
    else
      let waiting := s.inRank (s.flow.rewrites.filter fun r => s.mayPlace kind r && decide (s.rewriteRank r ≤ rank))
      match waiting.findSome? fun r => (s.nextPosition tick r).map fun q => (r, q) with
      | none => (if waiting.any s.unbound then s.openNext kind.stream else s, g)
      | some (r, slot, pos) =>
        Slice.placeKind tick now gk rank kind n
          (Slice.fillRewrite tick now gk r.id (s.placeRewrite r slot pos, g))

/-- Rank of the work that left an abandoned position. -/
def Slice.huskRank (s : Slice) (h : Husk) : Nat := ((s.flow.rewrites.find? (·.id == h.rewrite)).map s.rewriteRank).getD 0

/-- The fills of one rank of a data kind: abandoned positions and frames already placed, then new ones (R243). -/
def Slice.fillRank (tick now gk : Nat) (kind : FillKind) (sg : Slice × Sparse Nat) (rank : Nat) : Slice × Sparse Nat :=
  let s := sg.1
  let sg := (s.flow.husks.filter fun h => h.kind == kind && s.huskRank h == rank).foldl (Slice.fillHusk tick now gk) sg
  let placed (r : Rewrite) := r.kind == kind && !r.done && r.place.isSome && decide (r.filled.length < 16) && s.rewriteRank r == rank
  let sg := ((sg.1.flow.rewrites.filter placed).map (·.id)).foldl (fun sg id => Slice.fillRewrite tick now gk id sg) sg
  Slice.placeKind tick now gk rank kind 64 sg

/-- The ranks of the work of a data kind, first rank first. -/
def Slice.ranksOf (s : Slice) (kind : FillKind) : List Nat :=
  sortBy (fun a b => decide (a ≤ b)) (dedup (((s.flow.rewrites.filter fun r => r.kind == kind && !r.done).map s.rewriteRank)
    ++ (s.flow.husks.filter (·.kind == kind)).map s.huskRank))

/-- The fills of one data kind in a tick under grants of number `gk`, in the order of the work's ranks (R243). -/
def Slice.fillKind (tick now gk : Nat) (kind : FillKind) (sg : Slice × Sparse Nat) : Slice × Sparse Nat :=
  (sg.1.ranksOf kind).foldl (Slice.fillRank tick now gk kind) sg

/-! ### Parity and system pages (R204, R220) -/

/-- Fills parity pages: those of one slot in position order (R205). A page whose block has gone is dropped. -/
def Slice.fillParity (tick now : Nat) (sg : Slice × Sparse Nat) : Slice × Sparse Nat :=
  let step (acc : (Slice × Sparse Nat) × List Nat) (q : Nat × Nat × Page) : (Slice × Sparse Nat) × List Nat :=
    let ((s, g), seen) := acc
    let rest := { s with flow := { s.flow with parityQ := s.flow.parityQ.erase q } }
    match s.parityPlace q.1 q.2.1 with
    | none => ((rest, g), seen)
    | some (donor, pos, lane) =>
      if !seen.contains q.1 && s.laneOpen g tick 5 donor pos lane then
        let c := s.chamberFor now .parity donor pos lane q.2.2
        let read := (s.stagingLines q.1 q.2.1).foldl (fun s a => s.access 6 a) rest
        ((read.fillChamber c, takeGrant g 5 c.reach), seen)
      else (acc.1, seen ++ [q.1])
  (sg.1.flow.parityQ.foldl step (sg, [])).1

/-- Fills a placed system page, when the phase, the chamber and the grant allow it. -/
def Slice.fillSystem (tick now : Nat) (p : SysPage) (sg : Slice × Sparse Nat) : Slice × Sparse Nat :=
  let (s, g) := sg
  match p.slot with
  | none => sg
  | some slot =>
    let pos := p.pos / 16
    if !p.filled && s.laneOpen g tick 6 slot pos (p.pos % 16) then
      let c := s.chamberFor now .system slot pos (p.pos % 16) (p.asPage s.mediaKey)
      let s := s.fillChamber { c with sysSeq := some p.seq }
      let s := { s with sys := { s.sys with pages := replaceFirst p { p with filled := true } s.sys.pages } }
      (s.stageSystem slot pos c.page, takeGrant g 6 c.reach)
    else sg

/-- Where the next system page can be filled in a tick. -/
def Slice.nextSystemPosition (s : Slice) (tick : Nat) (g : Sparse Nat) : Option (Nat × Nat) :=
  (s.streamSlots .system .opened).findSome? fun k =>
    let d := s.slot k
    let p := d.sysPos
    let (reach, _, _) := s.placeAt k (p / 16) (p % 16)
    if decide (p < systemPositions) && s.healthyReach reach && s.laneOpen g tick 6 k (p / 16) (p % 16) then some (k, p)
    else none

/-- Places and fills waiting system pages while grants and positions last. -/
def Slice.placeSystem (tick now : Nat) : Nat → Slice × Sparse Nat → Slice × Sparse Nat
  | 0, sg => sg
  | n + 1, (s, g) =>
    match s.nextSysPage with
    | none => (s, g)
    | some p =>
      if grantTotal g 6 = 0 then (s, g)
      else match s.nextSystemPosition tick g with
        | none => (s.openNext .system, g)
        | some (slot, pos) =>
          let (q, s) := s.placeSysPage p slot pos
          let (s, g) := Slice.fillSystem tick now q (s, g)
          let s := if pos + 1 = systemPositions then s.closeSlot slot else s
          Slice.placeSystem tick now n (s, g)

/-- The system fills of a tick: pages already placed, then new ones. -/
def Slice.fillSystems (tick now : Nat) (sg : Slice × Sparse Nat) : Slice × Sparse Nat :=
  let placed := sg.1.sys.pages.filter fun p => p.slot.isSome && !p.filled
  let sg := placed.foldl (fun sg p => Slice.fillSystem tick now p sg) sg
  Slice.placeSystem tick now 1024 sg

/-- The page that a block write puts on the medium. -/
def Slice.blockPage (s : Slice) (w : BlockWrite) : Page :=
  match w.data with
  | .root r => rootPage s.mediaKey r
  | .sentinel slc level clock age => SentinelPage.asPage ⟨slc, level, clock, age⟩

/-- Fills the next pages of root and sentinel blocks under the grants of the system stream: in the order of their block's pages, once a
clear of the block has ended (R58, R77, R224). -/
def Slice.fillBlocks (tick now : Nat) (sg : Slice × Sparse Nat) : Slice × Sparse Nat :=
  let step (acc : (Slice × Sparse Nat) × List Nat) (w : BlockWrite) : (Slice × Sparse Nat) × List Nat :=
    let ((s, g), seen) := acc
    let clearing := s.flow.clears.any (·.slot == w.block)
      || (decide (2 ≤ (w.block - slotCount) % 4) && (s.reach ((w.block - slotCount) / 4)).reprogram.any (· != 0))
    if w.filled || seen.contains w.block || clearing || !s.laneOpen g tick 6 w.block w.page 0 then (acc.1, seen ++ [w.block])
    else
      let c := s.chamberFor now .system w.block w.page 0 (s.blockPage w)
      let q := s.flow.blockQ.map fun x => if x = w then { x with filled := true } else x
      (({ s with flow := { s.flow with blockQ := q } }.fillChamber c, takeGrant g 6 c.reach), seen ++ [w.block])
  (sg.1.flow.blockQ.foldl step (sg, [])).1

/-- The fills of the data streams: durable, host, bulk, relocation and refresh, host ones in a drain also under the bulk and durable grants
left unused (R280). While a start's root record is not durable the data streams wait for it (R231). -/
def Slice.dataFills (tick now : Nat) (sg : Slice × Sparse Nat) : Slice × Sparse Nat :=
  if sg.1.sys.rootHold then sg
  else
    let sg := Slice.fillKind tick now 1 .durable sg
    let sg := Slice.fillKind tick now 0 .host sg
    let sg := Slice.fillKind tick now 2 .bulk sg
    let sg := if sg.1.basin.draining then Slice.fillKind tick now 1 .host (Slice.fillKind tick now 2 .host sg) else sg
    Slice.fillKind tick now 4 .refresh (Slice.fillKind tick now 3 .reloc sg)

/-- Every granted fill of a tick, in the order durable, host, bulk, relocation, refresh, parity, block and system pages (DESIGN CHOICE:
R86 does not order the kinds of fill within a tick). -/
def Slice.fills (tick now : Nat) (sg : Slice × Sparse Nat) : Slice × Sparse Nat :=
  Slice.fillSystems tick now (Slice.fillBlocks tick now (Slice.fillParity tick now (Slice.dataFills tick now sg)))

/-- Extra relocation and refresh fills under unused program grants of the next row, those whose own fills were not made
among them, with `free` transfer positions left on each reach (R102); relocation only outside NORMAL (R233). -/
def Slice.extraFills (tick now : Nat) (free : List Nat) (sg : Slice × Sparse Nat) : Slice × Sparse Nat :=
  let (s, g) := sg
  let g := (List.range 18).foldl (fun g r =>
    let unused := total ((List.range 8).map fun k => sget g (grantKey k r) 0)
    sset g (grantKey 7 r) (min unused (free.getD r 0))) g
  let sg := if s.upkeep.watermark == .normal then (s, g) else Slice.fillKind tick now 7 .reloc (s, g)
  if s.sys.rootHold then (s, g) else Slice.fillKind tick now 7 .refresh sg

/-! ### Programs and clear segments (R56, R63–R65, R102) -/

/-- Starts the program pulses of the chambers filled in the previous tick. -/
def Slice.startPrograms (s : Slice) (now : Nat) : Slice :=
  { s with flow := { s.flow with
    chambers := updWhere (fun (c : Chamber) => decide (c.filledAt < now)) (fun c => { c with programming := true }) s.flow.chambers } }

/-- Whether a bank runs a program or a clear segment. -/
def Slice.writing (s : Slice) (reach group bank : Nat) : Bool :=
  s.flow.chambers.any (fun c => c.reach == reach && c.group == group && c.bank == bank && c.programming)
    || s.flow.clears.any fun c => c.reach == reach && c.group == group && c.bank == bank && c.running

/-- Whether a read that a parity rebuild, a request or a page in flight still needs names the block of a clear. -/
def Slice.blockRead (s : Slice) (c : Clear) : Bool :=
  s.flow.flights.any (fun f => c.holds f.req) || s.flow.queue.any c.holds || s.flow.hold.any c.holds
    || s.flow.tow.any (fun q => c.holds q && q.rebuilds)

/-- Whether a clear may run a segment: a source once its STATE entry is durable and no read holds it (R212, R244),
a returned parity block once its return entry is durable and nothing still reads it (R64, R247). -/
def Slice.clearReady (s : Slice) (c : Clear) : Bool :=
  if c.lent then decide (c.entry ≤ s.journal.durable) && (decide (c.left < 1024) || !s.blockRead c) else c.ready

/-- The next clear segment of a reach: the oldest pending one among the banks of the write half (R102). -/
def Slice.nextClear (s : Slice) (tick reach : Nat) : Option Clear :=
  minBy (·.age) (s.flow.clears.filter fun c =>
    c.reach == reach && !inReadHalf tick c.group && !c.running && s.clearReady c && !s.writing c.reach c.group c.bank)

/-- Starts up to `n` clear segments on a reach. -/
def Slice.runClears (tick reach : Nat) : Nat → Slice → Slice × Nat
  | 0, s => (s, 0)
  | n + 1, s =>
    match s.nextClear tick reach with
    | none => (s, n + 1)
    | some c =>
      let s := if c.left = 1024 then s.startClear c else s
      let running := { s with flow := { s.flow with
        clears := updWhere (fun (x : Clear) => x == c) (fun x => { x with running := true }) s.flow.clears } }
      Slice.runClears tick reach n (running.count 63 1)

/-- Step 3 of R86 on a slice: programs, granted clear segments, and outside NORMAL extra segments with the
power-equivalents left unused (R102, R233): the programs and segments that the row grants and that found no work (DESIGN
CHOICE: R102 does not say whether the distance to the power limit counts too). -/
def Slice.writePhase (s : Slice) (now tick : Nat) : Slice :=
  let s := s.startPrograms now
  (List.range 18).foldl (fun s reach =>
    match s.row reach tick with
    | none => s
    | some row =>
      let pulses := (s.flow.chambers.filter fun c => c.reach == reach && c.programming).length
      let (s, left) := Slice.runClears tick reach row.clearSeg s
      let grants := total (fillKinds.map row.prog)
      let s := (s.count 142 (grants - pulses)).count 143 left
      if s.upkeep.watermark == .normal then s
      else (Slice.runClears tick reach (grants - pulses + left) s).1) s

/-! ### Starting folds (R280) -/

/-- Folds a line of the victim buffer straight, which the full basin did not take (R278); its older sectors in the overflow area go. -/
def Slice.foldStraight (s : Slice) (now : Nat) (l : Line) : Slice :=
  let s := s.dropOverflow l.frame l.dirty64
  let s := { s with cache := { s.cache with victims := s.cache.victims.filter (·.line != l.line) } }
  (s.startRewrite now l.frame .host l.cls l.dirty64 l.data64 l.title [] false).count 39 1

/-- Sectors of an overflow record whose lines are marked (R373). -/
def Slice.markedRecord (s : Slice) (l : Line) : BitVec 64 :=
  ((sectorsIn l.dirty64).filter fun k => (overflowSector l.way (k % 4)).any s.dram.marked.contains).foldl withBit 0

/-- Folds an overflow record; sectors of it in marked lines are poisoned (R373, R374). -/
def Slice.foldRecord (s : Slice) (now : Nat) (l : Line) (kind : FillKind) (tow : Bool) : Slice :=
  let bad := s.markedRecord l
  let s := { s with basin := { s.basin with overflow := s.basin.overflow.erase l } }.markPoison l.frame bad
  let m := l.dirty64 &&& ~~~ bad
  if m = 0 then s else s.startRewrite now l.frame kind l.cls m l.data64 l.title [] tow

/-- Starts the volatile fold that comes next in the order of R280; `none` when nothing is due. -/
def Slice.nextVolatile (s : Slice) (dram4 : Bool) (round now : Nat) : Option Slice :=
  let slots := basinSlots dram4
  let straight := s.cache.victims.find? fun l => l.dirty != 0 && s.basinFull dram4 l.frame && s.mayFold l.frame
  let spilled := s.basin.overflow.find? fun l => s.mayFold l.frame
  match straight, spilled with
  | some l, _ => some (s.foldStraight now l)
  | none, some l => some (s.foldRecord now l .host false)
  | none, none =>
    let es := s.basin.entries.filter fun e => !e.durable && !e.bulk && s.mayFold e.lfn
    let pick (p : BasinEntry → Bool) := (minBy (·.firstRound) (es.filter p))
    let named := pick (·.named)
    let full := pick fun e => e.dirty == BitVec.allOnes 64
    let old := pick fun e => decide (e.firstRound + s.basin.foldAge < round)
    let crowded := if s.basin.foldOccupancy * slots ≤ 100 * s.basin.entries.length then pick (fun _ => true) else none
    match named.orElse (fun _ => full.orElse fun _ => old.orElse fun _ => crowded) with
    | some e => some (s.foldEntry now e .host false)
    | none => none

/-- Starts up to `n` volatile folds. -/
def Slice.volatileFolds (dram4 : Bool) (round now : Nat) : Nat → Slice → Slice
  | 0, s => s
  | n + 1, s =>
    match s.nextVolatile dram4 round now with
    | some s => Slice.volatileFolds dram4 round now n s
    | none => s

/-- Starts the folds of entries that meet `p`, up to `n` of them: those that a drain or persist named first (R293), then oldest first. -/
def Slice.entryFolds (s : Slice) (now n : Nat) (kind : FillKind) (tow : Bool) (p : BasinEntry → Bool) : Slice :=
  ((sortBy (fun a b => (a.named && !b.named) || (a.named == b.named && decide (a.firstRound ≤ b.firstRound))) (s.basin.entries.filter fun e => p e && !s.folding e.lfn)).take n).foldl
    (fun s e => if s.mayFold e.lfn then s.foldEntry now e kind tow else s) s

/-- A drain is under way while the cache drains or something that it named is left in the basin (R279, R280). -/
def Slice.endDrain (s : Slice) : Slice :=
  if s.cache.state == .draining || s.basin.entries.any (·.named) || !s.basin.overflow.isEmpty then s
  else { s with basin := { s.basin with draining := false } }

/-- Fills of a kind that the rows of a tick grant over the healthy reaches. -/
def Slice.grantedFills (s : Slice) (tick : Nat) (kind : FillKind) : Nat :=
  total ((List.range 18).map fun r =>
    if s.healthyReach r then match s.row r tick with
      | some row => row.fill kind
      | none => 0
    else 0)

/-- The folds that start at a tick boundary (R280): durable at once, bulk and volatile one for every 16 fills
granted; a volatile fold in a drain may use bulk and durable fills left unused. In PRESERVE every entry is
written through the relocation stream (R267). -/
def Slice.startFolds (s : Slice) (dram4 preserve : Bool) (tick round now : Nat) : Slice :=
  if preserve then
    let s := s.entryFolds now 1024 .reloc true fun e => !s.folding e.lfn
    s.basin.overflow.foldl (fun s l =>
      if s.mayFold l.frame then s.foldRecord now l .reloc true else s) s
  else
    let s := s.entryFolds now 1024 .durable false (·.durable)
    let c := s.basin.carry
    let bulk := s.grantedFills tick .bulk
    let host := s.grantedFills tick .host
    let dur := s.grantedFills tick .durable
    let bulkSum := c.getD 1 0 + bulk
    let s := s.entryFolds now (bulkSum / 16) .bulk false fun e => e.bulk && !e.durable
    let unused :=
      if s.basin.draining then
        (if s.basin.entries.any fun e => e.bulk && !e.durable then 0 else bulk)
          + (if s.flow.rewrites.any fun r => r.kind == .durable && !r.done then 0 else dur)
      else 0
    let hostSum := c.getD 0 0 + host + unused
    let s := { s with basin := { s.basin with carry := [hostSum % 16, bulkSum % 16, 0] } }
    (Slice.volatileFolds dram4 round now (hostSum / 16) s).endDrain

/-! ### Barges (R240, R243) -/

/-- Valid frames of a slot in ascending position order that no rewrite moves already. -/
def Slice.validFrames (s : Slice) (slot : Nat) : List (Nat × MapEntry) :=
  sortBy (fun (a b : Nat × MapEntry) => decide (a.2.pos ≤ b.2.pos))
    (s.map.filter fun (e : Nat × MapEntry) => !e.2.trimmed && e.2.slot == slot
      && !s.flow.rewrites.any fun r => r.lfn == e.1 && r.source == some (e.2.slot, e.2.pos) && !r.done)

/-- Forms a barge of up to 16 frames of a source: the rewrites keep the sequence and title of the source pages
(R206, R240) and wait for the reads of their 16 subpages. -/
def Slice.formBarge (s : Slice) (now slot rank : Nat) (kind : FillKind) (frames : List (Nat × MapEntry)) : Slice :=
  let fs := frames.take 16
  let (bid, s) := s.newId
  let tow : TowKind := if kind == .refresh then .refresh else .reloc
  let step (acc : Slice × List Nat) (f : Nat × MapEntry) : Slice × List Nat :=
    let (s, ids) := acc
    let (id, s) := s.newId
    let pg := (List.range 16).findSome? (s.page f.2.slot f.2.pos)
    let r : Rewrite :=
      { id := id, lfn := f.1, kind := kind, cls := 8, snap := 0, data := zeroFrame, need := List.range 16, poison := 0,
        title := pg.bind (·.title), seq := pg.map (·.seq), key := pg.bind (·.key), source := some (f.2.slot, f.2.pos), barge := some bid, fails := 0,
        place := none, home := none, lost := none, filled := [], passed := [], acks := [], fold := false, buffer := 0, done := false }
    let reads := (List.range 16).map fun i =>
      { s.request now f.1 i 8 (.rewrite id) false false with tow := some tow }
    ({ s with flow := { s.flow with
       rewrites := s.flow.rewrites ++ [r], tow := s.flow.tow ++ reads } }, ids ++ [id])
  let (s, ids) := fs.foldl step (s, [])
  { s with upkeep := { s.upkeep with barges := s.upkeep.barges ++ [⟨bid, slot, ids, rank⟩] } }

/-- Slots with data on a bank, by open epoch. -/
def Slice.dataSlots (s : Slice) (p : Slot → Bool) : List Nat :=
  (sortBy (fun (a b : Nat × Slot) => decide (a.2.epoch ≤ b.2.epoch))
    (s.slots.filter fun e => (e.2.state == .closed || e.2.state == .verified) && e.2.stream != .system && p e.2)).map (·.1)

/-- Whether greedy reclamation runs: in NORMAL only while F is below 24 (R233). -/
def Slice.reclaims (s : Slice) : Bool := s.upkeep.watermark != .normal || decide (s.free < 24)

/-- Whether static leveling moves its victim: in NORMAL with F at 24 or more (R253). -/
def Slice.levels (s : Slice) : Bool := s.upkeep.staticOn && s.upkeep.watermark == .normal && decide (24 ≤ s.free)

/-- Sources of relocation and refresh work in the order of R243, as (slot, rank, kind). -/
def Slice.sources (s : Slice) : List (Nat × Nat × FillKind) :=
  let u := s.upkeep
  let reach := match u.evacReach with
    | some r => (s.dataSlots fun k => k.laneReach.contains r).map fun k => (k, 1, FillKind.reloc)
    | none => []
  let banks := (s.dataSlots fun k => k.banks.any u.evacBanks.contains).map fun k => (k, 2, FillKind.reloc)
  let marked := (dedup (u.marked.map (·.1))).map fun k => (k, 3, FillKind.reloc)
  let greedy := if s.reclaims then (u.victim.map fun k => (k, 4, FillKind.reloc)).toList else []
  let static := if s.levels then (u.staticVictim.map fun k => (k, 5, FillKind.reloc)).toList else []
  let refresh := (u.refreshFirst.map fun k => (k, 1, FillKind.refresh)) ++ (u.refreshQ.map fun k => (k, 2, FillKind.refresh))
    ++ u.refreshReported.map fun k => (k, 3, FillKind.refresh)
  reach ++ banks ++ marked ++ greedy ++ static ++ refresh

/-- Frames of a source that its rank moves: only the marked ones for relocation work of rank 3 (R246). -/
def Slice.sourceFrames (s : Slice) (src : Nat × Nat × FillKind) : List (Nat × MapEntry) :=
  let fs := s.validFrames src.1
  if src.2.1 = 3 && src.2.2 == .reloc then fs.filter fun f => s.upkeep.marked.contains (src.1, f.2.pos) else fs

/-- Forms barges while fewer than 8 are in flight (R240); single frames queued for refresh go last (R255). -/
def Slice.formBarges (s : Slice) (now : Nat) : Nat → Slice
  | 0 => s
  | n + 1 =>
    if 8 ≤ s.upkeep.barges.length then s
    else match s.sources.find? fun src => !(s.sourceFrames src).isEmpty with
      | some src => (s.formBarge now src.1 src.2.1 src.2.2 (s.sourceFrames src)).formBarges now n
      | none =>
        match s.upkeep.refreshFrames.find? fun lfn => !(s.entry lfn).trimmed
            && !s.flow.rewrites.any fun r => r.lfn == lfn && !r.done && r.source.isSome with
        | some lfn =>
          let e := s.entry lfn
          let s := s.formBarge now e.slot 3 .refresh [(lfn, e)]
          { s with upkeep := { s.upkeep with refreshFrames := s.upkeep.refreshFrames.erase lfn } }.formBarges now n
        | none => s

end Sys2Proof.Machine
end

