-- ==== Sys2Proof/Machine/DataPath.lean ====
section
/-!
DEFINITION. The data path of host and bulk-engine accesses: writes into the line cache and the basin, reads from
the line cache, basin, fold buffers, map and admission queues, with poison, protection and the streamed regions
(R19–R25, R47, R190–R192, R273–R276, R292, R298, R301, R303, R308, R309, R360, R372, R475).
-/
namespace Sys2Proof.Machine

open Sys2Proof

/-! ### Manifest entries (R471) -/

/-- Entries of the manifest in force. -/
def Cart.entryCount (c : Cart) : Nat := byteAt c.manifest 5

/-- Offset of manifest entry `e`. -/
def entryAt (e : Nat) : Nat := 64 + 128 * e

/-- Title identifier of entry `e`. -/
def Cart.titleId (c : Cart) (e : Nat) : BitVec 128 := BitVec.ofNat 128 (leAt c.manifest (entryAt e) 16)

/-- Content offset of entry `e`. -/
def Cart.contentOffset (c : Cart) (e : Nat) : Nat := leAt c.manifest (entryAt e + 0x10) 8

/-- Content length of entry `e`. -/
def Cart.contentLength (c : Cart) (e : Nat) : Nat := leAt c.manifest (entryAt e + 0x18) 8

/-- Digest of the hash table of entry `e`. -/
def Cart.tableDigest (c : Cart) (e : Nat) : List Byte := bytesAt c.manifest (entryAt e + 0x30) 48

/-- Whether entry `e` is installable. -/
def Cart.installable (c : Cart) (e : Nat) : Bool := bitAt (byteAt c.manifest (entryAt e + 0x28)) 0

/-- Whether entry `e` is streamable. -/
def Cart.streamable (c : Cart) (e : Nat) : Bool := bitAt (byteAt c.manifest (entryAt e + 0x28)) 1

/-- Whether an authenticated card serves (R465, R476): authentication passed and the link up. -/
def Cart.serves (c : Cart) : Bool := c.auth == 2 && c.linkUp

/-- Bytes of a content unit (R472). -/
def unitBytes : Nat := 262144

/-- The manifest entry that serves a mapped region: same identifier, content length and hash table digest
(R476). -/
def Cart.entryOf (c : Cart) (region : Nat) : Option Nat :=
  match c.streamMaps.find? fun (m : StreamMap) => m.region == region with
  | none => none
  | some m =>
    if c.serves then
      (List.range c.entryCount).find? fun e =>
        c.titleId e == m.id && c.contentLength e == m.length && c.tableDigest e == m.digest
    else none

/-- Sends commands to the card, in order. -/
def Dev.issue (d : Dev) (l : List CardCommand) : Dev := { d with out := d.out ++ l.map Output.card }

/-- Reads of namespace 1 that cover `n` bytes from `a`, none longer than `limit` (R465). -/
def readsOf (limit a n : Nat) : List CardCommand :=
  (List.range (ceilDiv n limit)).map fun k => .read (a + k * limit) (min limit (n - k * limit))

/-- Reads a unit of a manifest entry's content, the last one shorter (R472). -/
def Dev.readUnit (d : Dev) (e u : Nat) : Dev :=
  d.issue (readsOf d.cart.readLimit (d.cart.contentOffset e + u * unitBytes) (min unitBytes (d.cart.contentLength e - u * unitBytes)))

/-- The hash table of an entry: the one loaded, or the one of the same digest that a mapping keeps. -/
def Cart.tableOf (c : Cart) (e : Nat) : List Byte :=
  match c.hashTables.find? (·.1 == e) with
  | some t => t.2
  | none => ((c.streamMaps.find? fun (m : StreamMap) => m.digest == c.tableDigest e).map (·.table)).getD []

/-- Decrypts the sector of a unit that holds offset `o` of the content: four cipher blocks of its 4 KiB data unit (R472). -/
def decryptSector (key : BitVec 256) (unit : Nat) (bytes : List Byte) (o : Nat) : Sector :=
  xtsDec (contentKeyOf key) (o / 4096) (o / 64 % 64 * 4) (sectorOf (bytesAt bytes (o / 64 * 64 - unitBytes * unit) 64))

/-- The sector at content offset `o` as a streamed region shows it: bytes beyond the content length read zero (R475). -/
def contentSector (key : BitVec 256) (length unit : Nat) (bytes : List Byte) (o : Nat) : Sector :=
  sectorOf (padTo 64 ((sectorBytes (decryptSector key unit bytes o)).take (length - o / 64 * 64)))

/-! ### The package fabric (R19–R24) -/

/-- Hops of a flow on the ring of `n` slices, as (slice, ascending) links in order (R21). -/
def route (n src dst : Nat) : List (Nat × Bool) :=
  let up := (dst + n - src) % n
  let down := (src + n - dst) % n
  if up ≤ down then (List.range up).map fun i => ((src + i) % n, true)
  else (List.range down).map fun i => ((src + n - i) % n, false)

/-- Bytes charged to a link for a payload carried over it: 5/4 of it, which covers the request, the completion and headers (DESIGN
CHOICE: R20 gives no sizes; the charge is that of R148). -/
def linkCharge (bytes : Nat) : Nat := ceilDiv (5 * bytes) 4

/-- Bytes pass a link end of a slice, 0 for A and 1 for B, sent or received; whole 256-byte units are counted. -/
def Slice.linkBytes (s : Slice) (link : Nat) (sent : Bool) (n : Nat) : Slice :=
  let e := s.links.getD link {}
  let sum := (if sent then e.sent else e.received) + n
  let e := if sent then { e with sent := sum % 256 } else { e with received := sum % 256 }
  { s with links := upd s.links link fun _ => e }.count (120 + 2 * link + b2n (!sent)) (sum / 256)

/-- Bytes cross one hop of the ring: out of the link end of a slice, A upwards, and into that of its neighbour. -/
def Dev.hopBytes (d : Dev) (n : Nat) (hop : Nat × Bool) : Dev :=
  let k := d.sliceCount
  let next := if hop.2 then (hop.1 + 1) % k else (hop.1 + k - 1) % k
  (d.onSlice hop.1 fun s => s.linkBytes (b2n (!hop.2)) true n).onSlice next fun s => s.linkBytes (b2n hop.2) false n

/-- A payload travels between two slices by the route of R21 (R20). -/
def Dev.fabric (d : Dev) (bytes src dst : Nat) : Dev :=
  (route d.sliceCount src dst).foldl (fun d hop => d.hopBytes (linkCharge bytes) hop) d

/-- A request of port `p` for slice `i` is forwarded over the fabric (R19–R21): its data travels to the slice of a write and
from that of a read. -/
def Dev.countForward (d : Dev) (p i : Nat) (write : Bool) : Dev :=
  if p = i then d
  else
    let d := if write then d.fabric 64 p i else d.fabric 64 i p
    (d.count p 106 1).count i 107 1

/-! ### Completions (R292, R303, R317) -/

/-- Whether an IDE integrity failure has stopped CXL.mem service through a port; nothing leaves it then (R314). -/
def Dev.portInsecure (d : Dev) (p : Nat) : Bool := (d.port p).ideInsecure.contains true

/-- Ends a host write that still has its completion due with what it is answered; through an insecure port nothing is sent (R314). -/
def Dev.endWrite (d : Dev) (port tag : Nat) (o : Output) : Dev :=
  if (d.port port).writes.contains tag then
    let e := d.onPort port fun p => { p with writes := p.writes.erase tag }
    if d.portInsecure port then e else e.emit o
  else d

/-- Sends the completion of a host write that still has one due. -/
def Dev.completeWrite (d : Dev) (port tag : Nat) : Dev := d.endWrite port tag (.cxlDone port tag)

/-- A bus error answers a host write that a DRAM line refused (R372, R373). -/
def Dev.refuseWrite (d : Dev) (port tag : Nat) : Dev := d.endWrite port tag (.cxlError port tag)

/-- Changes a descriptor of a ring. -/
def Dev.onDesc (d : Dev) (ring slot : Nat) (f : Desc → Desc) : Dev :=
  d.onRing ring fun r => { r with descs := updWhere (fun (x : Desc) => x.slot == slot) f r.descs }

/-- One part of a descriptor's work has ended; with the last the descriptor may complete, with MEDIA_ERROR when a
source sector was poisoned (R422). -/
def Dev.descPart (d : Dev) (ring slot : Nat) : Dev :=
  d.onDesc ring slot fun x =>
    let left := x.pending - 1
    { x with
      pending := left
      status := if left = 0 then some (x.status.getD (if x.poisoned = 0 then 0 else 8)) else x.status }

/-- The waiting responses with one replaced. -/
def replaceWaiter (old new : Waiter) (l : List Waiter) : List Waiter := l.map fun w => if w = old then new else w

/-- A trim of a slot under deletion has been performed: with the last the record is erased and the command answered
(R445). -/
def Dev.titleTrimmed (d : Dev) (t : Nat) : Dev :=
  match d.waiters.find? fun w => match w.what with
    | .trims x _ => x == t
    | _ => false with
  | none => d
  | some w =>
    match w.what with
    | .trims _ (n + 2) => { d with waiters := replaceWaiter w { w with what := .trims t (n + 1) } d.waiters }
    | _ =>
      (({ d with waiters := d.waiters.erase w }.onTitle t fun _ => {}).countPkg 16 1).respond w.channel w.opcode w.tag 0 0 []

/-- Answers one completion owed (R142, R211, R420). -/
def Dev.ack (d : Dev) (a : Ack) : Dev :=
  match a with
  | .host port tag _ _ => d.completeWrite port tag
  | .desc ring slot => d.descPart ring slot
  | .title slot => d.titleTrimmed slot

/-- Answers a list of completions. -/
def Dev.acks (d : Dev) (l : List Ack) : Dev := l.foldl Dev.ack d

/-- Data of a host read leaves the port, unless the read was dropped by a port reset (R317) or the port has become insecure (R314). -/
def Dev.answerRead (d : Dev) (port tag cls : Nat) (v : Option Sector) : Dev :=
  if !(d.port port).reads.contains tag then d
  else if d.portInsecure port then d.onPort port fun p => { p with reads := p.reads.erase tag }
  else
    let d := d.onPort port fun p =>
      { p with reads := p.reads.erase tag, bwRead := upd p.bwRead cls (· + 64) }
    (if v.isNone then d.count port 108 1 else d).emit (.cxlData port tag v)

/-! ### Events of an access -/

/-- A host read returned poison from the medium or the map (R47, R76, R192). -/
def Dev.mediaPoison (d : Dev) (slice reason reach dpa : Nat) : Dev := d.event 0x0101 slice reason reach (p6 dpa)

/-- A General Media record without a recorder event, for a read that R301 poisons. -/
def Dev.positionPoison (d : Dev) (port dpa : Nat) : Dev :=
  d.logEvent ⟨0x0101, d.sliceOf dpa, 0, port, p6 dpa, d.lifeClock⟩

/-- A write is discarded and logged (R30, R266, R301, R365, R399). -/
def Dev.discardWrite (d : Dev) (port dpa reason : Nat) : Dev :=
  let d := d.count port 110 1
  let d := if reason = 1 then
      { d with preserve := { d.preserve with
        discarded := min (2 ^ 48 - 1) (d.preserve.discarded + 1)
        firstDpa := some (d.preserve.firstDpa.getD dpa) } }
    else d
  d.event 0x010C (d.sliceOf dpa) reason port (p6 dpa)

/-- Frames lost: sectors of a frame poisoned by upkeep (R76, R242). -/
def Dev.frameLost (d : Dev) (i reason reach lfn : Nat) (m : BitVec 64) : Dev :=
  (d.count i 69 1).event 0x0102 i reason reach (leBytes 4 lfn ++ leBytes 4 0 ++ leBytes 8 m.toNat)

/-- Whether tag failures of a slice follow the service column of R372. -/
def Dev.serviceColumn (d : Dev) (i : Nat) : Bool := d.mode.isService && !(d.slice i).inRecovery

/-- A DRAM line takes the poisoned-line marker (R372, R373). -/
def Dram.mark (m : Dram) (a : Nat) : Dram :=
  { m with marked := if m.marked.contains a then m.marked else m.marked ++ [a] }

/-- A failed DRAM tag check (R372): `access` 1 host read, 2 internal read, 3 partial write, 4 sweep step. It is
counted and recorded, and in the service column it is an alarm counted for the policy of R385. -/
def Dev.tagFail (d : Dev) (i access address : Nat) : Dev :=
  let d := (d.count i (127 + access) 1).event 0x0304 i access 0xFF (p6 address)
  if d.serviceColumn i then
    (d.onSlice i fun s => { s with alarmsInRound := s.alarmsInRound + 1 }).alarm 0 (some i) 0
  else d

/-! ### Writes (R275, R276, R282, R309) -/

/-- Title slots that are being closed, whose ranges a clean-and-invalidate is at (R365, R366). -/
def Dev.closingTitles (d : Dev) : List Nat :=
  d.dbg.closing.map (·.2) ++ d.waiters.filterMap fun w => match w.what with
    | .flush _ t _ => some t
    | _ => none

/-- Whether a DPA lies in the range of a maintenance operation or of a title that is being closed (R284, R365). -/
def Dev.underMaint (d : Dev) (dpa : Nat) : Bool :=
  (match d.regs.maintRun with
    | some m => decide (m.first ≤ dpa / 256) && decide (dpa / 256 < m.first + m.count)
    | none => false)
    || d.closingTitles.any fun t => (d.title t).ranges.any fun r => decide (r.1 ≤ dpa) && decide (dpa < r.1 + r.2)

/-- Whether a write is held at ingress: the hold watermark, a full journal buffer, or for a host write a
maintenance range under way (R152, R217, R284). -/
def Dev.writeHeld (d : Dev) (w : HeldWrite) : Bool :=
  let s := d.slice (d.sliceOf w.dpa)
  s.upkeep.watermark == .hold || s.upkeep.watermark == .dry || s.journal.held || (w.desc.isNone && d.underMaint w.dpa)

/-- Sectors of a fold in flight that are poisoned after its snapshot was taken: its map step keeps them poisoned (R309). -/
def Slice.poisonFolds (s : Slice) (lfn : Nat) (m : BitVec 64) : Slice :=
  { s with flow := { s.flow with
    rewrites := updWhere (fun (r : Rewrite) => r.fold && !r.done && r.lfn == lfn)
      (fun r => { r with snap := r.snap &&& ~~~ m, poison := r.poison ||| m }) s.flow.rewrites } }

/-- Drops a sector of a frame from every line, the basin and the overflow area, and marks it poisoned with a
POISON entry (R309). -/
def Slice.poisonWrite (s : Slice) (lfn k : Nat) : Slice :=
  let m : BitVec 64 := BitVec.twoPow 64 k
  let s := s.poisonFolds lfn m
  ((s.invalidateSectors lfn m).dropBasin lfn m).markPoison lfn m

/-- Writes a sector of a durable region (R276): a hit becomes valid and clean, and the other dirty sectors of the
line travel with it into the basin. -/
def Slice.durableWrite (s : Slice) (dram4 : Bool) (round lfn k : Nat) (v : Sector) (o : Origin) : Option Slice :=
  let line := lineOf lfn (k / 4)
  let cached := s.lineOf? line
  let queued := s.victimOf line
  let dirty := (match cached with | some l => l.dirty64 | none => 0)
    ||| (match queued with | some l => l.dirty64 | none => 0)
  let base := match queued with
    | some l => mergeSectors zeroFrame l.data64 l.dirty64
    | none => zeroFrame
  let data := match cached with
    | some l => mergeSectors base l.data64 l.dirty64
    | none => base
  let m := withBit dirty k
  match s.basinPut dram4 round lfn m (putSector data k v) o with
  | none => none
  | some s =>
    let s := { s with cache := { s.cache with victims := s.cache.victims.filter (·.line != line) } }
    if s.cache.state == .on || s.cache.state == .draining then
      some (match cached with
        | some l => ((s.onLine line fun l => { l.write (k % 4) v false with dirty := 0 }).useWay (setOf line) l.way).count 34 1
        | none => s)
    else some s

/-- Offers a line of the cache to a drain, which leaves it clean when it is accepted (R279, R287). -/
def Slice.writeThrough (s : Slice) (dram4 : Bool) (round line : Nat) : Slice :=
  s.cleanLines dram4 round true fun l => l.line == line

/-- Writes a sector of a volatile region from a host (R275, R282, R287): `none` when it waits. While the cache is DRAINING a hit is
written into the line, and through to the basin; a line that the basin does not take stays dirty for the drain (R292). -/
def Slice.volatileWrite (s : Slice) (dram4 : Bool) (round lfn k : Nat) (v : Sector) (prot : Bool)
    (o : Origin) : Option Slice :=
  let line := lineOf lfn (k / 4)
  let write (l : Line) : Line := { l.write (k % 4) v true with prot := prot, cls := o.cls, title := o.title }
  let toBasin := s.basinPut dram4 round lfn (BitVec.twoPow 64 k) (putSector zeroFrame k v) o
  match s.cache.state with
  | .invalidating => none
  | .on => (s.writeLine line (k % 4) v prot o.cls o.title).map fun s => s.pumpVictims dram4 round
  | .draining =>
    if (s.lineOf? line).isSome then some (((s.onLine line write).count 34 1).writeThrough dram4 round line)
    else if (s.victimOf line).isSome then some ((s.onVictim line write).count 34 1)
    else toBasin.map fun s => s.count 35 1
  | .off => if (s.victimOf line).isSome then some ((s.onVictim line write).count 34 1) else toBasin

/-- Writes a sector through the bulk engine (R25, R282): cached copies are dropped, the data enters the basin. -/
def Slice.bulkWrite (s : Slice) (dram4 : Bool) (round lfn k : Nat) (v : Sector) (o : Origin) : Option Slice :=
  (s.basinPut dram4 round lfn (BitVec.twoPow 64 k) (putSector zeroFrame k v) o).map fun s =>
    let m : BitVec 64 := BitVec.twoPow 64 k
    s.invalidateSectors lfn m

/-- Whether a line belongs to a protected range (R375). -/
def Dev.lineProtected (d : Dev) (c : Class) (dpa : Nat) : Bool :=
  c.isProtected || d.protectedRange (dpa / 256 * 256) 256

/-- The key a write seals its frame under (R360): that of the slot of its sealed region. -/
def Class.title (c : Class) : Option Nat := c.sealedSlot

/-- The basin entry whose index header a host write to a frame updates, which is a partial write of its line (R277, R368): that of a
write that the line cache does not keep. DEDUCED: sectors are written as whole lines, which check no tag. -/
def Slice.basinHeader (s : Slice) (c : Class) (poison : Bool) (lfn : Nat) : Option BasinEntry :=
  if c.durable || poison || s.cache.state == .draining || s.cache.state == .off then s.basinOf lfn else none

/-- Whether the index header that a write updates is marked: the write is refused with a bus error in every mode (R373). -/
def Slice.refuses (s : Slice) (c : Class) (bulk poison : Bool) (lfn : Nat) : Bool :=
  (if bulk then s.basinOf lfn else s.basinHeader c poison lfn).any s.headerMarked

/-- A completion that waits until a journal entry is durable. -/
def Slice.owe (s : Slice) (entry lfn cls : Nat) (acks : List Ack) : Slice :=
  if acks.isEmpty then s
  else { s with flow := { s.flow with
    durables := s.flow.durables ++ [({ id := s.flow.nextId, entry := entry, lfn := lfn, cls := cls, fails := 0, acks := acks } : Durable)]
    nextId := s.flow.nextId + 1 } }

/-- A poisoned sector of a bulk-engine write to a durable region completes once its POISON entry is durable (R292, R420), any other
poisoned write when the entry is in the journal buffer (R309). -/
def Dev.poisonDone (d : Dev) (i lfn entry : Nat) (durable : Bool) (own : Ack) : Dev :=
  if durable then d.onSlice i fun s => s.owe entry lfn 6 [own] else d.ack own

/-- A write refused with a bus error ends: a host write with that answer, a descriptor's part as poison at its destination (DESIGN
CHOICE: R422 names no status for it). -/
def Dev.writeRefused (d : Dev) (w : HeldWrite) : Dev :=
  match w.desc with
  | some (r, n) => (d.onDesc r n fun x => { x with poisoned := x.poisoned + 1, firstPoison := some (x.firstPoison.getD w.dpa) }).descPart r n
  | none => d.refuseWrite w.port w.tag

/-- Tries a write that is not discarded; `none` when it waits at ingress, as it does until the clearing of the cache ends (R272). -/
def Dev.tryWrite (d : Dev) (w : HeldWrite) : Option Dev :=
  if d.writeHeld w || (d.slice (d.sliceOf w.dpa)).cache.state == .invalidating then none
  else
    let i := d.sliceOf w.dpa
    let lfn := d.frameOf w.dpa
    let k := sectorInFrame w.dpa
    let own : Ack := match w.desc with
      | some (r, n) => .desc r n
      | none => .host w.port w.tag (d.now - (d.slice i).flow.holdTicks) w.cls.cls
    let bulk := w.desc.isSome
    let o : Origin :=
      { cls := if bulk then 6 else w.cls.cls, durable := w.cls.durable, bulk := bulk, title := w.cls.title,
        acks := if w.cls.durable then [own] else [] }
    let dram4 := d.fuses.dram4
    let done (d : Dev) : Dev := if w.cls.durable then d else d.ack own
    if (d.slice i).refuses w.cls bulk w.data.isNone lfn then some (d.writeRefused w)
    else match w.data with
    | none =>
      let entry := (d.slice i).journal.next
      some ((d.onSlice i fun s => s.poisonWrite lfn k).poisonDone i lfn entry (bulk && w.cls.durable) own)
    | some v =>
      let s := d.slice i
      let s' :=
        if bulk then s.bulkWrite dram4 d.round lfn k v o
        else if w.cls.durable then s.durableWrite dram4 d.round lfn k v o
        else s.volatileWrite dram4 d.round lfn k v (d.lineProtected w.cls w.dpa) o
      s'.map fun s => done (d.onSlice i fun _ => s)

/-- Makes a write, or holds it at ingress behind an older write to its line. -/
def Dev.putWrite (d : Dev) (w : HeldWrite) : Dev :=
  let i := d.sliceOf w.dpa
  let hold (d : Dev) : Dev := d.onSlice i fun s =>
    { s with flow := { s.flow with heldWrites := s.flow.heldWrites ++ [w] } }
  if (d.slice i).flow.heldWrites.any fun h => h.dpa / 256 == w.dpa / 256 then hold d
  else match d.tryWrite w with
    | some d => d
    | none => hold d

/-- The reason for which a host write is discarded, if it is (R30, R32, R266, R355, R365, R399). -/
def Dev.discardReason (d : Dev) (c : Class) (dpa : Nat) : Option Nat :=
  if d.mode == .preserve then some 1
  else if d.mode == .recovery || (d.slice (d.sliceOf dpa)).inRecovery then some 2
  else if c.access == 1 then some 3
  else if c.access == 2 then some 4
  else match c.sealedSlot with
    | some t => if (d.title t).state == .opened then none else some 5
    | none => none

/-- Tries the writes held at ingress of a slice again, oldest first; a write stays behind an older one to its line. Those that the
device has come to discard meanwhile are discarded like any other (R266). -/
def Dev.retryWrites (d : Dev) (i : Nat) : Dev :=
  let held := (d.slice i).flow.heldWrites
  let d := d.onSlice i fun s => { s with flow := { s.flow with heldWrites := [] } }
  held.foldl (fun d w =>
    match d.discardReason w.cls w.dpa with
    | none => d.putWrite w
    | some r =>
      let d := d.discardWrite w.port w.dpa r
      match w.desc with
      | some (ring, slot) => d.descPart ring slot
      | none => d.completeWrite w.port w.tag) d

/-- Whether a port serves CXL.mem requests: link in L0, no stream insecure (R314), a mode of R30 that serves, and no
orderly shutdown that has closed admission (R225, R322). -/
def Dev.portServes (d : Dev) (p : Nat) : Bool :=
  let pt := d.port p
  pt.link == .l0 && !pt.down && !d.portInsecure p && (d.mode.isService || d.mode == .recovery)
    && !d.slices.any fun s => s.shutdown.ending || s.shutdown.done

/-- A host write whose partial write of a line fails its tag check (R372): it is refused with a bus error, and the line left as it is or,
in the boot and recovery column, marked. -/
def Dev.tagRefuses (d : Dev) (i a port tag : Nat) : Dev :=
  let column := d.serviceColumn i
  let d := d.tagFail i 3 a
  (if column then d else d.onSlice i fun s => { s with dram := s.dram.mark a }).refuseWrite port tag

/-- CXL_MEM_WRITE (R275, R276, R301, R309). A request that no committed decoder claims is not of this device. -/
def execCxlMemWrite (port hpa tag : Nat) (data : Sector) (poison : Bool) (env : AccessEnv) (s : State) :
    Host.Outcome State Fault Refusal :=
  runPort port s fun d =>
    if !d.portServes port || 1024 ≤ (d.port port).writes.length then d
    else match (d.port port).decode hpa with
      | none => d
      | some (dpa, ok) =>
        let c := d.classOf port dpa
        let d := d.onPort port fun p =>
          { p with
            writes := p.writes ++ [tag]
            activeInRound := true
            bwWrite := upd p.bwWrite c.cls (· + 64) }
        let d := d.count port 105 1
        let d := if poison then d.count port 109 1 else d
        if !ok || d.capacity ≤ dpa then (d.discardWrite port dpa 6).completeWrite port tag
        else match d.discardReason c dpa with
          | some r => (d.discardWrite port dpa r).completeWrite port tag
          | none =>
            let i := d.sliceOf dpa
            let lfn := d.frameOf dpa
            let d := d.countForward port i true
            let data := if poison then none else some data
            let w : HeldWrite := ⟨port, tag, dpa, data, c, none, d.now⟩
            match (d.slice i).basinHeader c poison lfn with
            | some e =>
              if env.tagFail && !(d.slice i).headerMarked e then d.tagRefuses i (headerAddress e.index) port tag
              else d.putWrite w
            | none => d.putWrite w

/-! ### Reads (R273, R308) -/

/-- Whether the frame key of a page is loaded: an unsealed page, or one of an open slot (R360). -/
def Dev.keyLoaded (d : Dev) (t : Option Nat) : Bool :=
  match t with
  | some n => (d.title n).state == .opened
  | none => true

/-- Looks for a sector in the places of R273; `cached` is false for the bulk engine, which passes the line cache
(R25). -/
def Slice.find (s : Slice) (cached : Bool) (lfn k : Nat) : Found :=
  let line := lineOf lfn (k / 4)
  let inCache : Option Sector :=
    if cached && (s.cache.state == .on || s.cache.state == .draining) then
      match s.lineOf? line with
      | some l => if has l.valid (k % 4) then some (l.data.getD (k % 4) 0) else none
      | none => none
    else none
  match inCache with
  | some v => .hit v false
  | none =>
    let inVictim : Option Sector := if cached then
        match s.victimOf line with
        | some l => if has l.valid (k % 4) then some (l.data.getD (k % 4) 0) else none
        | none => none
      else none
    match inVictim with
    | some v => .hit v true
    | none =>
      match s.newerAt lfn k with
      | some (v, ls) => .newer v ((ls.find? s.dram.marked.contains).getD (ls.headD 0))
      | none =>
        if s.mapLost lfn then .lost
        else if has (s.poisonMask lfn) k then .poisoned
        else if (s.entry lfn).trimmed then .zero
        else .medium

/-- Queues the page read of a sector of a line in class `cls`. -/
def Dev.queueRead (d : Dev) (i lfn sub cls : Nat) (who : Who) (alloc covered : Bool) : Dev :=
  d.onSlice i fun s => s.takeIn (s.request d.now lfn sub cls who alloc covered)

/-- Whether a read of a slice counts as covered (R124, R125, R155). -/
def Dev.isCovered (d : Dev) (i : Nat) (c : Class) : Bool :=
  decide (c.cls ≤ 5) && !c.streamed && (d.boundOf i c.cls).isSome && d.mode.isService && !(d.slice i).inRecovery

/-- The class of a read that waits for a unit. -/
def Dev.waitClass (d : Dev) (w : StreamWait) : Nat :=
  (d.classOf w.port (d.dpaOf w.slice (w.line / 16) (4 * (w.line % 16)))).cls

/-- Serves a read from the unit in the stream buffer: the line, decrypted in slice 0, crosses to its slice and enters the line cache, and
the sector is answered; a title that has closed meanwhile gives poison. -/
def Dev.serveStreamed (unit length : Nat) (data : List Byte) (d : Dev) (w : StreamWait) : Dev :=
  if !d.keyLoaded (some w.title) then d.answerRead w.port w.tag (d.waitClass w) none
  else
    let value (o : Nat) := contentSector (d.titleKey w.title) length unit data o
    let c := d.waitClass w
    let line := (List.range 4).map fun k => value (w.offset / 256 * 256 + 64 * k)
    let d := (d.fabric 256 0 w.slice).onSlice w.slice fun s =>
      let (s, kept) := s.allocRead w.line true c (some w.title)
      if kept then s.fillLine w.line line 0 else s
    d.answerRead w.port w.tag c (some (value w.offset))

/-- A read of a streamed region past the line cache (R475): from the unit in the stream buffer, or after a card
read of the unit. -/
def Dev.streamRead (d : Dev) (port tag dpa : Nat) (c : Class) : Dev :=
  let n := c.region.getD 0
  let o := dpa - regionBaseMib (d.active.regionBase.getD n 0) * 2 ^ 20
  let t := c.sealedSlot.getD 0
  match d.cart.entryOf n with
  | none => d.answerRead port tag c.cls none
  | some e =>
    if d.cart.contentLength e ≤ o then d.answerRead port tag c.cls (some 0)
    else
      let u := o / unitBytes
      let w : StreamWait :=
        { port := port, tag := tag, slice := d.sliceOf dpa, line := lineOf (d.frameOf dpa) (subOf dpa),
          sector := sectorIn dpa, title := t, offset := o }
      match d.cart.stream.find? fun x => x.1 == e && x.2.1 == u with
      | some (_, _, bytes) =>
        let used := (d.cart.stream.filter fun x => !(x.1 == e && x.2.1 == u)) ++ [(e, u, bytes)]
        { d with cart := { d.cart with stream := used } }.serveStreamed u (d.cart.contentLength e) bytes w
      | none =>
        let asked := d.cart.streamWaits.any fun x => x.offset / unitBytes == u && x.title == t
        let d := { d with cart := { d.cart with streamWaits := d.cart.streamWaits ++ [w] } }
        if asked then d else d.readUnit e u

/-- Whether reads of a slice are served in RECOVERY or slice recovery: its map entries, those of trimmed frames among them, are
established (R30, R32, R228, R355). -/
def Dev.established (d : Dev) (i : Nat) : Bool := d.fuses.lifecycle != .clove && !(d.slice i).unmapped

/-- A read whose request the port has accepted, at DPA `dpa` of class `c`. -/
def Dev.serveRead (d : Dev) (port tag dpa : Nat) (c : Class) (env : AccessEnv) : Dev :=
  let i := d.sliceOf dpa
  let lfn := d.frameOf dpa
  let k := sectorInFrame dpa
  let line := lineOf lfn (k / 4)
  let poisoned (d : Dev) : Dev := d.answerRead port tag c.cls none
  if c.access == 2 then poisoned d
  else if c.streamed && (d.cart.entryOf (c.region.getD 0)).isNone then poisoned d
  else if !d.keyLoaded c.sealedSlot then poisoned (d.count i 134 1)
  else if (d.mode == .recovery || (d.slice i).inRecovery) && !d.established i then poisoned d
  else match (d.slice i).find true lfn k with
    | .hit v victim =>
      let d := d.onSlice i fun s =>
        let s := s.count (if victim then 36 else 32) 1
        match s.lineOf? line with
        | some l => if victim then s else s.useWay (setOf line) l.way
        | none => s
      d.answerRead port tag c.cls (some v)
    | found =>
      let d := d.count i 33 1
      if c.streamed then d.streamRead port tag dpa c
      else
        -- the map is looked up in the step that looks into the basin and the fold buffers (R195, R273)
        let d := d.onSlice i fun s => s.lookupMap lfn c.cls env.parityFail
        match found with
        | .newer v a =>
          if env.tagFail || (d.slice i).dram.marked.contains a then
            -- a marked line raises no alarm (R373)
            poisoned (if env.tagFail then d.tagFail i 1 a else d)
          else d.answerRead port tag c.cls (some v)
        | .zero => d.answerRead port tag c.cls (some 0)
        | .medium =>
          let d := d.onSlice i fun s =>
            (s.allocRead line (d.lineProtected c dpa) c.cls c.title).1
          let alloc := ((d.slice i).lineOf? line).any (·.filling)
          d.queueRead i lfn (k / 4) c.cls (.host port tag k) alloc (d.isCovered i c)
        | .lost => poisoned d
        | _ => poisoned (d.mediaPoison i 4 0xFF dpa)

/-- Serves a read, or holds it at ingress until the clearing of its slice's cache ends (R272). -/
def Dev.takeRead (d : Dev) (port tag dpa : Nat) (c : Class) (env : AccessEnv) : Dev :=
  if (d.slice (d.sliceOf dpa)).cache.state == .invalidating then
    d.onSlice (d.sliceOf dpa) fun s => { s with flow := { s.flow with heldReads := s.flow.heldReads ++ [⟨port, tag, dpa, c⟩] } }
  else d.serveRead port tag dpa c env

/-- CACHE_CLEARING_DONE (R272, R286): the clearing has ended, and the accesses held for it are made. -/
def execCacheClearingDone (slice : Nat) (s : State) : Host.Outcome State Fault Refusal :=
  runSlice slice s fun d =>
    if (d.slice slice).cache.state != .invalidating then d
    else
      let reads := (d.slice slice).flow.heldReads
      let d := d.onSlice slice fun s =>
        { s with cache := { s.cache with state := .on }, flow := { s.flow with heldReads := [] } }
      let d := reads.foldl (fun d r => d.serveRead r.port r.tag r.dpa r.cls ⟨false, false⟩) d
      d.retryWrites slice

/-- CXL_MEM_READ (R273, R298, R301). -/
def execCxlMemRead (port hpa tag : Nat) (env : AccessEnv) (s : State) : Host.Outcome State Fault Refusal :=
  runPort port s fun d =>
    if !d.portServes port || 4096 ≤ (d.port port).reads.length then d
    else match (d.port port).decode hpa with
      | none => d
      | some (dpa, ok) =>
        let c := d.classOf port dpa
        let d := d.onPort port fun p => { p with reads := p.reads ++ [tag], activeInRound := true }
        let d := d.count port 104 1
        if !ok || d.capacity ≤ dpa then (d.positionPoison port dpa).answerRead port tag c.cls none
        else (d.countForward port (d.sliceOf dpa) false).takeRead port tag dpa c env

/-! ### Waiting for a streamed unit (R475) -/

/-- Whether a read waits for a unit of an entry. -/
def Dev.waitsFor (d : Dev) (entry unit : Nat) (w : StreamWait) : Bool :=
  w.offset / unitBytes == unit && match d.active.regionOf (d.dpaOf w.slice (w.line / 16) (4 * (w.line % 16))) with
    | some n => d.cart.entryOf n == some entry
    | none => false

/-- STREAM_UNIT_LOADED: the digest is checked, the unit enters the stream buffer of 128 units, least-recently used
first out, and the lines that wait for it are served; a failure returns poison and is recorded. -/
def Dev.streamLoaded (digest : List Byte → List Byte) (d : Dev) (entry unit : Nat) (data : List Byte) : Dev :=
  let mine := d.cart.streamWaits.filter (d.waitsFor entry unit)
  if mine.isEmpty then d
  else
    let d := { d with cart := { d.cart with streamWaits := d.cart.streamWaits.filter fun w => !mine.contains w } }
    let d := d.countPkg 31 (data.length / 256)
    if bytesAt (d.cart.tableOf entry) (48 * unit) 48 == digest data then
      let kept := if 128 ≤ d.cart.stream.length then d.cart.stream.tail else d.cart.stream
      let d := { d with cart := { d.cart with stream := kept ++ [(entry, unit, data)] } }
      mine.foldl (Dev.serveStreamed unit (d.cart.contentLength entry) data) d
    else
      let d := (d.countPkg 30 1).event 0x0604 0xFF 1 0xFF
        ([BitVec.ofNat 8 entry, 0, 0, 0] ++ leBytes 4 unit)
      mine.foldl (fun d w => d.answerRead w.port w.tag (d.waitClass w) none) d

end Sys2Proof.Machine
end

