-- ==== Sys2Proof/Machine/Engine.lean ====
section
/-!
DEFINITION. The bulk engine: flushes and persists, hints, trims, work rings and descriptors (R25, R211, R290–R294,
R377, R415–R422, R472–R474).
-/
namespace Sys2Proof.Machine

open Sys2Proof

/-! ### Flushes and persists (R279, R293) -/

/-- Cleans the lines whose frames are covered and names the covered entries, so that they fold ahead of others; the
frames and journal entries to wait for are returned (R293 steps 1 and 2). A line that the basin cannot take yet is offered again. -/
def Slice.cover (s : Slice) (dram4 : Bool) (round i : Nat) (p : Nat → Bool) :
    Slice × List (Nat × Nat) × List (Nat × Nat) :=
  let s := (s.drain dram4 round fun l => p l.frame).keepCleaning false fun l => p l.frame
  let es := updWhere (fun (e : BasinEntry) => p e.lfn) (fun e => { e with named := true }) s.basin.entries
  let s := { s with basin := { s.basin with entries := es, draining := true } }
  let folds := (s.flow.rewrites.filter fun r => r.fold && !r.done && p r.lfn).map fun r => (i, r.lfn)
  let fresh := (s.basin.entries.filter fun e => p e.lfn && (e.dirty &&& ~~~ e.folding) != 0).map fun e => (i, e.lfn)
  let spilled := ((s.basin.overflow ++ s.cache.victims ++ s.cache.lines.filter (·.dirty != 0)).filter fun l => p l.frame).map
    fun l => (i, l.frame)
  let entries := if s.journal.durable < s.journal.next then [(i, s.journal.next - 1)] else []
  (s, folds ++ fresh ++ spilled, entries)

/-- Starts a flush or persist over the frames that meet `p`, slice by slice (R293). -/
def Dev.startFlush (d : Dev) (host : Option Nat) (desc : Option (Nat × Nat)) (p : Nat → Nat → Bool) : Nat × Dev :=
  let id := d.nextFlush
  let (d, frames, entries) := (List.range d.sliceCount).foldl
    (fun (acc : Dev × List (Nat × Nat) × List (Nat × Nat)) i =>
      let (d, fs, es) := acc
      let (s, f, e) := (d.slice i).cover d.fuses.dram4 d.round i (p i)
      (d.onSlice i fun _ => s, fs ++ f, es ++ e)) (d, [], [])
  (id, { d with nextFlush := id + 1, flushes := d.flushes ++ [⟨id, host, desc, frames, entries⟩] })

/-- Whether a covered frame still waits for a map step. -/
def Slice.unsettled (s : Slice) (lfn : Nat) : Bool :=
  (s.basinOf lfn).isSome || (s.basin.overflow ++ s.cache.victims).any (fun l => l.frame == lfn)
    || s.cache.cleaning.any (fun e => e.1 / 16 == lfn)
    || s.flow.rewrites.any fun r => r.fold && !r.done && r.lfn == lfn

/-- Whether a flush has ended: every covered map step is made and its entries are durable (R293 step 3). -/
def Dev.flushReady (d : Dev) (f : Flush) : Bool :=
  (f.frames.all fun x => !(d.slice x.1).unsettled x.2)
    && f.entries.all fun x => decide (x.2 < (d.slice x.1).journal.durable)

/-- A fold's map step with journal entry `n` is counted off the flushes that cover its frame. -/
def Dev.flushStep (d : Dev) (i lfn n : Nat) : Dev :=
  { d with flushes := d.flushes.map fun f =>
    if f.frames.contains (i, lfn) then { f with frames := f.frames.erase (i, lfn), entries := f.entries ++ [(i, n)] }
    else f }

/-- GLOBAL_PERSISTENT_FLUSH (R293): every line and basin entry of every slice is covered. -/
def execGlobalPersistentFlush (port : Nat) (s : State) : Host.Outcome State Fault Refusal :=
  runPort port s fun d =>
    if d.portServes port && d.mode.isService then
      let d := (d.startFlush (some port) none fun _ _ => true).2
      (List.range d.sliceCount).foldl (fun d i => d.count i 46 1) d
    else d

/-! ### Hints (R290, R291) -/

/-- Queues or drops one line of a hint; the number of lines dropped is returned with the package. A line of a trimmed frame, which has
no page to read (R190), or of one whose map line is lost (R196), is neither queued nor counted as dropped (DESIGN CHOICE: R291
lists no reason for it). -/
def Dev.hintLine (d : Dev) (port n : Nat) : Dev × Nat :=
  let dpa := 256 * n
  let c := d.classOf port dpa
  let i := (d.lineAt n).1
  let line := (d.lineAt n).2
  let lfn := line / 16
  let d := d.count i 48 1
  if d.capacity ≤ dpa || !c.prefetch || !d.keyLoaded c.sealedSlot then (d.count i 50 1, 1)
  else
    let s := d.slice i
    let whole := match s.lineOf? line with
      | some l => l.valid == 0xF
      | none => false
    if whole then (d.count i 51 1, 1)
    else
      let d := d.onSlice i fun s => s.lookupMap lfn 7 false
      if (s.entry lfn).trimmed || s.mapLost lfn then (d, 0)
      else if 512 ≤ s.flow.queued (s.request d.now lfn (line % 16) 7 .hint true false).reach 7 then (d.count i 52 1, 1)
      else ((d.queueRead i lfn (line % 16) 7 .hint true false).count i 54 1, 0)

/-- A hint record (R290): its lines, or all of them dropped for a nonzero reserved bit. -/
def Dev.hintRecord (d : Dev) (port record : Nat) : Dev × Nat :=
  let count := bits record 0 8 + 1
  let first := bits record 8 34
  if bits record 42 22 != 0 then
    ((rangeFrom first count).foldl (fun d n => (d.count (d.lineAt n).1 48 1).count (d.lineAt n).1 49 1) d, count)
  else (rangeFrom first count).foldl (fun (acc : Dev × Nat) n =>
    let (d, k) := acc.1.hintLine port n
    (d, acc.2 + k)) (d, 0)

/-! ### Trims (R189, R211) -/

/-- Whether a started rewrite of a frame in a range still owes its map step. -/
def Slice.trimWaits (s : Slice) (t : TrimReq) : Bool :=
  s.flow.rewrites.any fun r => !r.done && r.started && decide (t.first ≤ r.lfn) && decide (r.lfn < t.first + t.count)

/-- Performs a trim: the entries become trimmed, older data of the frames in the line cache, the basin and rewrites
not yet started is dropped, one TRIM entry is appended (R211). Completions owed for that data follow the entry, frame by frame. -/
def Slice.trimNow (s : Slice) (t : TrimReq) : Slice :=
  let within (lfn : Nat) := decide (t.first ≤ lfn) && decide (lfn < t.first + t.count)
  let s := (srange s.map t.first (t.first + t.count)).foldl (fun s (e : Nat × MapEntry) =>
    (s.dropValid e.2).setEntry e.1 {}) s
  let owed := ((s.flow.rewrites.filter fun r => within r.lfn && !r.done && !r.started).map fun r => (r.lfn, r.cls, r.acks))
    ++ (s.basin.entries.filter fun e => within e.lfn).map fun e => (e.lfn, e.cls, e.acks)
  let entry := s.journal.next
  let s := s.log (.trim t.first t.count s.frameSeq)
  let s := { s with
    poison := s.poison.filter fun e => !within e.1
    cache := { s.cache with
      lines := s.cache.lines.filter fun l => !within l.frame
      victims := s.cache.victims.filter fun l => !within l.frame }
    basin := { s.basin with
      entries := s.basin.entries.filter fun e => !within e.lfn
      overflow := s.basin.overflow.filter fun l => !within l.frame }
    flow := { s.flow with
      rewrites := s.flow.rewrites.filter fun r => !(within r.lfn && !r.done && !r.started && r.fold)
      trims := s.flow.trims.erase t } }
  (owed.foldl (fun s x => s.owe entry x.1 x.2.1 x.2.2) s).count 87 1

/-- The durable bit of a region's attributes. -/
def attrDurable (a : Word) : Bool := wbits a 3 1 == 1

/-- Whether a trim touches a durable region, in which it completes when its TRIM entry is durable (R292, R420). -/
def Dev.trimDurable (d : Dev) (slice : Nat) (t : TrimReq) : Bool :=
  d.active.overlaps attrDurable (d.dpaOf slice t.first 0) (d.dpaOf slice (t.first + t.count) 0 - d.dpaOf slice t.first 0)

/-- TRIM (R211): the oldest trim of the slice that no started rewrite holds up is performed. -/
def execTrim (slice : Nat) (s : State) : Host.Outcome State Fault Refusal :=
  runSlice slice s fun d =>
    match (d.slice slice).flow.trims.find? fun t => !(d.slice slice).trimWaits t with
    | none => d
    | some t =>
      let entry := (d.slice slice).journal.next
      let late := d.trimDurable slice t
      let d := d.onSlice slice fun s => s.trimNow t
      match t.ack with
      | some a => if late then d.onSlice slice fun s => s.owe entry t.first 6 [a] else d.ack a
      | none => d

/-- Queues the trim of the whole frames of a DPA range, one request per slice; the number of requests is returned. -/
def Dev.queueTrims (d : Dev) (base size : Nat) (ack : Option Ack) : Dev × Nat :=
  let n := d.sliceCount
  let first := ceilDiv base 4096
  let last := (base + size) / 4096
  (List.range n).foldl (fun (acc : Dev × Nat) i =>
    -- frames f with first ≤ f < last and f % n = i are the logical frames lo to hi - 1 of slice i
    let lo := (first + n - 1 - i) / n
    let hi := (last + n - 1 - i) / n
    if lo < hi then
      (acc.1.onSlice i fun s => { s with flow := { s.flow with trims := s.flow.trims ++ [⟨lo, hi - lo, ack⟩] } }, acc.2 + 1)
    else acc) (d, 0)

/-! ### The end of a flush, and of a title's close (R293, R365, R445) -/

/-- The frame keys of a title slot enter every slice's medium engine (R361, R364). -/
def Dev.loadFrameKey (d : Dev) (t : Nat) : Dev :=
  let k := frameKeyOf d.root (d.titleKey t)
  d.onSlices fun s => { s with engine := { s.engine with frames := sset s.engine.frames t k } }

/-- The frame keys of a title slot leave every slice's medium engine (R365). -/
def Dev.unloadFrameKey (d : Dev) (t : Nat) : Dev :=
  d.onSlices fun s => { s with engine := { s.engine with frames := sdel s.engine.frames t } }

/-- A slot closes: its frame keys are unloaded and every ring bound to it is unbound (R365). -/
def Dev.shutTitle (d : Dev) (t : Nat) : Dev :=
  let d := (d.rings.filter fun e => e.2.binding == some (.title t)).foldl
    (fun d e => d.onRing e.1 fun r => { r with binding := none }) d
  (d.unloadFrameKey t).onTitle t fun x => if x.state == .opened then { x with state := .installed } else x

/-- Queues the trims of every range of a slot that is deleted; the number of requests is returned (R445). -/
def Dev.trimTitle (d : Dev) (t : Nat) : Dev × Nat :=
  (d.title t).ranges.foldl (fun (acc : Dev × Nat) r =>
    let (d, n) := acc.1.queueTrims r.1 r.2 (some (.title t))
    (d, acc.2 + n)) (d, 0)

/-- A command that waited for the flush of a slot's ranges: the slot closes, and a deletion goes on to its trims. -/
def Dev.titleFlushed (d : Dev) (w : Waiter) : Dev :=
  match w.what with
  | .flush _ t delete =>
    let d := d.shutTitle t
    if delete then
      let (d, n) := d.trimTitle t
      { d with waiters := replaceWaiter w { w with what := .trims t n } d.waiters }
    else { d with waiters := d.waiters.erase w }.respond w.channel w.opcode w.tag 0 0 []
  | _ => d

/-- A flush that an accepted token waits for has ended: its title closes, and with the last one debug is unlocked (R366). -/
def Dev.closedForDebug (d : Dev) (flush : Nat) : Dev :=
  let (mine, rest) := d.dbg.closing.partition (·.1 == flush)
  let d := mine.foldl (fun d e => d.shutTitle e.2) d
  let d := { d with dbg := { d.dbg with closing := rest } }
  match d.dbg.granted with
  | some scope =>
    if rest.isEmpty then { d with dbg := { d.dbg with unlocked := true, scope := scope, granted := none } }.countPkg 10 1 else d
  | none => d

/-- FLUSH_COMPLETE (R293 step 3): a flush that has ended is answered; a title whose ranges it cleaned closes (R365, R366). -/
def execFlushComplete (flush : Nat) (s : State) : Host.Outcome State Fault Refusal :=
  run s fun d =>
    match d.flushes.find? (·.id == flush) with
    | none => d
    | some f =>
      if !d.flushReady f then d
      else
        let d := { d with flushes := d.flushes.filter (·.id != flush) }
        let d := match f.host with
          | some p => d.emit (.flushDone p flush)
          | none => d
        let d := match f.desc with
          | some (r, n) => d.descPart r n
          | none => d
        let d := d.closedForDebug flush
        (d.waiters.filter fun w => match w.what with
          | .flush id _ _ => id == flush
          | _ => false).foldl Dev.titleFlushed d

/-! ### Work rings (R415–R418) -/

/-- Entries of a ring. -/
def Ring.size (r : Ring) : Nat := 2 ^ r.sizeLog2

/-- Descriptors posted and not yet fetched. -/
def Ring.posted (r : Ring) : Nat := (r.produced - r.fetched).toNat

/-- Whether a completion entry has room (R417). -/
def Ring.room (r : Ring) : Bool := decide ((r.written - r.consumed).toNat < r.size)

/-- A ring whose draining has ended (R418). -/
def Ring.settle (r : Ring) : Ring :=
  if r.state == .draining && r.descs.isEmpty then
    if r.resetting then
      { r with state := .disabled, enable := false, resetting := false, stopCode := 0, produced := 0, fetched := 0,
               consumed := 0, written := 0 }
    else { r with state := .disabled, enable := false }
  else r

/-- Enable from DISABLED (R416). -/
def Ring.enableRing (r : Ring) : Ring :=
  if r.state == .disabled then
    { r with enable := true, state := .running, produced := 0, fetched := 0, consumed := 0, written := 0, stopCode := 0 }
  else r

/-- Unstarted descriptors end as ABORTED (R418). -/
def Ring.abort (r : Ring) : Ring :=
  { r with descs := r.descs.map fun (x : Desc) =>
    if x.started then x else { x with started := true, pending := 0, status := some 0x0D } }

/-- Writing enable 0 (R418). -/
def Ring.disableRing (r : Ring) : Ring :=
  if r.state == .running then { r.abort with state := .draining, enable := false }.settle else { r with enable := r.enable }

/-- Writing reset 1 (R418): from any state; the binding ends. -/
def Ring.resetRing (r : Ring) : Ring :=
  { r.abort with state := .draining, enable := false, binding := none, resetting := true }.settle

/-- A ring stops with a status code (R417). -/
def Dev.stopRing (d : Dev) (ring code : Nat) : Dev :=
  (d.onRing ring fun r => { r with state := .stopped, stopCode := code }).count (ring / 1024) 118 1

/-- A doorbell value through a port (R416, R417). -/
def Dev.doorbell (d : Dev) (port ring value : Nat) : Dev :=
  let r := d.ring ring
  if r.state != .running || port != r.hostPort then d
  else
    let p : BitVec 32 := BitVec.ofNat 32 value
    if r.size < (p - r.fetched).toNat then d.stopRing ring 4
    else d.onRing ring fun r => { r with produced := p }

/-! ### Descriptors (R419, R422) -/

/-- Field of a descriptor: byte offset and width in bytes. -/
def Desc.field (x : Desc) (off n : Nat) : Nat := bits x.raw.toNat (8 * off) (8 * n)

/-- Opcode of a descriptor word. -/
def rawOpcode (raw : BitVec 512) : Nat := bits raw.toNat 0 16

/-- Flag `i` of a descriptor. -/
def Desc.flag (x : Desc) (i : Nat) : Bool := bitAt (x.field 2 1) i

/-- Source address. -/
def Desc.src (x : Desc) : Nat := x.field 8 8

/-- Destination address. -/
def Desc.dst (x : Desc) : Nat := x.field 16 8

/-- Length. -/
def Desc.len (x : Desc) : Nat := x.field 24 8

/-- Whether the ranges of a descriptor avoid protected ranges that its ring is not bound to (R377). -/
def Dev.reaches (d : Dev) (b : Option Binding) (base size : Nat) : Bool :=
  let regions := (List.range 64).all fun n =>
    let rb := d.active.regionBase.getD n 0
    let a := d.active.regionAttr.getD n 0
    let overlap := regionSizeMib rb != 0 && decide (regionBaseMib rb * 2 ^ 20 < base + size)
      && decide (base < (regionBaseMib rb + regionSizeMib rb) * 2 ^ 20)
    !(overlap && (wbits a 4 1 == 1 || wbits a 10 1 == 1)) || match b with
      | some (.title t) => wbits a 4 1 == 1 && wbits a 5 5 == t
      | some (.region m) => m == n
      | none => false
  let titles := (List.range 32).all fun t =>
    let x := d.title t
    !(x.state != .empty && x.ranges.any fun r => decide (r.1 < base + size) && decide (base < r.1 + r.2))
      || b == some (.title t)
  regions && titles

/-- The DPA ranges that a descriptor reads and writes: (base, size, written). -/
def Desc.ranges (x : Desc) : List (Nat × Nat × Bool) :=
  match x.field 0 2 with
  | 1 => (if x.flag 2 then [(x.src, x.len, false)] else []) ++ (if x.flag 3 then [(x.dst, x.len, true)] else [])
  | 2 => [(x.dst, x.len, true)]
  | 4 => [(x.dst, x.len, false)]
  | 5 => [(x.dst, x.len, false)]
  | 6 => [(x.dst, x.len, true)]
  | 7 => [(x.dst, x.len, true)]
  | _ => []

/-- Whether the fields of a descriptor meet R419. -/
def Dev.descFields (d : Dev) (x : Desc) : Bool :=
  let op := x.field 0 2
  let reserved := bits (x.field 2 1) 4 4 == 0 && x.field 3 1 == 0
    && (if op = 2 then x.field 33 3 == 0 && x.field 37 27 == 0 && decide (x.field 32 1 < 32) else x.field 32 32 == 0)
  let aligned (a n : Nat) := a % n == 0
  let shape := match op with
    | 1 => (x.flag 2 || x.flag 3) && aligned x.src 64 && aligned x.dst 64 && aligned x.len 64 && decide (x.len ≤ 2 ^ 32)
    | 2 => aligned x.src 4096 && aligned x.dst 4096 && aligned x.len 4096
    | 3 => x.dst == 0 && x.len == 0
    | 4 => x.src == 0 && aligned x.dst 256 && aligned x.len 256
    | 5 => x.src == 0 && aligned x.dst 4096 && aligned x.len 4096
    | 6 => x.src == 0 && aligned x.dst 64 && aligned x.len 64
    | 7 => x.src == 0 && aligned x.dst 4096 && aligned x.len 4096
    | _ => true
  let within := x.ranges.all fun r => decide (r.1 + r.2.1 ≤ d.capacity)
  let content := op != 2 || decide (x.src + x.len ≤ d.cart.contentLength (x.field 36 1))
    || !d.cart.serves || decide (d.cart.entryCount ≤ x.field 36 1)
  reserved && shape && within && content

/-- Whether a descriptor overlaps a protected range that its ring is not bound to (R377). -/
def Dev.dmaDenied (d : Dev) (r : Ring) (x : Desc) : Bool :=
  x.ranges.any fun q => q.2.1 != 0 && !d.reaches r.binding q.1 q.2.1

/-- The status with which a descriptor ends before it moves data, the first that applies (R422). -/
def Dev.descStatus (d : Dev) (r : Ring) (x : Desc) (host : HostData) : Option Nat :=
  let op := x.field 0 2
  let fromHost := op == 1 && !x.flag 2
  let usesHost := op == 1 && (!x.flag 2 || !x.flag 3)
  let t := x.field 32 1
  let e := x.field 36 1
  let installDenied := op == 2 && (r.binding != some (.title t) || !d.cart.serves || decide (d.cart.entryCount ≤ e)
    || !d.cart.installable e || (d.title t).id != d.cart.titleId e)
  let writesDevice := op == 2 || op == 6 || op == 7 || (op == 1 && x.flag 3)
  if op = 0 ∨ 7 < op then some 0x02
  else if !d.descFields x then some 0x04
  else if !d.mode.isService then some 0x06
  else if d.dmaDenied r x || installDenied then some 0x05
  else if d.mode == .preserve && writesDevice then some 0x10
  else if usesHost && host.timedOut then some 0x0C
  else if fromHost && host.poisoned then some 0x09
  else none

/-- Makes a write of a descriptor's sector, which a read-only or closed range discards (R399, R365); data for another slice
crosses the fabric from where it stands: the engine, or slice 0 where cartridge content is staged (R14, R20). -/
def Dev.descWrite (d : Dev) (ring : Nat) (x : Desc) (dpa : Nat) (v : Option Sector) (sealTo : Option Nat) : Dev :=
  let p := (d.ring ring).hostPort
  let c := d.active.classify p dpa
  let c := { c with sealedSlot := sealTo.orElse fun _ => c.sealedSlot }
  let d := d.fabric 64 (if x.field 0 2 = 2 then 0 else ring / 1024) (d.sliceOf dpa)
  match d.discardReason c dpa with
  | some r => (d.discardWrite p dpa r).descPart ring x.slot
  | none => d.putWrite ⟨p, 0, dpa, v, c, some (ring, x.slot), d.now⟩

/-- Counts bytes moved by a descriptor, in 256-byte units of its slice's counter. -/
def Dev.descMoved (d : Dev) (ring slot n : Nat) : Dev :=
  d.onDesc ring slot fun x => { x with moved := x.moved + n }

/-- Sector `idx` of a descriptor's source has arrived: it goes to its destination, poison as poison (R422), or is
only checked by a VERIFY. A descriptor that has ended takes nothing more. -/
def Dev.descSector (d : Dev) (ring slot idx : Nat) (v : Option Sector) : Dev :=
  match (d.ring ring).descs.find? fun x => x.slot == slot && x.status.isNone with
  | none => d
  | some x =>
    let at_ := (if x.field 0 2 = 5 then x.dst else x.src) + 64 * idx
    let d := if v.isNone then
        d.onDesc ring slot fun x => { x with poisoned := x.poisoned + 1, firstPoison := some (x.firstPoison.getD at_) }
      else d
    if x.field 0 2 = 1 then
      let d := d.descMoved ring slot 64
      let port := (d.ring ring).hostPort
      -- the leg between the engine and the slice of the ring's port (R20)
      let d := if !x.flag 2 then d.fabric 64 port (ring / 1024) else d
      let d := if !x.flag 3 then d.fabric 64 (ring / 1024) port else d
      if x.flag 3 then d.descWrite ring x (x.dst + 64 * idx) v none
      else
        let b := match v with
          | some w => sectorBytes w
          | none => []
        (d.emit (.hostWrite (d.ring ring).hostPort (x.dst + 64 * idx) b)).descPart ring slot
    else d.descPart ring slot

/-- Reads sector `idx` of a descriptor at a DPA: from the basin, a fold buffer or the map at once, from the medium
in class 6 (R25). The map is looked up once for each line (R195). A VERIFY reads the medium whatever the basin holds. -/
def Dev.descRead (d : Dev) (ring : Nat) (x : Desc) (idx dpa : Nat) : Dev :=
  let i := d.sliceOf dpa
  let lfn := d.frameOf dpa
  let k := sectorInFrame dpa
  let c := d.active.classify (d.ring ring).hostPort dpa
  let found := if x.field 0 2 = 5 then
      (if (d.slice i).mapLost lfn then Found.lost
       else if has ((d.slice i).poisonMask lfn) k then Found.poisoned
       else if ((d.slice i).entry lfn).trimmed then Found.zero else Found.medium)
    else (d.slice i).find false lfn k
  let d := d.fabric 64 i (ring / 1024)
  if c.access == 2 || !d.keyLoaded c.sealedSlot then d.descSector ring x.slot idx none
  else
  let d := if idx = 0 ∨ k % 4 = 0 then d.onSlice i fun s => s.lookupMap lfn 6 false else d
  match found with
    | .newer v a => d.descSector ring x.slot idx (if (d.slice i).dram.marked.contains a then none else some v)
    | .hit v _ => d.descSector ring x.slot idx (some v)
    | .zero => d.descSector ring x.slot idx (some 0)
    | .medium =>
      let who := Who.desc ring x.slot idx
      match (d.slice i).flow.queue.getLast? with
      | some q =>
        if q.line == lineOf lfn (k / 4) && q.cls == 6 && q.arrival == d.now then
          d.onSlice i fun s => { s with flow := { s.flow with
            queue := s.flow.queue.dropLast ++ [{ q with who := q.who ++ [who] }] } }
        else d.queueRead i lfn (k / 4) 6 who false false
      | none => d.queueRead i lfn (k / 4) 6 who false false
    | _ => d.descSector ring x.slot idx none

/-- Changes the work a descriptor waits for. -/
def Dev.descOwes (d : Dev) (ring slot n : Nat) : Dev := d.onDesc ring slot fun x => { x with pending := n }

/-- Units of manifest content that an INSTALL touches (R474). -/
def Desc.units (x : Desc) : List Nat :=
  if x.len = 0 then [] else rangeFrom (x.src / unitBytes) ((x.src + x.len - 1) / unitBytes - x.src / unitBytes + 1)

/-- Bytes of a hash table of an entry (R472). -/
def Cart.tableBytes (c : Cart) (e : Nat) : Nat := 48 * ceilDiv (c.contentLength e) unitBytes

/-- Loads the hash table of an entry unless it is loaded (R473): 0, or the status that ends the command. -/
def Dev.loadTable (d : Dev) (e : Nat) (bytes : List Byte) : Dev × Nat :=
  if d.cart.hashTables.any (·.1 == e) then (d, 0)
  else
    let n := d.cart.tableBytes e
    let used := total (d.cart.hashTables.map (·.2.length))
    let table := bytes.take n
    if 15 * 2 ^ 20 < used + n then (d, 0x0B)
    else
    let d := d.issue (readsOf d.cart.readLimit (leAt d.cart.manifest (entryAt e + 0x20) 8) n)
    if sha384 table != d.cart.tableDigest e then (d, 0x05)
    else ({ d with cart := { d.cart with hashTables := d.cart.hashTables ++ [(e, table)] } }.countPkg 31 (n / 256), 0)

/-- Ends the descriptors in progress that meet `p` with a status. -/
def Dev.endDescs (d : Dev) (st : Nat) (p : Desc → Bool) : Dev :=
  { d with rings := d.rings.map fun (e : Nat × Ring) =>
    (e.1, { e.2 with descs := e.2.descs.map fun (x : Desc) =>
      if x.started && x.status.isNone && p x then { x with pending := 0, status := some st } else x }) }

/-- Whether a descriptor writes device memory. -/
def Desc.writesDevice (x : Desc) : Bool :=
  let op := x.field 0 2
  op == 2 || op == 6 || op == 7 || (op == 1 && x.flag 3)

/-- A descriptor ends with a status. -/
def Dev.descEnd (d : Dev) (ring slot st : Nat) : Dev :=
  d.onDesc ring slot fun x => { x with pending := 0, status := some st }

/-- Runs a descriptor that has started: each part of its work holds one count, and one more is held until every
part has been issued. -/
def Dev.runDesc (d : Dev) (ring : Nat) (x : Desc) (host : HostData) : Dev :=
  let n := x.len / 64
  let d := d.onDesc ring x.slot fun y => { y with started := true }
  match d.descStatus (d.ring ring) x host with
  | some st =>
    let d := d.descEnd ring x.slot st
    if st = 5 && d.dmaDenied (d.ring ring) x then (d.count (ring / 1024) 132 1).alarm 3 (some (ring / 1024)) 0 else d
  | none =>
    match x.field 0 2 with
    | 1 =>
      let d := d.descOwes ring x.slot (n + 1)
      let d := (List.range n).foldl (fun d idx =>
        if x.flag 2 then d.descRead ring x idx (x.src + 64 * idx)
        else d.descSector ring x.slot idx (some (host.sectors.getD idx 0))) d
      d.descPart ring x.slot
    | 2 =>
      let e := x.field 36 1
      let (d, st) := d.loadTable e (host.sectors.flatMap sectorBytes)
      if st != 0 then d.descEnd ring x.slot st
      else
        let d := d.descOwes ring x.slot (n + 1)
        (x.units.foldl (fun d u => d.readUnit e u) d).descPart ring x.slot
    | 3 =>
      let (d, dropped) := d.hintRecord (d.ring ring).hostPort x.src
      let d := d.onDesc ring x.slot fun y => { y with dropped := dropped }
      (d.descEnd ring x.slot 0).count (ring / 1024) 55 1
    | 4 =>
      let d := d.descOwes ring x.slot 1
      let inside (i lfn : Nat) :=
        let a := d.dpaOf i lfn 0
        decide (a < x.dst + x.len) && decide (x.dst < a + 4096)
      ((d.startFlush none (some (ring, x.slot)) inside).2).count (ring / 1024) 45 1
    | 5 =>
      let d := d.descOwes ring x.slot (n + 1)
      ((List.range n).foldl (fun d idx => d.descRead ring x idx (x.dst + 64 * idx)) d).descPart ring x.slot
    | 6 =>
      let whole := ceilDiv x.dst 4096 * 4096
      let last := (x.dst + x.len) / 4096 * 4096
      let edges := (List.range n).filter fun idx =>
        let a := x.dst + 64 * idx
        !(decide (whole ≤ a) && decide (a < last))
      let ack := Ack.desc ring x.slot
      let (d, trims) := d.queueTrims x.dst x.len (some ack)
      let d := d.descOwes ring x.slot (trims + edges.length + 1)
      let d := d.descMoved ring x.slot x.len
      (edges.foldl (fun d idx => d.descWrite ring x (x.dst + 64 * idx) (some 0) none) d).descPart ring x.slot
    | _ =>
      let (d, trims) := d.queueTrims x.dst x.len (some (Ack.desc ring x.slot))
      (d.descOwes ring x.slot (trims + 1)).descPart ring x.slot

/-- Whether the first unstarted descriptor of a ring may start (R417): no completion is held, and with the fence
flag every earlier descriptor has completed. -/
def Ring.mayStart (r : Ring) (x : Desc) : Bool :=
  let held := r.descs.any fun y => y.status.isSome && !r.room
  !held && (r.descs.head? == some x || !x.flag 1)

/-- A descriptor word presented to a ring: it is fetched when one is posted and fewer than 16 are ahead, and the
first unstarted descriptor starts when it may (R417). A descriptor that has been fetched and waits is presented again when it may
start. A fetch that returns poisoned data stops the ring with INTEGRITY. -/
def Dev.descriptor (d : Dev) (opcode ring : Nat) (raw : BitVec 512) (host : HostData) : Dev :=
  let op := rawOpcode raw
  let r := d.ring ring
  if r.state != .running || (op != opcode && 1 ≤ op && op ≤ 7) then d
  else
    let start (d : Dev) : Dev :=
      let r := d.ring ring
      match r.descs.find? (!·.started) with
      | none => d
      | some x => if x.raw == raw && r.mayStart x then d.runDesc ring x host else d
    if (r.descs.find? (!·.started)).any fun x => x.raw == raw && r.mayStart x then start d
    else if r.posted = 0 || 16 ≤ (r.descs.filter (!·.started)).length then d
    else if host.badFetch then d.stopRing ring 9
    else
        let x : Desc :=
          { slot := r.fetched.toNat % r.size, raw := raw, started := false, status := none, pending := 0, moved := 0,
            dropped := 0, poisoned := 0, firstPoison := none, flush := none }
        let d := d.fabric 64 r.hostPort (ring / 1024)
        start ((d.onRing ring fun r => { r with fetched := r.fetched + 1, descs := r.descs ++ [x] }).count (ring / 1024) 112 1)

/-- COPY (R419). -/
def execCopy (ring : Nat) (descriptor : BitVec 512) (host : HostData) (s : State) : Host.Outcome State Fault Refusal :=
  runRing ring s fun d => d.descriptor 1 ring descriptor host

/-- INSTALL (R474). -/
def execInstall (ring : Nat) (descriptor : BitVec 512) (host : HostData) (s : State) : Host.Outcome State Fault Refusal :=
  runRing ring s fun d => d.descriptor 2 ring descriptor host

/-- HINT (R291). -/
def execHint (ring : Nat) (descriptor : BitVec 512) (host : HostData) (s : State) : Host.Outcome State Fault Refusal :=
  runRing ring s fun d => d.descriptor 3 ring descriptor host

/-- PERSIST (R293). -/
def execPersist (ring : Nat) (descriptor : BitVec 512) (host : HostData) (s : State) : Host.Outcome State Fault Refusal :=
  runRing ring s fun d => d.descriptor 4 ring descriptor host

/-- VERIFY (R419). -/
def execVerify (ring : Nat) (descriptor : BitVec 512) (host : HostData) (s : State) : Host.Outcome State Fault Refusal :=
  runRing ring s fun d => d.descriptor 5 ring descriptor host

/-- ZERO (R419). -/
def execZero (ring : Nat) (descriptor : BitVec 512) (host : HostData) (s : State) : Host.Outcome State Fault Refusal :=
  runRing ring s fun d => d.descriptor 6 ring descriptor host

/-- TRIM_DESCRIPTOR (R211, R419). -/
def execTrimDescriptor (ring : Nat) (descriptor : BitVec 512) (host : HostData) (s : State) :
    Host.Outcome State Fault Refusal :=
  runRing ring s fun d => d.descriptor 7 ring descriptor host

/-- INSTALL_UNIT_LOADED (R472, R474): a unit that an INSTALL waits for is checked, decrypted and written as whole
sealed frames, or its frames are written with every sector poisoned. -/
def execInstallUnitLoaded (ring slot unit : Nat) (data : List Byte) (s : State) : Host.Outcome State Fault Refusal :=
  runRing ring s fun d =>
    match (d.ring ring).descs.find? (·.slot == slot) with
    | none => d
    | some x =>
      if x.field 0 2 != 2 || !x.started || x.status.isSome || !x.units.contains unit then d
      else
        let e := x.field 36 1
        let t := x.field 32 1
        let table := d.cart.tableOf e
        let d := d.countPkg 31 (data.length / 256)
        let offsets := ((List.range (x.len / 64)).map fun k => 64 * k).filter fun o => (x.src + o) / unitBytes == unit
        if bytesAt table (48 * unit) 48 == sha384 data then
          let key := d.titleKey t
          offsets.foldl (fun d o =>
            let v := decryptSector key unit data (x.src + o)
            (d.descMoved ring slot 64).descWrite ring x (x.dst + o) (some v) (some t)) d
        else
          let d := (d.countPkg 30 1).event 0x0604 0xFF 2 0xFF ([BitVec.ofNat 8 e, 0, 0, 0] ++ leBytes 4 unit)
          let d := d.onDesc ring slot fun x => { x with poisoned := x.poisoned + offsets.length }
          offsets.foldl (fun d o => (d.descMoved ring slot 64).descWrite ring x (x.dst + o) none (some t)) d

/-- The result field of a completion (R421). -/
def Desc.result (x : Desc) : Nat :=
  match x.field 0 2 with
  | 1 | 2 | 6 => x.moved
  | 3 => x.dropped
  | 5 => min x.poisoned 0xFFFF + (x.firstPoison.getD 0) % 2 ^ 42 * 2 ^ 16
  | _ => 0

/-- Counter of a completion status (R539). -/
def statusCounter (st : Nat) : Nat :=
  if st = 0 then 113 else if st = 8 then 114 else if st = 5 then 115 else 116

/-- DESCRIPTOR_COMPLETE (R417, R420, R421): the completion entry of a finished descriptor is written, with its
interrupt; without room the completion is held. -/
def execDescriptorComplete (ring slot : Nat) (s : State) : Host.Outcome State Fault Refusal :=
  runRing ring s fun d =>
    let r := d.ring ring
    match r.descs.find? (·.slot == slot) with
    | none => d
    | some x =>
      match x.status with
      | none => d
      | some st =>
        if !x.started then d
        else if !r.room then d.count (ring / 1024) 119 1
        else
          let w := r.written.toNat
          let phase := b2n (w / r.size % 2 == 0)
          let bytes := leBytes 4 (x.field 4 4) ++ [BitVec.ofNat 8 st, BitVec.ofNat 8 phase] ++ leBytes 2 x.slot
            ++ leBytes 8 x.result
          let d := (d.fabric 16 (ring / 1024) r.hostPort).emit (.hostWrite r.hostPort (r.cplBase * 4096 + 16 * (w % r.size)) bytes)
          let d := d.onRing ring fun r =>
            { r with written := r.written + 1, descs := r.descs.filter (·.slot != slot) }.settle
          let d := (d.count (ring / 1024) (statusCounter st) 1).count (ring / 1024) 117 (x.moved / 256)
          if x.flag 0 && r.irqEnable then d.signals [(r.hostPort, r.vector)] else d

/-- DESCRIPTOR_FETCH_TIMEOUT (R417, R422): a fetch that times out stops the ring; a data access ends its descriptor
with TIMEOUT. -/
def execDescriptorFetchTimeout (ring : Nat) (slot : Option Nat) (s : State) : Host.Outcome State Fault Refusal :=
  runRing ring s fun d =>
    let r := d.ring ring
    match slot with
    | none => if r.state == .running && r.posted != 0 then d.stopRing ring 0x0C else d
    | some n =>
      match r.descs.find? (·.slot == n) with
      | some x => if x.started && x.status.isNone then d.descEnd ring n 0x0C else d
      | none => d

/-- STREAM_UNIT_LOADED (R475). -/
def execStreamUnitLoaded (entry unit : Nat) (data : List Byte) (s : State) : Host.Outcome State Fault Refusal :=
  run s fun d => d.streamLoaded sha384 entry unit data

end Sys2Proof.Machine
end

