-- ==== Sys2Proof/Machine/Preserve.lean ====
section
/-!
DEFINITION. PRESERVE: the conditions that lead to it, its record, its entry and the write-out of dirty data; the volatile
mirrors as they are saved (R236, R263, R265–R267, R295, R528, R571).
-/
namespace Sys2Proof.Machine

open Sys2Proof

/-! ### PRESERVE (R265–R267, R571) -/

/-- A 64-byte record of one byte pair and the life clock with its CRC (R571). -/
def clockRecord (b0 b1 clock : Nat) : List Byte :=
  let body := [BitVec.ofNat 8 b0, BitVec.ofNat 8 b1, 0, 0, 0, 0, 0, 0] ++ leBytes 6 clock ++ [0, 0]
  padTo 64 (withCrc body)

/-- Cleans every slice into its basin for a drain of the whole slice, which is counted (R279, R539). -/
def Dev.drainAll (d : Dev) : Dev :=
  (d.startFlush none none fun _ _ => true).2.onSlices fun s => s.count 46 1

/-- The folds in flight at PRESERVE entry, and those of a lost reach, go on under relocation grants (R263, R267). -/
def Slice.foldsToReloc (s : Slice) : Slice :=
  { s with flow := { s.flow with
    rewrites := updWhere (fun (r : Rewrite) => r.fold) (fun r => { r with kind := .reloc }) s.flow.rewrites
    husks := s.flow.husks.map fun (h : Husk) => { h with kind := .reloc } } }

/-- A mirror copy's fields before its CRC (R528). -/
def mirrorBytes (m : Mirror) (closed dirty : Bool) (sequence : Nat) : List Byte :=
  withCrc (leBytes 6 m.lifeClock ++ [0, 0] ++ leBytes 6 m.seconds ++ [0, 0] ++ leBytes 3 m.bootCount
    ++ leBytes 3 m.dirtyShutdowns ++ [0, 0] ++ leBytes 6 m.thermalLife
    ++ [BitVec.ofNat 8 (b2n closed + 2 * b2n m.recorderFailed + 4 * b2n dirty), 0]
    ++ leBytes 2 m.repeats ++ leBytes 2 m.newestOffset ++ leBytes 3 m.droppedEvents ++ [0]
    ++ leBytes 6 sequence ++ [0, 0])

/-- A mirror copy that decodes and whose CRC holds, as its bytes. -/
def PStore.mirrorCopy (p : PStore) (a : Nat) : Option (List Byte) :=
  match p.read a 56 with
  | none => none
  | some b => if crc32c (b.take 0x30) == leAt b 0x30 4 then some b else none

/-- Sequence of a mirror copy. -/
def mirrorSeq (b : List Byte) : Nat := leAt b 0x28 6

/-- The saved mirror: the valid copy of higher sequence, with its address (R528). -/
def PStore.savedMirror (p : PStore) : Option (Nat × List Byte) :=
  match p.mirrorCopy 0x200, p.mirrorCopy 0x240 with
  | some a, some b => if mirrorSeq b ≤ mirrorSeq a then some (0x200, a) else some (0x240, b)
  | some a, none => some (0x200, a)
  | none, some b => some (0x240, b)
  | none, none => none

/-- Whether any line, victim, basin entry or fold of a slice holds data not yet on the medium (R295). -/
def Slice.dirtyPresent (s : Slice) : Bool :=
  s.cache.lines.any (fun l => l.dirty != 0) || !s.cache.victims.isEmpty || !s.basin.entries.isEmpty
    || !s.basin.overflow.isEmpty || s.flow.rewrites.any fun r => r.fold && !r.done

/-- The dirty-present flag of the package (R295). -/
def Dev.dirtyPresent (d : Dev) : Bool := d.slices.any (·.dirtyPresent)

/-- Saves the volatile mirrors into the copy that does not hold the saved mirror (R527, R528). -/
def Dev.saveMirrors (d : Dev) (closed : Bool) : Dev :=
  let d := d.storeRepeats
  let (at_, sq) := match d.pstore.savedMirror with
    | some (a, b) => (if a = 0x200 then 0x240 else 0x200, mirrorSeq b + 1)
    | none => (0x200, 1)
  { d with mirror := { d.mirror with closed := closed, dirtyPresent := d.dirtyPresent } }.store at_
    (mirrorBytes d.mirror closed d.dirtyPresent sq)

/-- The rung returns to 0 at a mode exit (R186, R516). -/
def Dev.dropRung (d : Dev) : Dev :=
  { d with
    rung := 0
    clock := { d.clock with skipN := 0, skipCount := 0 }
    swap := { d.swap with rung := none, taking := none, changeDue := d.swap.changeDue || d.rung != 0 || d.swap.taking.isSome }
    thermal := { d.thermal with level := 0, nextLevel := none, upRun := 0, downRun := 0, fresh := true } }

/-- PRESERVE takes effect (R265–R267, R476), and the rung returns to 0 as the mode before it is left (R186, R516): dirty data goes to the basin and on through the relocation stream, and
descriptors in progress that write device memory end with READ_ONLY. -/
def Dev.takePreserve (d : Dev) : Dev :=
  let d := { d.dropRung with mode := .preserve }.endDescs 0x10 Desc.writesDevice
  let d := d.drainAll
  let d := d.onSlices fun s => { s.foldsToReloc with upkeep := { s.upkeep with writeOut := true } }
  d.saveMirrors false

/-- A condition of R265 is met: the first is recorded, each raises its event, and in SERVICE, THROTTLED or IDLE the
package enters PRESERVE; elsewhere the record takes effect at the next entry into the service group. -/
def Dev.enterPreserve (d : Dev) (cause i : Nat) : Dev :=
  if d.preserve.seen.contains (cause, i) then d
  else
    let d := { d with preserve := { d.preserve with seen := d.preserve.seen ++ [(cause, i)] } }
    let d := if d.preserveRecorded then d else d.store preserveAt (clockRecord cause i d.lifeClock)
    let d := d.event 0x010B i cause 0xFF []
    if d.mode.isService && d.mode != .preserve then d.takePreserve else d

/-- Conditions of R265 that hold, as (cause, slice): those met since, three effective retired reaches, F at 0 in DRY. -/
def Dev.preserveCauses (d : Dev) : List (Nat × Nat) :=
  d.preserve.due
    ++ ((List.range d.sliceCount).filter fun i => decide (3 ≤ (d.slice i).upkeep.effective)).map (fun i => (3, i))
    ++ ((List.range d.sliceCount).filter fun i =>
        (d.slice i).free == 0 && (d.slice i).upkeep.watermark == .dry).map fun i => (2, i)

/-- Acts on every condition of R265 that holds. -/
def Dev.checkPreserve (d : Dev) : Dev :=
  let causes := d.preserveCauses
  let d := { d with preserve := { d.preserve with due := [] } }
  causes.foldl (fun d c => d.enterPreserve c.1 c.2) d

/-- Whether no slot can be reserved for the write-out: F is 0, or too few reaches are healthy for 16 lanes (R263, R267). -/
def Slice.noSlotLeft (s : Slice) : Bool := s.free == 0 || decide (((List.range 18).filter s.healthyReach).length < 16)

/-- The write-out of PRESERVE ends for want of slots: what is still dirty is poisoned (R267). Frames whose fills go on in a slot
that is still filled are waited for. -/
def Dev.poisonWriteOut (d : Dev) (i : Nat) : Dev :=
  let s := d.slice i
  let held := s.streamSlots .relocation .opened ++ s.streamSlots .relocation .reserved
  let folds := s.flow.rewrites.filter fun r => r.fold && !r.done
  if d.mode == .preserve && s.upkeep.writeOut && s.noSlotLeft && held.isEmpty && s.dirtyPresent
      && !folds.any (·.place.isSome) then
    let losses : List (Nat × BitVec 64) :=
      (s.basin.entries.map fun e => (e.lfn, e.dirty)) ++ (s.basin.overflow.map fun l => (l.frame, l.dirty64))
        ++ ((s.cache.lines ++ s.cache.victims).filter fun l => l.dirty != 0).map (fun l => (l.frame, l.dirty64))
        ++ folds.map fun r => (r.lfn, r.snap)
    let n := total (losses.map fun e => popCount e.2)
    let d := d.onSlice i fun s =>
      let s := losses.foldl (fun s e => s.markPoison e.1 e.2) s
      { s with
        basin := { s.basin with entries := [], overflow := [] }
        cache := { s.cache with
          lines := (s.cache.lines.map fun (l : Line) => { l with valid := l.valid &&& ~~~ l.dirty, dirty := 0 }).filter
            fun l => l.valid != 0
          victims := [] }
        flow := { s.flow with rewrites := s.flow.rewrites.filter fun r => !(r.fold && !r.done) }
        upkeep := { s.upkeep with writeOut := false } }
    let owed := (s.basin.entries.flatMap (·.acks)) ++ folds.flatMap (·.acks)
    (d.event 0x010D i 0 0xFF (p6 n)).acks owed
  else if s.upkeep.writeOut && !s.dirtyPresent then
    d.onSlice i fun s => { s with upkeep := { s.upkeep with writeOut := false } }
  else d

end Sys2Proof.Machine
end

