-- ==== Sys2Proof/Machine/Media.lean ====
section
/-!
DEFINITION. The ends of operations on the medium: map steps of frame rewrites and barges, program and clear verdicts,
page reads with retry, parity rebuild and poison, durable completions, and the end of a tick's operations (R45–R47, R53, R58,
R60, R63–R65, R72–R76, R86, R103, R142–R144, R150–R152, R155, R208–R210, R216, R217, R241, R242, R246, R250–R252, R255, R257,
R258, R261, R263, R274, R281, R291, R308, R360).
-/
namespace Sys2Proof.Machine

open Sys2Proof

/-! ### Map steps (R208, R209, R241, R281) -/

/-- Whether the programs of all 16 subpages of a rewrite have passed. -/
def Rewrite.complete (r : Rewrite) : Bool := decide (16 ≤ r.passed.length)

/-- Whether a relocation no longer has its source named by the map (R209). -/
def Slice.abandons (s : Slice) (r : Rewrite) : Bool :=
  match r.source with
  | none => false
  | some (slot, pos) =>
    let e := s.entry r.lfn
    e.trimmed || e.slot != slot || e.pos != pos

/-- Marks the relocations that the map has left behind as abandoned, each counted once; a position begun for one is filled up
(R58). -/
def Slice.markAbandoned (s : Slice) : Slice :=
  let gone := s.flow.rewrites.filter fun r => !r.done && s.abandons r
  let s := (gone.filter (·.place.isSome)).foldl Slice.abandonPosition s
  { s with flow := { s.flow with
      rewrites := updWhere (fun (r : Rewrite) => gone.any (·.id == r.id)) (fun r => { r with done := true }) s.flow.rewrites
      tow := s.flow.tow.filter fun q => !gone.any fun r => q.who == [Who.rewrite r.id] } }.count 76 gone.length

/-- Releases a fold's snapshot from its basin entry, except sectors written since; an entry left without dirty
sectors goes (R281 step 5). The index header is updated, unless its line is marked (R373). -/
def Slice.releaseFold (s : Slice) (lfn : Nat) : Slice :=
  let s := match s.basinOf lfn with
    | some e => if s.headerMarked e then s else s.storeLine (headerAddress e.index)
    | none => s
  { s with basin := { s.basin with
    entries := (updWhere (fun (e : BasinEntry) => e.lfn == lfn)
      (fun e => { e with dirty := e.dirty &&& ~~~ e.folding, folding := 0 }) s.basin.entries).filter
        fun e => e.dirty != 0 } }

/-- The map step of a complete rewrite: entry, valid counts, poison and journal entries (R192, R208, R213). -/
def Slice.mapStep (s : Slice) (r : Rewrite) : Slice :=
  let old := s.entry r.lfn
  let mask := s.poisonMask r.lfn
  let (slot, pos) := r.place.getD (0, 0)
  let kept := mask &&& ~~~ r.snap
  let e : MapEntry :=
    { slot := slot, pos := pos, trimmed := false, slc := (s.slot slot).slc, sealed := r.title.isSome,
      poisoned := old.poisoned }
  let s := ((s.dropValid old).setEntry r.lfn e).addValid slot 1
  let s := if mask = 0 && r.poison = 0 then s else s.setPoison r.lfn (kept ||| r.poison)
  let s := s.log (.map r.lfn (s.entry r.lfn) (r.seq.getD 0) r.source.isSome r.source)
  let s := if mask &&& r.snap = 0 then s else s.log (.poison r.lfn false (mask &&& r.snap))
  let s := if r.poison = 0 then s else s.log (.poison r.lfn true r.poison)
  if r.fold then s.releaseFold r.lfn else if r.kind == .refresh then s.count 158 1 else s

/-- Whether a rewrite carries new data, whose map step a full journal buffer holds (R217). -/
def Rewrite.isData (r : Rewrite) : Bool :=
  match r.kind with
  | .host | .durable | .bulk => true
  | _ => false

/-- A frame that lost sectors counts once as lost, at its map step (R242). -/
def Dev.countLost (d : Dev) (i : Nat) (r : Rewrite) : Dev :=
  match r.lost with
  | some reach => d.frameLost i 1 reach r.lfn r.poison
  | none => d

/-- Makes the map step of one rewrite; durable completions wait for its journal entry, and flushes count it off. -/
def Dev.stepOne (d : Dev) (i : Nat) (r : Rewrite) : Dev :=
  let entry := (d.slice i).journal.next
  let d := (d.countLost i r).onSlice i fun s =>
    let s := s.mapStep r
    let owed : List Durable := if r.acks.isEmpty then [] else [⟨s.flow.nextId, entry, r.lfn, r.cls, r.fails, r.acks⟩]
    { s with flow := { s.flow with
      durables := s.flow.durables ++ owed
      nextId := s.flow.nextId + 1
      rewrites := if r.barge.isSome then s.flow.rewrites else s.flow.rewrites.filter (·.id != r.id) } }
  if r.fold then d.flushStep i r.lfn entry else d

/-- Whatever entry filled it, a full journal buffer holds the data writes of its slice; the entry to the hold is reported
(R154, R217). -/
def Dev.journalHold (d : Dev) (i : Nat) : Dev :=
  let j := (d.slice i).journal
  if j.held || !j.full then d
  else (d.onSlice i fun s => { s with journal := { s.journal with held := true } }.count 86 1).contractExceeded i 2 0xFF

/-- Makes the map step of a single frame, unless a capture or a full journal holds it. -/
def Dev.stepSingle (d : Dev) (i id : Nat) : Dev :=
  match (d.slice i).flow.rewrites.find? (·.id == id) with
  | none => d
  | some r =>
    if (d.slice i).captureHolds r then d
    else if r.isData && (d.slice i).journal.full then d.journalHold i
    else d.stepOne i r

/-- The rewrites of a barge. -/
def Slice.bargeFrames (s : Slice) (b : Barge) : List Rewrite :=
  b.frames.filterMap fun id => s.flow.rewrites.find? (·.id == id)

/-- Rank of a place in position order: slots by open epoch. -/
def Slice.placeKey (s : Slice) (p : Option (Nat × Nat)) : Nat :=
  match p with
  | some (slot, pos) => (s.slot slot).epoch * 16384 + pos
  | none => 0

/-- The map steps of a barge run together, in position order, once every frame has passed or been abandoned (R241). -/
def Dev.stepBarge (d : Dev) (i : Nat) (b : Barge) : Dev :=
  let s := d.slice i
  let fs := sortBy (fun a b => decide (s.placeKey a.place ≤ s.placeKey b.place)) (s.bargeFrames b)
  if fs.all fun r => r.done || (r.complete && !s.captureHolds r) then
    let d := fs.foldl (fun d r => if r.done || (d.slice i).abandons r then d else d.stepOne i r) d
    d.onSlice i fun s =>
      { s with
        flow := { s.flow with rewrites := s.flow.rewrites.filter fun r => !b.frames.contains r.id }
        upkeep := { s.upkeep with barges := s.upkeep.barges.filter (·.id != b.id) } }.count 75 1
  else d

/-- Makes every map step of a slice that is due. -/
def Dev.stepRewrites (d : Dev) (i : Nat) : Dev :=
  let d := d.onSlice i Slice.markAbandoned
  let ids := ((d.slice i).flow.rewrites.filter fun r => r.barge.isNone && r.complete).map (·.id)
  let d := ids.foldl (fun d id => d.stepSingle i id) d
  let d := d.onSlice i Slice.markAbandoned
  (d.slice i).upkeep.barges.foldl (fun d b => d.stepBarge i b) d

/-! ### Programs (R56, R60) -/

/-- Counter of the pages programmed of a kind (R539). -/
def FillKind.counter (k : FillKind) : Nat :=
  match k with
  | .host => 56
  | .durable => 57
  | .bulk => 58
  | .reloc => 59
  | .refresh => 60
  | .system => 61
  | .parity => 62

/-- A page that has passed: it stands on the medium, its rewrite or system page counts it. -/
def Slice.programPass (s : Slice) (c : Chamber) : Slice :=
  let s := (s.setCell c.slot c.pos c.lane (.page c.page)).count c.kind.counter 1
  let written := match c.kind with
    | .host | .durable | .bulk => 1
    | _ => 0
  let rs := updWhere (fun (r : Rewrite) => some r.id == c.rewrite && r.place == some (c.slot, c.pos) && !r.passed.contains c.lane)
    (fun r => { r with passed := r.passed ++ [c.lane] }) s.flow.rewrites
  let ps := updWhere (fun (p : SysPage) => some p.seq == c.sysSeq && p.slot == some c.slot && p.pos == 16 * c.pos + c.lane)
    (fun p => { p with passed := true }) s.sys.pages
  let s := { s with
    flow := { s.flow with rewrites := rs, programmed := s.flow.programmed + written }
    sys := { s.sys with pages := ps } }
  if c.sysSeq.isSome then s.settleJournal.finishCopies else s

/-- Whether a chamber holds a system page. -/
def Chamber.holds (c : Chamber) (p : SysPage) : Bool :=
  some p.seq == c.sysSeq && p.slot == some c.slot && p.pos == 16 * c.pos + c.lane

/-- The durable writes whose journal entry is on a page that has failed count the failure (R144). -/
def Slice.delayDurables (s : Slice) (entries : List Nat) : Slice :=
  { s with flow := { s.flow with
    durables := updWhere (fun (w : Durable) => entries.contains w.entry) (fun w => { w with fails := w.fails + 1 }) s.flow.durables } }

/-- A system page whose program failed is written again at a later position (R60). -/
def Slice.systemFail (s : Slice) (p : SysPage) : Slice :=
  let again := { p with slot := none, filled := false, torn := true, tornAt := p.slot.map fun k => (k, p.pos) }
  let s := { s with sys := { s.sys with pages := replaceFirst p again s.sys.pages } }
  match p.body with
  | .journal _ es _ => s.delayDurables (es.map (·.1))
  | _ => s

/-- A page whose program failed counts as torn; its position is abandoned and the frame, or the system page, is
written again at a later position of the same slot (R60, R203). -/
def Slice.programFail (s : Slice) (c : Chamber) : Slice :=
  let s := (s.setCell c.slot c.pos c.lane .torn).count 70 1
  match s.flow.rewrites.find? fun r => some r.id == c.rewrite with
  | some r =>
    let s := if r.place == some (c.slot, c.pos) then s.abandonPosition r else s
    s.onRewrite r.id fun r => { r with fails := r.fails + 1 }
  | none => match s.sys.pages.find? c.holds with
    | some p => s.systemFail p
    | none => s

/-- A program pulse has ended: of a page of a superblock, or of a root or sentinel block. -/
def Dev.endProgram (d : Dev) (i : Nat) (c : Chamber) (pass : Bool) : Dev :=
  let d := d.onSlice i fun s => { s with flow := { s.flow with chambers := s.flow.chambers.erase c } }
  if slotCount ≤ c.slot then
    let d := d.onSlice i fun s => (s.blockProgrammed c.slot c.pos d.round pass).count (if pass then c.kind.counter else 70) 1
    if pass then d else d.bankFault i (bankNo c.reach c.group c.bank) true
  else if pass then d.onSlice i fun s => s.programPass c
  else (d.onSlice i fun s => s.programFail c).bankFault i (bankNo c.reach c.group c.bank) true

/-- What follows the end of operations on the medium of a slice: map steps that are due, a hold for a full journal buffer,
and the conditions of R265. -/
def Dev.settleMedium (d : Dev) (i : Nat) : Dev := ((d.stepRewrites i).journalHold i).checkPreserve

/-- PROGRAM_COMPLETE (R60, R208, R216, R219). -/
def execProgramComplete (slice reach group bank : Nat) (pass : Bool) (s : State) : Host.Outcome State Fault Refusal :=
  runSlice slice s fun d =>
    match (d.slice slice).flow.chambers.find? fun c => c.programming && c.reach == reach && c.group == group && c.bank == bank with
    | none => d
    | some c => (d.endProgram slice c pass).settleMedium slice

/-! ### Clears (R63–R65, R251, R252, R262) -/

/-- A RETIRING reach without a lane in any slot becomes retired (R262). -/
def Dev.finishReach (d : Dev) (i : Nat) : Dev :=
  let s := d.slice i
  match s.upkeep.evacReach with
  | none => d
  | some r =>
    if s.slots.any fun e => e.2.bound && e.2.laneReach.contains r then d
    else
      let next := (List.range 18).find? fun q => q ≠ r && (s.reach q).state == .retiring
      let d := d.onSlice i fun s =>
        { s.onReach r fun h => { h with state := .retired } with
          upkeep := { s.upkeep with evacReach := next } }.count 154 1
      { (d.event 0x0108 i 1 r []).recountFormable i with swap := { d.swap with changeDue := true } }

/-- A root block that has retired while a record is being written to it: the record goes to the next pair (R67, R224). -/
def Slice.leaveRoot (s : Slice) (c : Clear) (round : Nat) : Slice :=
  match c.root, s.sys.rootWrite with
  | some b, some w => if s.sys.rootBad.contains b && w.left.contains b then s.queueRoot w.record w.drop round else s
  | _, _ => s

/-- A clear segment has ended (R63): after the 1,024th the block is cleared; a failure retires it at once. -/
def Dev.endSegment (d : Dev) (i : Nat) (c : Clear) (pass : Bool) : Dev :=
  let last := !pass || c.left ≤ 1
  let d := d.onSlice i fun s =>
    let rest := s.flow.clears.erase c
    { s with flow := { s.flow with
      clears := if last then rest
        else updWhere (· == c) (fun (c : Clear) => { c with running := false, left := c.left - 1 }) s.flow.clears } }
  let n := bankNo c.reach c.group c.bank
  let d := if pass then d else ((d.count i 71 1).retireBlock i c 2).bankFault i n true
  let d := if last && 500000 ≤ (d.slice i).clearWear c then d.retireBlock i c 1 else d
  let d := d.onSlice i fun s => s.leaveRoot c d.round
  if last then
    (d.onSlice i fun s => ((if c.lent || c.root.isSome then s else s.finishClearing c.slot).adjustPools).releaseDonors).finishReach i
  else d

/-- CLEAR_SEGMENT_COMPLETE (R63, R251, R252). -/
def execClearSegmentComplete (slice reach group bank : Nat) (pass : Bool) (s : State) :
    Host.Outcome State Fault Refusal :=
  runSlice slice s fun d =>
    match (d.slice slice).flow.clears.find? fun c => c.running && c.reach == reach && c.group == group && c.bank == bank with
    | none => d
    | some c => (d.endSegment slice c pass).settleMedium slice

/-! ### Age (R69, R71, R75) -/

/-- The age of a slot after a retry with the references of class `used` decoded: where that class is older, its lower limit at least
(R74, R75). -/
def retriedAge (age used : Nat) : Nat := if ageClass age < used then max age (ageLimits.getD used 0) else age

/-! ### Reports (R46, R255) -/

/-- Whether the map names a position for a frame. -/
def Slice.names (s : Slice) (lfn slot pos : Nat) : Bool :=
  let e := s.entry lfn
  !e.trimmed && e.slot == slot && e.pos == pos

/-- Queues a frame for refresh. -/
def Slice.queueFrame (s : Slice) (lfn slot pos : Nat) : Slice :=
  if s.names lfn slot pos && !s.upkeep.refreshFrames.contains lfn then
    { s with upkeep := { s.upkeep with refreshFrames := s.upkeep.refreshFrames ++ [lfn] } }
  else s

/-- Queues a whole slot for refresh after reports from 4 distinct positions. -/
def Slice.queueReported (s : Slice) (slot : Nat) : Slice :=
  if 4 ≤ (s.slot slot).reports.length && !s.upkeep.refreshQ.contains slot && !s.upkeep.refreshReported.contains slot then
    { s with upkeep := { s.upkeep with refreshReported := s.upkeep.refreshReported ++ [slot] } }.count 159 1
  else s

/-- A report of a page with more than 12 corrected bits (R46, R255). -/
def Slice.report (s : Slice) (q : ReadReq) : Slice :=
  let s := s.count 65 1
  let k := s.slot q.slot
  if k.stream == .system || k.reports.contains q.pos then s
  else
    let keep (s : Slice) := s.onSlot q.slot fun k => { k with reports := k.reports ++ [q.pos] }
    match k.state with
    | .verified => ((keep s).queueFrame q.lfn q.slot q.pos).queueReported q.slot
    | .opened => keep s
    | _ => s

/-! ### Delivery (R100, R274, R281, R360) -/

/-- A fill that brings no data: the line no longer waits, and goes when nothing of it is valid. -/
def Slice.endFill (s : Slice) (line : Nat) : Slice :=
  let s := s.onLine line fun l => { l with filling := false }
  { s with cache := { s.cache with lines := s.cache.lines.filter fun l => l.line != line || l.valid != 0 } }

/-- The fold buffer of a fold takes the sectors of a subpage outside its snapshot. -/
def Slice.bufferSub (s : Slice) (id lane : Nat) : Slice :=
  match s.flow.rewrites.find? fun r => r.id == id && r.fold with
  | some r => s.storeBuffer r.buffer (subMask lane &&& ~~~ r.snap)
  | none => s

/-- A subpage arrives for a rewrite: its sectors outside the snapshot are merged. -/
def Slice.merge (s : Slice) (id lane : Nat) (data : List Sector) : Slice :=
  (s.bufferSub id lane).onRewrite id fun r =>
    if r.need.contains lane then
      let frame := (List.range 64).map fun k => if k / 4 = lane then data.getD (k % 4) 0 else 0
      { r with need := r.need.erase lane, data := mergeSectors r.data frame (subMask lane &&& ~~~ r.snap) }
    else r

/-- A subpage cannot be read for a rewrite: its sectors outside the snapshot are poisoned; `reach` is where they were lost
just now, `none` when the map had them poisoned before. -/
def Slice.mergeLost (s : Slice) (id lane : Nat) (reach : Option Nat) : Slice :=
  s.onRewrite id fun r =>
    let m := subMask lane &&& ~~~ r.snap
    if r.need.contains lane then
      { r with
        need := r.need.erase lane
        poison := r.poison ||| m
        lost := if m &&& ~~~ (s.poisonMask r.lfn) = 0 then r.lost else r.lost.orElse fun _ => reach }
    else r

/-- The sector of a subpage that a descriptor's `idx`-th sector names. -/
def Dev.descLane (d : Dev) (ring slot idx : Nat) : Nat × Bool :=
  match (d.ring ring).descs.find? (·.slot == slot) with
  | some x => (sectorInFrame ((if x.field 0 2 = 5 then x.dst else x.src) + 64 * idx), x.field 0 2 == 5)
  | none => (0, false)

/-- A verify read found a page to be moved: its frame is marked for relocation if it is valid; a system page is
written again under its own sequence (R246, R250). -/
def Slice.markVerify (s : Slice) (q : ReadReq) : Slice :=
  if (s.slot q.slot).stream == .system then
    match s.sys.pages.find? fun p => p.slot == some q.slot && p.pos == 16 * q.pos + q.lane with
    | some p => { s with sys := { s.sys with
        pages := s.sys.pages ++ [{ p with slot := none, filled := false, passed := false, torn := true, copied := true }] } }
    | none => { s with sys := { s.sys with
        pages := s.sys.pages ++ (s.sys.formatPage q.slot (16 * q.pos + q.lane)).toList } }
  else if s.names q.lfn q.slot q.pos && !s.upkeep.marked.contains (q.slot, q.pos) then
    { s with upkeep := { s.upkeep with marked := s.upkeep.marked ++ [(q.slot, q.pos)] } }
  else s

/-- A calibration sample of a table entry has been read: the entry moves to the setting with the fewest corrected bits
(R73). -/
def Reach.calibrate (h : Reach) (r e : Nat) : Reach :=
  let n := sget h.samples e 0
  { h with
    refs := sset h.refs e ((List.range 4).map (Config.reference r e n))
    samples := sset h.samples e (n + 1)
    calibrations := upd h.calibrations (e / 48) (· + 1) }

/-- The data of a page as the slice's medium engine decrypts it, with the key that it holds for the page's tags (R359, R360). -/
def Slice.decrypted (s : Slice) (p : Page) : List Sector := p.under (s.engine.keyOf p.title)

/-- Sector `k` of a page's frame as a reader of the page receives it: a newer copy short of the medium goes before it, a copy in a
marked line and a sector that has been poisoned since the read was queued give poison (R76, R373). -/
def Slice.readSector (s : Slice) (q : ReadReq) (p : Page) (k : Nat) : Option Sector :=
  match s.newerRead q.lfn k with
  | some v => v
  | none =>
    if s.names q.lfn q.slot q.pos && has (s.poisonMask q.lfn) k then none else some ((s.decrypted p).getD (k % 4) 0)

/-- Delivers a decoded page to one requester. `rebuilt` tells that its parity recovered it, `bits` the corrected bits. -/
def Dev.deliver (d : Dev) (i : Nat) (q : ReadReq) (p : Page) (rebuilt : Bool) (bits : Nat) (w : Who) : Dev :=
  let usable := d.keyLoaded p.title
  match w with
  | .host port tag k =>
    if usable then d.answerRead port tag q.cls ((d.slice i).readSector q p k)
    else (d.count i 134 1).answerRead port tag q.cls none
  | .desc ring slot idx =>
    let (k, medium) := d.descLane ring slot idx
    if !usable then (d.count i 134 1).descSector ring slot idx (if medium then none else ((d.slice i).newerRead q.lfn k).join)
    else if medium then d.descSector ring slot idx (some (((d.slice i).decrypted p).getD (k % 4) 0))
    else d.descSector ring slot idx ((d.slice i).readSector q p k)
  | .rewrite id =>
    let fold := (d.slice i).flow.rewrites.any fun r => r.id == id && r.fold
    d.onSlice i fun s =>
      if !fold then s.merge id q.lane p.data
      else if usable then s.merge id q.lane (s.decrypted p)
      else s.mergeLost id q.lane (some q.reach)
  | .hint => d
  | .verify => if 12 < bits || rebuilt then d.onSlice i fun s => s.markVerify q else d
  | .scrub => if q.attempt != 0 && !rebuilt then d.onSlice i fun s => s.queueFrame q.lfn q.slot q.pos else d
  | .calib e => d.onSlice i fun s => s.onReach q.reach fun h => h.calibrate q.reach e
  | .rebuild _ => d

/-- Whether a hint waits for a request. -/
def ReadReq.hinted (q : ReadReq) : Bool := q.who.contains .hint

/-- Fills the allocated line of a request from its page; a hint allocates its line now (R274, R291). -/
def Dev.fillFrom (d : Dev) (i : Nat) (q : ReadReq) (p : Page) : Dev :=
  if !q.allocate then d
  else if !d.keyLoaded p.title then d.onSlice i fun s => s.endFill q.line
  else
    let dpa := d.dpaOf i q.lfn (4 * q.lane)
    let c := d.classOf 0 dpa
    let d := if q.hinted && !((d.slice i).lineOf? q.line).any (·.filling) then
        let (s, ok) := (d.slice i).allocRead q.line (d.lineProtected c dpa) 7 c.sealedSlot
        if ok then d.onSlice i fun _ => s else d.count i 53 1
      else d
    if ((d.slice i).lineOf? q.line).any (·.filling) then
      d.onSlice i fun s => s.fillLine q.line (s.decrypted p) (s.poisonMask q.lfn)
    else d

/-- Delivers a decoded page to every requester but rebuilds. -/
def Dev.deliverAll (d : Dev) (i : Nat) (q : ReadReq) (p : Page) (rebuilt : Bool) (bits : Nat) : Dev :=
  (q.who.foldl (fun d w => d.deliver i q p rebuilt bits w) d).fillFrom i q p

/-! ### Poison (R47, R76, R242) -/

/-- Delivers poison to one requester; `fresh` tells that the sectors are lost now. -/
def Dev.deliverPoison (d : Dev) (i : Nat) (q : ReadReq) (fresh : Bool) (w : Who) : Dev :=
  match w with
  | .host port tag _ => d.answerRead port tag q.cls none
  | .desc ring slot idx => d.descSector ring slot idx none
  | .rewrite id => d.onSlice i fun s => s.mergeLost id q.lane (if fresh then some q.reach else none)
  | .verify => d.onSlice i fun s => s.markVerify q
  | .calib _ | .hint | .scrub | .rebuild _ => d

/-- Poison for every requester, and the line that waited for the page. -/
def Dev.poisonAll (d : Dev) (i : Nat) (q : ReadReq) (fresh : Bool) : Dev :=
  let d := q.who.foldl (fun d w => d.deliverPoison i q fresh w) d
  if q.allocate then d.onSlice i fun s => s.endFill q.line else d

/-- Whether a host waits for a request. -/
def ReadReq.fromHost (q : ReadReq) : Bool := q.who.any fun w => match w with
  | .host _ _ _ => true
  | _ => false

/-- Whether a read serves verify or scrub and no rewrite, which counts its lost frame at its own map step. -/
def ReadReq.checks (q : ReadReq) : Bool :=
  (q.who.contains .verify || q.who.contains .scrub) && !q.who.any fun w => match w with
    | .rewrite _ => true
    | _ => false

/-- Whether two requests name one page. -/
def ReadReq.sameAs (a b : ReadReq) : Bool := a.slot == b.slot && a.pos == b.pos && a.lane == b.lane

/-- The other reads that wait for the page of a request, those of parity rebuilds apart: queued, held, on a work list or in flight. -/
def Slice.waitingOn (s : Slice) (q : ReadReq) : List ReadReq :=
  let flying := s.flow.flights.filter fun f => f.req.sameAs q && !f.req.rebuilds
  let listed := (s.flow.queue ++ s.flow.hold ++ s.flow.tow).filter fun r => r.sameAs q && !r.rebuilds
  flying.map (·.req) ++ listed.filter fun r => !flying.any fun f => f.kept.contains r

/-- Takes those reads out of the slice. -/
def Slice.dropWaiting (s : Slice) (q : ReadReq) : Slice :=
  let other (r : ReadReq) := !(r.sameAs q && !r.rebuilds)
  { s with flow := { s.flow with
    queue := s.flow.queue.filter other
    hold := s.flow.hold.filter other
    tow := s.flow.tow.filter other
    flights := s.flow.flights.filter fun f => other f.req } }

/-- A subpage is lost: its four sectors are poisoned where the map names the position, and every read waiting on it receives
poison (R47, R76). -/
def Dev.losePage (d : Dev) (i : Nat) (q : ReadReq) (reason : Nat) : Dev :=
  let others := if (d.slice i).names q.lfn q.slot q.pos then (d.slice i).waitingOn q else []
  let d := if others.isEmpty then d else d.onSlice i fun s => s.dropWaiting q
  let mapped := (d.slice i).names q.lfn q.slot q.pos
  let d := if mapped then d.onSlice i fun s => s.markPoison q.lfn (subMask q.lane) else d
  let d := if q.fromHost then d.mediaPoison i reason q.reach (d.dpaOf i q.lfn (4 * q.lane)) else d
  let d := if mapped && q.checks then d.frameLost i 2 q.reach q.lfn (subMask q.lane) else d
  others.foldl (fun d r => d.poisonAll i r true) (d.poisonAll i q true)

/-! ### Retry and rebuild (R74–R76) -/

/-- The retry of a request: it waits for the retry budget of its reach. -/
def ReadReq.retried (q : ReadReq) (now : Nat) : ReadReq :=
  { q with attempt := q.attempt + 1, tow := some .retry, arrival := now }

/-- Starts the rebuild of a subpage: its 15 other subpages and the parity page, part 16, are read under retry grants; none
when the slot has no parity block for the position. -/
def Slice.startRebuild (s : Slice) (now : Nat) (q : ReadReq) : Option Slice :=
  (s.parityPlace q.slot q.pos).map fun w =>
    let lanes := (List.range 16).filter (· != q.lane)
    let id := s.flow.nextId
    let keys := lanes.map (pageKey q.slot q.pos) ++ [pageKey w.1 w.2.1 w.2.2]
    { s with
      flow := { s.flow with tow := s.flow.tow ++ keys.map fun k => s.towRequest now k .retry (.rebuild id), nextId := id + 1 }
      upkeep := { s.upkeep with
        rebuilds := s.upkeep.rebuilds ++ [{ id := id, req := q, left := lanes ++ [16], failed := false, pages := [] }] } }

/-- Whether a slot is unverified, so that its parity stands (R76, R204). -/
def Slot.unverified (k : Slot) : Bool := k.state == .opened || k.state == .closed

/-- Recovers a page from its parity while its slot is unverified; elsewhere it is lost (R76, R242). -/
def Dev.recoverPage (d : Dev) (i : Nat) (q : ReadReq) : Dev :=
  match if ((d.slice i).slot q.slot).unverified then (d.slice i).startRebuild d.now q else none with
  | some s => d.onSlice i fun _ => s
  | none => d.losePage i q 3

/-- A page stays uncorrectable after its retries, which counts against its bank (R76, R258). -/
def Dev.failedRead (d : Dev) (i : Nat) (q : ReadReq) : Dev :=
  ((d.count i 67 1).bankFault i (bankNo q.reach q.group q.bank) false).recoverPage i q

/-- One of the 16 reads of a rebuild has ended, with its page if it decoded: with the last the exclusive-or of the stored
pages gives the subpage, after a failure it is lost (R76). -/
def Dev.rebuildPart (d : Dev) (i id : Nat) (q : ReadReq) (p : Option Page) : Dev :=
  match (d.slice i).upkeep.rebuilds.find? (·.id == id) with
  | none => d
  | some r =>
    let left := r.left.erase (if q.slot = r.req.slot then q.lane else 16)
    let failed := r.failed || p.isNone
    let pages := r.pages ++ p.toList
    if !left.isEmpty then
      d.onSlice i fun s => { s with upkeep := { s.upkeep with
        rebuilds := updWhere (fun (x : Rebuild) => x.id == id)
          (fun x => { x with left := left, failed := failed, pages := pages }) s.upkeep.rebuilds } }
    else
      let d := d.onSlice i fun s =>
        { s with upkeep := { s.upkeep with rebuilds := s.upkeep.rebuilds.filter (·.id != id) } }
      match failed, rebuiltPage r.req.lane pages with
      | false, some p => (d.count i 68 1).deliverAll i r.req p true 0
      | _, _ => d.losePage i r.req 3

/-- The rebuilds that a read serves. -/
def ReadReq.rebuildIds (q : ReadReq) : List Nat := q.who.filterMap fun w => match w with
  | .rebuild id => some id
  | _ => none

/-- Ends the parts of the rebuilds that a read serves. -/
def Dev.rebuildParts (d : Dev) (i : Nat) (q : ReadReq) (p : Option Page) : Dev :=
  q.rebuildIds.foldl (fun d id => d.rebuildPart i id q p) d

/-- A page that decodes: its corrected bits are counted and reported, a retry raises the age of its slot, and every
requester is served (R46, R75). `used` is the age class whose references read it. -/
def Dev.goodRead (d : Dev) (i : Nat) (q : ReadReq) (used : Nat) (p : Page) (bits : Nat) : Dev :=
  let d := d.onSlice i fun s =>
    let s := if bits = 0 then s else s.count 64 1
    let s := if 12 < bits then s.report q else s
    if q.attempt = 0 then s
    else (s.count 66 1).onSlot q.slot fun k => if k.bound then { k with age := capAge (retriedAge k.age used) } else k
  (d.deliverAll i q p false bits).rebuildParts i q (some p)

/-- A torn or cleared page: poison for a host read (R47); elsewhere, where the map names it, as uncorrectable after
retry (R242, R257). -/
def Dev.voidRead (d : Dev) (i : Nat) (q : ReadReq) (reason : Nat) : Dev :=
  if q.rebuilds then d.rebuildParts i q none
  else if q.fromHost || !(d.slice i).names q.lfn q.slot q.pos then d.losePage i q reason
  else d.failedRead i q

/-- A page that decodes as uncorrectable: a retry waits for the retry budget, a read of a rebuild fails (R74, R76). -/
def Dev.badRead (d : Dev) (i : Nat) (q : ReadReq) : Dev :=
  if q.rebuilds then d.rebuildParts i q none
  else if q.attempt < 3 then
    d.onSlice i fun s => { s with flow := { s.flow with tow := s.flow.tow ++ [q.retried d.now] } }
  else d.failedRead i q

/-- A page read has ended: the decoder classifies what came out of the read latch, some bits of which were read wrong (R45, R54),
and the requests that kept their places until then leave them. -/
def Dev.endRead (d : Dev) (i : Nat) (f : Flight) (errors : List Nat) : Dev :=
  let page := (d.slice i).transferred f
  let d := d.onSlice i fun s => { s with flow := { s.flow with
    flights := s.flow.flights.filter (·.id != f.id)
    queue := s.flow.queue.filter fun q => !f.kept.contains q
    tow := s.flow.tow.filter fun q => !f.kept.contains q } }
  match decodeClass page errors, page with
  | .clean, some (.page p) => d.goodRead i f.req f.cls p 0
  | .corrected n, some (.page p) => d.goodRead i f.req f.cls p n
  | .uncorrectable, _ => d.badRead i f.req
  | .cleared, _ => d.voidRead i f.req 2
  | _, _ => d.voidRead i f.req 1

/-- PAGE_READ_COMPLETE (R45–R47, R74–R76, R274); `errors` are the bits of the page that were read wrong. -/
def execPageReadComplete (slice flight : Nat) (errors : List Nat) (s : State) : Host.Outcome State Fault Refusal :=
  runSlice slice s fun d =>
    match (d.slice slice).flow.flights.find? (·.id == flight) with
    | none => d
    | some f => (d.endRead slice f errors).settleMedium slice

/-! ### The end of a tick's operations (R53, R86, R103) -/

/-- Drops the reuse items whose transfer has not ended: their requests have kept their places in the queues and work lists (step 1 of
R86, R103). -/
def Slice.dropReuse (s : Slice) : Slice :=
  { s with flow := { s.flow with flights := s.flow.flights.filter fun f => !f.reuse } }

/-- Every array operation of a slice that began in the ending tick has ended in it (R53): those that no command completed end
with the verdicts of the environment. -/
def Dev.endTick (env : TickEnv) (d : Dev) (i : Nat) : Dev :=
  let d := d.onSlice i Slice.dropReuse
  let good (reach group bank : Nat) := !env.writeFails.contains (i, bankNo reach group bank)
  let errors (f : Flight) : List Nat := ((env.readErrors.find? fun e => e.1 == i && e.2.1 == f.id).map (·.2.2)).getD []
  let d := (d.slice i).flow.flights.foldl (fun d f =>
    if (d.slice i).flow.flights.any (·.id == f.id) then d.endRead i f (errors f) else d) d
  let d := ((d.slice i).flow.chambers.filter (·.programming)).foldl
    (fun d c => d.endProgram i c (good c.reach c.group c.bank)) d
  let d := ((d.slice i).flow.clears.filter (·.running)).foldl
    (fun d c => d.endSegment i c (good c.reach c.group c.bank)) d
  d.settleMedium i

/-! ### Durable completions (R142, R143, R151) -/

/-- The classes of the completions that leave past the bound of R142, which each failed program extends by 2 ticks (R144) and which the
ticks under a write hold do not count against (R152); a late DRAM access delays them (R344). -/
def Slice.lateClasses (s : Slice) (now : Nat) (w : Durable) : List Nat :=
  w.acks.filterMap fun a => match a with
    | .host _ _ t c => if t + 11 + 2 * w.fails < now + s.flow.dramDelay - s.flow.holdTicks then some c else none
    | .desc _ _ | .title _ => none

/-- Whether a class of a slice has a durable bound: the variant in force declares it durable, in a mode that keeps the bound
(R155). -/
def Dev.hasDurableBound (d : Dev) (i c : Nat) : Bool :=
  d.declaresDurable i c && d.mode.isService && d.mode != .preserve && !(d.slice i).inRecovery

/-- Whether an earlier durable write of the frame of `w` has not been answered (R143). -/
def Slice.behind (s : Slice) (w : Durable) : Bool :=
  (s.flow.durables.takeWhile (·.id != w.id)).any (·.lfn == w.lfn)

/-- DURABLE_WRITE_COMPLETE (R142–R144, R151): a durable write whose MAP entry is durable is answered, after the earlier ones
of its frame; a completion past the declared bound is reported. -/
def execDurableWriteComplete (slice write : Nat) (s : State) : Host.Outcome State Fault Refusal :=
  runSlice slice s fun d =>
    let s := d.slice slice
    match s.flow.durables.find? (·.id == write) with
    | none => d
    | some w =>
      if s.journal.durable ≤ w.entry || s.behind w then d
      else
        let d := d.onSlice slice fun s =>
          { s with flow := { s.flow with durables := s.flow.durables.filter (·.id != write) } }
        let d := match (s.lateClasses d.now w).find? (d.hasDurableBound slice) with
          | some c => d.contractExceeded slice 4 c
          | none => d
        d.acks w.acks

/-! ### A reach that is lost (R89, R261, R263) -/

/-- Reads of a retired reach, which no row serves: a read of a rebuild fails, a page of an unverified slot is recovered from
its parity, and any other returns poison. -/
def Dev.deadReads (d : Dev) (i : Nat) : Dev :=
  let s := d.slice i
  let dead (q : ReadReq) := (s.reach q.reach).state == .retired
  let gone := (s.flow.queue ++ s.flow.hold ++ s.flow.tow).filter dead
  if gone.isEmpty then d
  else
    let d := d.onSlice i fun s => { s with flow := { s.flow with
      queue := s.flow.queue.filter fun q => !dead q
      hold := s.flow.hold.filter fun q => !dead q
      tow := s.flow.tow.filter fun q => !dead q } }
    gone.foldl (fun d q =>
      if q.rebuilds then d.rebuildParts i q none
      else if (s.slot q.slot).unverified then d.recoverPage i q
      else d.poisonAll i q false) d

/-- The data of a reach lost with its engine: every mapped frame of a verified slot with a lane on it loses that lane's sectors
and counts as lost, and the reads of the reach are answered (R261, R263). -/
def Dev.loseReach (d : Dev) (i r : Nat) : Dev :=
  let s := d.slice i
  let hit := s.map.filter fun (e : Nat × MapEntry) =>
    !e.2.trimmed && (s.slot e.2.slot).state == .verified && (s.slot e.2.slot).laneReach.contains r
  let d := hit.foldl (fun d (e : Nat × MapEntry) =>
    let lane := ((d.slice i).slot e.2.slot).laneReach.findIdx (· == r)
    let m := subMask lane
    (d.onSlice i fun s => s.markPoison e.1 m).frameLost i 3 r e.1 m) d
  d.deadReads i

end Sys2Proof.Machine
end

