-- ==== Sys2Proof/Machine/Upkeep.lean ====
section
/-!
DEFINITION. Upkeep of the medium that the firmware runs: watermarks, victims, static leveling, the release of sources,
the end of verify, and PRESERVE (R153, R212, R232–R238, R244–R247, R253–R255, R258–R267, R571).
-/
namespace Sys2Proof.Machine

open Sys2Proof

/-! ### Watermarks (R233, R234) -/

/-- Whether a watermark state is left at a free count (R233). -/
def Watermark.leaves (w : Watermark) (f : Nat) : Bool :=
  match w with
  | .normal => decide (f ≤ 12)
  | .low => decide (13 ≤ f) || decide (f ≤ 6)
  | .hold => decide (8 ≤ f) || decide (f ≤ 2)
  | .dry => decide (4 ≤ f)

/-- The state that a free count selects on leaving a state (R234). -/
def Watermark.select (w : Watermark) (f : Nat) : Watermark :=
  if f ≤ 2 then .dry
  else if f ≤ 6 || (f == 7 && w == .dry) then .hold
  else if f ≤ 12 then .low
  else .normal

/-- The watermark state after a round boundary with a free count. -/
def Watermark.next (w : Watermark) (f : Nat) : Watermark := if w.leaves f then w.select f else w

/-- Whether a watermark state holds writes (R233). -/
def Watermark.holds : Watermark → Bool
  | .hold | .dry => true
  | _ => false

/-- The slice takes its watermark state at a round boundary; rounds in DRY, LOW and HOLD are counted, and the entry to
a hold is reported (R152). -/
def Dev.watermarkBoundary (d : Dev) (i : Nat) : Dev :=
  let s := d.slice i
  let old := s.upkeep.watermark
  let new := old.next s.free
  let d := d.onSlice i fun s =>
    let s := { s with upkeep := { s.upkeep with
      watermark := new
      dryRounds := if new = .dry then (if old = .dry then s.upkeep.dryRounds + 1 else 0) else 0 } }
    match new with
    | .low => s.count 101 1
    | .hold => s.count 102 1
    | _ => s
  if new.holds && !old.holds then d.contractExceeded i 2 0xFF else d

/-! ### Victims (R237, R238) -/

/-- Whether a slot is a candidate for reclamation. -/
def Slot.candidate (k : Slot) : Bool :=
  (k.state == .closed || k.state == .verified) && k.stream != .system && decide (k.valid < k.capacity)

/-- The candidate of lowest valid fraction, the lower open epoch between equals. -/
def Slice.greedyVictim (s : Slice) : Option Nat :=
  (minBy (fun (e : Nat × Slot) => e.2.valid * (16384 / e.2.capacity) * 2 ^ 48 + e.2.epoch)
    (s.slots.filter fun e => e.2.candidate)).map (·.1)

/-- The verify pass of a slot stops. -/
def Slice.stopVerify (s : Slice) (slot : Nat) : Slice :=
  { s with upkeep := { s.upkeep with verifyQ := s.upkeep.verifyQ.filter (· != slot) } }

/-- The watermark state that the descriptors give when the tick starts (R236); a slice that starts in HOLD or DRY reports it
(R233). -/
def Dev.freshWatermark (d : Dev) (i : Nat) : Dev :=
  let d := d.onSlice i fun s =>
    { s with upkeep := { s.upkeep with watermark := Watermark.normal.next s.free, dryRounds := 0 } }
  if (d.slice i).upkeep.watermark.holds then d.contractExceeded i 2 0xFF else d

/-- Chooses a greedy victim when none is in work and reclamation runs. -/
def Slice.chooseVictim (s : Slice) : Slice :=
  let live : Bool := match s.upkeep.victim with
    | some k => (s.slot k).state == .closed || (s.slot k).state == .verified
    | none => false
  if live then s
  else if !s.reclaims then { s with upkeep := { s.upkeep with victim := none } }
  else match s.greedyVictim with
    | some k => { s with upkeep := { s.upkeep with victim := some k } }.stopVerify k
    | none => { s with upkeep := { s.upkeep with victim := none } }

/-! ### Static wear leveling (R253) -/

/-- Wear of the blocks of a slot. -/
def Slice.slotWear (s : Slice) (k : Nat) : Nat :=
  total ((s.slot k).banks.map fun b => s.wearOf b (slabOf k))

/-- Static leveling at a round boundary: it starts above a difference of 50,000 units, stops at 40,000, and moves the
VERIFIED slot of lowest mean wear while the slice is NORMAL with F at 24 or more. -/
def Slice.levelWear (s : Slice) : Slice :=
  let gap := s.highWear - s.lowWear
  let on := if s.upkeep.staticOn then decide (40000 < gap) else decide (50000 < gap)
  let s := { s with upkeep := { s.upkeep with staticOn := on } }
  let live : Bool := match s.upkeep.staticVictim with
    | some k => (s.slot k).state == .verified
    | none => false
  if live && on then s
  else if s.levels then
    match minBy (fun (e : Nat × Slot) => s.slotWear e.1 * 2 ^ 48 + e.2.epoch)
        (s.slots.filter fun e => e.2.state == .verified && e.2.stream != .system) with
    | some e => { s with upkeep := { s.upkeep with staticVictim := some e.1 } }.count 78 1
    | none => { s with upkeep := { s.upkeep with staticVictim := none } }
  else { s with upkeep := { s.upkeep with staticVictim := none } }

/-! ### Self-checks and evacuation (R258–R263) -/

/-- One result of a reach engine's self-check: the second failure in a row makes the reach RETIRING, or in a slice with
two retired reaches loses it at once. -/
def Dev.selfCheck (d : Dev) (i r : Nat) (failed : Bool) : Dev :=
  let h := (d.slice i).reach r
  if !failed then (if h.selfFails = 0 then d else d.onSlice i fun s => s.onReach r fun h => { h with selfFails := 0 })
  else if h.selfFails = 0 then
    d.onSlice i fun s => s.onReach r fun h => { h with selfFails := 1 }
  else
    let third := decide (2 ≤ (d.slice i).retiredCount) && h.state == .healthy
    let d := d.retireReach i r 2
    if third then d.loseReach i r else d

/-- Bank evacuations that have ended leave the list, and an emptied reach retires. -/
def Dev.evacuationBoundary (d : Dev) (i : Nat) : Dev :=
  let d := d.onSlice i fun s =>
    { s with upkeep := { s.upkeep with
      evacBanks := s.upkeep.evacBanks.filter fun b =>
        s.slots.any fun e => e.2.bound && e.2.stream != .system && e.2.banks.contains b } }
  let d := (d.onSlice i Slice.releaseDonors).finishReach i
  if (d.slice i).upkeep.evacReach.isSome then (d.count i 156 1).contractExceeded i 5 0xFF
  else if (d.slice i).upkeep.evacBanks.isEmpty then d else d.count i 156 1

/-! ### Releasing a source (R212, R238, R244) -/

/-- Journal entries of a slice that are not durable. -/
def Slice.loose (s : Slice) : List (Nat × JEntry) :=
  (s.journal.buffer ++ s.sys.pages.flatMap fun p => match p.body with
    | .journal _ es _ => es
    | _ => []).filter fun e => decide (s.journal.durable ≤ e.1)

/-- Whether a move out of a slot is not committed: a barge in flight, or a MAP entry not durable. -/
def Slice.moving (s : Slice) (slot : Nat) : Bool :=
  s.upkeep.barges.any (·.source == slot) || s.loose.any fun e => match e.2 with
    | .map _ _ _ _ (some (k, _)) => k == slot
    | _ => false

/-- Whether a slot is a source that is to be released: it is evacuated, a victim, leveled or refreshed whole. -/
def Slice.isSource (s : Slice) (slot : Nat) : Bool :=
  s.upkeep.victim == some slot || s.upkeep.staticVictim == some slot
    || s.sources.any fun src => src.1 == slot && (src.2.1 != 3 || src.2.2 == .refresh)

/-- SOURCE_INVALIDATE (R244 step 3): a source without a valid frame, whose moves are durable, enters CLEARING, and its
parity blocks are returned in the same step (R238). -/
def execSourceInvalidate (slice slot : Nat) (s : State) : Host.Outcome State Fault Refusal :=
  runSlice slice s fun d =>
    let s := d.slice slice
    let k := s.slot slot
    if (k.state == .closed || k.state == .verified) && s.isSource slot && k.valid == 0 && !s.moving slot then
      let d := d.onSlice slice fun s =>
        let s := s.startClearing slot d.round
        { s with upkeep := { s.upkeep with
          victim := s.upkeep.victim.filter (· != slot)
          staticVictim := s.upkeep.staticVictim.filter (· != slot)
          refreshQ := s.upkeep.refreshQ.filter (· != slot)
          refreshFirst := s.upkeep.refreshFirst.filter (· != slot)
          refreshReported := s.upkeep.refreshReported.filter (· != slot)
          marked := s.upkeep.marked.filter (·.1 != slot) } }
      (d.finishReach slice).checkPreserve
    else d

/-- Whether an admitted read holds a location in a slot (R212). -/
def Slice.readsHold (s : Slice) (slot : Nat) : Bool :=
  s.flow.queue.any (·.slot == slot) || s.flow.hold.any (·.slot == slot) || s.flow.tow.any (·.slot == slot)
    || s.flow.flights.any (·.req.slot == slot) || s.upkeep.rebuilds.any (·.req.slot == slot)

/-- SOURCE_CLEAR_START (R212, R244 step 4): once the STATE entry is durable and no admitted read holds the slot, its
clears may run. -/
def execSourceClearStart (slice slot : Nat) (s : State) : Host.Outcome State Fault Refusal :=
  runSlice slice s fun d => d.onSlice slice fun s =>
    let k := s.slot slot
    if k.state == .clearing && decide (k.clearEntry < s.journal.durable) && !s.readsHold slot then
      { s with flow := { s.flow with
        clears := updWhere (fun (c : Clear) => c.slot == slot && !c.lent) (fun c => { c with ready := true }) s.flow.clears } }
    else s

/-! ### The end of verify (R246, R247, R255) -/

/-- Whether positions of a slot are still being filled or programmed, parity pages among them. -/
def Slice.filling (s : Slice) (slot : Nat) : Bool :=
  s.flow.chambers.any (·.slot == slot) || s.flow.husks.any (·.slot == slot) || s.flow.parityQ.any (·.1 == slot)
    || s.flow.rewrites.any (fun r => r.place.any (·.1 == slot) && !r.done && r.passed.length < 16)
    || s.flow.chambers.any (fun c => s.flow.lent.any fun l => l.slot == slot && l.donor == c.slot && l.lane == c.lane && l.group == c.pos % 4)
    || s.sys.pages.any fun p => p.slot == some slot && !p.passed

/-- Whether the verify pass of a slot has read every page. -/
def Slice.verifyEnded (s : Slice) (slot : Nat) : Bool :=
  !s.filling slot && ((List.range 64).all fun i => (s.verifyNext slot (i / 4) (i % 4)).isNone)
    && !s.flow.flights.any (fun f => f.req.slot == slot && f.req.who.contains .verify)
    && !s.flow.tow.any (fun q => q.slot == slot && q.who.contains .verify)

/-- Whether every marked frame of a slot has moved and its move is durable; the copies of marked system pages have passed
(R247, R250). -/
def Slice.marksCommitted (s : Slice) (slot : Nat) : Bool :=
  if (s.slot slot).stream == .system then !s.sys.pages.any fun p => p.copied && !p.passed
  else
    !s.moving slot && s.upkeep.marked.all fun m => m.1 != slot
      || !s.moving slot && !(s.validFrames slot).any fun f => s.upkeep.marked.contains (slot, f.2.pos)

/-- The reports kept while a slot was open act once it is verified (R255). -/
def Slice.applyReports (s : Slice) (slot : Nat) : Slice :=
  let s := (s.slot slot).reports.foldl (fun s pos =>
    match s.map.find? fun (e : Nat × MapEntry) => !e.2.trimmed && e.2.slot == slot && e.2.pos == pos with
    | some e => s.queueFrame e.1 slot pos
    | none => s) s
  s.queueReported slot

/-- VERIFY_COMPLETE (R247): the slot becomes VERIFIED, and its parity blocks are returned. -/
def execVerifyComplete (slice slot : Nat) (s : State) : Host.Outcome State Fault Refusal :=
  runSlice slice s fun d => d.onSlice slice fun s =>
    if (s.slot slot).state == .closed && s.upkeep.verifyQ.contains slot && s.verifyEnded slot && s.marksCommitted slot then
      let s := (s.onSlot slot fun k => { k with state := .verified }).log
        (.state slot .verified (s.slot slot).writePos)
      let s := s.returnParity slot d.round
      let s := { s with upkeep := { s.upkeep with
        verifyQ := s.upkeep.verifyQ.filter (· != slot)
        verifyCur := s.upkeep.verifyCur.filter fun e => e.1 / 64 != slot
        marked := s.upkeep.marked.filter (·.1 != slot) } }
      s.applyReports slot
    else s

/-! ### PRESERVE and slice recovery (R236, R32) -/

/-- DRY_TIMEOUT (R236): a slice in DRY for 256 consecutive rounds puts the package into PRESERVE. -/
def execDryTimeout (slice : Nat) (s : State) : Host.Outcome State Fault Refusal :=
  runSlice slice s fun d =>
    let u := (d.slice slice).upkeep
    if u.watermark == .dry && 256 ≤ u.dryRounds then d.enterPreserve 1 slice else d

/-- A slice enters slice recovery (R32): its event is recorded; a rebuild under way no longer ends it. -/
def Dev.sliceRecovery (d : Dev) (i reason : Nat) : Dev :=
  if (d.slice i).inRecovery then
    d.onSlice i fun s => { s with dram := { s.dram with rebuilding := false } }
  else
    (d.onSlice i fun s => { s with inRecovery := true }).event 0x010A i reason 0xFF []

end Sys2Proof.Machine
end

