-- ==== Sys2Proof/Machine/Dram.lean ====
section
/-!
DEFINITION. The local DRAM of a slice in time: training, retraining and refresh, the retirement of a channel, re-key
sweeps, and failed tags of internal accesses (R196, R264, R331, R332, R335, R336, R337, R345–R349, R368–R374).
-/
namespace Sys2Proof.Machine

open Sys2Proof

/-! ### Regions of the DRAM (R332–R335, R367) -/

/-- What bank, bank group, row and column of a DRAM address are taken from: the line number without its channel, among 8
channels (R332) or 7 (R335). -/
def dramIndex (healthy : BitVec 8) (a : Nat) : Nat := if healthy = 0xFF then a / 64 / 8 else a / 64 / 7

/-- Row of a DRAM address, and the hash of its bits. -/
def dramRow (healthy : BitVec 8) (a : Nat) : Nat := dramIndex healthy a / 512
def dramHash (seed : BitVec 7) (healthy : BitVec 8) (a : Nat) : Nat := Config.rowHash seed (dramRow healthy a) % 128

/-- Channel of a DRAM address: A[8:6] under the low hash bits of its row (R332), or the place of its line among seven healthy
channels (R335). -/
def dramChannel (seed : BitVec 7) (healthy : BitVec 8) (a : Nat) : Nat :=
  if healthy = 0xFF then Nat.xor (bits a 6 3) (dramHash seed healthy a % 8)
  else ((List.range 8).filter (has healthy ·)).getD ((a / 64 + dramHash seed healthy a) % 7) 0

/-- Bank of a DRAM address within its channel: bank group × 4 + bank, each under its bits of the hash (R332). -/
def dramBank (seed : BitVec 7) (healthy : BitVec 8) (a : Nat) : Nat :=
  let n := dramIndex healthy a / 32
  Nat.xor (n % 4) (dramHash seed healthy a / 8 % 4) * 4 + Nat.xor (n / 4 % 4) (dramHash seed healthy a / 32 % 4)

/-- The bytes of a slice's DRAM space: 2 GiB, 4 GiB, or 3,584 MiB on seven channels (R331, R335). -/
def dramSpace (dram4 : Bool) (healthy : BitVec 8) : Nat :=
  if dram4 then (if healthy = 0xFF then 2 ^ 32 else 3584 * 2 ^ 20) else 2 ^ 31

/-- The end of the tag region, an eighth of the protected space (R333, R335). -/
def tagEnd (dram4 : Bool) (healthy : BitVec 8) : Nat := tagBase dram4 healthy + tagBase dram4 healthy / 8

/-- The address of the tag word of a protected line (R333). -/
def tagAddress (dram4 : Bool) (healthy : BitVec 8) (a : Nat) : Nat := tagBase dram4 healthy + a / 64 * 8

/-- Base of the rebuild work area: within the basin at 2 GiB, which is empty then, on its own at 4 GiB (R333, R334). -/
def workBase (dram4 : Bool) : Nat := if dram4 then 0x6F000000 else 0x20000000

/-- The address of the work-area word of a frame, and the word of a frame to which no MAP or TRIM entry was applied since its
capture (R334). -/
def workAddress (dram4 : Bool) (lfn : Nat) : Nat := workBase dram4 + 6 * lfn
def workNone : Nat := 0xFFFFFFFFFFFF

/-- Whether an address lies in reserved space, which is never accessed (R333, R335): that behind the last region and behind the
tags, on slices but 0 the control processor's working memory, and what is beyond the space. -/
def reservedDram (dram4 : Bool) (healthy : BitVec 8) (slice a : Nat) : Bool :=
  let regions := if dram4 then 0x9F000000 else 0x5F000000
  (decide (regions ≤ a) && decide (a < tagBase dram4 healthy)) || decide (tagEnd dram4 healthy ≤ a)
    || (slice != 0 && decide (workingBase dram4 ≤ a) && decide (a < workingBase dram4 + 2 ^ 27))

/-- The plain contents of a line of the map, the basin's frame slots or the fold buffers (R189, R277); of the other regions the manual
gives no layout. -/
def Slice.plainLine (s : Slice) (a : Nat) : Option Sector :=
  if a < 0x20000000 then
    some (BitVec.ofNat 512 (fields ((List.range 16).map fun i => (32 * i, 32, (s.entry (a / 4 + i)).bits))))
  else if basinAddress 0 0 ≤ a then
    (s.basin.entries.find? fun e => e.index == (a - basinAddress 0 0) / 4096).map fun e =>
      e.data.getD ((a - basinAddress 0 0) / 64 % 64) 0
  else if bufferAddress 0 0 ≤ a then
    (s.flow.rewrites.find? fun r => r.fold && !r.done && r.buffer == (a - bufferAddress 0 0) / 4096).map fun r =>
      r.data.getD ((a - bufferAddress 0 0) / 64 % 64) 0
  else none

/-- What the DRAM of slice `i` holds of such a line: ciphertext and tag word under the key of R370, or the poisoned-line marker, whose
ciphertext is not told (R367, R373). -/
def Dev.storedLine (d : Dev) (i a : Nat) : Option (Sector × BitVec 64) :=
  let s := d.slice i
  match s.dram.keyAt a, s.plainLine a with
  | some k, some v =>
    if s.dram.marked.contains a then some (0, markerTag k i a)
    else some (lineCipher k i a (s.dram.version a) v, lineTag k i a (s.dram.version a) v)
  | _, _ => none

/-! ### Retirement of a channel (R264, R335) -/

/-- The dirty shutdown count rises, with its event (R295). -/
def Dev.dirtyShutdown (d : Dev) (reason : Nat) : Dev :=
  let n := min 0xFFFFFF (d.mirror.dirtyShutdowns + 1)
  { d with mirror := { d.mirror with dirtyShutdowns := n } }.event 0x0302 0xFF reason 0xFF (leBytes 3 n)

/-- The sectors of a mask that have a line, by `at_`, in a channel. -/
def Slice.maskIn (s : Slice) (seed : BitVec 7) (c : Nat) (m : BitVec 64) (at_ : Nat → List Nat) : BitVec 64 :=
  ((sectorsIn m).filter fun k => (at_ k).any fun a => dramChannel seed s.dram.healthy a == c).foldl withBit 0

/-- The sectors of a frame that the basin or the overflow area holds. -/
def Slice.heldSectors (s : Slice) (lfn : Nat) : BitVec 64 :=
  (s.basin.overflow.filter fun l => l.frame == lfn).foldl (fun (m : BitVec 64) l => m ||| l.dirty64)
    (((s.basinOf lfn).map (·.dirty)).getD 0)

/-- Dirty basin sectors of a slice that lie in a channel, by frame: those of entries, of overflow lines, and of folds whose
snapshot the fold buffers alone hold. -/
def Slice.sectorsOn (s : Slice) (seed : BitVec 7) (c : Nat) : List (Nat × BitVec 64) :=
  let entries := s.basin.entries.map fun e => (e.lfn, s.maskIn seed c e.dirty fun k => [basinAddress e.index k])
  let lines := s.basin.overflow.map fun l => (l.frame, s.maskIn seed c l.dirty64 fun k => overflowSector l.way (k % 4))
  let alone := (s.flow.rewrites.filter fun r => r.fold && !r.done).map fun r =>
    (r.lfn, s.maskIn seed c (r.snap &&& ~~~ s.heldSectors r.lfn) fun k => [bufferAddress r.buffer k])
  (entries ++ lines ++ alone).filter fun e => e.2 != 0

/-- Sectors of a frame lost with their copy in DRAM: no basin entry, line or fold holds them, and they are poisoned. -/
def Slice.loseSectors (s : Slice) (lfn : Nat) (m : BitVec 64) : Slice :=
  let s := { s with flow := { s.flow with
    rewrites := updWhere (fun (r : Rewrite) => r.fold && !r.done && r.lfn == lfn)
      (fun r => { r with snap := r.snap &&& ~~~ m, poison := r.poison ||| m }) s.flow.rewrites } }
  (s.dropBasin lfn m).markPoison lfn m

/-- A channel is retired: the basin sectors in it are lost and poisoned, which counts as a dirty shutdown. At 4 GiB the first
one leaves the slice in slice recovery while its map is rebuilt; any other leaves it there, with no layout for its map
(R264). -/
def Dev.retireChannel (d : Dev) (i c : Nat) : Dev :=
  let m := (d.slice i).dram
  if !has m.healthy c then d
  else
    let first := d.fuses.dram4 && m.healthy == 0xFF
    let lost := (d.slice i).sectorsOn d.keys.seed c
    let already := (d.slice i).inRecovery
    let d := d.onSlice i fun s => lost.foldl (fun s e => s.loseSectors e.1 e.2) s
    let d := d.onSlice i fun s =>
      { s with
        unmapped := s.unmapped || !first
        dram := { s.dram with healthy := sansBit s.dram.healthy c, due := sansBit s.dram.due c, openRows := [] } }.count 155 1
    let d := (d.event 0x0109 i c 0xFF []).sliceRecovery i 1
    let d := d.onSlice i fun s => { s with dram := { s.dram with rebuilding := first && !already } }
    if lost.isEmpty then d else d.dirtyShutdown 3

/-! ### The controller (R336, R337) -/

/-- Class and latency target in ns of the seven ports; a port's age limit is four times its target (R336). -/
def dramClass (port : Nat) : Nat := [0, 2, 3, 1, 4, 5, 2].getD port 5
def dramTarget (port : Nat) : Nat := [200, 400, 800, 400, 2000, 2000, 400].getD port 2000

/-- Lines that a channel carries in a tick, 3.75 ns each (R341), and those left beside a 600 ns retraining pause. -/
def linesPerTick (paused : Bool) : Nat := if paused then 113 else 273

/-- Age of a request in quarters of a ns when a channel has carried `n` lines of a tick; a request counts as arriving when
a tick starts. -/
def DramReq.age (r : DramReq) (n : Nat) : Nat := 4096 * r.waited + 15 * n

/-- Whether a request is past its port's age limit: it is promoted to class 0 with urgency 4. -/
def DramReq.promoted (r : DramReq) (n : Nat) : Bool := decide (16 * dramTarget r.port < r.age n)

/-- Urgency of a request: the quarters of its target that its age has reached. -/
def DramReq.urgency (r : DramReq) (n : Nat) : Nat :=
  if r.promoted n then 4 else min 4 (r.age n / dramTarget r.port)

/-- Key of a request among those of its channel: class, urgency, open-row hit below urgency 2; the oldest of equals goes
first. -/
def DramReq.key (r : DramReq) (n : Nat) (hit : Bool) : Nat :=
  (if r.promoted n then 0 else dramClass r.port) * 16 + (4 - r.urgency n) * 2 + b2n (!(hit && decide (r.urgency n < 2)))

/-- The accesses that may be carried: those not carried yet of which no source that they fence on has an earlier one in the
controller (R338); `seen` are the ports of the earlier ones. -/
def ready : List DramReq → List Nat → List DramReq
  | [], _ => []
  | r :: rest, seen =>
    let more := ready rest (r.port :: seen)
    if r.done || r.fence.any seen.contains then more else r :: more

/-- The accesses left once those that are carried have completed, each port's in issue order (R338); `waiting` are the ports of earlier
ones that have not. -/
def uncompleted : List DramReq → List Nat → List DramReq
  | [], _ => []
  | r :: rest, waiting =>
    if r.done && !waiting.contains r.port then uncompleted rest waiting else r :: uncompleted rest (r.port :: waiting)

/-- The accesses with the first one equal to `r` carried. -/
def carried (r : DramReq) : List DramReq → List DramReq
  | [] => []
  | x :: rest => if x = r then { x with done := true } :: rest else x :: carried r rest

/-- Channel `c` carries a line as its `n`-th of the tick: a reserved access before any other (R342), in the order of R337, whose row it
opens. -/
def Dram.carry (seed : BitVec 7) (n : Nat) (m : Dram) (c : Nat) : Dram :=
  let hit (r : DramReq) := sget? m.openRows (16 * c + dramBank seed m.healthy r.address) == some (dramRow m.healthy r.address)
  match minBy (fun r => b2n (!r.reserved) * 1024 + r.key n (hit r))
      ((ready m.requests []).filter fun r => dramChannel seed m.healthy r.address == c) with
  | none => m
  | some r =>
    { m with
      requests := uncompleted (carried r m.requests) []
      openRows := sset m.openRows (16 * c + dramBank seed m.healthy r.address) (dramRow m.healthy r.address) }

/-- The lines of a tick from its `n`-th on, one on every channel at a time; a channel in a retraining pause carries none of its first
160 (R347). -/
def Dram.lines (seed : BitVec 7) (paused : List Nat) : Nat → Nat → Dram → Dram
  | 0, _, m => m
  | left + 1, n, m =>
    if m.requests.isEmpty then m
    else
      Dram.lines seed paused left (n + 1)
        (((List.range 8).filter fun c => has m.healthy c && !(paused.contains c && decide (n < 160))).foldl (Dram.carry seed n) m)

/-- The accesses that came in, as far as the units of their port cover them, are reserved, four lines for each unit (R340, R342);
`used` are the ports of those taken so far. -/
def reserved (units : Nat → Nat) : List DramReq → List Nat → List DramReq
  | [], _ => []
  | r :: rest, used =>
    if r.waited = 0 ∧ used.count r.port < 4 * units r.port then { r with reserved := true } :: reserved units rest (r.port :: used)
    else r :: reserved units rest used

/-- The accesses that a slice's controller serves in a tick; those left have waited a tick longer. -/
def Dram.serve (m : Dram) (seed : BitVec 7) (paused : List Nat) (units : Nat → Nat) : Dram :=
  if m.requests.isEmpty then m
  else
    let m := Dram.lines seed paused (linesPerTick false) 0 { m with requests := reserved units m.requests [] }
    { m with requests := m.requests.map fun (r : DramReq) => { r with waited := r.waited + 1 } }

/-- Units that the rows of a tick reserve for a port of the controller (R336, R340). -/
def Slice.portUnits (s : Slice) (tick port : Nat) : Nat :=
  total ((List.range 18).map fun r => match s.row r tick with
    | some row => if port < 6 then row.field 6 (8 * port) 8 else row.field 7 0 8
    | none => 0)

/-- Accesses that came in beyond the reservation of their port in a tick, four lines for each unit (R340, R342). -/
def Slice.beyondUnits (s : Slice) (tick : Nat) : Nat :=
  if s.dram.requests.isEmpty then 0
  else total ((List.range 7).map fun p =>
    (s.dram.requests.filter fun r => r.port == p && r.waited == 0).length - 4 * s.portUnits tick p)

/-! ### Training and retraining (R346–R349) -/

/-- Whether a row of a tick carries a slice flag (R91). -/
def Slice.flagged (s : Slice) (tick bit : Nat) : Bool :=
  (List.range 18).any fun r => match s.row r tick with
    | some row => row.flag bit
    | none => false

/-- Temperature index of the remote diode TD_A. -/
def sensorTdA (slices : Nat) : Nat := 4 * slices

/-- Newest reading of a sensor. -/
def Dev.reading (d : Dev) (k : Nat) : Option Int := (sget d.thermal.sensors k {}).readings.head?

/-- Makes channels of a slice due. -/
def Dram.makeDue (m : Dram) (which : BitVec 8) : Dram := { m with due := m.due ||| (which &&& m.healthy) }

/-- Lines that a slice's DRAM carried at least in the round before a full-load retrain: 196,608 units (R349). -/
def fullLoadLines : Nat := 4 * 196608

/-- The oscillator reading of a channel that a tick brings. -/
def oscillatorOf (env : TickEnv) (i c : Nat) : Option Nat :=
  (env.oscillators.find? fun o => o.1 == i && o.2.1 == c).map (·.2.2)

/-- A channel retrained with result `v`: its settings, and the oscillator reading, temperature and refresh step at its retrain; a
full-load one clears the guard band (R347–R349). -/
def Dram.retrained (m : Dram) (c v : Nat) (oscillator : Option Nat) (temp : Option Int) (clock tick : Nat) : Dram :=
  { m with
    settings := upd m.settings c fun _ => v
    captured := upd m.captured c fun x => oscillator.getD x
    tempAt := upd m.tempAt c fun _ => temp
    mr4At := upd m.mr4At c fun _ => m.mr4
    fails := upd m.fails c fun _ => 0
    lastRetrain := upd m.lastRetrain c fun _ => clock
    retrainTick := upd m.retrainTick c fun _ => tick
    due := sansBit m.due c
    guardBand := if fullLoadLines ≤ m.trafficLast then sansBit m.guardBand c else m.guardBand }

/-- The result of one retrain: a failure keeps the settings and leaves the channel due, the third in a row retires
it. What a retrain finds is a free value. -/
def Dev.retrain (d : Dev) (i c : Nat) (failed : Bool) (oscillator : Option Nat) : Dev :=
  if failed then
    let d := d.onSlice i fun s =>
      { s with dram := { s.dram with fails := upd s.dram.fails c (· + 1) } }.count 90 1
    if 3 ≤ (d.slice i).dram.fails.getD c 0 then d.retireChannel i c else d
  else
    let temp := d.reading (sensorTdA d.sliceCount)
    let (v, d) := d.draw (2 ^ 32)
    d.onSlice i fun s =>
      let m := s.dram.retrained c v oscillator temp d.lifeClock d.clock.tick
      ({ s with dram := m }.count 89 1).count 95 (b2n (has s.dram.guardBand c && !has m.guardBand c))

/-- The channels due a retrain, the longest since its last one first, the lower number on a tie (R347). -/
def Dram.dueChannels (m : Dram) : List Nat :=
  let at_ (c : Nat) := m.lastRetrain.getD c 0 * 2048 + m.retrainTick.getD c 0
  sortBy (fun a b => decide (at_ a ≤ at_ b)) ((List.range 8).filter (has m.due ·))

/-- The channels that pause in a tick flagged with dram_retrain: two that are due, or the next two in rotation whose
oscillators are read (R347). -/
def Dram.pausing (m : Dram) : List Nat :=
  if m.dueChannels.isEmpty then [m.rotation % 8, (m.rotation + 1) % 8] else m.dueChannels.take 2

/-- Whether an oscillator reading differs from the one captured at the channel's last retrain by more than the threshold (R348). -/
def Dram.drifted (m : Dram) (c reading : Nat) : Bool :=
  decide (m.captured.getD c 0 + m.oscThreshold < reading) || decide (reading + m.oscThreshold < m.captured.getD c 0)

/-- The pause of a tick flagged with dram_retrain (R347). -/
def Dev.retrainPause (d : Dev) (i : Nat) (env : TickEnv) : Dev :=
  let m := (d.slice i).dram
  let due := m.dueChannels
  if due.isEmpty then
    let drifted := m.pausing.filter fun c => (oscillatorOf env i c).any (m.drifted c)
    d.onSlice i fun s =>
      { s with dram := { drifted.foldl (fun m c => m.makeDue (BitVec.twoPow 8 c)) s.dram with rotation := (m.rotation + 2) % 8 } }
  else
    (due.take 2).foldl (fun d c => d.retrain i c (env.retrainFails.contains (i, c)) (oscillatorOf env i c)) d

/-- What falls due at a round boundary (R348): 60 rounds since a channel's last retrain, and every channel at the first
boundary after an entry; the traffic of the ended round is kept (R349). -/
def Slice.retrainDue (s : Slice) (clock : Nat) : Slice :=
  let aged := (List.range 8).foldl (fun (b : BitVec 8) c =>
    if s.dram.lastRetrain.getD c 0 + 60 ≤ clock then withBit b c else b) 0
  { s with dram := { s.dram.makeDue (if s.dram.dueAtRound then 0xFF else aged) with
    dueAtRound := false
    trafficLast := s.dram.traffic
    traffic := 0 } }

/-- The DRAM after full training (R346, R349): every channel's results, free values, with the oscillator reading, temperature and
refresh step at that time, and the guard band; its density is read. -/
def Dram.fullyTrained (m : Dram) (dram4 : Bool) (results readings : List Nat) (temp : Option Int) (clock tick : Nat) : Dram :=
  { (if m.selfRefresh then m.refreshAll else m) with
    size4 := dram4
    trained := true
    selfRefresh := false
    guardBand := 0xFF
    due := 0
    fails := List.replicate 8 0
    settings := results
    captured := readings
    tempAt := List.replicate 8 temp
    mr4At := List.replicate 8 m.mr4
    lastRetrain := List.replicate 8 clock
    retrainTick := List.replicate 8 tick }

/-- Draws `n` free values of 32 bits. -/
def Dev.drawList (d : Dev) : Nat → List Nat × Dev
  | 0 => ([], d)
  | n + 1 =>
    let (v, d) := d.draw (2 ^ 32)
    let (l, d) := d.drawList n
    (v :: l, d)

/-- DRAM_TRAINING_DONE (R331, R346): full training ends. `failures` counts the attempts on a channel that failed in a row: a third one
retires it. A density mismatch leaves the slice in slice recovery. -/
def execDramTrainingDone (slice : Nat) (failures : List (Nat × Nat)) (densityGood : Bool) (s : State) :
    Host.Outcome State Fault Refusal :=
  runSlice slice s fun d =>
    if d.mode != .boot || d.clock.on || (d.slice slice).dram.trained then d
    else
      let temp := d.reading (sensorTdA d.sliceCount)
      let (results, d) := d.drawList 8
      let (readings, d) := d.drawList 8
      let d := d.onSlice slice fun s =>
        { s with dram := { s.dram.fullyTrained d.fuses.dram4 results readings temp d.lifeClock d.clock.tick with
          mismatch := !densityGood } }
      let d := (failures.filter fun f => decide (3 ≤ f.2)).foldl (fun d f => d.retireChannel slice f.1) d
      if densityGood then d else (d.event 0x0206 slice 1 0xFF []).sliceRecovery slice 4

/-- PROTECTED_SPACE_FILL_DONE (R368): every line of the protected space holds zero at version 0. -/
def execProtectedSpaceFillDone (slice : Nat) (s : State) : Host.Outcome State Fault Refusal :=
  runSlice slice s fun d =>
    let m := (d.slice slice).dram
    if m.trained && !m.filled then
      d.onSlice slice fun s => { s with dram := { s.dram with filled := true, fillMap := [], marked := [] } }
    else d

/-! ### Refresh (R345) -/

/-- Whether a request for a bank is in the controller. -/
def Dram.bankBusy (m : Dram) (seed : BitVec 7) (c bank : Nat) : Bool :=
  m.requests.any fun r => dramChannel seed m.healthy r.address == c && dramBank seed m.healthy r.address == bank

/-- Refreshes issued into bank `k`, numbered by channel × 16 + bank: `n` of them, after which it is `debt` intervals behind; its open
row closes. -/
def Dram.refreshed (m : Dram) (k n debt : Nat) : Dram :=
  { m with
    refreshes := sset m.refreshes k (sget m.refreshes k 0 + n)
    debt := if debt = 0 then sdel m.debt k else sset m.debt k debt
    openRows := sdel m.openRows k }

/-- Whether the controller refreshes the banks of a channel: the DRAM domain is on and out of self-refresh. -/
def Dev.refreshes (d : Dev) (i c bank : Nat) : Bool :=
  d.mode.ticks && !(d.slice i).dram.selfRefresh && has (d.slice i).dram.healthy c && decide (bank < 16)

/-- DRAM_REFRESH (R345): a refresh interval of a bank has passed, at the rate of the multiplier read from MR4. A bank without a queued
request takes its refresh and those that it is behind; any other falls behind by one interval, and one at the limit of eight is
refreshed by force. -/
def execDramRefresh (slice channel bank : Nat) (s : State) : Host.Outcome State Fault Refusal :=
  runSlice slice s fun d =>
    let m := (d.slice slice).dram
    let k := 16 * channel + bank
    let behind := sget m.debt k 0
    if !d.refreshes slice channel bank then d
    else if !m.bankBusy d.keys.seed channel bank then
      d.onSlice slice fun s => { s with dram := s.dram.refreshed k (behind + 1) 0 }
    else if behind < 8 then
      d.onSlice slice fun s => { s with dram := { s.dram with debt := sset s.dram.debt k (behind + 1) } }
    else d.onSlice slice fun s => { s with dram := s.dram.refreshed k 1 8 }.count 91 1

/-- FORCED_REFRESH (R345): a bank eight intervals behind is refreshed ahead of every class. -/
def execForcedRefresh (slice channel bank : Nat) (s : State) : Host.Outcome State Fault Refusal :=
  runSlice slice s fun d =>
    let k := 16 * channel + bank
    if d.refreshes slice channel bank && decide (8 ≤ sget (d.slice slice).dram.debt k 0) then
      d.onSlice slice fun s => { s with dram := s.dram.refreshed k 1 (sget s.dram.debt k 0 - 1) }.count 91 1
    else d

/-! ### Re-key sweep (R369–R371) -/

/-- `n` steps of a sweep, two lines each through the tag engine's port (R340, R371): lines below the new pointer are under the new key,
those not hopped at version 0; writes that waited for the pointer are made. -/
def Slice.sweepSteps (s : Slice) (base n : Nat) : Slice :=
  match s.dram.sweep with
  | none => s
  | some w =>
    let stop := min base (w.pointer + 64 * n)
    let within (a : Nat) := decide (w.pointer ≤ a) && decide (a < stop)
    let m := { s.dram with
      versions := s.dram.versions.filter fun e => !within (64 * e.1) || w.hop.contains (64 * e.1)
      sweep := some ⟨stop, w.hop.filter fun a => !within a⟩
      waitingWrites := s.dram.waitingWrites.filter fun a => !decide (a < stop) }
    let waiting := s.dram.waitingWrites.filter fun a => decide (a < stop)
    let steps := (stop - w.pointer) / 64
    let s := waiting.foldl Slice.restoreLine ({ s with dram := m }.count 93 steps)
    (List.range steps).foldl (fun s j => (s.access 4 (w.pointer + 64 * j)).access 4 (w.pointer + 64 * j)) s

/-- The sweep steps of a tick: two for each unit reserved, and a free number of others, for which the capacity beside the reservations
leaves room (R342, R371). -/
def Dev.sweepTick (d : Dev) (i tick : Nat) : Dev :=
  match (d.slice i).dram.sweep with
  | none => d
  | some _ =>
    let base := tagBase d.fuses.dram4 (d.slice i).dram.healthy
    let (n, d) := d.draw 961
    d.onSlice i fun s => s.sweepSteps base (2 * s.portUnits tick 4 + n)

/-- REKEY_SWEEP_END (R369, R370): the pointer has reached the tag base, the previous key is zeroised; a line at version
0xF0_0000 or more starts a new sweep at once, and the writes that waited are made. -/
def execRekeySweepEnd (slice : Nat) (s : State) : Host.Outcome State Fault Refusal :=
  runSlice slice s fun d =>
    match (d.slice slice).dram.sweep with
    | none => d
    | some w =>
      if w.pointer < tagBase d.fuses.dram4 (d.slice slice).dram.healthy then d
      else d.onSlice slice fun s =>
        let again := s.dram.versions.any fun e => decide (0xF00000 ≤ e.2)
        let m := { s.dram with sweep := none, previous := none, waitingWrites := [] }
        s.dram.waitingWrites.foldl Slice.restoreLine { s with dram := if again then m.startSweep else m }

/-! ### Failed tags of internal accesses (R196, R372–R374) -/

/-- Poisons dirty sectors of the basin entry in a frame slot, which lose their data. -/
def Slice.loseBasin (s : Slice) (index : Nat) (m : BitVec 64) : Slice :=
  match s.basin.entries.find? (·.index == index) with
  | some e =>
    let hit := e.dirty &&& m
    if hit = 0 then s else (s.dropBasin e.lfn hit).markPoison e.lfn hit
  | none => s

/-- Poisons a sector of the frame that a fold buffer or a staging place holds. -/
def Slice.loseStaged (s : Slice) (r : Option Rewrite) (k : Nat) : Slice :=
  match r with
  | some r => s.onRewrite r.id fun r => { r with snap := sansBit r.snap k, poison := withBit r.poison k }
  | none => s

/-- Poisons the sectors of overflow records that lie in a DRAM line. -/
def Slice.loseOverflow (s : Slice) (a : Nat) : Slice :=
  s.basin.overflow.foldl (fun (s : Slice) l =>
    let hit := ((sectorsIn l.dirty64).filter fun k => (overflowSector l.way (k % 4)).contains a).foldl withBit 0
    if hit = 0 then s else (s.dropOverflow l.frame hit).markPoison l.frame hit) s

/-- The line at a DRAM address is lost to the engine that read it (R374): a map line is restored by the firmware (R196), basin, fold and
barge data poison the sectors that they held, and under `abort` a lost line of the journal buffer or of checkpoint staging puts the
slice into slice recovery. -/
def Dev.loseLine (d : Dev) (i a : Nat) (abort : Bool) : Dev :=
  let s := d.slice i
  let jb := journalBase d.fuses.dram4
  if a < 0x20000000 then
    d.onSlice i fun s => { s with dram := { s.dram with lostMap := s.dram.lostMap ++ [a] } }
  else if a < 0x20000000 + 2 ^ 24 then d.onSlice i fun s => s.loseBasin ((a - 0x20000000) / 64) (BitVec.allOnes 64)
  else if a < bufferAddress 0 0 then d.onSlice i fun s => s.loseOverflow a
  else if a < basinAddress 0 0 then
    let fold := s.flow.rewrites.find? fun r => r.fold && !r.done && r.buffer == (a - bufferAddress 0 0) / 4096
    d.onSlice i fun s => s.loseStaged fold ((a - bufferAddress 0 0) / 64 % 64)
  else if a < jb then
    let o := a - basinAddress 0 0
    d.onSlice i fun s => s.loseBasin (o / 4096) (BitVec.twoPow 64 (o / 64 % 64))
  else if a < stagingBase d.fuses.dram4 then if abort then d.sliceRecovery i 5 else d
  else if a < firmwareBase d.fuses.dram4 then
    let o := a - stagingBase d.fuses.dram4
    match s.upkeep.barges[o / 65536]? with
    | some b =>
      let r := (s.bargeFrames b)[o / 4096 % 16]?
      d.onSlice i fun s => s.loseStaged r (o / 64 % 64)
    | none => d
  else if a < workingBase d.fuses.dram4 then
    -- where checkpoint staging lies within this region is left open
    let (n, d) := d.draw 2
    if n = 1 && abort then d.sliceRecovery i 5 else d
  else d

/-- A failed tag that an engine meets in a tick: in a sweep step the line is marked under the new key; any other read is aborted in the
service column, and answered with poisoned data in the other (R372–R374). -/
def Dev.internalTagFail (d : Dev) (i a lo hi : Nat) : Dev :=
  let line := a / 64 * 64
  if lo ≤ line && line < hi then
    (d.tagFail i 4 line).onSlice i fun s => { s with dram := s.dram.mark line }
  else (d.tagFail i 2 line).loseLine i line (d.serviceColumn i)

/-- A failed tag that a partial write of an engine meets: in the service column it is refused and its line unchanged, in the other the
poisoned-line marker is written (R372). -/
def Dev.internalPartialFail (d : Dev) (i a : Nat) : Dev :=
  let line := a / 64 * 64
  let column := d.serviceColumn i
  let d := d.tagFail i 3 line
  if column then d else d.onSlice i fun s => { s with dram := s.dram.mark line }

/-- The sweep and the tag failures of a slice in a tick. -/
def Dev.tagTick (d : Dev) (i tick : Nat) (env : TickEnv) : Dev :=
  let pos (d : Dev) := ((d.slice i).dram.sweep.map (·.pointer)).getD 0
  let lo := pos d
  let d := d.sweepTick i tick
  let hi := pos d
  let d := (env.tagFails.filter (·.1 == i)).foldl (fun d f => d.internalTagFail i f.2 lo hi) d
  (env.partialFails.filter (·.1 == i)).foldl (fun d f => d.internalPartialFail i f.2) d

end Sys2Proof.Machine
end

