-- ==== Sys2Proof/Machine/Rebuild.lean ====
section
/-!
DEFINITION. What a slice keeps over a loss of power, and the rebuild of its map, descriptors and poison list from
the medium (R58, R62, R65, R78, R203, R227–R231, R264, R486).
-/
namespace Sys2Proof.Machine

open Sys2Proof

/-! ### What the medium keeps (R45, R62, R65, R486) -/

/-- The page of a root or sentinel block whose program is interrupted. -/
def Slice.tearBlock (s : Slice) (block page : Nat) : Slice :=
  if (block - slotCount) % 4 < 2 then
    let torn : RootPage := { block := 2 * ((block - slotCount) / 4) + (block - slotCount) % 4, page := page, record := none }
    { s with sys := { s.sys with rootBlocks := s.sys.rootBlocks ++ [torn] } }
  else s.onSentinel block fun t => { t with pages := t.pages ++ [none] }

/-- Programs in progress are interrupted: their pages are torn (R62). -/
def Slice.tear (s : Slice) : Slice :=
  (s.flow.chambers.filter (·.programming)).foldl (fun s (c : Chamber) =>
    if c.slot < slotCount then s.setCell c.slot c.pos c.lane .torn else s.tearBlock c.slot c.pos) s

/-- Clears of donor and root blocks that power interrupts: the blocks are found neither programmed nor free, and are cleared again from
segment 0 (R65). Those of superblocks follow from the CLEARING state. -/
def Slice.cutClears (s : Slice) : List Clear :=
  (s.flow.clears.filter fun c => c.lent || decide (slotCount ≤ c.slot)).map fun (c : Clear) =>
    { c with left := 1024, running := false, entry := 0 }

/-- A slice whose power has gone: the medium with its system pages and root blocks, its wear and retirements, and what the
parameter store keeps stay; everything in local DRAM and on the die is lost (R486), the keys and the calibrated references among it
(DESIGN CHOICE: R73 does not say whether those survive). The model's numbers of journal entries go on. -/
def Slice.powerLoss (s : Slice) : Slice :=
  let clears := s.cutClears
  let s := s.tear
  { ({} : Slice) with
    medium := s.medium
    wear := s.wear
    badBlocks := s.badBlocks
    nextEpoch := s.nextEpoch
    clockE := s.clockE
    flow := { clears := clears }
    journal := { next := s.journal.next, durable := s.journal.next }
    sys := { s.sys with
      pages := s.sys.pages.filter fun p => p.slot.isSome || p.tornAt.isSome
      rootWrite := none
      rootHold := false
      staging := [] }
    upkeep := { formable := s.upkeep.formable, effective := s.upkeep.effective }
    reaches := s.reaches.map fun h =>
      { state := h.state, retiredBanks := h.retiredBanks, sentA := h.sentA, sentB := h.sentB } }

/-! ### The root (R224, R228) -/

/-- The root record of highest sequence among those of the healthy reaches, with its page; pages whose program failed or was
interrupted hold none. -/
def Slice.newestRoot (s : Slice) : Option (RootPage × Root) :=
  ((s.sys.rootBlocks.filter fun p => s.healthyReach (p.block / 2)).filterMap fun p => p.record.map fun r => (p, r)).foldl
    (fun (m : Option (RootPage × Root)) p =>
      match m with
      | some x => if x.2.rootSeq < p.2.rootSeq then some p else m
      | none => some p) none

/-- The pair that a root block belongs to. -/
def pairOf (block : Nat) : Nat := if block % 2 = 0 then block / 2 else (block / 2 + 9) % 18

/-! ### The walk of the system stream (R58, R221, R228) -/

/-- Whether a page position of a slot is read before the scan of its block ends at a cleared page. -/
def Slice.scanned (s : Slice) (slot pos lane : Nat) : Bool :=
  (List.range (pos / 4 + 1)).all fun n => (s.cell slot (4 * n + pos % 4) lane).isSome

/-- Whether a system page decodes, or is rebuilt from the parity page of its system frame. -/
def Slice.readable (s : Slice) (slot p : Nat) : Bool :=
  let pos := p / 16
  let lane := p % 16
  s.scanned slot pos lane && ((s.page slot pos lane).isSome
    || ((s.parityPage slot pos).isSome && ((List.range 16).filter (· != lane)).all fun l => (s.page slot pos l).isSome))

/-- The places at which a system page may be found: its own, and that of a failed program. -/
def SysPage.places (p : SysPage) : List (Nat × Nat) := ((p.slot.map fun k => (k, p.pos)).toList) ++ p.tornAt.toList

/-- The system pages that are kept from the slots of a chain: the first copy of each sequence, in journal order. -/
def Slice.keptPages (s : Slice) (chain : List Nat) : List SysPage :=
  let found := s.sys.pages.filter fun p => p.places.any fun w => chain.contains w.1 && s.readable w.1 w.2
  let sorted := sortBy (fun a b => decide (a.seq ≤ b.seq)) found
  (sorted.foldl (fun (acc : List SysPage) p => if acc.head?.any (·.seq == p.seq) then acc else p :: acc) []).reverse

/-- The chain header of a slot that is not of the format: its number and its successor. -/
def Slice.headerOf (s : Slice) (k : Nat) : Option (Nat × Nat × Slot) :=
  s.sys.pages.findSome? fun p =>
    match p.body with
    | .chain number _ own next =>
      if p.places.any (fun w => w == (k, 0)) && own.1 == k && s.readable k 0 then some (number, next) else none
    | _ => none

/-- The number and the successor that the chain header of a slot names. The last slot of a format names the one that opened
after it. -/
def Slice.chainLink (s : Slice) (k : Nat) : Option (Nat × Nat × Slot) :=
  match s.sys.format with
  | some f =>
    match f.live.find? (·.1 == k) with
    | some (_, j) =>
      let next := (f.order[j + 1]?).getD 0
      some (f.chainBase + j, next, sget f.slots next {})
    | none => s.headerOf k
  | none => s.headerOf k

/-- The slots of the stream from a tail on, with the descriptors that the root and the headers give, and the number of the
last. -/
def Slice.walk (s : Slice) : Nat → Nat × Slot → List (Nat × Slot) × Nat
  | 0, _ => ([], 0)
  | n + 1, (k, desc) =>
    match s.chainLink k with
    | none => ([], 0)
    | some (number, next, d) =>
      if (s.chainLink next).isSome then
        let (rest, last) := s.walk n (next, d)
        ((k, desc) :: rest, last)
      else ([(k, desc)], number)

/-! ### Segments (R218, R219, R228) -/

/-- A numbered journal entry with its position (R214). -/
structure Placed where
  seq : Nat
  unit : Nat
  number : Nat
  entry : JEntry
  deriving DecidableEq, Repr

/-- The entries of a page with their positions. -/
def placeEntries (seq : Nat) : List (Nat × JEntry) → Nat → List Placed
  | [], _ => []
  | e :: rest, u => ⟨seq, u, e.1, e.2⟩ :: placeEntries seq rest (u + e.2.units)

/-- The entries of a system page. -/
def SysPage.placed (p : SysPage) : List Placed :=
  match p.body with
  | .journal _ es _ => placeEntries p.seq es 0
  | _ => []

/-- A position as one number. -/
def Placed.key (e : Placed) : Nat := positionKey (e.seq, e.unit)

/-- A segment copy as the rebuild loads it: its segment, capture position, capture sequence and entries, the sequence of its
first page and the place of its CHECKPOINT entry. -/
structure Loaded where
  segment : Nat
  cap : Nat
  capSeq : Nat
  entries : List (Nat × MapEntry)
  firstPage : Nat
  entry : Nat
  deriving DecidableEq, Repr

/-- Page `i` of the copy of a segment that begins at system sequence `first`: the first one at or after it. -/
def copyPage (kept : List SysPage) (segment first i : Nat) : Option (List (Nat × MapEntry)) :=
  kept.findSome? fun p => match p.body with
    | .checkpoint g j es => if g = segment ∧ j = i ∧ first ≤ p.seq then some es else none
    | _ => none

/-- The copy that a CHECKPOINT entry names, when its 512 pages are all kept. -/
def loadCopy (kept : List SysPage) (e : Placed) : Option Loaded :=
  match e.entry with
  | .checkpoint segment page unit c first =>
    let pages := (List.range 512).map (copyPage kept segment first)
    if pages.all (·.isSome) then
      some ⟨segment, positionKey (page, unit), c, (pages.filterMap id).flatten, first, e.number⟩
    else none
  | _ => none

/-- Whether the format's copy of a segment is kept: the slots that hold its pages are walked. -/
def Slice.formatCopy (s : Slice) (chain : List Nat) (segment : Nat) : Bool :=
  s.sys.format.any fun f => [512 * segment / 131071, (512 * segment + 511) / 131071].all fun j =>
    f.live.any fun e => e.2 == j && chain.contains e.1

/-- The copy of a segment: of the newest CHECKPOINT entry whose pages are all kept, or the format's; `none` when there is
none. -/
def Slice.loadSegment (s : Slice) (chain : List Nat) (kept : List SysPage) (checkpoints : List Placed) (segment : Nat) :
    Option Loaded :=
  let mine := checkpoints.filter fun e => match e.entry with
    | .checkpoint g _ _ _ _ => g == segment
    | _ => false
  (mine.reverse.findSome? (loadCopy kept)).orElse fun _ =>
    if s.formatCopy chain segment then
      some ⟨segment, positionKey ((s.sys.format.map (·.base)).getD 0, 0), 0, [], (s.sys.format.map (·.base)).getD 0, 0⟩
    else none

/-- The segments that may have no copy of the format or have one of their own: those of CHECKPOINT entries, and all when the
format is no longer whole. -/
def Slice.listedSegments (s : Slice) (chain : List Nat) (checkpoints : List Placed) : List Nat :=
  if (List.range formatSlots).all fun j => s.sys.format.any fun f => f.live.any fun e => e.2 == j && chain.contains e.1 then
    sortBy (fun a b => decide (a ≤ b)) (dedup (checkpoints.filterMap fun e => match e.entry with
      | .checkpoint g _ _ _ _ => some g
      | _ => none))
  else List.range segments

/-- Position, as one number, and sequence at which a segment's copy was captured; where no copy is listed, those of the
format. -/
def capOf (copies : List Loaded) (segment : Nat) : Nat := ((copies.find? (·.segment == segment)).map (·.cap)).getD 0
def capSeqOf (copies : List Loaded) (segment : Nat) : Nat := ((copies.find? (·.segment == segment)).map (·.capSeq)).getD 0

/-! ### Records and replay (R222, R228) -/

/-- A descriptor restored from a trailer: its age grows by the powered age since (R222, R228). -/
def Slot.aged (k : Slot) (n : Nat) : Slot :=
  { k with age := capAge (k.age + n), reports := [], descEntry := 0, clearEntry := 0 }

/-- Gives a frame its place in the poison list, without touching its map entry. -/
def Slice.listPoison (s : Slice) (lfn : Nat) (m : BitVec 64) : Slice :=
  let rest := s.poison.filter (·.1 != lfn)
  { s with poison := if m = 0 then rest else rest ++ [(lfn, m)] }

/-- The mask that the poison list gives a frame. -/
def Slice.listedPoison (s : Slice) (lfn : Nat) : BitVec 64 := ((s.poison.find? (·.1 == lfn)).map (·.2)).getD 0

/-- Applies a trailer record that lies `n` ms before the newest trailer. -/
def Slice.applyRecord (n : Nat) (s : Slice) : TrailRec → Slice
  | .slot k d => s.onSlot k fun _ => d.aged n
  | .poison _ entries => entries.foldl (fun s e => s.listPoison e.1 e.2) s

/-- What replay knows of frames: a MAP entry that was applied, or a TRIM entry, with its range, sequence, location and
position. -/
structure Known where
  first : Nat
  count : Nat
  trim : Bool
  seq : Nat
  slot : Nat
  pos : Nat
  key : Nat
  deriving DecidableEq, Repr

/-- Applies a journal entry, in journal order. The map entries of MAP and TRIM entries before their segment's capture are left
as the copy has them, and a relocation applies only if the map names its source (R209). A POISON entry before the capture
changes the list only: the copy tells which frames are poisoned. -/
def Slice.applyEntry (copies : List Loaded) (sk : Slice × List Known) (e : Placed) : Slice × List Known :=
  let (s, known) := sk
  match e.entry with
  | .map lfn m q relocation source =>
    if e.key < capOf copies (segmentOf lfn) then sk
    else
      let old := s.entry lfn
      if !relocation || (!old.trimmed && some (old.slot, old.pos) == source) then
        (s.setEntry lfn m, ⟨lfn, 1, false, q, m.slot, m.pos, e.key⟩ :: known)
      else sk
  | .trim first count q =>
    let hit := (srange s.map first (first + count)).filter fun x => decide (capOf copies (segmentOf x.1) ≤ e.key)
    (hit.foldl (fun s (x : Nat × MapEntry) => (s.setEntry x.1 {}).listPoison x.1 0) s,
      ⟨first, count, true, q, 0, 0, e.key⟩ :: known)
  | .poison lfn set m =>
    let now := s.listedPoison lfn
    let mask := if set then now ||| m else (if (s.entry lfn).poisoned && now = 0 then BitVec.allOnes 64 else now) &&& ~~~ m
    (if e.key < capOf copies (segmentOf lfn) then s.listPoison lfn mask else s.setPoison lfn mask, known)
  | .descriptor k unformed d => (s.onSlot k fun _ => if unformed then { d with state := .unformed } else d.aged 0, known)
  | .state k st pos =>
    (s.onSlot k fun d => if st == .free then {} else { d with state := st, writePos := if d.stream == .system then d.writePos else pos },
      known)
  | .sentinel r setB clock =>
    (s.onReach r fun h => if setB then { h with sentB := { h.sentB with atE := clock } }
      else { h with sentA := { h.sentA with atE := clock } }, known)
  | .parity l borrow =>
    let rest := s.flow.lent.filter fun x => !(x.donor == l.donor && x.lane == l.lane && x.group == l.group)
    ({ s with flow := { s.flow with lent := if borrow then rest ++ [l] else rest } }, known)
  | .checkpoint _ _ _ _ _ => sk

/-- Applies one kept page in journal order from the replay start; `newest` is E of the newest trailer. -/
def Slice.applyPage (copies : List Loaded) (start newest : Nat) (sk : Slice × List Known) (p : SysPage) : Slice × List Known :=
  match p.body with
  | .journal _ _ _ => (p.placed.filter fun e => decide (start ≤ e.key)).foldl (Slice.applyEntry copies) sk
  | .trailer _ _ clock _ records =>
    if start ≤ positionKey (p.seq, 0) then (records.foldl (Slice.applyRecord (newest - clock)) sk.1, sk.2) else sk
  | _ => sk

/-- What replay knows of a frame, the newest entry deciding. -/
def known (copies : List Loaded) (ks : List Known) (lfn : Nat) : Option Known :=
  ks.find? fun k => decide (k.first ≤ lfn) && decide (lfn < k.first + k.count)
    && decide (capOf copies (segmentOf lfn) ≤ k.key)

/-- The word that the rebuild work area holds of a frame (R334): the sequence of the MAP or TRIM entry applied last, or the mark of a
frame to which none was applied since its capture. -/
def workWord (copies : List Loaded) (ks : List Known) (lfn : Nat) : Nat := ((known copies ks lfn).map (·.seq)).getD workNone

/-! ### Scan and duplicates (R228, R229) -/

/-- The frame, sequence and title mark of a position whose 16 subpages decode, one of them through the parity
page. -/
def Slice.copyAt (s : Slice) (slot pos : Nat) : Option (Nat × Nat × Bool) :=
  let good := (List.range 16).filterMap fun l => s.page slot pos l
  match good with
  | [] => none
  | p :: _ =>
    if good.all (fun q => q.lfn == p.lfn && q.seq == p.seq)
        && (good.length == 16 || (good.length == 15 && (s.parityPage slot pos).isSome)) then
      some (p.lfn, p.seq, p.title.isSome)
    else none

/-- Whether a lane of a position holds a programmed page that the scan of its block reaches. -/
def Slice.programmedAt (s : Slice) (slot pos : Nat) : Bool :=
  (List.range 16).any fun l => s.scanned slot pos l

/-- The number of positions of a slot, from the first on, at which any lane holds a programmed page. -/
def Slice.writtenTo (s : Slice) (slot : Nat) : Nat :=
  let n := (s.slot slot).capacity
  (((List.range n).find? fun k => !s.programmedAt slot k)).getD n

/-- The slots that the scan looks at: OPEN, then RESERVED, of each data stream. -/
def Slice.candidates (s : Slice) : List Nat :=
  [Stream.host, .relocation, .durable].flatMap fun st => s.streamSlots st .opened ++ s.streamSlots st .reserved

/-- Whether a subpage of position 0 decodes, so that a candidate is scanned. -/
def Slice.holdsFirst (s : Slice) (k : Nat) : Bool := (List.range 16).any fun l => (s.page k 0 l).isSome

/-- A scanned copy: frame, sequence, slot, position, title mark. -/
abbrev ScanCopy := Nat × Nat × Nat × Nat × Bool

/-- The copies found in a slot. -/
def Slice.scanSlot (s : Slice) (k : Nat) : List ScanCopy :=
  (List.range (s.writtenTo k)).filterMap fun pos =>
    (s.copyAt k pos).map fun c => (c.1, c.2.1, k, pos, c.2.2)

/-- The sequences in the tags that the scan of a slot reads, those of discarded positions among them. -/
def Slice.scanSeqs (s : Slice) (k : Nat) : List Nat :=
  (List.range (s.writtenTo k)).flatMap fun pos => (List.range 16).filterMap fun l => (s.page k pos l).map (·.seq)

/-- Of two scanned copies of a frame, the one that counts, and whether their sequences are equal. -/
def Slice.better (s : Slice) (a b : ScanCopy) : ScanCopy × Bool :=
  if a.2.1 < b.2.1 then (b, false)
  else if b.2.1 < a.2.1 then (a, false)
  else (if (s.slot a.2.2.1).epoch < (s.slot b.2.2.1).epoch then b else a, true)

/-- The copies of one frame reduced to one. -/
def Slice.reduceCopies (s : Slice) : List ScanCopy → Option (ScanCopy × Bool)
  | [] => none
  | c :: rest => some (rest.foldl (fun (acc : ScanCopy × Bool) x =>
      let (best, tie) := s.better acc.1 x
      (best, tie || (acc.2 && best == acc.1))) (c, false))

/-- Gives a frame its scanned copy; the map change is journalled like any other. -/
def Slice.adopt (s : Slice) (c : ScanCopy) : Slice :=
  let e : MapEntry :=
    { slot := c.2.2.1, pos := c.2.2.2.1, trimmed := false, slc := (s.slot c.2.2.1).slc, sealed := c.2.2.2.2,
      poisoned := false }
  ((s.setEntry c.1 e).listPoison c.1 0).log (.map c.1 e c.2.1 false none)

/-- Resolves the scanned copies of a frame by the table of R229; the map entry's trimmed bit tells a TRIM from a MAP (R334). The second
result tells a DUPLICATE. -/
def Slice.resolve (s : Slice) (copies : List Loaded) (ks : List Known) (found : List ScanCopy) : Slice × Bool :=
  match s.reduceCopies found with
  | none => (s, false)
  | some (c, tie) =>
    let f := c.2.1
    let word := workWord copies ks c.1
    let e := s.entry c.1
    if word = workNone then
      if f < capSeqOf copies (segmentOf c.1) then (s, tie) else (s.adopt c, tie)
    else if f < word then (s, tie)
    else if e.trimmed || decide (word < f) then (s.adopt c, tie)
    else if e.slot = c.2.2.1 ∧ e.pos = c.2.2.2.1 then (s, tie)
    else if (s.slot e.slot).epoch < (s.slot c.2.2.1).epoch || (s.copyAt e.slot e.pos).isNone then (s.adopt c, true)
    else (s, true)

/-- Resolves every frame with scanned copies; the frames with a DUPLICATE outcome are named. -/
def Slice.resolveAll (s : Slice) (copies : List Loaded) (ks : List Known) (found : List ScanCopy) : Slice × List Nat :=
  (dedup (found.map (·.1))).foldl (fun (acc : Slice × List Nat) lfn =>
    let (s, dup) := acc.1.resolve copies ks (found.filter (·.1 == lfn))
    (s, if dup then acc.2 ++ [lfn] else acc.2)) (s, [])

/-! ### Finish -/

/-- Valid counts of every slot from the map. -/
def Slice.recount (s : Slice) : Slice :=
  let zero : Sparse Slot := s.slots.map fun (e : Nat × Slot) => (e.1, { e.2 with valid := 0 })
  (s.map.filter fun (e : Nat × MapEntry) => !e.2.trimmed).foldl (fun s (e : Nat × MapEntry) => s.addValid e.2.slot 1)
    { s with slots := zero }

/-- Page positions of a system slot that are programmed: up to the highest page on the medium, or what its format wrote. -/
def Slice.systemTop (s : Slice) (k : Nat) : Nat :=
  let listed := ((srange s.medium (pageKey k 0 0) (pageKey (k + 1) 0 0)).map fun e => e.1 - pageKey k 0 0 + 1)
  let format := match s.sys.format.bind fun f => f.live.find? (·.1 == k) with
    | some (_, j) => min systemPositions (formatPages - 131071 * j + 1)
    | none => 0
  max (largest listed) format

/-- The chain's slots as the medium shows them: a full one, or one that an entry closed, stays closed or verified, any other is
OPEN at its next page. -/
def Slice.chainPositions (s : Slice) : Slice :=
  s.sys.chain.foldl (fun s k =>
    let top := s.systemTop k
    s.onSlot k fun d =>
      { d.atPage top with
        stream := .system
        slc := true
        state := match d.state with
          | .verified => .verified
          | .closed => .closed
          | _ => if top = systemPositions then .closed else .opened }) s

/-- Slots that stand neither in the free pool nor hold live data, with their clears to be run again (R65): OPEN slots and
written RESERVED slots whose first position does not decode. -/
def Slice.discardEmpty (s : Slice) (round : Nat) (scanned : List Nat) : Slice :=
  (s.candidates.filter fun k => !scanned.contains k
    && ((s.slot k).state == .opened || (srange s.medium (pageKey k 0 0) (pageKey (k + 1) 0 0)) != [])).foldl
      (fun s k => s.startClearing k round) s

/-- The clears of a DONOR slot's blocks that are not lent and not free: those that hold pages, and those whose clear was interrupted
(R65). -/
def Slice.donorClears (s : Slice) (k : Nat) : List Clear :=
  let d := s.slot k
  let written := (srange s.medium (pageKey k 0 0) (pageKey (k + 1) 0 0)).map fun e => e.1 % 16 * 4 + e.1 / 16 % 4
  (dedup written).filterMap fun b =>
    let (lane, group) := (b / 4, b % 4)
    if s.flow.lent.any (fun l => l.donor == k && l.lane == lane && l.group == group)
        || s.flow.clears.any (fun c => c.slot == k && c.lane == lane && c.group == group) then none
    else some
      ({ slot := k, lane := lane, group := group, reach := d.reachOf lane, bank := d.bankOf lane group, left := 1024, running := false,
         age := 0, lent := true, ready := false, entry := 0 } : Clear)

/-- Work that the descriptors call for: clears of CLEARING slots and of donor blocks, verify passes of CLOSED slots, evacuations. -/
def Slice.resumeWork (s : Slice) (round : Nat) : Slice :=
  let inState (st : SlotState) := (s.slots.filter fun e => e.2.state == st).map (·.1)
  let byEpoch := sortBy (fun a b => decide ((s.slot a).epoch ≤ (s.slot b).epoch)) (inState .closed)
  let fresh := (inState .clearing).filter fun k => !s.flow.clears.any fun c => c.slot == k && !c.lent
  let s := { s with flow := { s.flow with
    clears := s.flow.clears.filter fun c => !(c.lent && s.flow.lent.any fun l => l.donor == c.slot && l.lane == c.lane && l.group == c.group) } }
  let clears := fresh.flatMap (fun k => s.slotClears k round true) ++ (inState .donor).flatMap s.donorClears
  let banks := (List.range 1152).filter fun b =>
    s.bankRetired b && s.slots.any fun e => e.2.bound && e.2.stream != .system && e.2.banks.contains b
  { s with
    flow := { s.flow with clears := s.flow.clears ++ clears }
    upkeep := { s.upkeep with
      verifyQ := byEpoch
      evacBanks := banks
      evacReach := (List.range 18).find? fun q => (s.reach q).state == .retiring } }

/-- The largest frame sequence seen in trailers, replayed entries and scanned tags. -/
def highestSeq (ps : List SysPage) (entries : List Placed) (tags : List Nat) : Nat :=
  largest ((ps.filterMap fun p => match p.body with
      | .trailer _ q _ _ _ => some q
      | _ => none)
    ++ (entries.filterMap fun e => match e.entry with
      | .map _ _ q _ _ => some q
      | .trim _ _ q => some q
      | _ => none)
    ++ tags)

/-- A segment without a kept copy: its 32,768 entries are poisoned with no mask. -/
def Slice.poisonSegment (s : Slice) (segment : Nat) : Slice :=
  { s with map := (List.range 32768).foldl (fun m k => sset m (32768 * segment + k) { poisoned := true }) s.map }

/-- The capture of a loaded copy as the running slice keeps it: the number of the entry at its capture position. -/
def Loaded.asCopy (entries : List Placed) (c : Loaded) : SegCopy :=
  { segment := c.segment, capEntry := ((entries.find? fun e => e.key == c.cap).map (·.number)).getD 0, capSeq := c.capSeq,
    firstPage := c.firstPage, entries := c.entries, entry := c.entry }

/-- The highest system sequence of the format's slots that are walked. -/
def Slice.formatTop (s : Slice) (chain : List Nat) : Nat :=
  match s.sys.format with
  | some f => largest ((f.live.filter fun e => chain.contains e.1).map fun e =>
      f.base + systemPositions * e.2 + min 131071 (formatPages - 131071 * e.2))
  | none => 0

/-- What a rebuild finds of the system stream: its slots with the descriptors that name them, the chain number of the last, and
the pages kept. -/
structure Walked where
  slots : List (Nat × Slot)
  number : Nat
  kept : List SysPage

/-- The slots of a walked stream, and its journal entries with their positions. -/
def Walked.chain (w : Walked) : List Nat := w.slots.map (·.1)
def Walked.entries (w : Walked) : List Placed := w.kept.flatMap SysPage.placed

/-- Whether an entry completes a segment copy. -/
def Placed.isCheckpoint (e : Placed) : Bool :=
  match e.entry with
  | .checkpoint _ _ _ _ _ => true
  | _ => false

/-- The CHECKPOINT entries of a walked stream. -/
def Walked.checkpoints (w : Walked) : List Placed := w.entries.filter Placed.isCheckpoint

/-- Flush number, E and rotation index of the newest trailer. -/
def Walked.newestTrailer (w : Walked) : Option (Nat × Nat × Nat) :=
  (w.kept.filterMap fun p => match p.body with
    | .trailer n _ clock x _ => some (n, clock, x)
    | _ => none).getLast?

/-- The newest flush number. -/
def Walked.flush (w : Walked) : Nat :=
  largest (w.kept.filterMap fun p => match p.body with
    | .trailer n _ _ _ _ => some n
    | .journal n _ _ => some n
    | _ => none)

/-- The walk of the system stream from the tail that a root record names. -/
def Slice.walkFrom (s : Slice) (root : Root) : Walked :=
  match root.tail with
  | some t =>
    let w := s.walk (chainLimit + 1) t
    ⟨w.1, w.2, s.keptPages (w.1.map (·.1))⟩
  | none => ⟨[], root.tailChain, []⟩

/-- The format's re-assertion pass, when it lies at or after the replay start. -/
def Slice.formatRecords (s : Slice) (start : Nat) (chain : List Nat) : Option Format :=
  s.sys.format.filter fun f =>
    decide (start ≤ positionKey (f.seqOf (512 * segments + 586), 0)) && f.live.any fun e => chain.contains e.1

/-- The segments step of R228: the map of the loaded copies, poisoned where there is none, and the descriptors that the format's
records, the root and the chain headers give. -/
def Slice.loadMap (s : Slice) (w : Walked) (start : Nat) (copies : List Loaded) (lost : List Nat) : Slice :=
  let atFormat := s.formatRecords start w.chain
  let newest := match w.newestTrailer with
    | some t => t.2.1
    | none => (atFormat.map (·.clockE)).getD 0
  let slots : Sparse Slot := match atFormat with
    | some f => f.slots.map fun e => (e.1, e.2.aged (newest - f.clockE))
    | none => []
  let lent := match atFormat with
    | some f => f.lent
    | none => []
  let s := { s with
    unmapped := false, map := copies.flatMap (·.entries), clockE := newest, slots := slots, flow := { s.flow with lent := lent } }
  let s := lost.foldl Slice.poisonSegment s
  w.slots.foldl (fun (s : Slice) e => if (s.slot e.1).state == .free then s.onSlot e.1 fun _ => e.2 else s) s

/-- The parity of the system frame that an OPEN slot has begun, as far as its pages decode. -/
def Slice.stagedParity (s : Slice) (k : Nat) : Option (Nat × Nat × Nat × BitVec 2048) :=
  let d := s.slot k
  if d.state == .opened && d.lane != 0 then
    let pages := (List.range d.lane).filterMap (s.page k (d.writePos - 1))
    some (k, d.writePos - 1, d.lane, pages.foldl (fun w p => w ^^^ p.stored) 0)
  else none

/-- What the system stream goes on from: the walked chain, its pages and the root found. -/
def Slice.takeStream (s : Slice) (w : Walked) (page : RootPage) (root : Root) : Slice :=
  let parity : List Nat := w.kept.filterMap fun p => p.slot.bind fun k => (s.parityPage k (p.pos / 16)).map (·.seq)
  let t : Slice := { s with
    poison := s.poison.filter fun e => (s.entry e.1).poisoned
    sys := { s.sys with
      pages := w.kept
      chain := w.chain
      chainNumber := w.number + 1
      nextSeq := largest (w.kept.map (·.seq) ++ [s.formatTop w.chain] ++ parity) + 1
      root := some root
      rootPair := pairOf page.block } }
  let t := t.chainPositions
  { t with sys := { t.sys with staging := w.chain.filterMap t.stagedParity } }

/-- The counters that a rebuild sets: frame sequence, flush number, rotation and the next segment to capture. -/
def Slice.takeCounters (s : Slice) (w : Walked) (start : Nat) (root : Root) (copies : List Loaded) (tags : List Nat) : Slice :=
  let replayed := w.entries.filter fun e => decide (start ≤ e.key)
  { s with
    frameSeq := max (if root.clean then root.frameSeq else 0) (highestSeq w.kept replayed tags) + 65536
    journal := { s.journal with
      flush := w.flush
      rotation := match w.newestTrailer with
        | some t => nextRotation t.2.2
        | none => 0 }
    checkpoint := { s.checkpoint with
      current := (copies.filter fun c => c.entries != [] || c.entry != 0).map (Loaded.asCopy w.entries)
      next := match w.checkpoints.getLast?.map Placed.entry with
        | some (JEntry.checkpoint g _ _ _ _) => (g + 1) % segments
        | _ => 0 } }

/-- The scan and the finish of R228; the second result names the frames with a DUPLICATE outcome. -/
def Slice.scanAndFinish (s : Slice) (round : Nat) (clean : Bool) (scanned : List Nat) (copies : List Loaded) (ks : List Known) :
    Slice × List Nat :=
  let (s, dups) := s.resolveAll copies ks (scanned.flatMap s.scanSlot)
  let s := scanned.foldl (fun (s : Slice) k =>
    let n := s.writtenTo k
    (s.onSlot k fun d => { d with state := .opened, writePos := n }).closeSlot k) s
  let s := if clean then s else s.discardEmpty round scanned
  (s.recount.resumeWork round, dups)

/-- What a rebuild tells besides the slice: frames with a DUPLICATE outcome, segments without a copy, and whether a root
record was found. -/
structure Rebuilt where
  slice : Slice
  dups : List Nat
  lost : List Nat
  found : Bool

/-- OPEN system slots whose borrowing lies before the replay start take parity blocks again (R204; DESIGN CHOICE: no record re-asserts a
PARITY entry). -/
def Slice.borrowAgain (s : Slice) : Slice :=
  (s.streamSlots .system .opened).foldl (fun (s : Slice) k =>
    if s.flow.lent.any (·.slot == k) then s else (List.range 4).foldl (fun s i => s.borrow k i) s) s

/-- The rebuild of a slice (R228, R229). DESIGN CHOICE: a segment without a copy has the capture sequence 0, so that any scanned copy
of its frames is taken; R228 sets its capture position only. -/
def Slice.rebuild (s : Slice) (round : Nat) : Rebuilt :=
  match s.newestRoot with
  | none => ⟨{ s with map := [], slots := [], unmapped := true, sys := { s.sys with root := none, chain := [] } }, [], [], false⟩
  | some (page, root) =>
    let w := s.walkFrom root
    let start := positionKey (root.replayPage, root.replayUnit)
    let listed := s.listedSegments w.chain w.checkpoints
    let copies := listed.filterMap (s.loadSegment w.chain w.kept w.checkpoints)
    let lost := listed.filter fun g => !copies.any (·.segment == g)
    let caps := copies ++ lost.map fun g => ⟨g, start, 0, [], 0, 0⟩
    let t := s.loadMap w start copies lost
    let (t, ks) := w.kept.foldl (Slice.applyPage caps start t.clockE) (t, [])
    let t := t.takeStream w page root
    let scanned := if root.clean then [] else t.candidates.filter t.holdsFirst
    let t := t.takeCounters w start root copies (scanned.flatMap t.scanSeqs)
    let (t, dups) := t.scanAndFinish round root.clean scanned caps ks
    -- the map lines written by the rebuild leave the versions of DRAM to the model's start
    ⟨{ t.borrowAgain with mapCache := [], mapPlru := [], dram := s.dram }, dups, lost, true⟩

/-- A fold in flight whose fold buffer survives goes on from its snapshot, with the completions that it owes. -/
def Slice.refold (now : Nat) (s : Slice) (r : Rewrite) : Slice :=
  let id := s.flow.nextId
  let s := s.startRewrite now r.lfn r.kind r.cls r.snap r.data r.title r.acks false
  s.onRewrite id fun x => { x with poison := x.poison ||| r.poison }

/-- A page read as it waits again, for those outside the slice alone: rewrites and upkeep begin theirs anew. -/
def ReadReq.outside (q : ReadReq) : Option ReadReq :=
  let who := q.who.filter fun w => match w with
    | .host _ _ _ | .desc _ _ _ | .hint => true
    | _ => false
  if who.isEmpty then none else some { q with who := who, tow := none, attempt := 0 }

/-- What a flight serves besides the requests that keep their places. -/
def Flight.own (f : Flight) : ReadReq := { f.req with who := f.req.who.filter fun w => !f.kept.any (·.who.contains w) }

/-- The page reads of a slice that wait or are in flight, for those outside it: the queues, and those that wait at ingress. -/
def Flow.waiting (f : Flow) (rebuilds : List Rebuild) : List ReadReq :=
  ((f.flights.filter fun x => !x.reuse).map Flight.own ++ rebuilds.map (·.req) ++ f.queue ++ f.tow).filterMap ReadReq.outside

/-- Requests seated in their admission queues as far as those have room (R98), and those left for the ingress hold list. -/
def seated (qs : List ReadReq) : List ReadReq × List ReadReq :=
  qs.foldl (fun (acc : List ReadReq × List ReadReq) q =>
    if (acc.1.filter fun x => x.reach == q.reach && x.cls == q.cls).length < 512 then (acc.1 ++ [q], acc.2)
    else (acc.1, acc.2 ++ [q])) ([], [])

/-- A slice whose map is rebuilt into its remaining DRAM (R264): its local DRAM but for the basin and the line cache is lost
like at a power loss; what those hold stays, fold buffers among it, as do the reads admitted, the writes held and the trims and
completions waiting. Poison that no journal page had yet taken is marked again. -/
def Slice.remap (s : Slice) (round now : Nat) : Rebuilt :=
  let r := s.powerLoss.rebuild round
  let t := r.slice
  let reads := seated (s.flow.waiting s.upkeep.rebuilds)
  let t := { t with
    inRecovery := s.inRecovery
    sequencer := s.sequencer
    links := s.links
    active := s.active
    shadow := s.shadow
    source := s.source
    shadowSource := s.shadowSource
    cache := s.cache
    basin := s.basin
    flow := { t.flow with
      queue := reads.1
      hold := reads.2 ++ s.flow.hold.filterMap ReadReq.outside
      heldWrites := s.flow.heldWrites
      heldReads := s.flow.heldReads
      trims := s.flow.trims
      durables := s.flow.durables
      nextId := s.flow.nextId
      nextOrder := s.flow.nextOrder
      holdTicks := s.flow.holdTicks
      raised := s.flow.raised
      programmed := s.flow.programmed }
    reaches := s.reaches
    engine := s.engine
    dram := s.dram
    alarmsInRound := s.alarmsInRound
    policyActed := s.policyActed
    counters := s.counters
    snapshot := s.snapshot }
  let t := (s.flow.rewrites.filter fun r => r.fold && !r.done).foldl (Slice.refold now) t
  { r with slice := s.poison.foldl (fun t e => t.markPoison e.1 e.2) t }

end Sys2Proof.Machine
end

