-- ==== Sys2Proof/Machine/Verify.lean ====
section
/-!
DEFINITION. What the firmware is verified by before it runs: the anti-rollback counters, the key slots, and the check of firmware
images (R29, R378, R379, R454–R457, R525–R527).
-/
namespace Sys2Proof.Machine

open Sys2Proof

/-- Whether a range of bytes is 0. -/
def zeroBytes (b : List Byte) (off n : Nat) : Bool := (rangeFrom off n).all fun i => byteAt b i == 0

/-! ### Anti-rollback counters (R378, R379, R526, R527) -/

/-- A counter copy: value and sequence. -/
def PStore.counterCopy (p : PStore) (base n : Nat) : Option (Nat × Nat) :=
  (p.record16 (base + 64 * n)).map fun b => (leAt b 0 6, leAt b 8 6)

/-- The value of counter `n`: that of the valid copy of higher sequence, of equal ones the larger value. -/
def Dev.rollback (d : Dev) (n : Nat) : Nat :=
  match d.pstore.counterCopy 0x400 n, d.pstore.counterCopy 0x800 n with
  | some (v, q), some (w, r) => if q = r then max v w else if q < r then w else v
  | some (v, _), none => v
  | none, some (w, _) => w
  | none, none => 2 ^ 48 - 1

/-- Whether neither copy of a counter is valid. -/
def Dev.counterLost (d : Dev) (n : Nat) : Bool :=
  (d.pstore.counterCopy 0x400 n).isNone && (d.pstore.counterCopy 0x800 n).isNone

/-- Sets a counter: the copy of lower sequence takes the value with the next sequence (R379, R527). -/
def Dev.setRollback (d : Dev) (n v : Nat) : Dev :=
  let a := d.pstore.counterCopy 0x400 n
  let b := d.pstore.counterCopy 0x800 n
  let (base, sq) := match a, b with
    | some (_, q), some (_, r) => if q < r then (0x400, r + 1) else (0x800, q + 1)
    | some (_, q), none => (0x800, q + 1)
    | none, some (_, r) => (0x400, r + 1)
    | none, none => (0x400, 1)
  d.store (base + 64 * n) (withCrc (leBytes 6 v ++ [0, 0] ++ leBytes 6 sq ++ [0, 0]))

/-- Raises a counter to a target; one at or above it stays (R379). -/
def Dev.advanceRollback (d : Dev) (n v : Nat) : Dev := if v ≤ d.rollback n then d else d.setRollback n v

/-- What a start finds of the counters is recorded (R379, R527). -/
def Dev.checkCounters (d : Dev) : Dev :=
  (List.range 16).foldl (fun d n =>
    if d.counterLost n then (d.packageEvent 0x0404 n).alarm 5 none n
    else match d.pstore.counterCopy 0x400 n, d.pstore.counterCopy 0x800 n with
      | some (v, q), some (w, r) =>
        if q = r ∧ v ≠ w then d.event 0x0405 0xFF n 0xFF (p6 (max v w)) else d
      | _, _ => d) d

/-- A key slot (R525): its point, when the slot is written and its CRC holds. Slots 0–3 verify images, 4–5 debug
tokens, 6–9 card certificates. -/
def Dev.keySlot (d : Dev) (n : Nat) : Option (Nat × Nat) :=
  match d.pstore.read (0x1000 + 128 * n) 0x68 with
  | none => none
  | some b =>
    if byteAt b 0x60 = 1 ∧ crc32c (b.take 0x61) = leAt b 0x64 4 then some (beAt b 0 48, beAt b 0x30 48) else none

/-! ### Firmware images (R454–R457) -/

/-- The signature section of a firmware image. -/
def fwSignature (b : List Byte) : List Byte := b.drop (b.length - 112)

/-- The payload of a firmware image. -/
def fwPayload (b : List Byte) : List Byte := bytesAt b 64 (b.length - 176)

/-- revision and security_version of a firmware image. -/
def fwRevision (b : List Byte) : Nat := leAt b 0x0C 3
def fwVersion (b : List Byte) : Nat := leAt b 0x10 4

/-- The anti-rollback counter of a target (R378). -/
def fwCounter (target : Nat) : Nat := if target = 2 then 3 else target

/-- A coordinate pair as numbers. -/
def firmwareKeyPoint : Nat × Nat := ((Config.firmwareKey false).toNat, (Config.firmwareKey true).toNat)

/-- Whether the signature of an image is one its target and the lifecycle state accept (R164, R455). A section of zero
bytes is a missing signature. -/
def Dev.fwSigned (d : Dev) (target : Nat) (b : List Byte) : Bool :=
  let sig := fwSignature b
  let key := byteAt sig 0
  if target = 2 then
    let missing := sig.all (· == 0)
    match d.fuses.lifecycle with
    | .anise => decide (key ≤ 3) && zeroBytes sig 1 15
    | l =>
      if missing then l != .mace
      else decide (key ≤ 3) && match d.keySlot key with
        | some (x, y) => sectionVerifies x y b
        | none => false
  else key == 0 && sectionVerifies firmwareKeyPoint.1 firmwareKeyPoint.2 b

/-- The check of a firmware image for a target: 0, or the code of the first failure (R456). -/
def Dev.fwCheck (d : Dev) (target : Nat) (b : List Byte) : Nat :=
  if !(leAt b 0 4 == 0x57465654 && leAt b 6 2 == 64 && crc32c (padTo 0x3C b) == leAt b 0x3C 4) then 0x0801
  else if byteAt b 4 != target then 0x0802
  else if !(leAt b 8 4 == b.length && decide (176 ≤ b.length ∧ b.length ≤ 2 ^ 24)
      && (target != 2 || decide ((fwPayload b).length ≤ 2 ^ 22))) then 0x0803
  else if crc32c (fwPayload b) != leAt b 0x14 4 then 0x0804
  else if !d.fwSigned target b then 0x0805
  else if d.fuses.lifecycle == .mace && decide (fwVersion b < d.rollback (fwCounter target)) then 0x0806
  else 0

/-- The intact copy of higher generation (R177, R457). -/
def newestCopy (l : List (Option ImgCopy)) : Option ImgCopy :=
  (l.filterMap id).foldl (fun (m : Option ImgCopy) c =>
    if !c.intact then m
    else match m with
      | some x => if x.generation < c.generation then some c else m
      | none => some c) none

/-- The copy of a target that a start or warm reset verifies and takes (R29, R457). -/
def Dev.takenCopy (d : Dev) (t : Nat) : Option ImgCopy :=
  (newestCopy (d.firmware.getD t {}).copies).filter fun c => d.fwCheck t c.bytes == 0

/-- The firmware of a target as a start or warm reset loads it, once its check has passed; in MACE a counter that had not
advanced does. Outside MACE the firmware verified before stays in place of one that fails (DESIGN CHOICE: R29 says only that such
firmware does not run). -/
def Dev.loadTarget (d : Dev) (t : Nat) : Dev :=
  match d.takenCopy t with
  | none => d
  | some c =>
    let d := { d with firmware := upd d.firmware t fun (f : FwTarget) =>
      { f with revision := fwRevision c.bytes, version := fwVersion c.bytes, payload := fwPayload c.bytes } }
    if d.fuses.lifecycle == .mace then d.advanceRollback (fwCounter t) (fwVersion c.bytes) else d

/-- Whether the firmware of a processor fails its verification: the check of its newest copy, or, where it is loaded, its version under
the anti-rollback counter (R29, R378). A resume goes on with the firmware that ran before, which an activation may have left below the
counter (R457). -/
def Dev.unverified (d : Dev) (resume : Bool) (t : Nat) : Bool :=
  let f := d.firmware.getD t {}
  ((newestCopy f.copies).isSome && (d.takenCopy t).isNone) || (!resume && decide (f.version < d.rollback t))

/-- The firmware of both processors is verified before it runs (R29): a start or a warm reset loads its newest copies first. In MACE
firmware that fails is not started, with an event that names its processor, 0 control, 1 security core. -/
def Dev.verifyFirmware (d : Dev) (resume : Bool) : Dev :=
  let d := if resume then d else (List.range 2).foldl Dev.loadTarget d
  let bad := if d.fuses.lifecycle == .mace then [0, 1].find? (d.unverified resume) else none
  match bad with
  | some t => { d.packageEvent 0x0407 t with notStarted := some t }
  | none => { d with notStarted := none }

end Sys2Proof.Machine
end

