-- ==== Sys2Proof/Machine/Reset.lean ====
section
/-!
DEFINITION. What resets and losses of power leave of the package (R482–R487), the last-gasp record
(R503–R505, R529), and the opening of BOOT (R483, R491, R530–R533).
-/
namespace Sys2Proof.Machine

open Sys2Proof

/-! ### Slices (R227, R486) -/

/-- A fold in flight ends without a map step: its snapshot is dirty in the basin again (R227, R281). The sectors that only its fold buffer
holds go into its frame's entry, or into overflow records when no frame slot is free; while neither has room it stays. -/
def Slice.returnFold (dram4 : Bool) (round : Nat) (s : Slice) (r : Rewrite) : Slice :=
  let m := r.snap &&& ~~~ s.heldSectors r.lfn
  let gone (s : Slice) : Slice := { s with flow := { s.flow with rewrites := s.flow.rewrites.filter (·.id != r.id) } }
  let line (i : Nat) : Line :=
    { line := 16 * r.lfn + i, way := 0, prot := false, valid := (m >>> (4 * i)).setWidth 4, dirty := (m >>> (4 * i)).setWidth 4,
      data := subSectors r.data i, filling := false, cls := r.cls, title := r.title }
  if m = 0 then gone s
  else match s.basinPut dram4 round r.lfn m r.data ⟨r.cls, r.kind == .durable, r.kind == .bulk, r.title, []⟩ with
    | some s => gone s
    | none =>
      match ((List.range 16).filter fun i => (line i).dirty != 0).foldl (fun (t : Option Slice) i => t.bind fun t => t.spill (line i))
          (some s) with
      | some s => gone s
      | none => s

/-- Every fold in flight ends so; the entries carry no fold and no completion any more. -/
def Slice.returnFolds (dram4 : Bool) (round : Nat) (s : Slice) : Slice :=
  let s := (s.flow.rewrites.filter fun r => r.fold && !r.done).foldl (Slice.returnFold dram4 round) s
  { s with basin := { s.basin with
    entries := s.basin.entries.map fun (e : BasinEntry) => { e with folding := 0, acks := [] } } }

/-- System pages whose programs had not passed wait for a new position (R227, R60). -/
def SysPage.unplaced (p : SysPage) : SysPage :=
  if p.passed || p.slot.isNone then p else { p with slot := none, filled := false, torn := true }

/-- The parity page in a chamber that was not programmed, as it waited for its fill. -/
def Slice.unfilledParity (s : Slice) (c : Chamber) : Option (Nat × Nat × Page) :=
  if c.kind == .parity && !c.programming then
    (s.flow.lent.find? fun l => l.donor == c.slot && l.lane == c.lane && l.group == c.pos % 4).map fun l =>
      (l.slot, c.pos / 4 * 4 + l.index, c.page)
  else none

/-- OPEN system slots go on past their highest programmed page, with the parity of the frame begun there (R58, R204). -/
def Slice.resumeStream (s : Slice) : Slice :=
  let s := s.sys.chain.foldl (fun (s : Slice) k =>
    if (s.slot k).state == .opened then s.onSlot k fun d => d.atPage (s.systemTop k) else s) s
  { s with sys := { s.sys with staging := s.sys.chain.filterMap s.stagedParity } }

/-- A reach through a reset of its slice's CORE domain: its burst limit returns to 8 (R106), its failed self-checks are forgotten, and a
sentinel reprogram ends: the next entry to the service group begins one again (R81). -/
def Reach.coreReset (h : Reach) : Reach := { h with burst := 8, burstNext := none, selfFails := 0, reprogram := none }

/-- A slice through a reset that keeps its DRAM: the map, descriptors, poison list and journal stay, the line
cache and the work in the engines go, with the counts of faults that REACH_HEALTH reports (R227, R248, R483, R486). A capture
that waited is begun again, a root record on its way is written by the next tick start, and BASIN_CFG is at its reset value (R289). -/
def Slice.suspend (s : Slice) : Slice :=
  let parity := s.flow.chambers.filterMap s.unfilledParity ++ s.flow.parityQ
  let s := s.tear
  let flow : Flow :=
    { parityQ := parity.filter fun e => (List.range 16).all fun l => (s.cell e.1 e.2.1 l).isSome
      lent := s.flow.lent
      clears := s.flow.clears.map fun (c : Clear) => { c with running := false }
      nextId := s.flow.nextId }
  let t : Slice := { s with
    cache := {}
    mapCache := []
    mapPlru := []
    flow := flow
    links := [{}, {}]
    reaches := s.reaches.map Reach.coreReset
    basin := { s.basin with foldAge := 0x10, foldOccupancy := 0x32 }
    sys := { s.sys with pages := s.sys.pages.map SysPage.unplaced, rootWrite := none, rootHold := false }
    checkpoint := { s.checkpoint with
      next := (s.checkpoint.capturing.head?.map (·.1)).getD s.checkpoint.next
      capturing := [] }
    upkeep := { s.upkeep with barges := [], rebuilds := [], dryRounds := 0, verifyCur := [], faults := [] }
    dram := { s.dram with requests := [], openRows := [], traffic := 0, trafficLast := 0 }
    alarmsInRound := 0
    policyActed := false
    counters := List.replicate 160 0
    snapshot := List.replicate 160 0
    shutdown := {} }
  t.resumeStream

/-- The basin empty. -/
def Slice.dropAll (s : Slice) : Slice := { s with basin := {} }

/-! ### Keys (R356–R358, R366, R387) -/

/-- The media key of every slice is derived from the root in use and loaded into its medium engine; in CLOVE there is none. -/
def Dev.loadMediaKeys (d : Dev) : Dev :=
  { d with slices := d.slices.mapIdx fun i (s : Slice) => { s with engine := { s.engine with media := d.fuses.root.map fun r => mediaKeyOf r i } } }

/-- A start draws a new DRAM key, loaded into every slice's DRAM engine, and a new scramble seed from the DRBG (R357). -/
def Dev.drawKeys (d : Dev) : Dev :=
  let n := d.draws
  { d with
    slices := d.slices.mapIdx fun i (s : Slice) =>
      { s with dram := { s.dram with key := some (dramKeyOf (Config.dramKey n 0)), previous := none, keyBase := n + i, keyDraws := 0 } }
    keys := { seed := (Config.drbg n).setWidth 7, aon := none }
    draws := n + 1 + d.slices.length }

/-- DROWSE entry: the DRAM keys, the sweep state and the frame keys of the open slots go into the always-on key registers of slice 0,
and every other copy is zeroised (R358, R366). -/
def Dev.parkKeys (d : Dev) : Dev :=
  let aon : AonKeys :=
    { dram := d.slices.map fun s => (s.dram.key, s.dram.previous, s.dram.sweep), frames := (d.slice 0).engine.frames }
  { d.onSlices fun s => { s with engine := {}, dram := { s.dram with key := none, previous := none, sweep := none } } with
    keys := { d.keys with aon := some aon } }

/-- The keys that the always-on key registers hold return to the engines, and the media keys are derived again (R358, R366). -/
def Dev.unparkKeys (d : Dev) : Dev :=
  match d.keys.aon with
  | none => d.loadMediaKeys
  | some a =>
    { d with
      slices := d.slices.mapIdx fun i (s : Slice) =>
        let (key, previous, sweep) := a.dram.getD i (none, none, none)
        { s with engine := { s.engine with frames := a.frames }, dram := { s.dram with key := key, previous := previous, sweep := sweep } }
      keys := { d.keys with aon := none } }.loadMediaKeys

/-! ### The package (R482, R486, R487) -/

/-- A port through a reset of the package: link down; `keep` keeps the HDM state (DROWSE). A width narrowed for a permanent lane
fault stays (R318). -/
def Port.reset (keep : Bool) (p : Port) : Port :=
  let q : Port := { widthLimit := p.widthLimit, down := p.down }
  if keep then { q with decoders := p.decoders, position := p.position, policy := p.policy } else q

/-- A port whose narrowed width is forgotten (R318). -/
def Port.widen (p : Port) : Port := { p with widthLimit := 16, down := false }

/-! ### The card's power-off sequence (R462, R463) -/

/-- The reference clock runs once started, while the card asks for it or its reset is low (R462). -/
def Cart.clocked (c : Cart) : Cart := { c with refclk := c.refclkStarted && (c.clkreqLow || !c.perstHigh) }

/-- CART_PERST_N falls: the link goes down, and the clock and power follow (R463). -/
def Cart.perstFalls (c : Cart) : Cart :=
  { c with perstHigh := false, linkUp := false, queues := false, width := 0, speed := 0, step := 6 }.clocked

/-- The power-off sequence at once, without a shutdown notification; an unpowered card stays as it is. -/
def Cart.cutPower (c : Cart) : Cart := if c.pwrEn && decide (c.step < 6) then c.perstFalls else c

/-- The cartridge port through a reset (R463, R476, R486): its state is cleared, and the power-off sequence runs. Which streamed
entries the regions in force map stays. -/
def Cart.reset (c : Cart) : Cart :=
  let p := c.cutPower
  { streamMaps := c.streamMaps, clkreqLow := p.clkreqLow, pwrEn := p.pwrEn, refclk := p.refclk, refclkStarted := p.refclkStarted,
    step := p.step }

/-- What every reset of the package but an always-on one clears, in every column of R486 (codes C). In CLOVE no installed image
stays in force (R164, R188); a condition of R265 not yet recorded stays. -/
def Dev.clearCommon (keepHdm : Bool) (d : Dev) : Dev :=
  let images : Images :=
    { copies := d.images.copies, inForce := if d.fuses.lifecycle == .clove then none else d.images.inForce,
      report := d.images.report, failedAtStart := d.images.failedAtStart }
  { d with
    swap := {}
    shadow := d.active
    regs := {}
    chans := d.chans.map fun _ => {}
    i3c := {}
    rings := []
    ports := d.ports.map (Port.reset keepHdm)
    msix := {}
    dbg := { failures := d.dbg.failures }
    images := images
    firmware := d.firmware.map fun (f : FwTarget) => { f with staging := none, staged := none, storing := none }
    waiters := []
    cart := d.cart.reset
    thermal := {}
    boot := {}
    flushes := []
    counters := { resets := min 0xFFFFFF (d.counters.resets + 1), windowStart := d.clock.periods }
    transition := none
    preserve := { due := d.preserve.due }
    notStarted := none
    working := []
    rung := 0 }

/-- Open titles close, their frame keys leave the engines, and no ring stays bound to a title (R365, R366, R377, R486). -/
def Dev.closeTitles (d : Dev) : Dev :=
  let d := d.onSlices fun s => { s with engine := { s.engine with frames := [] } }
  let unbound (r : Ring) : Ring := match r.binding with
    | some (.title _) => { r with binding := none }
    | _ => r
  { d with
    titles := d.titles.map fun (t : Title) => if t.state == .opened then { t with state := .installed } else t
    rings := (d.rings.map fun (e : Nat × Ring) => (e.1, unbound e.2)).filter fun e => e.2 != ({} : Ring) }

/-- The package's power domains but AON go off: everything outside the medium, the parameter store and the
always-on domain is lost (R358, R486). -/
def Dev.losePower (d : Dev) : Dev :=
  let d := (d.clearCommon false).closeTitles
  { d with
    active := {}
    shadow := {}
    std := { timestampClock := d.lifeClock }
    keys := {}
    images := { d.images with inForce := none, report := (0, 0), failedAtStart := false }
    cart := {}
    slices := d.slices.map Slice.powerLoss }

/-! ### The last gasp (R503–R505, R529) -/

/-- Place of the last-gasp slot. -/
def lastGaspAt : Nat := 0x180

/-- The last-gasp record for a trigger. -/
def Dev.gaspBytes (d : Dev) (trigger : Nat) : List Byte :=
  let head := (mirrorBytes d.mirror d.mirror.closed d.dirtyPresent 0).take 40
    ++ [BitVec.ofNat 8 d.mode.code, BitVec.ofNat 8 d.seq.state, BitVec.ofNat 8 trigger]
  let tail := leBytes 2 d.seq.latch.toNat ++ List.replicate 14 0
  head ++ [0xFF] ++ tail ++ leBytes 4 (crc32c (head ++ tail))

/-- The part of an access that lies on its first page. -/
def PAccess.firstPage (a : PAccess) : List Byte := a.data.take (64 - a.address % 64)

/-- The part on its second page. -/
def PAccess.secondPage (a : PAccess) : List Byte := a.data.drop (64 - a.address % 64)

/-- The write of a page in progress: the address and bytes being programmed. -/
def PAccess.page (a : PAccess) : Nat × List Byte :=
  if a.page2 then (a.address + a.firstPage.length, a.secondPage) else (a.address, a.firstPage)

/-- The access in progress, when it is a write. -/
def PStore.writing (p : PStore) : Option PAccess :=
  match p.queue with
  | a :: _ => if a.isRead then none else some a
  | [] => none

/-- The page being programmed finishes; its second page, and what waits, are not written (R504). -/
def PStore.finishPage (p : PStore) : PStore :=
  match p.writing with
  | some a => { p.write a.page.1 a.page.2 with queue := [] }
  | none => { p with queue := [] }

/-- A program cut by the loss of power: each addressed group is left old, new or undecodable (R521). -/
def PStore.cutPage (p : PStore) (cut : List CutGroup) : PStore :=
  match p.writing with
  | none => { p with queue := [] }
  | some a =>
    let (at_, b) := a.page
    let gs := groupsOf at_ b.length
    ((List.range gs.length).foldl (fun (p : PStore) i =>
      let g := gs.getD i 0
      match cut.getD i .old with
      | .old => p
      | .new =>
        let lo := max at_ (8 * g)
        let hi := min (at_ + b.length) (8 * g + 8)
        { p with mem := memWrite p.mem lo (bytesAt b (lo - at_) (hi - lo)), broken := p.broken.filter (· != g) }
      | .broken => { p with broken := if p.broken.contains g then p.broken else p.broken ++ [g] }) p
      : PStore) |> fun p => { p with queue := [] }

/-- Writes the last-gasp record, after the page being programmed has finished (R503, R504). It is not written in a
mode in which the CONTROL domain is off. -/
def Dev.lastGasp (d : Dev) (trigger : Nat) : Dev :=
  if d.mode.ticks then
    let b := d.gaspBytes trigger
    { d with pstore := (d.pstore.finishPage).write lastGaspAt b }
  else d

/-- A last-gasp record that is present (R529). -/
def PStore.gasp (p : PStore) : Option (List Byte) :=
  match p.read lastGaspAt 64 with
  | none => none
  | some b => if crc32c (b.take 43 ++ bytesAt b 44 16) == leAt b 0x3C 4 then some b else none

/-- Marks a present record consumed (R529, R530). -/
def Dev.consumeGasp (d : Dev) : Dev :=
  match d.pstore.gasp with
  | some b => if byteAt b 0x2B = 0 then d else (d.store (lastGaspAt + 0x2B) [0]).countPkg 22 1
  | none => d

/-! ### The start of the firmware (R351, R498, R530–R533) -/

/-- The mirror fields 0x00–0x27 of stored bytes. -/
def mirrorOf (m : Mirror) (b : List Byte) : Mirror :=
  { m with
    lifeClock := leAt b 0 6
    seconds := leAt b 8 6
    bootCount := leAt b 0x10 3
    dirtyShutdowns := leAt b 0x13 3
    thermalLife := leAt b 0x18 6
    closed := bitAt (byteAt b 0x1E) 0
    recorderFailed := bitAt (byteAt b 0x1E) 1
    dirtyPresent := bitAt (byteAt b 0x1E) 2
    repeats := leAt b 0x20 2
    newestOffset := leAt b 0x22 2
    droppedEvents := leAt b 0x24 3 }

/-- The event of a record's bytes. -/
def eventOf (b : List Byte) : Event :=
  { code := leAt b 4 2, slice := byteAt b 3, reason := byteAt b 6, cls := byteAt b 0x0E,
    params := b.drop 0x18, clock := leAt b 8 6 }

/-- Walks the recorder region from offset `pos`, passing over records that count and carry the generation: the
write position, the newest record and the number of records (R532). -/
def PStore.walk (p : PStore) (generation : Nat) : Nat → Nat → Option Event → Nat → Nat × Option Event × Nat
  | 0, pos, newest, n => (pos, newest, n)
  | fuel + 1, pos, newest, n =>
    match p.read (0x10000 + pos) 8 with
    | none => (pos, newest, n)
    | some h =>
      let len := 8 * byteAt h 2
      if leAt h 0 2 == generation && byteAt h 7 == 0x5A && decide (24 ≤ len) && decide (len ≤ 128)
          && decide (pos + len ≤ 0x10000) then
        p.walk generation fuel (pos + len) (some (eventOf (memRead p.mem (0x10000 + pos) len))) (n + 1)
      else (pos, newest, n)

/-- The firmware opens the recorder: control page and walk; a control page that fails its CRC, or a failed flag of
the mirror, leaves it failed (R532, R533, R536). -/
def Dev.openRecorder (d : Dev) : Dev :=
  let control := match d.pstore.read 0x140 8 with
    | some b => if crcHolds b then some b else none
    | none => none
  match control with
  | none =>
    { d with
      recorder := { failed := true }
      mirror := { d.mirror with recorderFailed := true } }
  | some b =>
    let generation := leAt b 0 2
    let (pos, newest, n) := d.pstore.walk generation 2731 0 none 0
    let r : Recorder :=
      { writePos := pos, newest := newest, generation := generation,
        failed := bitAt (byteAt b 2) 0 || d.mirror.recorderFailed, full := bitAt (byteAt b 2) 1,
        repeatDirty := false, records := n }
    { d with recorder := r }

/-- What the restore of the mirrors tells the recorder: the mirror was lost, and an unorderly end with dirty data
or without a record. -/
abbrev Restored := Bool × Bool

/-- Restores the mirrors (R530). -/
def Dev.restoreMirrors (d : Dev) : Dev × Restored :=
  let lost := d.pstore.savedMirror.isNone
  let m : Mirror := match d.pstore.savedMirror with
    | some (_, b) => mirrorOf {} b
    | none => { closed := false }
  let lg := d.pstore.gasp
  let (m, dirty, due) :=
    match lg with
    | some b =>
      if byteAt b 0x2B == 0xFF && decide (m.lifeClock ≤ leAt b 0 6) then
        let m := mirrorOf m b
        (m, m.dirtyPresent, true)
      else (m, !m.closed, false)
    | none => (m, !m.closed, false)
  let m := { m with
    dirtyShutdowns := if dirty then m.dirtyShutdowns + 1 else m.dirtyShutdowns
    bootCount := (m.bootCount + 1) % 2 ^ 24
    closed := false
    dirtyPresent := false }
  let d := { d with mirror := m }
  let d := d.openRecorder
  let d := if due then ({ d with recorder := { d.recorder with repeatDirty := true } }).storeRepeats else d
  (d.consumeGasp, lost, dirty)

/-- Whether a timing record's fields are in range (R498). -/
def timingOk (b : List Byte) : Bool :=
  let f := byteAt b
  decide (1 ≤ f 0 ∧ f 0 ≤ 100) && decide (1 ≤ f 1 ∧ f 1 ≤ 100) && decide (2 ≤ f 2)
    && decide (1 ≤ f 3 ∧ f 3 ≤ 100) && decide (50 * f 0 < 1000 * f 1)

/-- The firmware loads the sequencer timing record, or records its rejection (R498). -/
def Dev.loadTiming (d : Dev) : Dev :=
  match d.pstore.read 0x1C0 8 with
  | none => d.packageEvent 0x0503 1
  | some b =>
    if !crcHolds b then d.packageEvent 0x0503 1
    else if timingOk b then
      { d with seq := { d.seq with timing := ⟨byteAt b 0, byteAt b 1, byteAt b 2, byteAt b 3⟩ } }
    else d.packageEvent 0x0503 2

/-- A missing record of a lifecycle transition is written (R351): of the present state, whose fuses win. -/
def Dev.completeLifecycle (d : Dev) : Dev :=
  let n := d.fuses.lifecycle.code
  if n = 0 then d
  else
    let at_ := 0x40 * n
    match d.pstore.record16 at_ with
    | some b => if byteAt b 0 = n then d
      else (d.store at_ (clockRecord n 0 d.lifeClock)).packageEvent 0x0406 n
    | none => (d.store at_ (clockRecord n 0 d.lifeClock)).packageEvent 0x0406 n

/-- The fault latch of the last run is recorded at the next start (R496, R570). -/
def Dev.recordFault (d : Dev) : Dev :=
  if d.seq.faultRecordDue then
    { d.event 0x0502 0xFF 0 0xFF (leBytes 2 d.seq.latch.toNat ++ leBytes 1 d.seq.stateAtFault) with
      seq := { d.seq with faultRecordDue := false } }
  else d

/-- The record of the watchdog's expiry becomes due. -/
def Dev.expireWatchdog (d : Dev) : Dev := { d with seq := { d.seq with watchdogDue := true } }

/-- An expiry of the watchdog is recorded at the next start of the firmware (R484). -/
def Dev.recordWatchdog (d : Dev) : Dev :=
  if d.seq.watchdogDue then { d.packageEvent 0x0504 0 with seq := { d.seq with watchdogDue := false } } else d

/-- The firmware's records of a start: the watchdog, the fault latch, the lifecycle record, the counters and the timing record. -/
def Dev.startRecords (d : Dev) : Dev := d.recordWatchdog.recordFault.completeLifecycle.checkCounters.loadTiming

/-- BOOT opens after the rails are up (R491): new keys are drawn and loaded (R357), the mirrors and the recorder are restored, the
firmware is verified (R29), and, where it starts, makes the records of the start. -/
def Dev.openBoot (d : Dev) : Dev :=
  let d := { d with
    mode := .boot
    transition := none
    counters := { windowStart := d.clock.periods }
    dbg := { d.dbg with failures := 0 }
    pstore := { d.pstore with rewritten := [] } }
  let d := d.drawKeys.loadMediaKeys
  let (d, lost, dirty) := d.restoreMirrors
  let d := if lost then d.packageEvent 0x0509 0 else d
  let d := if dirty then d.event 0x0302 0xFF 1 0xFF (leBytes 3 d.mirror.dirtyShutdowns) else d
  let d := d.verifyFirmware false
  let d := if d.notStarted.isSome then d else d.startRecords
  d.onSlices fun s => (s.count 136 1).count 137 1

/-! ### Warm reset (R483, R484, R486) -/

/-- The package through a warm reset: every domain but AON and the DRAM contents; the tick stops, to start again at tick 0 of a
round (R18). The watchdog's loses what the line
cache and the basin hold. -/
def Dev.warmReset (d : Dev) (watchdog : Bool) : Dev :=
  let dirty := watchdog && d.dirtyPresent
  let d := d.abandonSwap 1
  let pending := d.pstore.finishPage
  let d := { d with pstore := { pending with rewritten := [] } }
  let active := d.active
  let d := (d.clearCommon false).closeTitles
  let slice (s : Slice) : Slice :=
    let s := (s.suspend).dropAll
    let s := { s with dram := { s.dram.refreshAll with
      trained := false, selfRefresh := true, guardBand := 0xFF, due := 0, waitingWrites := [] } }
    (s.count 136 1).count 137 1
  let d := { d with
    mode := .boot
    clock := d.clock.stop
    active := active
    shadow := active
    std := { timestampClock := d.lifeClock }
    slices := d.slices.map slice }
  let d := d.loadMediaKeys
  let d := if watchdog then d.expireWatchdog else d
  let d := if dirty then d.dirtyShutdown 2 else d
  let d := d.verifyFirmware false
  if d.notStarted.isSome then d else d.recordWatchdog.recordFault.loadTiming

end Sys2Proof.Machine
end

