-- ==== Sys2Proof/Machine/Power.lean ====
section
/-!
DEFINITION. The package's sequencer, its rails and barriers, power fail, RESET_N and the entry to HALT
(R478, R488–R506).
-/
namespace Sys2Proof.Machine

open Sys2Proof

/-! ### The fault latch (R496, R501) -/

/-- Bit of the latch. -/
def latchBit (i : Nat) : BitVec 16 := BitVec.twoPow 16 i

/-- The halting causes (R496). -/
def haltingCauses : BitVec 16 := 0xF300

/-- The halting causes other than EXTERNAL. -/
def ownCauses : BitVec 16 := 0xB300

/-- Latches causes; the state at the first latched fault is kept, and a halting cause other than EXTERNAL pulls
SEQ_FAULT_N low (R496, R501). -/
def Dev.latchFault (d : Dev) (causes : BitVec 16) : Dev :=
  let q := d.seq
  { d with seq := { q with
    latch := q.latch ||| causes
    stateAtFault := if q.latch = 0 then q.state else q.stateAtFault
    faultLow := q.faultLow || causes &&& ownCauses != 0
    faultRecordDue := true } }

/-! ### Going down (R490, R493–R495) -/

/-- Whether the enable of rail `k` is high. -/
def Sequencer.enabled (q : Sequencer) (k : Nat) : Bool := has q.en k

/-- Whether rail `k` reads good. -/
def Sequencer.good (q : Sequencer) (k : Nat) : Bool := has q.pg k

/-- Lowers enables in a given order until one rail's fall is awaited; with none left the state is finished. A VPP whose enable fell
ahead of its turn is awaited all the same (R494). -/
def Sequencer.lower (q : Sequencer) : List Nat → Sequencer
  | [] => { q with turn := none, finished := true }
  | k :: rest =>
    if q.enabled k || (k == 6 && q.good 6) then
      let q := { q with en := sansBit q.en k }
      if q.good k then { q with turn := some k } else q.lower rest
    else q.lower rest

/-- The rails that a state of the descent lowers, in order. -/
def downOrder (state : Nat) : List Nat := if state = 13 then [7, 6, 5] else if state = 14 then [4, 3, 2, 1, 0] else []

/-- The rail awaited has ended its fall; the descent goes on with the next. -/
def Sequencer.nextDown (q : Sequencer) : Sequencer := { q with turn := none }.lower (downOrder q.state)

/-- The sequencers of the slices take every step with slice 0's, whose barriers hold for all (R14, R490). -/
def Dev.follow (d : Dev) : Dev := d.onSlices fun s => { s with sequencer := d.seq.state }

/-- The sequencer enters state 12 on its way to a mode, and every domain but AON is reset; from a power fail until
state 1 rail drops are expected (R490, R495). -/
def Dev.descend (d : Dev) (target : Mode) (powerFail : Bool) : Dev :=
  let d := d.losePower
  Dev.follow { d with
    mode := target
    seq := { d.seq with
      state := 12
      target := target
      finished := true
      turn := none
      mayStart := target == .held && powerFail
      wake := if powerFail then false else d.seq.wake
      latchedStart := false
      powerFailing := powerFail } }

/-- The package goes to HALT (R495, R496): the last gasp is written, and the rails go down in reverse order. -/
def Dev.halt (d : Dev) : Dev :=
  if d.mode == .halt || d.mode == .off then d
  else if 12 ≤ d.seq.state then { d with mode := .halt, seq := { d.seq with target := .halt } }
  else ((d.abandonSwap 4).lastGasp 4).descend .halt false

/-- A power fail or RESET_N low (R485, R503): from state 11 the last gasp is written, or the page in progress cut
where no record is; the rails go down, and the package rests in HELD. -/
def Dev.powerDrop (d : Dev) (trigger swapReason : Nat) (record : Bool) (cut : List CutGroup) : Dev :=
  if d.mode == .off || d.mode == .halt then d
  else if d.seq.state = 1 then
    { d with mode := .held, seq := { d.seq with mayStart := true, wake := false, finished := false } }
  else if 12 ≤ d.seq.state then
    { d with mode := .held, seq := { d.seq with target := .held, mayStart := true, powerFailing := true } }
  else if d.seq.state ≤ 10 then d.descend .held true
  else
    let d := d.abandonSwap swapReason
    let d := if record then d.lastGasp trigger else { d with pstore := d.pstore.cutPage cut }
    d.descend .held true

/-! ### Always-on power (R477, R482, R489) -/

/-- ALWAYS_ON_POWER_ON (R482): from OFF the always-on domain leaves reset and the package stands in HELD. -/
def execAlwaysOnPowerOn (s : State) : Host.Outcome State Fault Refusal :=
  run s fun d =>
    if d.mode == .off then
      Dev.follow { d with mode := .held, seq := {}, alarms := {}, mirror := {} }
    else d

/-- The package without power: it is OFF, and nothing volatile is left; a program in progress is cut. -/
def Dev.powerOff (d : Dev) : Dev :=
  let d := ({ d with pstore := d.pstore.cutPage [] }).losePower
  Dev.follow { d with
    mode := .off
    ports := d.ports.map Port.widen
    seq := { ({} : Sequencer) with state := 0, mayStart := false }
    alarms := {}
    mirror := {} }

/-- AON_POWER_OFF (R477, R489): below 2.7 V the package is OFF at once. -/
def execAonPowerOff (s : State) : Host.Outcome State Fault Refusal := run s Dev.powerOff

/-- RESET_N_LOW (R318, R477, R481, R485): a loss of power into HELD, at which narrowed ports are widened; HALT takes no notice of the
rest. -/
def execResetNLow (cut : List CutGroup) (s : State) : Host.Outcome State Fault Refusal :=
  run s fun d => ({ d with
    ports := d.ports.map Port.widen
    seq := { d.seq with resetHigh := false } }).powerDrop 3 2 true cut

/-- Whether a halting cause other than EXTERNAL is latched. -/
def Sequencer.ownFault (q : Sequencer) : Bool := q.latch &&& ownCauses != 0

/-- RESET_N_HIGH (R497): from HALT at rest it begins a latched start, which releases SEQ_FAULT_N and keeps the latch. -/
def execResetNHigh (s : State) : Host.Outcome State Fault Refusal :=
  run s fun d =>
    let was := d.seq.resetHigh
    let d := { d with seq := { d.seq with resetHigh := true } }
    if d.mode == .halt && d.seq.state == 15 && !was then
      Dev.follow { d with
        mode := .held
        seq := { d.seq with state := 1, target := .held, finished := false, mayStart := true, wake := false,
                            latchedStart := d.seq.ownFault, faultLow := false } }
    else d

/-- POWER_FAIL (R503, R504): PFAIL_N low for two samples, or VIN_AON below 3.0 V; the latter alone writes a record only
while the parameter store is idle. -/
def execPowerFail (pfail : Bool) (cut : List CutGroup) (s : State) : Host.Outcome State Fault Refusal :=
  run s fun d =>
    let record := pfail || !d.seq.pfailHigh || d.pstore.writing.isNone
    let d := { d with seq := if pfail then { d.seq with pfailHigh := false } else { d.seq with vinGood := false } }
    d.powerDrop (if pfail then 1 else 2) 3 record cut

/-! ### Starting (R478, R490–R492) -/

/-- START_CONDITION_MET (R478, R497, R500): the pins have been good for their times; the package at rest waits for the
barrier. HALT is left this way when EXTERNAL is its only halting cause. -/
def execStartConditionMet (s : State) : Host.Outcome State Fault Refusal :=
  run s fun d =>
    let q := d.seq
    let rest := (d.mode == .held || d.mode == .dormant) && q.state == 1 && (q.mayStart || q.wake)
    let external := d.mode == .halt && q.state == 15 && !q.ownFault
    if q.resetHigh && !q.faultLow && (rest || external) then
      Dev.follow { d with
        mode := if external then .held else d.mode
        seq := { q with state := 1, finished := true, vinGood := true, pfailHigh := true } }
    else d

/-- The sequencer raises the enable of rail `k`; VPP_DISCHARGE releases before VPP rises (R494). -/
def Sequencer.raise (q : Sequencer) (k : Nat) : Sequencer :=
  { q with en := withBit q.en k, state := k + 2, finished := false,
           vppDischarge := if k = 6 then false else q.vppDischarge }

/-- BARRIER_RELEASE (R490, R500): a finished barrier state is left for the next. -/
def execBarrierRelease (s : State) : Host.Outcome State Fault Refusal :=
  run s fun d => Dev.follow <|
    let q := d.seq
    if !q.finished then d
    else if q.state ≤ 8 then
      -- states 1–8: rail 0 to 7 is enabled next
      { d with
        mode := .held
        seq := { (q.raise (q.state - 1)) with wake := false, mayStart := false } }
    else if q.state = 9 then { d with seq := { q with state := 10, finished := true } }
    else if q.state = 10 then ({ d with seq := { q with state := 11, finished := false } }).openBoot
    else if q.state = 12 then { d with seq := { q with state := 13, finished := false }.nextDown }
    else if q.state = 13 then { d with seq := { q with state := 14, finished := false }.nextDown }
    else if q.state = 14 then
      { d with seq := { q with
        state := if q.target == .halt then 15 else 1
        finished := false
        powerFailing := false } }
    else d

/-- RAIL_GOOD (R492): the enabled rail has been good for t_stable, and its state is finished. -/
def execRailGood (rail : Nat) (s : State) : Host.Outcome State Fault Refusal :=
  run s fun d =>
    if d.seq.state = rail + 2 && d.seq.state ≤ 9 && d.seq.enabled rail then
      { d with seq := { d.seq with pg := withBit d.seq.pg rail, finished := true } }
    else d

/-- RAIL_RAMP_TIMEOUT (R492, R495): a rail not good within t_ramp has failed during power-up. -/
def execRailRampTimeout (rail : Nat) (s : State) : Host.Outcome State Fault Refusal :=
  run s fun d =>
    if d.seq.state = rail + 2 && d.seq.state ≤ 9 && !d.seq.finished then
      (d.latchFault (latchBit rail ||| latchBit 8)).halt
    else d

/-- VARR failing while VPP is enabled: VPP falls and VPP_DISCHARGE asserts at once (R494). -/
def Dev.clampVpp (d : Dev) (rail : Nat) : Dev :=
  if rail = 5 && d.seq.enabled 6 then
    ({ d with seq := { d.seq with en := sansBit d.seq.en 6, vppDischarge := true } }).latchFault (latchBit 11)
  else d

/-- RAIL_FAILURE (R492–R495): a good rail has been low for longer than t_glitch. -/
def execRailFailure (rail : Nat) (s : State) : Host.Outcome State Fault Refusal :=
  run s fun d =>
    if d.seq.enabled rail && d.seq.good rail then
      let state := d.seq.state
      let d := { d with seq := { d.seq with pg := sansBit d.seq.pg rail } }
      if 12 ≤ state then
        let d := d.clampVpp rail
        if d.seq.powerFailing then d else d.latchFault (latchBit rail ||| latchBit 10)
      else
        let d := d.latchFault (latchBit rail ||| latchBit (if state = 11 then 9 else 8))
        (d.clampVpp rail).halt
    else d

/-- RAIL_SHORT_DROP (R492): the drop is counted, and recorded while the recorder runs. -/
def execRailShortDrop (rail : Nat) (s : State) : Host.Outcome State Fault Refusal :=
  run s fun d =>
    if d.seq.enabled rail && d.seq.good rail then
      let d := { d with seq := { d.seq with shortDrops := d.seq.shortDrops + 1 } }.countPkg 23 1
      if d.mode.ticks then d.packageEvent 0x0501 rail else d
    else d

/-- RAIL_OFF (R493, R494): the rail reads low; the descent that waited for it goes on. -/
def execRailOff (rail : Nat) (s : State) : Host.Outcome State Fault Refusal :=
  run s fun d =>
    if d.seq.enabled rail then d
    else
      let q := { d.seq with pg := sansBit d.seq.pg rail }
      { d with seq := if q.turn = some rail then q.nextDown else q }

/-- RAIL_OFF_TIMEOUT (R493, R494): a rail not low within t_off has failed during power-down, which is latched but in a
power fail. VPP_DISCHARGE asserts for VPP, whose fall is awaited 2 ms longer; the descent passes any other rail by. -/
def execRailOffTimeout (rail : Nat) (s : State) : Host.Outcome State Fault Refusal :=
  run s fun d =>
    if d.seq.turn = some rail then
      let d := if d.seq.powerFailing then d else d.latchFault (latchBit rail ||| latchBit 10)
      if rail = 6 then
        if d.seq.vppDischarge then d
        else ({ d with seq := { d.seq with vppDischarge := true } }).latchFault (latchBit 11)
      else { d with seq := d.seq.nextDown }
    else d

/-- VPP_DISCHARGE_TIMEOUT (R494): 2 ms after VPP_DISCHARGE asserted VARR goes down whatever VPP reads. -/
def execVppDischargeTimeout (s : State) : Host.Outcome State Fault Refusal :=
  run s fun d =>
    if d.seq.vppDischarge && d.seq.turn == some 6 then { d with seq := d.seq.nextDown } else d

/-- VPP_CLAMP_RELEASE (R494): VPP has read low for 1 ms, and VPP_DISCHARGE releases. -/
def execVppClampRelease (s : State) : Host.Outcome State Fault Refusal :=
  run s fun d => if d.seq.good 6 then d else { d with seq := { d.seq with vppDischarge := false } }

/-- BARRIER_TIMEOUT (R502): SEQ_SYNC low for 20 ms after a finished barrier state latches BARRIER. -/
def execBarrierTimeout (s : State) : Host.Outcome State Fault Refusal :=
  run s fun d =>
    let st := d.seq.state
    if d.seq.finished && ((2 ≤ st && st ≤ 10) || (12 ≤ st && st ≤ 14)) then (d.latchFault (latchBit 15)).halt else d

/-- EXTERNAL_FAULT (R501): SEQ_FAULT_N low while the rails are up latches EXTERNAL and starts the descent. -/
def execExternalFault (s : State) : Host.Outcome State Fault Refusal :=
  run s fun d =>
    if 2 ≤ d.seq.state && d.seq.state ≤ 11 && d.seq.en != 0 then (d.latchFault (latchBit 14)).halt else d

/-- WATCHDOG_EXPIRY (R484): while the CONTROL domain is on, a warm reset without the drain. -/
def execWatchdogExpiry (s : State) : Host.Outcome State Fault Refusal :=
  run s fun d => if d.mode.ticks then d.warmReset true else d

end Sys2Proof.Machine
end

