-- ==== Sys2Proof/Machine/Thermal.lean ====
section
/-!
DEFINITION. Temperature sensing and throttling: samples, thresholds, the throttle level, equivalent ages, thermal
life and the temperature history (R68–R70, R254, R269, R507–R518, R545).
-/
namespace Sys2Proof.Machine

open Sys2Proof

/-! ### Equivalent time (R68, R69) -/

/-- Whether `n` units are at least `num` millionths of a unit times 2^((T - ref) / 10 °C), with T in quarter
degrees at or above 0 °C. -/
def covers (num : Nat) (q ref : Nat) (n : Nat) : Bool :=
  decide (num ^ 40 * 2 ^ (q - ref) ≤ (n * 1000000) ^ 40 * 2 ^ (ref - q))

/-- The least `n` that covers, built from its highest bit: `m` is the largest number found short so far. -/
def leastCover (num q ref : Nat) : Nat → Nat → Nat
  | 0, m => m + 1
  | b + 1, m =>
    let t := m + 2 ^ b
    if covers num q ref t then leastCover num q ref b m else leastCover num q ref b t

/-- ⌈num × 10⁻⁶ × 2^((T - ref) / 10 °C)⌉, temperatures below 0 °C counting as 0 °C. -/
def scaledTime (num : Nat) (t : Int) (ref : Nat) : Nat := if num = 0 then 0 else leastCover num t.toNat ref 48 0

/-- The growth of an equivalent age over one sample period at a temperature: ⌈16.777216 × AF(T)⌉ ms (R69). -/
def ageStep (t : Int) : Nat := scaledTime 16777216 t 120

/-- The equivalent ms of `n` sample periods at a temperature (R517). -/
def ageOver (n : Nat) (t : Int) : Nat := scaledTime (16777216 * n) t 120

/-- Thermal life of one sample period at a temperature, in µs at 55 °C (R269). -/
def lifeStep (t : Int) : Nat := scaledTime (16777216 * 1000) t 220

/-! ### Sensors (R70, R507, R510) -/

/-- Sensor group of a temperature index: internal, remote, board. -/
def Dev.sensorGroup (d : Dev) (k : Nat) : Nat :=
  if k < 4 * d.sliceCount then 0 else if k < 4 * d.sliceCount + 2 then 1 else 2

/-- Sensor `k`. -/
def Dev.sensor (d : Dev) (k : Nat) : Sensor := sget d.thermal.sensors k {}

/-- e^(n / m) in units of 2^-64: the series at 1/256 of the exponent, squared eight times. -/
def expOf (n m : Nat) : Nat :=
  let y := n * 2 ^ 64 / (256 * m)
  let sum := ((List.range 24).foldl (fun (st : Nat × Nat) k => (st.1 + st.2, st.2 * y / ((k + 1) * 2 ^ 64))) (0, 2 ^ 64)).1
  (List.range 8).foldl (fun v _ => v * v / 2 ^ 64) sum

/-- Whether an NTC whose input stands at `raw` ÷ 2^24 of VIO is at `q` quarter degrees or above (R508): with T = 273.15 + q ÷ 4 kelvin,
R ÷ 10 kΩ ≤ e^(beta × (1/T - 1/298.15)). -/
def ntcAtLeast (beta raw : Nat) (q : Int) : Bool :=
  let kelvin := 29815 * (27315 + 25 * q).toNat
  if q ≤ 100 then decide (raw * 2 ^ 64 ≤ expOf (beta * 2500 * (100 - q).toNat) kelvin * (2 ^ 24 - raw))
  else decide (raw * expOf (beta * 2500 * (q - 100).toNat) kelvin ≤ (2 ^ 24 - raw) * 2 ^ 64)

/-- The temperature of a thermistor input in quarter degrees (R508), from its voltage in units of 1.8 V ÷ 2^24, between −100 °C and
412 °C. DESIGN CHOICE (log entry 153): between two steps it reads as the one that Config.roundsUp says. -/
def thermistorTemp (beta raw : Nat) : Int :=
  let n := (List.range 11).foldl (fun (n : Nat) k =>
    let m : Nat := n + 2 ^ (10 - k)
    if ntcAtLeast beta raw ((m : Int) - 400) then m else n) 0
  if raw = 2 ^ 23 then 100 else (n : Int) - 400 + b2n (Config.roundsUp true raw beta)

/-- The temperature of a remote diode in quarter degrees (R508), from what the two-current method gives for an ideal diode, in mK: it is
divided by n = 1 + ideality × 0.001. DESIGN CHOICE (log entry 153): between two steps it reads as the one that Config.roundsUp says. -/
def diodeTemp (ideality raw : Nat) : Int :=
  let n : Int := 1000 + ideality
  let num : Int := 1000 * raw - 273150 * n
  num / (250 * n) + (if num % (250 * n) = 0 then 0 else b2n (Config.roundsUp false raw ideality))

/-- The inputs enabled, with what each shows: internal sensors by index, then TD_A, TD_B, TH_A, TH_B. -/
def Dev.inputs (d : Dev) (x : ThermalInput) : List (Nat × Option Int) :=
  let n := 4 * d.sliceCount
  let src := d.active.thermSrc
  let ideality := wbits src 4 6
  let beta := wbits src 10 12
  ((List.range n).map fun k => (k, x.internal.getD k none))
    ++ (if wbits src 0 1 == 1 then [(n, x.tdA.map (diodeTemp ideality))] else [])
    ++ (if wbits src 1 1 == 1 then [(n + 1, x.tdB.map (diodeTemp ideality))] else [])
    ++ (if wbits src 2 1 == 1 then [(n + 2, x.thA.map (thermistorTemp beta))] else [])
    ++ (if wbits src 3 1 == 1 then [(n + 3, x.thB.map (thermistorTemp beta))] else [])

/-- One sample of a sensor. -/
def Sensor.sample (s : Sensor) : Option Int → Sensor
  | some t => { s with readings := (t :: s.readings).take 60, badRun := 0, faulty := false }
  | none => { s with badRun := s.badRun + 1, faulty := s.faulty || decide (3 ≤ s.badRun + 1) }

/-- The sample of every input; an input in fault for the first time is recorded (R510). -/
def Dev.takeSample (d : Dev) (ins : List (Nat × Option Int)) : Dev :=
  let d := { d with thermal := { d.thermal with
    sensors := d.thermal.sensors.filter fun e => ins.any (·.1 == e.1) } }
  ins.foldl (fun d (e : Nat × Option Int) =>
    let old := d.sensor e.1
    let new := old.sample e.2
    let d := { d with thermal := { d.thermal with sensors := sset d.thermal.sensors e.1 new } }
    if new.faulty && !old.faulty then d.event 0x0507 0xFF 0 (d.sensorGroup e.1) (leBytes 1 e.1) else d) d

/-- The valid readings: sensor and newest temperature, faulted inputs excluded. -/
def Dev.readings (d : Dev) : List (Nat × Int) :=
  d.thermal.sensors.filterMap fun (e : Nat × Sensor) =>
    if e.2.faulty then none else e.2.readings.head?.map fun t => (e.1, t)

/-- The highest of some readings, with its sensor. -/
def hottest : List (Nat × Int) → Option (Nat × Int)
  | [] => none
  | e :: rest => match hottest rest with
    | none => some e
    | some f => if f.2 ≤ e.2 then some e else some f

/-! ### Configuration (R518) -/

/-- A threshold of THERM_LIMIT[g] in quarter degrees: warn at 0, throttle at 8, critical at 16. -/
def Dev.limit (d : Dev) (g lo : Nat) : Int :=
  4 * (BitVec.ofNat 8 (wbits (d.active.thermLimit.getD g 0) lo 8)).toInt

/-- ror_limit of a group, in quarter degrees over the window. -/
def Dev.rorLimit (d : Dev) (g : Nat) : Nat := wbits (d.active.thermLimit.getD g 0) 24 8

/-- hysteresis in quarter degrees. -/
def Dev.hysteresis (d : Dev) : Int := 4 * (wbits d.active.thermCtrl 5 4 : Nat)

/-- persistence in samples. -/
def Dev.persistence (d : Dev) : Nat := wbits d.active.thermCtrl 9 3

/-- dwell in rounds. -/
def Dev.dwell (d : Dev) : Nat := wbits d.active.thermCtrl 12 10

/-- rung_step in quarter degrees. -/
def Dev.rungStep (d : Dev) : Nat := max 1 (4 * wbits d.active.thermCtrl 22 4)

/-- max_level. -/
def Dev.maxLevel (d : Dev) : Nat := wbits d.active.thermCtrl 2 3

/-- The clock-step ratio of a level (R115, R518). -/
def Dev.skipOf (d : Dev) (level : Nat) : Nat := if level = 0 then 0 else wbits d.active.thermSkip (5 * level - 5) 5

/-! ### Rate of rise, warn and critical (R511, R512) -/

/-- Parameters of a THERMAL event: sensor, reading in °C, level. -/
def thermalParams (k : Nat) (t : Int) (level : Nat) : List Byte :=
  [BitVec.ofNat 8 k, BitVec.ofInt 8 (t / 4), BitVec.ofNat 8 level]

/-- A THERMAL notification (R433). -/
def Dev.notifyThermal (d : Dev) (kind k : Nat) : Dev := d.notify 3 0x0780 [word (kind + k * 4)]

/-- Sensors with a reading in this sample whose rise over 60 samples exceeds the limit of their group (R511). -/
def Dev.rising (d : Dev) : List Nat :=
  d.thermal.sensors.filterMap fun (e : Nat × Sensor) =>
    let lim := d.rorLimit (d.sensorGroup e.1)
    match e.2.readings.head?, e.2.readings[59]? with
    | some a, some b => if e.2.badRun == 0 && lim != 0 && decide ((lim : Int) < a - b) then some e.1 else none
    | _, _ => none

/-- Each excess is counted, recorded and notified (R511). -/
def Dev.riseEvents (d : Dev) (ks : List Nat) : Dev :=
  ks.foldl (fun d k =>
    let g := d.sensorGroup k
    let d := { d with thermal := { d.thermal with rorCounts := upd d.thermal.rorCounts g (· + 1) } }
    let d := if g = 0 then d.count (k / 4) (144 + k % 4) 1 else d
    (d.event 0x0506 0xFF 0 g (leBytes 1 k)).notifyThermal 1 k) d

/-- The warn threshold of a group, with persistence and hysteresis (R512). -/
def Dev.warnGroup (d : Dev) (g : Nat) : Dev :=
  let rs := d.readings.filter fun e => d.sensorGroup e.1 == g
  let w := d.thermal.warns.getD g {}
  let up := rs.any fun e => decide (d.limit g 0 ≤ e.2)
  let down := rs.all fun e => decide (e.2 < d.limit g 0 - d.hysteresis)
  let w : WarnState :=
    { w with upRun := if up then w.upRun + 1 else 0, downRun := if down then w.downRun + 1 else 0 }
  let (k, t) := (hottest rs).getD (0, 0)
  let keep (d : Dev) (w : WarnState) : Dev :=
    { d with thermal := { d.thermal with warns := upd d.thermal.warns g fun _ => w } }
  if !w.asserted && decide (d.persistence ≤ w.upRun) && up then
    ((keep d { w with asserted := true }).event 0x0505 0xFF 1 g (thermalParams k t d.thermal.level)).notifyThermal 1 k
  else if w.asserted && decide (d.persistence ≤ w.downRun) && down then
    (keep d { w with asserted := false }).event 0x0505 0xFF 4 g (thermalParams k t d.thermal.level)
  else keep d w

/-- The runs of samples at or above critical; the sensors with two. -/
def Dev.criticalRuns (d : Dev) : Dev × List (Nat × Int) :=
  let next (e : Nat × Sensor) : Nat × Sensor :=
    let hot := !e.2.faulty && e.2.badRun == 0 && match e.2.readings with
      | t :: _ => decide (d.limit (d.sensorGroup e.1) 16 ≤ t)
      | [] => false
    (e.1, { e.2 with criticalRun := if hot then e.2.criticalRun + 1 else 0 })
  let d := { d with thermal := { d.thermal with sensors := d.thermal.sensors.map next } }
  (d, d.readings.filter fun e => decide (2 ≤ (d.sensor e.1).criticalRun))

/-! ### The throttle level (R513–R516) -/

/-- The excess of a sensor over its group's throttle threshold. -/
def Dev.excess (d : Dev) (e : Nat × Int) : Int := e.2 - d.limit (d.sensorGroup e.1) 8

/-- Whether a level is held by some sensor (R513). -/
def Dev.holdsLevel (d : Dev) (l : Nat) : Bool :=
  d.readings.any fun e => decide (((l - 1) * d.rungStep : Nat) - d.hysteresis ≤ d.excess e)

/-- Whether every internal sensor of some slice is in fault. -/
def Dev.blindSlice (d : Dev) : Bool :=
  (List.range d.sliceCount).any fun i => (rangeFrom (4 * i) 4).all fun k => (d.sensor k).faulty

/-- The target level of a sample (R510, R513). -/
def Dev.targetLevel (d : Dev) (risen : Bool) : Nat :=
  let l := d.thermal.level
  let e := d.readings.foldl (fun (m : Option Int) x => match m with
    | none => some (d.excess x)
    | some v => some (max v (d.excess x))) none
  let direct := match e with
    | some v => if 0 ≤ v then 1 + v.toNat / d.rungStep else 0
    | none => 0
  let target := if direct ≤ l then ((rangeFrom 1 l).reverse.find? d.holdsLevel).getD 0 else direct
  let target := if risen then max target (l + 1) else target
  min d.maxLevel (if d.blindSlice then d.maxLevel else target)

/-- The level becomes `l`, to take effect at a round boundary; it is recorded, and a rise is notified. -/
def Dev.setLevel (d : Dev) (l : Nat) : Dev :=
  let old := d.thermal.level
  let (k, t) := (hottest (d.readings.map fun e => (e.1, d.excess e))).getD (0, 0)
  let t := t + d.limit (d.sensorGroup k) 8
  let d := { d with thermal := { d.thermal with level := l, nextLevel := some l } }
  let d := if d.throttleMethod = 1 then { d with swap := { d.swap with rung := some l, changeDue := true } } else d
  let d := d.event 0x0505 0xFF 2 (d.sensorGroup k) (thermalParams k t l)
  if old < l then d.notifyThermal 2 k else d

/-- The level moves at a sample by persistence and dwell; the first sample after a mode exit sets it directly, and in
BOOT, RECOVERY and TEST it is held at 0 (R514–R516). -/
def Dev.moveLevel (d : Dev) (risen : Bool) : Dev :=
  if !d.mode.isService || d.throttleMethod = 0 then d
  else
    let th := d.thermal
    let target := d.targetLevel risen
    if th.fresh then
      let d := { d with thermal := { th with fresh := false } }
      if target = th.level then d else d.setLevel target
    else
      let up := if th.level < target then th.upRun + 1 else 0
      let down := if target < th.level then th.downRun + 1 else 0
      let d := { d with thermal := { th with upRun := up, downRun := down } }
      let rested := th.nextLevel.isNone && decide (th.effectiveRound + d.dwell ≤ d.lifeClock)
      if rested && d.persistence ≤ up && 0 < up then d.setLevel (th.level + 1)
      else if rested && d.persistence ≤ down && 0 < down then d.setLevel (th.level - 1)
      else d

/-- What a round boundary makes of a level: under clock-step it takes effect, under power-step it has taken effect
with its swap, and without a method it is 0 (R514, R515). -/
def Dev.levelBoundary (d : Dev) : Dev :=
  let done (d : Dev) : Dev :=
    { d with thermal := { d.thermal with nextLevel := none, effectiveRound := d.lifeClock } }
  let d := match d.throttleMethod, d.thermal.nextLevel with
    | 2, some l => done { d with rung := l, mode := modeForRung d.mode l }
    | 1, some l => if d.rung = l then done d else d
    | _, _ => d
  let d := if d.throttleMethod = 0 && (d.rung != 0 || d.thermal.level != 0) then
      { done { d with rung := 0, mode := modeForRung d.mode 0 } with
        thermal := { d.thermal with level := 0, nextLevel := none, effectiveRound := d.lifeClock } }
    else d
  { d with clock := { d.clock with
    skipN := if d.throttleMethod = 2 then d.skipOf d.rung else 0
    skipCount := if d.throttleMethod = 2 && d.rung != 0 then d.clock.skipCount else 0 } }

/-! ### Ages and history (R69, R254, R269, R545) -/

/-- The internal sensor that covers a reach (R70). -/
def coverOf (reach : Nat) : Nat := if reach ≤ 4 then 0 else if reach ≤ 8 then 1 else if reach ≤ 13 then 2 else 3

/-- The highest valid reading among internal sensors of a slice; a faulted one is covered by the others. -/
def Dev.coverTemp (d : Dev) (i : Nat) (ks : List Nat) : Option Int :=
  let valid (l : List Nat) := d.readings.filter fun e => l.any fun k => e.1 == 4 * i + k
  let all := (hottest (valid [0, 1, 2, 3])).map (·.2)
  if ks.any fun k => (d.sensor (4 * i + k)).faulty then all else (hottest (valid ks)).map (·.2)

/-- Whether a slot holds data whose age counts. DESIGN CHOICE: a DONOR slot is left out, of the ageing by temperature and of the unpowered
estimate (R79): its blocks hold parity pages and it is never opened, from which R69 counts; the manual gives it no age. -/
def Slot.holdsData (k : Slot) : Bool := k.state == .opened || k.state == .closed || k.state == .verified

/-- Raises the ages of a slice's superblocks, `step` giving the growth for the sensors that cover it. -/
def Slice.ageSlots (s : Slice) (step : List Nat → Nat) : Slice :=
  { s with slots := s.slots.map fun (e : Nat × Slot) =>
    if e.2.holdsData then (e.1, { e.2 with age := capAge (e.2.age + step (dedup (e.2.laneReach.map coverOf))) }) else e }

/-- The refresh age in ms (R254). -/
def refreshAge : Nat := 15552000000

/-- The data slots at or past the refresh age, the oldest first (R243, R254). -/
def Slice.agedSlots (s : Slice) : List Nat :=
  (sortBy (fun (a b : Nat × Slot) => decide (b.2.age ≤ a.2.age)) (s.slots.filter fun e =>
    (e.2.state == .closed || e.2.state == .verified) && e.2.stream != .system && decide (refreshAge ≤ e.2.age))).map (·.1)

/-- Whether a sentinel set holds a page of every level that it is programmed with (R77). -/
def Sentinel.valid (t : Sentinel) : Bool :=
  (sentinelPages 0).all fun l => t.pages.any fun p => p.any fun p => p.slc == l.slc && p.level == l.level

/-- The life clock that a set's pages store (R77). -/
def Sentinel.clock (t : Sentinel) : Nat := ((t.pages.findSome? id).map (·.clock)).getD 0

/-- Whether set B is the newer valid set of a reach: by the stored life clocks, and of equal ones set A is taken for the newer
(R79; DESIGN CHOICE: the manual does not say which of two equal sets is the newer). -/
def Reach.newerIsB (h : Reach) : Bool := h.sentB.valid && (!h.sentA.valid || decide (h.sentA.clock < h.sentB.clock))

/-- The newer valid sentinel set of a reach (R79). -/
def Reach.newer (h : Reach) : Option Sentinel :=
  let t := if h.newerIsB then h.sentB else h.sentA
  if t.valid then some t else none

/-- Slots that reach the refresh age are queued, the oldest first, and sentinel sets are due a reprogram (R243, R254). -/
def Slice.queueAged (s : Slice) : Slice :=
  let due := s.agedSlots.filter fun k => !s.upkeep.refreshQ.contains k && !s.upkeep.refreshFirst.contains k
  let old (h : Reach) : Bool := h.newer.any fun t => decide (refreshAge ≤ s.clockE - t.atE)
  { s with
    upkeep := { s.upkeep with refreshQ := s.upkeep.refreshQ ++ due }
    reaches := s.reaches.map fun (h : Reach) =>
      if h.state != .retired && h.reprogram.isNone && old h then { h with reprogram := some 1024 } else h }

/-- A slice through `n` ms of its equivalent clock, its slots ageing by `step` (R69, R78, R254). -/
def Slice.ageBy (s : Slice) (step : List Nat → Nat) (n : Nat) : Slice :=
  ({ s.ageSlots step with clockE := capAge (s.clockE + n) }).queueAged

/-- The ages of a slice after a sample; with every internal sensor in fault the growth is left open. The equivalent clock E,
from which the sentinel ages are kept, grows by the hottest of the slice's four sensors (R78, R222; DESIGN CHOICE: the manual
does not say which temperature drives it). -/
def Dev.ageSlice (d : Dev) (i : Nat) : Dev :=
  match d.coverTemp i [0, 1, 2, 3] with
  | some t =>
    d.onSlice i fun s => s.ageBy (fun ks => ageStep ((d.coverTemp i ks).getD t)) (ageStep t)
  | none =>
    let (n, d) := d.draw (2 ^ 32)
    d.onSlice i fun s => s.ageBy (fun _ => n) n

/-- Temperature band of a temperature in quarter degrees (R72). -/
def bandOf (t : Int) : Nat := ([60, 120, 180, 240, 300].filter fun l => decide ((l : Int) ≤ t)).length

/-- The present temperature band of each reach of a slice, by the sensor that covers it (R70, R72). -/
def Dev.bands (d : Dev) (i : Nat) : List Nat :=
  (List.range 18).map fun r => match d.coverTemp i [coverOf r] with
    | some t => bandOf t
    | none => Config.unreadBand i % 6

/-- Thermal life of a sample (R269): whole seconds go to the mirror. -/
def Dev.addLife (d : Dev) : Dev :=
  match d.internalHigh with
  | none => d
  | some t =>
    let us := d.thermal.lifeMicros + lifeStep t
    { d with
      thermal := { d.thermal with lifeMicros := us % 1000000 }
      mirror := { d.mirror with thermalLife := d.mirror.thermalLife + us / 1000000 } }

/-- Bin of a reading (R545). -/
def binOf (t : Int) : Nat := if t < 0 then 0 else min 31 (t.toNat / 20 + 1)

/-- Peaks and bins of a sample. -/
def Dev.history (d : Dev) : Dev :=
  d.readings.foldl (fun d (e : Nat × Int) =>
    let g := d.sensorGroup e.1
    { d with thermal := { d.thermal with
      peaks := upd d.thermal.peaks g fun p => some (match p with
        | some v => max v e.2
        | none => e.2)
      bins := upd d.thermal.bins g fun b => upd b (binOf e.2) fun n => min (2 ^ 32 - 1) (n + 1) } }) d

/-- Whether the temperature has moved since the last retrain of a channel: by 5 °C, or by a step of the refresh rate (R348). -/
def Dram.moved (m : Dram) (now : Option Int) (c : Nat) : Bool :=
  let far := match now, m.tempAt.getD c none with
    | some a, some b => decide (20 ≤ (a - b).natAbs)
    | _, _ => false
  far || match m.mr4, m.mr4At.getD c none with
    | some a, some b => a != b
    | _, _ => false

/-- Every slice reads MR4 (R330), and retrains its channels as a temperature calls for (R348). -/
def Dev.retrainByTemp (d : Dev) (mr4 : List Nat) : Dev :=
  let now := d.reading (sensorTdA d.sliceCount)
  (List.range d.sliceCount).foldl (fun d i => d.onSlice i fun s =>
    let m := { s.dram with mr4 := (mr4[i]?).orElse fun _ => s.dram.mr4 }
    { s with dram := if (List.range 8).any fun c => has m.healthy c && m.moved now c then m.makeDue 0xFF else m }) d

/-- CRITICAL is latched, and the package goes to HALT (R512). -/
def Dev.critical (d : Dev) (hot : List (Nat × Int)) : Dev :=
  match hot with
  | [] => d
  | (k, t) :: _ =>
    let d := d.event 0x0505 0xFF 3 (d.sensorGroup k) (thermalParams k t d.thermal.level)
    ((d.notifyThermal 3 k).latchFault (latchBit 12)).halt

/-- The sample period that the clock stands in: 16,384 tick periods, skipped ones with them (R509). DESIGN CHOICE (log entry 156): periods are
counted from the model's first tick period. -/
def Dev.samplePeriod (d : Dev) : Nat := d.clock.periods / 16384

/-- Whether a sample is due: the tick runs, and this sample period has had none (R509). -/
def Dev.sampleDue (d : Dev) : Bool := d.clock.on && d.thermal.sampled != some d.samplePeriod

/-- THERMAL_SAMPLE (R509): every enabled sensor is read while the tick runs; ages, thresholds and the throttle target
follow. -/
def execThermalSample (input : ThermalInput) (s : State) : Host.Outcome State Fault Refusal :=
  run s fun d =>
    if !d.sampleDue then d
    else
      let d := { d with thermal := { d.thermal with sampled := some d.samplePeriod } }
      let d := d.takeSample (d.inputs input)
      let risen := d.rising
      let d := d.riseEvents risen
      let d := (List.range 3).foldl Dev.warnGroup d
      let (d, hot) := d.criticalRuns
      let d := d.moveLevel (!risen.isEmpty)
      let d := (List.range d.sliceCount).foldl Dev.ageSlice d
      let d := ((d.addLife).history).retrainByTemp input.mr4
      let d := d.onSlices fun s => s.count 148 1
      d.critical hot

/-- DROWSE_THERMAL_SAMPLE (R517): the AON domain samples TD_A and TH_A; two readings in a row at or above critical
take the package to HALT. -/
def execDrowseThermalSample (tdA thA : Option Nat) (s : State) : Host.Outcome State Fault Refusal :=
  run s fun d =>
    if d.mode != .drowse then d
    else
      let n := 4 * d.sliceCount
      let none4 : ThermalInput := ⟨[], tdA, none, thA, none, []⟩
      let ins := (d.inputs none4).filter fun e => e.1 == n || e.1 == n + 2
      let sensors := ins.foldl (fun (m : Sparse Sensor) e => sset m e.1 ((sget m e.1 {}).sample e.2)) d.thermal.sensors
      let d := { d with thermal := { d.thermal with sensors := sensors, drowseSamples := d.thermal.drowseSamples + 1 } }
      let high := (hottest (ins.filterMap fun e => e.2.map fun t => (e.1, t))).map (·.2)
      let d := { d with thermal := { d.thermal with
        drowseHigh := match d.thermal.drowseHigh, high with
          | some a, some b => some (max a b)
          | a, none => a
          | none, b => b } }
      let (d, hot) := d.criticalRuns
      if hot.isEmpty then d else (d.latchFault (latchBit 12)).halt

end Sys2Proof.Machine
end

