-- ==== Sys2Proof/Machine/Tick.lean ====
section
/-!
DEFINITION. What a slice does at a tick boundary: the sentinel reprogram, flags of the applied rows, write phase, folds,
fills, reads, its DRAM and the writes held at ingress (R81, R86, R92, R99–R103, R202, R215, R217, R280, R337, R347).
-/
namespace Sys2Proof.Machine

open Sys2Proof

/-! ### Sentinel reprogram (R67, R77, R81) -/

/-- The block of a reach that a reprogram writes, the older set: 2 sentinel A, 3 sentinel B. -/
def Reach.olderBlock (h : Reach) : Nat := if h.newerIsB then 2 else 3

/-- A sentinel set of a reach, by its block. -/
def Reach.sentinel (h : Reach) (b : Nat) : Sentinel := if b = 2 then h.sentA else h.sentB

/-- Segment 0 of a sentinel block's clear: its set is void, and the block wears like an MLC block, which it is beside its two
SLC pages (R63, R64, R67; DESIGN CHOICE: the manual does not say which mode a block of both modes counts as). -/
def Sentinel.voided (t : Sentinel) : Sentinel := { t with pages := [], wear := t.wear + wearUnits false }

/-- The older sentinel block of a reach is cleared: the pages of a set at the present life clock wait to be programmed in it (R56, R77,
R81); a block that its clear has worn out is retired instead and never programmed again (R67). -/
def Slice.programSentinel (s : Slice) (r clock : Nat) : Slice :=
  let b := (s.reach r).olderBlock
  let block := reachBlock r b
  if 500000 ≤ ((s.reach r).sentinel b).wear then
    (s.onSentinel block fun t => { t with bad := true }).onReach r fun h => { h with reprogram := none }
  else
    let pages := sentinelPages clock
    let writes : List BlockWrite := (List.range pages.length).map fun n =>
      let p := pages.getD n ⟨false, 0, clock, 0⟩
      ⟨block, n, .sentinel p.slc p.level p.clock p.age, false⟩
    ({ s with flow := { s.flow with blockQ := s.flow.blockQ ++ writes } }.onReach r fun h => { h with reprogram := some 0 }).count 151 1

/-- A granted clear segment of a reach that no block clear takes goes to its sentinel reprogram, in a write-phase tick of the
block's bank group (R63, R81, R102). -/
def Slice.sentinelStep (s : Slice) (tick clock r : Nat) : Slice :=
  match s.row r tick, (s.reach r).reprogram with
  | some row, some (n + 1) =>
    let b := (s.reach r).olderBlock
    let block := reachBlock r b
    let (_, group, bank) := s.placeAt block 0 0
    let used := (s.flow.clears.filter fun c => c.running && c.reach == r).length
    if ((s.reach r).sentinel b).bad then s.onReach r fun h => { h with reprogram := none }
    else if row.clearSeg ≤ used || inReadHalf tick group || s.writing r group bank then s
    else
      let s := (if n + 1 = 1024 then s.onSentinel block Sentinel.voided else s).count 63 1
      if n = 0 then s.programSentinel r clock else s.onReach r fun h => { h with reprogram := some n }
  | _, _ => s

/-! ### The tick boundary of a slice (R86) -/

/-- Fills that go to chambers of a reach in a tick: those filled at `now`. -/
def Slice.fillsOn (s : Slice) (reach now : Nat) : Nat :=
  (s.flow.chambers.filter fun c => c.reach == reach && c.filledAt == now).length

/-- Reservations: each stream keeps up to 3 RESERVED slots, and the donor pools keep their size (R202, R249); a slice without
descriptors reserves none (R228, R355). -/
def Slice.keepStreams (s : Slice) : Slice :=
  if s.unmapped then s
  else [Stream.system, .relocation, .durable, .host].foldl (fun (s : Slice) st => ((s.reserve st).reserve st).reserve st) s.adjustPools

/-- Flags of the applied rows (R92, R215): the journal flush, also when 12 MiB are buffered, and the checkpoint
segment. -/
def Slice.applyFlags (s : Slice) (tick : Nat) : Slice :=
  let s := if s.flagged tick 4 || 786432 ≤ s.journal.units then s.flush else s
  if s.flagged tick 6 then s.startCapture else s

/-- The reads of every reach with a row, at the temperature bands of the reaches; the transfer positions left free on each
reach are returned. -/
def Slice.readReaches (s : Slice) (bands : List Nat) (now tick : Nat) (bound : Nat → Option Nat) : Slice × List Nat :=
  (List.range 18).foldl (fun (acc : Slice × List Nat) r =>
    match acc.1.row r tick with
    | some row =>
      let (s, free) := acc.1.readReach bands now tick bound r (acc.1.fillsOn r now) row
      (s, acc.2 ++ [free])
    | none => (acc.1, acc.2 ++ [0])) (s, [])

/-- Registers that take effect at the next tick boundary: REACH_ARB_CFG and the enable of a cache that was OFF
(R107, R289). -/
def Slice.takeAtTick (s : Slice) : Slice :=
  { s with
    reaches := s.reaches.map fun (h : Reach) => { h with burst := h.burstNext.getD h.burst, burstNext := none }
    cache := if s.cache.enableAtTick then { s.cache with state := .on, enableAtTick := false } else s.cache }

/-- A tick under a write hold does not count against durable bounds (R152). -/
def Slice.holdTick (s : Slice) : Slice :=
  if s.holds .host then { s with flow := { s.flow with holdTicks := s.flow.holdTicks + 1 } } else s

/-- Everything the reaches of a slice do at a tick boundary. -/
def Slice.tickBoundary (s : Slice) (bands : List Nat) (dram4 preserve swapDue : Bool) (tick round now clock : Nat)
    (bound : Nat → Option Nat) : Slice :=
  let s := s.holdTick.takeAtTick.applyFlags tick
  let s := ((s.writePhase now tick).moveRoot round).keepStreams
  let s := (s.startFolds dram4 preserve tick round now).formBarges now 8
  let (s, g) := Slice.fills tick now (s, s.fillGrants tick swapDue)
  let (s, free) := s.readReaches bands now tick bound
  let (s, g) := Slice.extraFills tick now free (s, g)
  let s := (s.count 138 1).count 141 (total ((List.range 7).map (grantTotal g)))
  let s := (List.range 18).foldl (fun s r => s.sentinelStep tick clock r) s
  s.releaseHold now

/-- The DRAM of a slice in a tick: the accesses that the tick engine makes, and those that the controller carries, beside the pause of a
tick flagged with dram_retrain (R337, R347, R369, R372). Late accesses are counted (R344). -/
def Dev.dramTick (d : Dev) (env : TickEnv) (i : Nat) : Dev :=
  let tick := d.clock.tick
  let d := d.count i 88 (env.lateDram.filter (·.1 == i)).length
  let d := d.tagTick i tick env
  let flagged := (d.slice i).flagged tick 5
  let paused := if flagged then (d.slice i).dram.pausing else []
  let d := d.onSlice i fun s =>
    { s with dram := s.dram.serve d.keys.seed paused (s.portUnits tick) }.count 92 (s.beyondUnits tick)
  if flagged then d.retrainPause i env else d

/-- What waits on the work of a tick: victims, lines that a set-and-way operation named, writes held at ingress, map steps, the reads of
lost reaches and the write-out. -/
def Dev.afterTick (d : Dev) (i : Nat) : Dev :=
  let d := d.onSlice i fun s => (s.pumpVictims d.fuses.dram4 d.round).retryCleaning d.fuses.dram4 d.round
  let d := ((d.retryWrites i).stepRewrites i).journalHold i
  (d.deadReads i).poisonWriteOut i

/-- The ticks by which late DRAM accesses of slice `i` delay what waits for them (R344), and the bits that flip in its map cache
(R196). -/
def Dev.takeEnv (d : Dev) (env : TickEnv) (i : Nat) : Dev :=
  let delay := largest ((env.lateDram.filter (·.1 == i)).map (·.2))
  let d := d.onSlice i fun s => { s with flow := { s.flow with dramDelay := delay } }
  (env.wayFlips.filter (·.1 == i)).foldl (fun d f => d.onSlice i fun s => s.flipWay f.2.1 f.2.2) d

/-- The read bound that slice `i` keeps for a class, less the present delay of its DRAM: none outside the service group or in slice
recovery (R155). -/
def Dev.boundNow (d : Dev) (i c : Nat) : Option Nat :=
  if d.mode.isService && !(d.slice i).inRecovery then (d.boundOf i c).map fun m => m - (d.slice i).flow.dramDelay else none

/-- A slice that ends its orderly shutdown: the clean root record is programmed under the shutdown table, and once it has passed the
shutdown has ended (R225 step 5). A record that needs a clear, which that table does not grant, is given up (DEDUCED: R226). -/
def Slice.shutdownTick (s : Slice) (now tick : Nat) : Slice :=
  if s.sys.rootWrite.isNone || s.flow.clears.any (fun c => decide (slotCount ≤ c.slot)) then
    { s with shutdown := { done := true }, sys := { s.sys with rootWrite := none }, flow := { s.flow with blockQ := [] } }
  else (Slice.fillBlocks tick now (s.writePhase now tick, s.fillGrants tick false)).1

/-- The tick boundary of slice `i`: its reaches, its DRAM, the writes held at ingress and the completions that follow. -/
def Dev.sliceTick (d : Dev) (env : TickEnv) (swapDue : Bool) (i : Nat) : Dev :=
  if (d.slice i).shutdown.done then d
  else if (d.slice i).shutdown.ending then d.onSlice i fun s => s.shutdownTick d.now d.clock.tick
  else
  let d := d.takeEnv env i
  let old := d.slice i
  let tick := d.clock.tick
  let bands := d.bands i
  let d := d.onSlice i fun s =>
    s.tickBoundary bands d.fuses.dram4 (d.mode == .preserve) swapDue tick d.round d.now d.lifeClock (d.boundNow i)
  let d := match lateClass old (d.slice i) with
    | some c => d.contractExceeded i 3 c
    | none => d
  (d.dramTick env i).afterTick i

/-- The environment of a tick in which every operation succeeds. -/
def quietTick : TickEnv := ⟨[], [], [], [], [], [], [], []⟩

/-! ### The start of the tick (R18, R86, R87, R187, R203, R236) -/

/-- Whenever the tick starts every OPEN data slot is closed, and its stream opens its next reserved slot (R203). -/
def Slice.closeData (s : Slice) : Slice :=
  [Stream.host, .relocation, .durable].foldl (fun (s : Slice) st =>
    let open_ := s.streamSlots st .opened
    let s := open_.foldl Slice.closeSlot s
    if open_.isEmpty then s else s.openNext st) s

/-- The tick starts at tick 0 of a round with the loaded shadow set active, and the firmware copies it back into the shadow
set (R18, R187); UPKEEP_STATUS is computed from the descriptors (R236). -/
def Dev.startTick (d : Dev) : Dev :=
  { d.onSlices fun s => { s with active := s.shadow, source := s.shadowSource } with
    clock := { d.clock.stop with on := true, abs := d.clock.abs + 1 } }

/-- The first tick boundary after the tick has started: entry 0 of every sequence applies (R86, R87). -/
def Dev.firstTick (d : Dev) : Dev :=
  let d := (List.range d.sliceCount).foldl Dev.freshWatermark d
  (List.range d.sliceCount).foldl (fun d i => d.sliceTick quietTick false i) d

end Sys2Proof.Machine
end

