-- ==== Sys2Proof/Machine/Validator.lean ====
section
/-!
DEFINITION. The validator of schedule images: its checks in their order, and the report of the first failure
(R148, R156–R170).
-/
namespace Sys2Proof.Machine

open Sys2Proof

/-- A failure: code, variant, section table index, class, template or sequence, entry or tick (R170). -/
abbrev VFail := Nat × Nat × Nat × Nat × Nat × Nat

/-- The report words of a failure (R170). -/
def VFail.words (f : VFail) : Nat × Nat :=
  let (code, variant, sect, cls, no, entry) := f
  (code + variant * 2 ^ 16 + sect * 2 ^ 24 + cls * 2 ^ 32, no + entry * 2 ^ 8)

/-- An image-level failure in a section. -/
def imageFail (code sect : Nat) : VFail := (code, 0xFF, sect, 0xFFFF, 0, 0)

/-- A failure when a condition does not hold. -/
def need (ok : Bool) (f : VFail) : Option VFail := if ok then none else some f

/-- The first failure over a list of places. -/
def firstFail {α : Type} (l : List α) (f : α → Option VFail) : Option VFail := l.findSome? f

/-! ### Step 1: the header (R157) -/

/-- Checks of the header. -/
def checkHeader (b : List Byte) : Option VFail :=
  need (leAt b 0 4 == 0x53515654) (imageFail 0x0101 0xFF)
  <|> need (byteAt b 4 == 1 && byteAt b 5 == 0 && leAt b 6 2 == 64) (imageFail 0x0102 0xFF)
  <|> need (crc32c (padTo 0x3C b) == leAt b 0x3C 4) (imageFail 0x0103 0xFF)
  <|> need (leAt b 8 4 == b.length && decide (b.length ≤ 0x200000)) (imageFail 0x0104 0xFF)
  <|> need (decide (leAt b 0x26 2 < 2) && zeroBytes b 0x34 8) (imageFail 0x0105 0xFF)

/-! ### Step 2: the section table (R159) -/

/-- Whether an image is signed. -/
def imgSigned (b : List Byte) : Bool := bitAt (leAt b 0x26 2) 0

/-- The byte ranges of the header, the section table and the sections, with their table index. -/
def imgRanges (b : List Byte) : List (Nat × Nat × Nat) :=
  (0xFF, 0, 64) :: (0xFF, leAt b 0x28 4, 16 * imgSections b) ::
    (List.range (imgSections b)).map fun i =>
      let (_, _, off, len, _) := imgSection b i
      (i, off, len)

/-- Whether two byte ranges share a byte. -/
def rangesMeet (a c : Nat × Nat × Nat) : Bool := decide (a.2.1 < c.2.1 + c.2.2) && decide (c.2.1 < a.2.1 + a.2.2)

/-- The first range that is misaligned, out of range, in the way of an earlier one, or a signature out of place. -/
def badPlace (b : List Byte) : List (Nat × Nat × Nat) → List (Nat × Nat × Nat) → Option VFail
  | _, [] => none
  | before, r :: rest =>
    let signature := r.1 != 0xFF && (imgSection b r.1).1 == 5
    if r.2.1 % 8 == 0 && decide (r.2.1 + r.2.2 ≤ b.length) && !before.any (rangesMeet r)
        && (!signature || r.2.1 + 112 == b.length) then
      badPlace b (before ++ [r]) rest
    else some (imageFail 0x0201 r.1)

/-- Whether a section table entry has a type of R159 and the variant its scope wants. -/
def sectionNamed (b : List Byte) (i : Nat) : Bool :=
  let (t, v, _) := imgSection b i
  if t == 1 then v == 0xFF
  else if t == 5 then v == 0xFF && imgSigned b
  else decide (2 ≤ t ∧ t ≤ 4) && decide (v < imgVariants b)

/-- Whether an earlier entry names the same section. -/
def sectionAgain (b : List Byte) (i : Nat) : Bool :=
  (List.range i).any fun j =>
    (imgSection b j).1 == (imgSection b i).1 && (imgSection b j).2.1 == (imgSection b i).2.1

/-- The length of a section by its type and variant. -/
def sectionLength (b : List Byte) (t v : Nat) : Nat :=
  if t = 1 then 16 * imgVariants b
  else if t = 2 then 96 * (imgVariant b v).2.2.1
  else if t = 3 then 1024 * (imgVariant b v).2.2.2
  else if t = 4 then 128 else 112

/-- Checks of the section table. -/
def checkSections (b : List Byte) : Option VFail :=
  let is := List.range (imgSections b)
  firstFail is (fun i => need (byteAt b (imgEntry b i + 3) == 0) (imageFail 0x0105 i))
  <|> badPlace b [] (imgRanges b)
  <|> firstFail is (fun i =>
    let (t, _, off, len, crc) := imgSection b i
    need (if t == 5 then crc == 0 else crc32c (bytesAt b off len) == crc) (imageFail 0x0202 i))
  <|> firstFail is (fun i => need (sectionNamed b i) (imageFail 0x0203 i))
  <|> need (imgSections b == 1 + 3 * imgVariants b + b2n (imgSigned b)) (imageFail 0x0203 0xFF)
  <|> firstFail is (fun i => need (!sectionAgain b i) (imageFail 0x0203 i))
  <|> firstFail is (fun i =>
    let (t, v, _, len, _) := imgSection b i
    need (len == sectionLength b t v) (imageFail 0x0204 i))

/-! ### Step 3: the signature (R163–R165) -/

/-- Checks of the signature by lifecycle state. -/
def Dev.checkSignature (d : Dev) (b : List Byte) : Option VFail :=
  let at_ := b.length - 112
  let key := byteAt b at_
  let sect := (imgFind b 5 0xFF).getD 0xFF
  let mace := d.fuses.lifecycle == .mace
  if imgSigned b then
    let verified := d.fuses.lifecycle != .anise
    need (decide (key ≤ 3) && (!verified || (d.keySlot key).isSome)) (imageFail 0x0303 sect)
    <|> need (!verified || (match d.keySlot key with
      | some (x, y) => sectionVerifies x y b
      | none => false)) (imageFail 0x0302 sect)
    <|> need (!mace || decide (d.rollback 2 ≤ imgSecurity b)) (imageFail 0x0304 0xFF)
  else need (!mace) (imageFail 0x0301 0xFF)

/-! ### Step 4: geometry and the variant table (R157, R160, R169) -/

/-- Checks of geometry and the variant table. A failure of one variant's entry names that variant. DEDUCED (log entry 21). -/
def Dev.checkGeometry (d : Dev) (b : List Byte) : Option VFail :=
  let vs := List.range (imgVariants b)
  let sect := (imgFind b 1 0xFF).getD 0xFF
  let base := imgOffset b 1 0xFF
  let ways := byteAt b 0x0E
  let same (v w : Nat) := (imgVariant b v).1 == (imgVariant b w).1 && (imgVariant b v).2.1 == (imgVariant b w).2.1
  let entryFail (code v : Nat) : VFail := (code, v, sect, 0xFFFF, 0, 0)
  firstFail vs (fun v => need (zeroBytes b (base + 16 * v + 5) 3 && zeroBytes b (base + 16 * v + 12) 4) (entryFail 0x0105 v))
  <|> need (byteAt b 0x0C == d.sliceCount && byteAt b 0x0D == (if d.fuses.dram4 then 4 else 2)) (imageFail 0x0401 0xFF)
  <|> need ((ways == 1 || ways == 2 || ways == 4 || ways == 8) && decide (ways ≤ d.sliceCount)) (imageFail 0x0402 0xFF)
  <|> need (decide (1 ≤ imgVariants b ∧ imgVariants b ≤ 24)) (imageFail 0x0403 0xFF)
  <|> firstFail vs (fun v =>
    let (rung, k, nt, ns) := imgVariant b v
    need (decide (rung ≤ 7 ∧ k ≤ 2 ∧ 1 ≤ nt ∧ nt ≤ 256 ∧ 18 - k ≤ ns ∧ ns ≤ 18)) (entryFail 0x0403 v))
  <|> firstFail vs (fun v => need ((List.range v).all fun w => !same v w) (entryFail 0x0404 v))
  <|> need (vs.any fun v => (imgVariant b v).1 == 0 && (imgVariant b v).2.1 == 0) (imageFail 0x0405 sect)

/-! ### Step 5: rows and ticks (R94, R96, R341) -/

/-- Whether every reserved bit of a row is 0. -/
def Row.reservedZero (r : Row) : Bool :=
  r.field 0 7 9 == 0 && r.field 2 36 12 == 0 && r.field 3 36 12 == 0 && r.field 4 30 18 == 0
    && r.field 5 24 24 == 0 && r.field 7 8 40 == 0 && (rangeFrom 8 8).all fun w => r.getD w 0 == 0

/-- The rows that the sequences of a table apply, by sequence and tick. -/
def appliedRows (ts : List Row) (qs : List (List Nat)) : List (List Row) :=
  qs.map fun q => q.map fun t => ts.getD t []

/-- The rows applied in a tick, by sequence. -/
def tickRows (rows : List (List Row)) (k : Nat) : List Row := rows.map fun q => q.getD k []

/-- The first place at which the running sum of a list exceeds a limit. -/
def exceedsAt (limit : Nat) : Nat → Nat → List Nat → Option Nat
  | _, _, [] => none
  | i, acc, x :: rest => if limit < acc + x then some i else exceedsAt limit (i + 1) (acc + x) rest

/-- Row and tick checks of a variant. -/
def checkRows (b : List Byte) (v : Nat) : Option VFail :=
  let ts := imgTemplates b v
  let qs := imgSequences b v
  let tSect := (imgFind b 2 v).getD 0xFF
  let qSect := (imgFind b 3 v).getD 0xFF
  let rung := (imgVariant b v).1
  let tIdx := List.range ts.length
  let qIdx := List.range qs.length
  let ticks := List.range 1024
  let row (t : Nat) := ts.getD t []
  let rowCheck (code : Nat) (ok : Row → Bool) : Option VFail :=
    firstFail tIdx fun t => need (ok (row t)) (code, v, tSect, 0xFFFF, t, 0)
  let seqCheck (code : Nat) (ok : Nat → Nat → Bool) : Option VFail :=
    firstFail qIdx fun j => firstFail ticks fun k => need (ok j k) (code, v, qSect, 0xFFFF, j, k)
  let entry (j k : Nat) := (qs.getD j []).getD k 0
  rowCheck 0x0501 (fun r => r.field 0 0 4 == 3 || r.field 0 0 4 == 12)
  <|> seqCheck 0x0502 (fun j k =>
    decide (ts.length ≤ entry j k) || (row (entry j k)).field 0 0 4 == (if k % 2 == 0 then 3 else 12))
  <|> seqCheck 0x0503 (fun j k => decide (entry j k < ts.length))
  <|> rowCheck 0x0504 (fun r => decide (r.transfers ≤ 64))
  <|> rowCheck 0x0505 (fun r => decide (r.fillsSum ≤ 32))
  <|> rowCheck 0x0506 (fun r => decide (r.power ≤ 29))
  <|> rowCheck 0x0507 (fun r => decide (r.power ≤ 32))
  <|> seqCheck 0x0508 (fun j k =>
    fillKinds.all fun f => decide ((row (entry j k)).fill f ≤ (row (entry j ((k + 1) % 1024))).prog f))
  <|> firstFail ticks (fun k =>
    (exceedsAt (rungPower rung) 0 0 (qIdx.map fun j => (row (entry j k)).power)).map fun j =>
      (0x0509, v, qSect, 0xFFFF, j, k))
  <|> firstFail ticks (fun k =>
    let rs := qIdx.map fun j => row (entry j k)
    let limit := if rs.any (·.flag 5) then 327 else 384
    match exceedsAt limit 0 0 (rs.map Row.dram) with
    | some j => some (0x050A, v, qSect, 0xFFFF, j, k)
    | none =>
      need (decide (mapLines rs ≤ 4 * total (rs.map fun r => r.field 6 0 8))) (0x050A, v, qSect, 0xFFFF, 0xFF, k))
  <|> rowCheck 0x050B Row.reservedZero

/-! ### Step 5: the summary (R135–R148, R162, R167) -/

/-- read_rate, write_rate, fold, sigma and bound of a class. -/
def imgReadRate (b : List Byte) (v c : Nat) : Nat := imgClass b v c 0 4
def imgWriteRate (b : List Byte) (v c : Nat) : Nat := imgClass b v c 4 4
def imgFold (b : List Byte) (v c : Nat) : Nat := imgClass b v c 8 1
def imgSigma (b : List Byte) (v c : Nat) : Nat := imgClass b v c 0x0A 2
def imgBound (b : List Byte) (v c : Nat) : Nat := imgClass b v c 0x0C 2

/-- Σ write_rate × fold over the classes that meet `p`. -/
def writeSum (b : List Byte) (v : Nat) (p : Nat → Bool) : Nat :=
  total (((List.range 7).filter p).map fun c => imgWriteRate b v c * imgFold b v c)

/-- Reserved bits and ranges of a summary (R162). DESIGN CHOICE: a reserved field of a class record is reported with class 0xFFFF, as the
other reserved fields of the summary are, and a range of a class record with its class number; R170 gives the class for class checks and
does not say which of the two are such. -/
def checkSummary (b : List Byte) (v : Nat) : Option VFail :=
  let sect := (imgFind b 4 v).getD 0xFF
  let o := imgOffset b 4 v
  let f (off : Nat) := byteAt b (o + off)
  let general (code : Nat) : VFail := (code, v, sect, 0xFFFF, 0, 0)
  let classes := List.range 7
  need (f 7 == 0 && zeroBytes b (o + 0x0C) 4 && decide (f 5 < 64) && decide (f 6 < 64)
    && classes.all fun c => zeroBytes b (o + 0x10 + 16 * c + 9) 1 && zeroBytes b (o + 0x10 + 16 * c + 0x0E) 2)
    (general 0x0105)
  <|> need (decide (1 ≤ f 2 ∧ f 2 ≤ 7) && (f 3 == 0 || decide (2 ≤ f 3 ∧ f 3 ≤ 16)) && decide (f 4 ≤ 125)
    && (List.range 6).all fun c => !imgDurable b v c || imgCovered b v c) (general 0x0601)
  <|> firstFail classes (fun c =>
    let fold := imgFold b v c
    let foldOk := if imgWriteRate b v c == 0 then fold == 0 else decide (1 ≤ fold ∧ fold ≤ 64)
    let ok := if imgCovered b v c then
        decide (imgSigma b v c ≤ 511) && decide (2 ≤ imgBound b v c ∧ imgBound b v c ≤ 1023)
      else imgSigma b v c == 0 && imgBound b v c == 0
    need (foldOk && ok) (0x0601, v, sect, c, 0, 0))

/-- The drift refresh minimum r_min (R146). -/
def refreshMinimum (tMax nMin : Nat) : Nat :=
  let n0 := if nMin = 0 then 1 else nMin
  let n1 := if nMin = 0 then 1 else nMin - 1
  ((rangeFrom 1 64).find? fun n =>
    decide (150994944 ^ 10 * 2 ^ (tMax - 30) * n0 ^ 10 ≤ n ^ 10 * 14831542968 ^ 10 * n1 ^ 10 * 2 ^ (30 - tMax))).getD 64

/-- The sum of the `n` smallest numbers of a list. -/
def sumSmallest (n : Nat) (l : List Nat) : Nat := total ((sortBy (fun a b => decide (a ≤ b)) l).take n)

/-- The sum of a grant over the entries of each sequence. -/
def perSequence (rows : List (List Row)) (f : Row → Nat) : List Nat := rows.map fun q => total (q.map f)

/-- The rows of a sequence in whose ticks a half is the read half: groups 2 and 3 in even ticks. -/
def halfRows (half : Nat) (q : List Row) : List Row :=
  ((List.range q.length).filter fun k => k % 2 == (if half = 1 then 0 else 1)).map fun k => q.getD k []

/-- The forwarded flows of a variant as (source, target, MB/s) (R148 item 8). -/
def flows (b : List Byte) (v n : Nat) : List (Nat × Nat × Nat) :=
  let ways := byteAt b 0x0E
  let read := total ((List.range 6).map (imgReadRate b v))
  let written := total ((List.range 6).map (imgWriteRate b v))
  (List.range n).flatMap fun s =>
    [(s, s % ways, read), (s % ways, s, written), (s, 0, imgReadRate b v 6), (0, s, imgWriteRate b v 6)]

/-- The load of a link in MB/s. -/
def linkLoad (fs : List (Nat × Nat × Nat)) (n : Nat) (link : Nat × Bool) : Nat :=
  total ((fs.filter fun f => (route n f.1 f.2.1).contains link).map fun f => f.2.2)

/-- Summary checks of a variant (R148). -/
def checkContract (b : List Byte) (v : Nat) : Option VFail :=
  let sect := (imgFind b 4 v).getD 0xFF
  let general (code : Nat) : VFail := (code, v, sect, 0xFFFF, 0, 0)
  let byClass (code c : Nat) : VFail := (code, v, sect, c, 0, 0)
  let (rung, k, _, h) := imgVariant b v
  let rows := appliedRows (imgTemplates b v) (imgSequences b v)
  let covered := (List.range 6).filter (imgCovered b v)
  let durable := (List.range 6).filter (imgDurable b v)
  let healthy := 18 - k
  let lane (f : Row → Nat) := sumSmallest 16 (perSequence rows f)
  let each (f : Row → Nat) := sumSmallest healthy (perSequence rows f)
  let raw := 648 - 36 * k
  let wa := imgSummary b v 8 2
  let w := imgSummary b v 0x0A 2
  let nMin := imgSummary b v 3 1
  let rMin := refreshMinimum (imgSummary b v 4 1) nMin
  let sum := writeSum b v fun _ => true
  let dSum := writeSum b v (imgDurable b v)
  let least (f : Row → Nat) := (rows.flatMap fun q => q.map f).foldl min 64
  let a (c : Nat) := least (·.alloc c)
  let half (c i : Nat) := sumSmallest 16 (rows.map fun q => total ((halfRows i q).map (·.alloc c)))
  let flagTicks (bit : Nat) := (List.range 1024).filter fun t => (tickRows rows t).any (·.flag bit)
  let flushes := flagTicks 4
  let everyOther := (List.range 1024).all (fun t => t % 2 == 1 || flushes.contains t)
    || (List.range 1024).all fun t => t % 2 == 0 || flushes.contains t
  let calib := if nMin = 0 then 4 else ceilDiv (4 * nMin) (nMin - 1)
  need (imgSummary b v 0 1 == rung && imgSummary b v 1 1 == k) (general 0x0602)
  <|> need (decide (1000 * raw ≤ wa * (raw - 512))) (general 0x0603)
  <|> need (w == ceilDiv sum 250) (general 0x0604)
  <|> need (underCeiling w wa dSum h rMin rung) (general 0x0605)
  <|> firstFail covered (fun c =>
    need (decide (1 ≤ a c) && decide (2 * imgReadRate b v c ≤ 8000 * a c)) (byClass 0x0606 c))
  <|> firstFail covered (fun c =>
    let back : Int := (imgSigma b v c + imgReadRate b v c / 4000 : Nat) - 1
    need (decide (2 * Int.fdiv back (a c) + 2 ≤ (imgBound b v c : Int))) (byClass 0x0607 c))
  <|> firstFail covered (fun c =>
    need (decide (2048 * imgReadRate b v c ≤ 1000 * min (half c 0) (half c 1))) (byClass 0x0608 c))
  <|> need (meetsCapacity w wa dSum (rMin * h) flushes.length lane each) (general 0x0609)
  <|> need (!flushes.isEmpty && (durable.isEmpty || everyOther) && !(flagTicks 6).isEmpty && !(flagTicks 5).isEmpty
      && rows.all fun q =>
        let s (f : Row → Nat) := total (q.map f)
        decide (1 ≤ s (·.tow .scrub)) && decide (calib ≤ total ((halfRows 0 q).map (·.tow .calib)))
          && decide (calib ≤ total ((halfRows 1 q).map (·.tow .calib))) && decide (rMin ≤ s (·.tow .refresh))
          && decide (rMin ≤ s (·.fill .refresh)) && decide (rMin ≤ s (·.prog .refresh))
          && decide (1 ≤ s (·.tow .retry))) (general 0x060A)
  <|> firstFail durable (fun c =>
    need (decide (imgBound b v c ≤ 2) && decide (1 ≤ least (·.fill .durable)) && decide (1 ≤ least (·.prog .durable))
      && decide (1 ≤ least (·.fill .system)) && decide (1 ≤ least (·.prog .system)) && everyOther
      && decide (dSum ≤ 2000 * least (·.fill .durable))) (byClass 0x060B c))
  <|> need ((List.range (byteAt b 0x0C)).all fun s => [true, false].all fun up =>
      decide (5 * linkLoad (flows b v (byteAt b 0x0C)) (byteAt b 0x0C) (s, up) ≤ 4 * 256000)) (general 0x060C)

/-- Every check of a variant, in order. -/
def checkVariant (b : List Byte) (v : Nat) : Option VFail := checkSummary b v <|> checkRows b v <|> checkContract b v

/-- The validator: the first failure of an image on this part, or none (R166). -/
def Dev.validate (d : Dev) (b : List Byte) : Option VFail :=
  checkHeader b <|> checkSections b <|> d.checkSignature b <|> d.checkGeometry b
    <|> firstFail (List.range (imgVariants b)) (checkVariant b)

end Sys2Proof.Machine
end

