-- ==== Sys2Proof/Machine/Start.lean ====
section
/-!
DEFINITION. Starting the tick, the end of BOOT, DROWSE and its resume, orderly shutdown, and the mode changes that
wait for a boundary (R79–R81, R186–R188, R225, R226, R346, R354, R454–R457, R477–R481, R517).
-/
namespace Sys2Proof.Machine

open Sys2Proof

/-! ### The boot image (R326, R355) -/

/-- The boot image enters the boot buffer when one is valid; in CLOVE none is served (R326, R355). -/
def Dev.loadBootImage (d : Dev) : Dev :=
  let valid := (d.takenCopy 2).isSome
  { d with boot := { image := if valid then (d.firmware.getD 2 {}).payload else [], imageValid := valid, missing := !valid } }

/-! ### The reformat (R354) -/

/-- The key generation that the lifecycle state uses. -/
def Dev.keyGeneration (d : Dev) : Nat := if d.fuses.lifecycle == .anise then 0 else 1

/-- Whether the medium is to be reformatted: the format record does not name the key generation in use. -/
def Dev.formatDue (d : Dev) : Bool :=
  d.fuses.lifecycle != .anise && d.fuses.lifecycle != .clove
    && (match d.pstore.record16 0 with
      | some b => byteAt b 0 != d.keyGeneration
      | none => true)

/-- Takes the lowest FREE slot that can be formed for the format, as the slot of the next epoch; those that cannot become UNFORMED
(R199). -/
def Slice.takeFormatSlot (acc : Slice × List Nat) : Slice × List Nat :=
  match acc.1.freeFormable acc.1.nextEpoch with
  | none => (acc.1.unformBelow slotCount, acc.2)
  | some (k, lanes, banks) =>
    let s := acc.1.unformBelow k
    let d : Slot :=
      { state := .reserved, stream := .system, slc := true, epoch := s.nextEpoch, laneReach := lanes, laneBank := banks }
    ({ s.onSlot k fun _ => d with nextEpoch := s.nextEpoch + 1 }, acc.2 ++ [k])

/-- A slice emptied for the reformat: every entry trimmed, every slot with data clearing, no page of the old system stream. -/
def Slice.emptied (s : Slice) (round : Nat) : Slice :=
  let full := (s.slots.filter fun e => e.2.bound && e.2.state != .clearing && e.2.state != .donor).map (·.1)
  let upkeep : Upkeep := { s.upkeep with
    verifyQ := [], verifyCur := [], marked := [], refreshQ := [], refreshFirst := [], refreshReported := [], refreshFrames := [] }
  let s := { s with
    unmapped := false
    map := []
    poison := []
    mapCache := []
    mapPlru := []
    checkpoint := {}
    sys := { s.sys with format := none, pages := [], chain := [], staging := [] }
    upkeep := upkeep }
  full.foldl (fun s k => s.startClearing k round) s

/-- The `j`-th slot of a format: written and verified, the one opened after the last, or the reserved successor. -/
def formatSlot (j : Nat) (k : Slot) : Slot :=
  if j < formatSlots then { k.atPage (min systemPositions (formatPages - 131071 * j + 1)) with state := .verified }
  else if j = formatSlots then { k.atPage 1 with state := .opened }
  else k

/-- A slice through the reformat (R354): its map emptied, and a copy of each segment, the CHECKPOINT entries and a pass of
re-assertion records written to fresh system slots, like the factory's (R190). -/
def Slice.format (s : Slice) (round : Nat) : Slice :=
  let s := (s.emptied round).adjustPools
  let (s, ks) := (List.range (formatSlots + 2)).foldl (fun acc _ => Slice.takeFormatSlot acc) (s, [])
  let s := (List.range ks.length).foldl (fun (s : Slice) j => s.onSlot (ks.getD j 0) (formatSlot j)) s
  let chain := ks.take (formatSlots + 1)
  let last := ks.getD formatSlots 0
  let s := (List.range 4).foldl (fun s i => s.borrow last i) s
  let f : Format :=
    { base := s.sys.nextSeq, chainBase := s.sys.chainNumber, order := ks, live := chain.zip (List.range chain.length),
      slots := s.slots, lent := s.flow.lent.filter (·.slot == last), frameSeq := s.frameSeq, clockE := s.clockE }
  { s with
    journal := { s.journal with buffer := [], durable := s.journal.next, rotation := 0, held := false }
    sys := { s.sys with
      format := some f
      chain := chain
      chainNumber := s.sys.chainNumber + chain.length
      nextSeq := s.sys.nextSeq + systemPositions * formatSlots + 1 } }

/-- The reformat of every slice; the format record is written when it has ended. -/
def Dev.format (d : Dev) (interrupted : Bool) : Dev :=
  let d := d.onSlices fun s => s.format d.round
  if interrupted then d else d.store 0 (clockRecord d.keyGeneration 0 d.lifeClock)

/-! ### Unpowered time (R77–R80) -/

/-- Rated unpowered retention at 30 °C in ms: MLC one year of 365 days, SLC ten of them (R66, R68; DESIGN CHOICE: the manual gives
one year as 365 days and does not say how many days ten years are). -/
def ratedMlc : Nat := 365 * 86400000
def ratedSlc : Nat := 3650 * 86400000

/-- The equivalent clock saved last: that of the newest trailer on the medium, or of the format (R79, R222). -/
def Slice.savedE (s : Slice) : Nat :=
  let trailers := s.sys.pages.filterMap fun p => match p.body with
    | .trailer _ _ clock _ _ => if p.passed then some clock else none
    | _ => none
  max (largest trailers) ((s.sys.format.map (·.clockE)).getD 0)

/-- u_est of a slice in ms, from the equivalent ages measured in hours, and whether no set decoded (R79). -/
def Slice.unpowered (s : Slice) (measured : List (Option Nat)) : Nat × Bool :=
  let us := (List.range 18).filterMap fun r =>
    match measured.getD r none, (s.reach r).newer with
    | some h, some set => some (h * 3600000 - (s.savedE - set.atE))
    | _, _ => none
  if us.isEmpty then (ratedMlc, true) else (ceilDiv (5 * largest us) 4, false)

/-- A slice estimates its unpowered time in every BOOT: every age grows, aged slots are queued ahead of other refresh work, and
the estimate is recorded in hours, rounded up (R79, R80; DESIGN CHOICE: R79 does not say how u_est is rounded to hours). -/
def Dev.estimate (d : Dev) (i : Nat) (measured : List (Option Nat)) : Dev :=
  let (u, blind) := (d.slice i).unpowered measured
  let hours := p6 (ceilDiv u 3600000)
  let d := d.onSlice i fun s =>
    let s := { s with slots := s.slots.map fun (e : Nat × Slot) =>
      if e.2.holdsData then (e.1, { e.2 with age := capAge (e.2.age + u) }) else e }
    { s with upkeep := { s.upkeep with refreshFirst := s.agedSlots } }
  let d := d.event 0x0103 i (b2n blind) 0xFF hours
  let d := if ratedMlc < u then d.event 0x0104 i 1 0xFF hours else d
  if ratedSlc < u then d.event 0x0104 i 2 0xFF hours else d

/-! ### The installed image at a start (R188) -/

/-- An image that declares another DRAM size than the slices have is recorded for each slice (R331). -/
def Dev.tellSize (d : Dev) (image : List Byte) : Dev :=
  if byteAt image 0x0D == (if d.fuses.dram4 then 4 else 2) then d
  else (List.range d.sliceCount).foldl (fun d i => d.event 0x0206 i 2 0xFF []) d

/-- The installed image is read and validated again; it comes into force, or its failure is recorded. -/
def Dev.startImage (d : Dev) : Dev :=
  if d.fuses.lifecycle == .clove || d.images.copies.all (·.isNone) then d
  else match newestCopy d.images.copies with
    | none =>
      { d with images := { d.images with failedAtStart := true } }.event 0x0204 0xFF 2 0xFF (p6 0 ++ [0, 0] ++ p6 0)
    | some c =>
      let d := d.tellSize c.bytes
      match d.validate c.bytes with
      | some f =>
        let (w1, w2) := f.words
        { d with images := { d.images with failedAtStart := true, report := (w1, w2) } }.event 0x0204 0xFF 1 0xFF
          (p6 w1 ++ [0, 0] ++ p6 w2)
      | none =>
        let d := if d.fuses.lifecycle == .mace then d.advanceRollback 2 (imgSecurity c.bytes) else d
        let d := { d with images := { d.images with failedAtStart := false } }
        (d.loadImage c.bytes false).acceptSwap .tables

/-! ### TICK_START (R187) -/

/-- What a rebuild found is recorded (R228, R229): frames with a DUPLICATE outcome, and the 32,768 frames of each segment without
a copy, whose sectors are all poisoned. -/
def Dev.tellRebuilt (d : Dev) (i : Nat) (r : Rebuilt) : Dev :=
  let d := r.dups.foldl (fun d lfn => (d.count i 79 1).event 0x010E i 0 0xFF (leBytes 4 lfn)) d
  r.lost.foldl (fun d g => (d.count i 69 32768).event 0x0102 i 4 0xFF (leBytes 4 (32768 * g) ++ leBytes 4 0 ++ leBytes 8 (2 ^ 64 - 1))) d

/-- A slice rebuilds its map (R228); the outcomes are recorded, and without a root record it stands in slice recovery. -/
def Dev.rebuildSlice (d : Dev) (i : Nat) : Dev :=
  let r := (d.slice i).rebuild d.round
  let d := (d.onSlice i fun _ => r.slice).tellRebuilt i r
  if r.found then d else d.sliceRecovery i 3

/-- Whether a slice comes from a loss of its map, and not from a warm reset. -/
def Slice.cold (s : Slice) : Bool := s.source == .none

/-- The map of every slice at a tick start: rebuilt at a start (R228), kept at a warm reset (R483), and never loaded in CLOVE
(R355). -/
def Dev.restoreMaps (d : Dev) (cold : Bool) : Dev :=
  if d.fuses.lifecycle == .clove then d.onSlices fun s => { s with unmapped := true }
  else if cold then (List.range d.sliceCount).foldl Dev.rebuildSlice d
  else d

/-- The root record that follows each tick start, before the first data-stream program (R224, R231). -/
def Dev.startRoots (d : Dev) : Dev :=
  d.onSlices fun s =>
    if s.unmapped || s.sys.root.isNone then s
    else
      let s := s.writeRoot false [] d.round
      { s with sys := { s.sys with rootHold := true } }

/-- System copies of which one is intact: the firmware writes the other from it, so that the next activation finds the present image on
slice 1 (R178, R457; DEDUCED: R178 has that copy hold the old image while slice 0's is being written, also after an activation that was
cut). -/
def repaired (copies : List (Option ImgCopy)) : List (Option ImgCopy) :=
  match newestCopy copies with
  | some c => [some c, some c]
  | none => copies

/-- The system copies of the images and the firmware after a start. -/
def Dev.repairCopies (d : Dev) : Dev :=
  { d with
    images := { d.images with copies := repaired d.images.copies }
    firmware := d.firmware.map fun (f : FwTarget) => { f with copies := repaired f.copies } }

/-- TICK_START (R187, R188, R228, R79, R354): training has ended on every slice, and the firmware runs (R29). A start
loads the built-in variant and rebuilds every slice; a warm reset loads the variants in force again (R483). The OPEN data slots close
(R203), every slice estimates its unpowered time, and entry 0 of its sequences applies (R86). -/
def execTickStart (sentinels : List (List (Option Nat))) (formatInterrupted : Bool) (s : State) :
    Host.Outcome State Fault Refusal :=
  run s fun d =>
    if d.mode != .boot || d.clock.on || d.notStarted.isSome || !d.slices.all (fun x => x.dram.trained && x.dram.filled) then d
    else
      let cold := d.slices.any (·.cold)
      let d := (d.loadTarget 2).loadBootImage
      let d := (d.loadShadows 0 (!cold)).startTick
      let d := (d.restoreMaps cold).onSlices Slice.closeData
      let d := (List.range d.sliceCount).foldl (fun d i => d.estimate i (sentinels.getD i [])) d
      let d := if d.formatDue then d.format formatInterrupted else d
      let d := d.startRoots
      let d := if cold then d.startImage.repairCopies else d
      d.firstTick

/-! ### The rung and the service group (R186, R348, R479, R516) -/

/-- The package enters SERVICE, or PRESERVE while its entry is recorded (R265, R479); the sentinel reprogram and the
retraining of an entry fall due (R81, R348). DESIGN CHOICE: R81 does not say whether a DROWSE resume, at which no set has been read,
calls for a reprogram; it does here like every entry, and a reprogram under way goes on. -/
def Dev.enterService (d : Dev) : Dev :=
  let d := d.dropRung.onSlices fun s =>
    { s with
      dram := { s.dram with dueAtRound := true }
      reaches := s.reaches.map fun (h : Reach) => if h.state == .retired then h else { h with reprogram := h.reprogram.orElse fun _ => some 1024 } }
  if d.preserveRecorded then d.takePreserve else { d with mode := .service }

/-- Whether the package may not leave the boot/recovery group (R355, R479, R497). -/
def Dev.staysInRecovery (d : Dev) : Bool := d.fuses.lifecycle == .clove || d.slices.all (·.inRecovery)

/-- BOOT_COMPLETE (R479): rebuild, estimate and validation are done, and the variants in force have been swapped in. -/
def execBootComplete (s : State) : Host.Outcome State Fault Refusal :=
  run s fun d =>
    if d.mode != .boot || !d.clock.on || d.swap.pending.isSome then d
    else
      let d := d.saveMirrors false
      if d.staysInRecovery || d.seq.latchedStart then { d.dropRung with mode := .recovery } else d.enterService

/-! ### DROWSE (R346, R477, R486, R505, R517) -/

/-- A slice whose line cache has been cleaned into the basin for DROWSE. -/
def Slice.cleaned (dram4 : Bool) (round : Nat) (s : Slice) : Slice := s.drain dram4 round fun _ => true

/-- Whether nothing dirty is left outside the basin of a slice, so that its domains may power down (R36). -/
def Slice.mayDrowse (s : Slice) : Bool :=
  s.cache.lines.all (fun l => l.dirty == 0) && s.cache.victims.isEmpty && s.flow.rewrites.all fun r => !r.fold || r.done

/-- A slice through DROWSE: its basin stays in DRAM under self-refresh, the training results in the AON domain (R346). -/
def Slice.drowse (s : Slice) : Slice :=
  let s := s.suspend
  { s with dram := { s.dram.refreshAll with
    selfRefresh := true
    waitingWrites := []
    aonSettings := some s.dram.settings
    settings := List.replicate 8 0 } }

/-- A slice's DRAM leaves self-refresh with the training results kept (R346). -/
def Dram.resume (m : Dram) : Dram :=
  { m.refreshAll with
    selfRefresh := false
    guardBand := 0xFF
    dueAtRound := true
    settings := m.aonSettings.getD m.settings
    aonSettings := none }

/-- The package leaves DROWSE (R479, R486, R517): the keys and training results come back, the firmware is verified (R29), the variants
in force and the settings kept come back, the time in DROWSE ages the medium, and the record written at entry is consumed. -/
def Dev.drowseResume (d : Dev) : Dev :=
  let n := d.thermal.drowseSamples
  let t := d.thermal.drowseHigh.getD (85 * 4)
  let grown := ageOver n t
  let d := { d with
    mode := .boot
    thermal := {}
    seq := { d.seq with wake := false } }
  let d := d.unparkKeys.onSlices fun s =>
    let s := s.ageBy (fun _ => grown) grown
    (({ s with dram := s.dram.resume } : Slice).count 136 1).count 137 1
  let d := d.verifyFirmware true
  if d.notStarted.isSome then d
  else
    let d := (((d.loadShadows 0 true).startTick).onSlices Slice.closeData).loadBootImage
    let d := d.startRoots
    let d := if d.staysInRecovery then { d.closeTitles with mode := .recovery } else d.enterService
    d.firstTick.consumeGasp

/-- DROWSE entry at a round boundary (R36, R477): the cache is cleaned, the last gasp written in advance, the keys and DRAM put into
the always-on registers and self-refresh, and the other domains off; while dirty data is left that the basin cannot take, the tick goes
on to the next boundary. A wake event kept since resumes at once. -/
def Dev.drowseEntry (d : Dev) : Dev :=
  let clean := d.onSlices (Slice.cleaned d.fuses.dram4 d.round)
  let slices := clean.slices.map (Slice.returnFolds d.fuses.dram4 d.round)
  if !slices.all Slice.mayDrowse then clean
  else
    let d := { d with slices := slices }.lastGasp 5
    let std := d.std
    let d := d.parkKeys.clearCommon true
    let d := { d with
      slices := d.slices.map Slice.drowse
      std := std
      mode := .drowse }
    if d.seq.wake then d.drowseResume else d

/-- WAKE_EVENT (R478): DROWSE resumes; at rest the event is kept as a start condition, and during an entry until the
entry ends. -/
def execWakeEvent (s : State) : Host.Outcome State Fault Refusal :=
  run s fun d =>
    let entering := d.transition.any fun t => t.target == .drowse || t.target == .dormant
    let descending := decide (12 ≤ d.seq.state ∧ d.seq.state ≤ 14) && d.seq.target != .halt
    if d.mode == .drowse then d.drowseResume
    else if entering || descending || ((d.mode == .held || d.mode == .dormant) && d.seq.state == 1) then
      { d with seq := { d.seq with wake := true } }
    else d

/-! ### Orderly shutdown (R225, R226) -/

/-- A system page that has its place is on the medium, and counts in the parity of its frame (R220). -/
def Slice.passPage (s : Slice) (p : SysPage) : Slice :=
  match p.slot with
  | none => s
  | some k =>
    let s := s.setCell k (p.pos / 16) (p.pos % 16) (.page (p.asPage s.mediaKey))
    let done := { p with filled := true, passed := true }
    let s := { s with sys := { s.sys with pages := replaceFirst p done s.sys.pages } }
    let s := (if p.filled then s else s.stageSystem k (p.pos / 16) (p.asPage s.mediaKey)).count 61 1
    if p.lastEntry.isSome then s.settleJournal else s

/-- Writes the system pages that have their places and those that wait, under the shutdown table; `false` when no slot
takes them. A slot that fills closes, and the next is reserved with its DESCRIPTOR sealed (R202, R220). -/
def Slice.passPages : Nat → Slice → Slice × Bool
  | 0, s => (s, s.sys.pages.all (·.passed))
  | n + 1, s =>
    match s.sys.pages.find? fun p => p.slot.isSome && !p.passed with
    | some p => Slice.passPages n (s.passPage p)
    | none =>
      match s.nextSysPage with
      | none => (s, true)
      | some p =>
        match (s.streamSlots .system .opened).find? fun k => decide ((s.slot k).sysPos < systemPositions) with
        | none =>
          let t := s.openNext .system
          if t.sys.chain.length = s.sys.chain.length then (s, false) else Slice.passPages n t
        | some k =>
          let pos := (s.slot k).sysPos
          let (q, s) := s.placeSysPage p k pos
          let s := s.passPage q
          Slice.passPages n (if pos + 1 = systemPositions then ((s.closeSlot k).reserve .system).flush else s)

/-- The parity pages that wait are on the medium (R204). -/
def Slice.passParity (s : Slice) : Slice :=
  let s := s.flow.parityQ.foldl (fun (s : Slice) q =>
    match s.parityPlace q.1 q.2.1 with
    | some (donor, pos, lane) => (s.setCell donor pos lane (.page q.2.2)).count 62 1
    | none => s) s
  { s with flow := { s.flow with parityQ := [] } }

/-- The pass of 3,798 re-assertion trailers (R225 step 4). -/
def Slice.queuePass (s : Slice) : Slice :=
  s.queuePages ((List.range 3798).map fun k => s.trailer s.journal.flush (3 * k))

/-- Captures and queues a segment changed since its copy (R225 step 3). -/
def Slice.copySegment (s : Slice) (segment : Nat) : Slice := (s.takeCopy segment s.frameSeq).count 85 1

/-- The lanes and the parity page that a failed program left of a position are programmed (R58, R203, R204). -/
def Slice.passHusk (s : Slice) (h : Husk) : Slice :=
  (h.pages.foldl (fun (s : Slice) e => s.setCell h.slot h.pos e.1 (.page e.2)) s).queueParity h.slot h.pos h.parity

/-- Steps 1 and 2 of R225 on a drained slice: what the chambers hold is programmed, and what is left of abandoned positions, every OPEN
data slot closes, and the shutdown table takes the place of the slot tables. -/
def Slice.closeForShutdown (s : Slice) (table : Table) (round : Nat) : Slice :=
  let s := s.flow.chambers.foldl (fun (s : Slice) c =>
    if c.slot < slotCount then s.programPass c else s.blockProgrammed c.slot c.pos round true) s
  let s := s.flow.husks.foldl Slice.passHusk s
  let open_ := ([Stream.host, .relocation, .durable].flatMap fun st => s.streamSlots st .opened)
  let s := open_.foldl (fun s k => s.closeSlot k) s
  { s with
    active := table
    source := .shutdown
    flow := { s.flow with rewrites := [], husks := [], chambers := [], blockQ := [], queue := [], hold := [], tow := [], flights := [] }
    sys := { s.sys with rootWrite := none }
    upkeep := { s.upkeep with barges := [], rebuilds := [] } }

/-- Steps 1 to 4 of R225 on a drained slice, after which the clean root record is on its way. Without a slot to write to, it ends with no
clean record. -/
def Slice.orderlyShutdown (s : Slice) (table : Table) (round : Nat) : Slice :=
  let s := s.closeForShutdown table round
  let changed := sortBy (fun a b => decide (a ≤ b)) s.checkpoint.changed
  let s := changed.foldl Slice.copySegment s
  let s := (((s.reserve .system).reserve .system).reserve .system).flush
  let (s, a) := Slice.passPages (1024 * (changed.length + 16) + s.sys.pages.length) s
  let s := s.settleJournal.finishCopies
  let s := s.queuePass.flush
  let (s, b) := Slice.passPages (16384 + s.sys.pages.length) s
  let s := s.settleJournal.passParity
  if a && b then { s.writeRoot true [] round with shutdown := { ending := true } } else { s with shutdown := { done := true } }

/-- Whether a slice has been drained for an orderly shutdown and every started rewrite has made its map step. -/
def Dev.drained (d : Dev) (i : Nat) : Bool :=
  !(d.slice i).dirtyPresent && (d.slice i).flow.heldWrites.isEmpty
    && (d.slice i).flow.rewrites.all fun r => r.done || !r.started

/-- The shutdown of every slice has ended: the mirrors are saved closed and the sequencer goes down (R477). -/
def Dev.finishShutdown (d : Dev) (target : Mode) : Dev := (d.saveMirrors true).descend target false

/-- ORDERLY_SHUTDOWN (R225): during an entry to HELD or DORMANT, a drained slice shuts down; once the last one has, the package
goes at the next round boundary at which no swap is pending (R181). -/
def execOrderlyShutdown (slice : Nat) (s : State) : Host.Outcome State Fault Refusal :=
  runSlice slice s fun d =>
    match d.transition with
    | some t =>
      if (t.target == .held || t.target == .dormant) && !(d.slice slice).shutdown.ending && !(d.slice slice).shutdown.done
          && d.drained slice then
        d.onSlice slice fun s => s.orderlyShutdown (d.tableOf slice .shutdown) d.round
      else d
    | none => d

/-! ### Transitions that wait for a boundary (R477, R483, R497) -/

/-- TEST entry (R386, R528): every title closes, the mirrors are saved, and no IDE key stays (R387). -/
def Dev.testEntry (d : Dev) : Dev :=
  let d := (d.closeTitles.saveMirrors false).dropRung
  { d with mode := .test, transition := none, ports := d.ports.map fun (p : Port) => { p with ideKeys := [] } }

/-- Transitions that take effect at a round boundary. -/
def Dev.transitionRound (d : Dev) : Dev :=
  match d.transition with
  | none => d
  | some t =>
    match t.target with
    | .drowse => if d.swapPending then d else d.drowseEntry
    | .held | .dormant => if d.swapPending || !d.slices.all (·.shutdown.done) then d else d.finishShutdown t.target
    | .test => d.testEntry
    | .service =>
      let d := { d with transition := none }
      if d.mode != .recovery || d.staysInRecovery then d
      else { d with seq := { d.seq with latchedStart := false } }.enterService
    | _ => d

/-- A drain that goes on: lines written since it began are cleaned into the basin too (R279). -/
def Slice.redrain (dram4 : Bool) (round : Nat) (s : Slice) : Slice :=
  if s.shutdown.ending || s.shutdown.done then s
  else
    let s := s.drain dram4 round fun _ => true
    let entries := s.basin.entries.map fun (e : BasinEntry) => { e with named := true }
    { s with basin := { s.basin with draining := true, entries := entries } }

/-- The drain of a transition goes on at every tick; a warm reset by command runs once it has ended (R477, R483). -/
def Dev.transitionTick (d : Dev) : Dev :=
  match d.transition with
  | some t =>
    if t.target == .boot || t.target == .held || t.target == .dormant then
      let d := d.onSlices (Slice.redrain d.fuses.dram4 d.round)
      if t.target == .boot && (List.range d.sliceCount).all d.drained && d.flushes.isEmpty then d.warmReset false else d
    else d
  | none => d

end Sys2Proof.Machine
end

