-- ==== Sys2Proof/Machine/Round.lean ====
section
/-!
DEFINITION. The tick and the round: the tick boundary of the package, what it does at a round boundary, the writing of an activated
image, skipped tick periods, the exit from IDLE, and the alarm policy (R16, R18, R86, R115, R177–R179, R385, R480).
-/
namespace Sys2Proof.Machine

open Sys2Proof

/-! ### The round boundary (R179) -/

/-- Programs of the round above W × 1,024 are reported (R150, R154), and a new round is counted. -/
def Dev.writeRate (d : Dev) (i : Nat) : Dev :=
  let s := d.slice i
  let counted := d.mode.isService && d.mode != .preserve && !s.inRecovery
  let d := if counted && d.declaredW i * 1024 < s.flow.programmed then d.contractExceeded i 1 0xFF else d
  d.onSlice i fun s =>
    { s.restoreMap with
      alarmsInRound := 0
      policyActed := false
      flow := { s.flow with programmed := 0, raised := [] }
      journal := { s.journal with flushedInRound := false } }

/-- Seconds in a number of rounds of 1.048576 ms (R18, R528). -/
def roundSeconds (rounds : Nat) : Nat := rounds * 1048576 / 1000000000

/-- The round count, the life clock and the power-on time advance (R18, R528). -/
def Dev.advanceRound (d : Dev) : Dev :=
  { d with
    clock := { d.clock with round := d.clock.round + 1, roundClosed := true }
    mirror := { d.mirror with
      lifeClock := (d.mirror.lifeClock + 1) % 2 ^ 48
      seconds := (d.mirror.seconds + (roundSeconds (d.mirror.lifeClock + 1) - roundSeconds d.mirror.lifeClock)) % 2 ^ 48 } }

/-- A slice that lost its first DRAM channel rebuilds its map into the other seven and leaves slice recovery (R32, R264). -/
def Dev.remapSlice (d : Dev) (i : Nat) : Dev :=
  if (d.slice i).dram.rebuilding then
    let r := (d.slice i).remap d.round d.now
    let d := d.onSlice i fun _ => { r.slice with dram := { r.slice.dram with rebuilding := false } }
    let d := d.tellRebuilt i r
    if r.found then d.onSlice i fun s => { s with inRecovery := false } else d.sliceRecovery i 3
  else d

/-- The upkeep decisions of a slice at a round boundary (R232–R264). -/
def Dev.upkeepBoundary (d : Dev) (fails : List (Nat × Nat)) (i : Nat) : Dev :=
  let d := ((d.remapSlice i).watermarkBoundary i).evacuationBoundary i
  let d := d.onSlice i fun s => s.chooseVictim.levelWear
  let d := (List.range 18).foldl (fun d r => d.selfCheck i r (fails.contains (i, r))) d
  d.onSlice i fun s => ((s.retrainDue d.lifeClock).count 139 1).count 149 (b2n (d.rung != 0))

/-- A port without an outstanding request. -/
def Port.quiet (p : Port) : Bool := p.reads.isEmpty && p.writes.isEmpty

/-- A work ring that holds a fetched descriptor or a posted one (R480). -/
def Ring.busy (r : Ring) : Bool := !r.descs.isEmpty || (r.state == .running && r.posted != 0)

/-- Whether the conditions of R480 hold at this moment. -/
def Dev.restful (d : Dev) : Bool :=
  d.ports.all (fun p => (p.link == .l1 || p.link == .down) && p.quiet) && d.rings.all fun e => !e.2.busy

/-- Entry to IDLE: the conditions held throughout the round that ends, so no port was active in it and they hold now;
the next round starts its own account (R480). -/
def Dev.idleBoundary (d : Dev) : Dev :=
  let rest := d.restful
  let d := if rest && (d.mode == .service || d.mode == .throttled) && d.transition.isNone
      && !d.ports.any (·.activeInRound) then
    { d with mode := .idle, regs := { d.regs with idleExit := false } } else d
  { d with ports := d.ports.map fun (p : Port) => { p with activeInRound := p.link == .l0 || !rest } }

/-- A swap of every group may change the throttle method, and with it the rung that variants are selected for
(R515). -/
def Dev.methodChange (d : Dev) (method : Nat) : Dev :=
  if d.throttleMethod = method then d else { d with swap := { d.swap with changeDue := true } }

/-- The array operations of every slice end with their tick (R53). -/
def Dev.endTicks (d : Dev) (env : TickEnv) : Dev := (List.range d.sliceCount).foldl (Dev.endTick env) d

/-- What happens at a round boundary, once the operations of tick 1,023 have ended, in the reaches' self-checks `fails`: at the
end of tick 1,023, once. -/
def Dev.roundBoundary (d : Dev) (fails : List (Nat × Nat)) : Dev :=
  if !(d.clock.on && d.mode.ticks && d.clock.tick == 1023 && !d.clock.roundClosed) then d
  else
    let is := List.range d.sliceCount
    let method := d.throttleMethod
    let d := (is.foldl Dev.writeRate d).advanceRound
    let d := (d.swapBoundary.methodChange method).levelBoundary
    let d := is.foldl (fun d i => d.upkeepBoundary fails i) d
    (d.checkPreserve.transitionRound).idleBoundary

/-- ROUND_BOUNDARY (R179). -/
def execRoundBoundary (selfCheckFails : List (Nat × Nat)) (s : State) : Host.Outcome State Fault Refusal :=
  run s fun d =>
    if d.clock.tick == 1023 && d.clock.on && !d.clock.roundClosed then (d.endTicks quietTick).roundBoundary selfCheckFails else d

/-! ### Writing an activated image (R165, R177, R178, R457) -/

/-- The bytes of the copy on slice 0. -/
def storedBytes (copies : List (Option ImgCopy)) : List Byte := ((copies.getD 0 none).map (·.bytes)).getD []

/-- Marks the system copies of an image: the one on slice 0 whole, the one on slice 1 whole or being written. -/
def storedCopies (second : Bool) (copies : List (Option ImgCopy)) : List (Option ImgCopy) :=
  let c := copies.getD 0 none
  [c.map fun (c : ImgCopy) => { c with intact := true }, c.map fun (c : ImgCopy) => { c with intact := second }]

/-- IMAGE_ACTIVATE goes on at a tick boundary: the copy on slice 0 is whole, then the one on slice 1, whereupon the counter advances
in MACE, the variants are loaded and the swap is requested (R177 steps 2–5). The manual does not say how long a copy takes; a tick
each is the model's choice (DESIGN CHOICE). A swap that is pending is waited for. -/
def Dev.storeStep (d : Dev) : Dev :=
  match d.images.storing with
  | none => d
  | some 0 =>
    { d with images := { d.images with copies := storedCopies false d.images.copies, storing := some 1 } }
  | some _ =>
    if d.swapPending then d
    else
      let b := storedBytes d.images.copies
      let d := { d with images := { d.images with copies := storedCopies true d.images.copies, storing := none } }
      let d := if d.fuses.lifecycle == .mace then d.advanceRollback 2 (imgSecurity b) else d
      (d.loadImage b true).acceptSwap .all

/-- FW_ACTIVATE of a target goes on at a tick boundary: the copy on slice 0 is whole, then the one on slice 1, whereupon the counter
advances in MACE and the command is answered (R457). -/
def Dev.fwStep (d : Dev) (t : Nat) : Dev :=
  let f := d.firmware.getD t {}
  match f.storing with
  | none => d
  | some 0 =>
    { d with firmware := upd d.firmware t fun (f : FwTarget) => { f with copies := storedCopies false f.copies, storing := some 1 } }
  | some _ =>
    let d := { d with firmware := upd d.firmware t fun (f : FwTarget) => { f with copies := storedCopies true f.copies, storing := none } }
    let d := if d.fuses.lifecycle == .mace then d.advanceRollback (fwCounter t) (fwVersion (storedBytes f.copies)) else d
    (d.waiters.filter (·.what == .firmware t)).foldl (fun d w =>
      { d with waiters := d.waiters.erase w }.respond w.channel w.opcode w.tag 0 0 []) d

/-! ### The tick boundary of the package -/

/-- The next scheduled tick: its number, and the model's own count of ticks and periods. -/
def Clock.advance (c : Clock) : Clock :=
  { c with
    tick := (c.tick + 1) % 1024
    roundClosed := false
    abs := c.abs + 1
    periods := c.periods + 1
    skipCount := c.skipCount + 1 }

/-- Round count and number of the next scheduled tick. -/
def Clock.following (c : Clock) : Nat × Nat :=
  if c.tick = 1023 then ((if c.roundClosed then c.round else c.round + 1).toNat, 0) else (c.round.toNat, c.tick + 1)

/-- Copies every counter into its snapshot slot, under the status of a boundary (R543). -/
def Dev.latchCounters (d : Dev) (round tick : Nat) : Dev :=
  let n := (d.counters.snapNumber + 1) % 64
  let c := { d.counters with
    snapshot := d.counters.package, snapDue := false, snapNumber := n
    snapStatus := round + tick * 2 ^ 32 + n * 2 ^ 42 }
  { d.onSlices fun s => { s with snapshot := s.counters } with counters := c }

/-- A snapshot that is due is taken at the start of the next scheduled tick. -/
def Dev.latchDue (d : Dev) : Dev :=
  if d.counters.snapDue && d.clock.on then d.latchCounters d.clock.following.1 d.clock.following.2 else d

/-- SNAPSHOT_LATCH (R459, R543): the start of the scheduled tick that a snapshot waits for. -/
def execSnapshotLatch (s : State) : Host.Outcome State Fault Refusal := run s Dev.latchDue

/-- TICK_BOUNDARY (R53, R86): the operations of the ending tick end; at the end of tick 1,023 the round boundary comes next, unless
it has been taken. A snapshot that is still due is taken as the tick starts. -/
def execTickBoundary (env : TickEnv) (s : State) : Host.Outcome State Fault Refusal :=
  run s fun d =>
    if !(d.clock.on && d.mode.ticks) then d
    else
      let d := (d.endTicks env).roundBoundary []
      if !(d.clock.on && d.mode.ticks) then d
      else
        let d := (List.range 3).foldl Dev.fwStep d.latchDue.storeStep
        let d := { d with clock := d.clock.advance }
        let swapDue := d.swap.pending.isSome && decide (d.swap.wait ≤ 1)
        ((List.range d.sliceCount).foldl (fun d i => d.sliceTick env swapDue i) d).transitionTick

/-- SKIPPED_TICK (R115): with a clock-step ratio N in force, one period in every N applies no row and advances
nothing. -/
def execSkippedTick (s : State) : Host.Outcome State Fault Refusal :=
  run s fun d =>
    if d.clock.on && d.mode.ticks && d.clock.skipN != 0 && d.clock.skipN ≤ d.clock.skipCount + 1 then
      { d.onSlices fun s => s.count 103 1 with
        clock := { d.clock with skipCount := 0, periods := d.clock.periods + 1 } }
    else d

/-- IDLE_EXIT (R480, R186): after a port's exit from L1 or a sideband word the package returns to SERVICE, at rung 0. -/
def execIdleExit (s : State) : Host.Outcome State Fault Refusal :=
  run s fun d =>
    if d.mode == .idle && d.regs.idleExit then
      { d.dropRung with mode := .service, regs := { d.regs with idleExit := false } }
    else d

/-- ALARM_POLICY_ACTION (R385): after the fourth tag-check alarm of a slice in a round the policy acts, once. -/
def execAlarmPolicyAction (slice : Nat) (s : State) : Host.Outcome State Fault Refusal :=
  runSlice slice s fun d =>
    if (d.slice slice).alarmsInRound < 4 || (d.slice slice).policyActed then d
    else
      let d := (d.onSlice slice fun s => { s with policyActed := true }).countPkg 12 1
      match d.alarms.policy with
      | 1 => d.sliceRecovery slice 2
      | 2 => (d.latchFault (latchBit 13)).halt
      | _ => d

end Sys2Proof.Machine
end

