-- ==== Sys2Proof/Machine/Regs.lean ====
section
/-!
DEFINITION. Register space: the BAR2 map, reads and writes of every register by a host port, the secure sideband and the
firmware, reported accesses, and the commands that are a write of one register (R5–R7, R389–R401, R415–R418).
-/
namespace Sys2Proof.Machine

open Sys2Proof

/-! ### Who makes an access (R394) -/

/-- Whether an agent is secure: the sideband and the firmware write secure-only fields (R391). -/
def secureAgent : Agent → Bool
  | .host => false
  | .secure | .firmware => true

/-- The select pair of an agent. -/
def Dev.selOf (d : Dev) : Agent → Sel
  | .host => d.regs.selHost
  | .secure => d.regs.selSecure
  | .firmware => d.regs.selFirmware

/-- The package with the select pair of an agent changed. -/
def Dev.onSel (d : Dev) (a : Agent) (f : Sel → Sel) : Dev :=
  match a with
  | .host => { d with regs := { d.regs with selHost := f d.regs.selHost } }
  | .secure => { d with regs := { d.regs with selSecure := f d.regs.selSecure } }
  | .firmware => { d with regs := { d.regs with selFirmware := f d.regs.selFirmware } }

/-- Whether an access reaches the register space: the CONTROL domain is on, and a host's link is in L0 (R316, R393). -/
def Dev.reached (d : Dev) (a : Agent) (port : Nat) : Bool :=
  d.mode.ticks && match a with
    | .host => (d.port port).link == .l0
    | .secure | .firmware => true

/-! ### Reported accesses (R391) -/

/-- Reports an access: AER status of the receiving port, and ACCESS_ERROR for the first. -/
def Dev.report (d : Dev) (a : Agent) (port off reason : Nat) : Dev :=
  let host := a == .host
  let d := if host then d.onPort port fun p => { p with aer := true } else d
  let e := d.regs.accessError
  let e := if e.valid then { e with count := min 8191 (e.count + 1) }
    else { offset := off % 2 ^ 26, reason := reason, port := if host then port else 0, secure := !host, valid := true,
           count := 1 }
  { d with regs := { d.regs with accessError := e } }.countPkg 7 1

/-! ### Swap and port assignment -/

/-- A write of SWAP_REQUEST (R179, R181). -/
def Dev.writeSwap (d : Dev) (a : Agent) (port : Nat) (v : Word) : Dev :=
  let d := if wbits v 2 1 = 1 then { d with swap := { d.swap with refused := false } } else d
  if wbits v 0 1 = 0 then d
  else if d.swapPending then
    { d with swap := { d.swap with refused := true } }.report a port 0x28 3
  else if !d.clock.on then { d with swap := { d.swap with refused := true } }
  else d.acceptSwap .all

/-- Changing a channel's port empties its FIFOs, and a request in progress on it completes without a response (R408). -/
def Dev.emptyChan (d : Dev) (c : Nat) : Dev :=
  let queue := d.pstore.queue.map fun (a : PAccess) => if a.channel = some c then { a with channel := none } else a
  { d.onChan c fun ch =>
      { ch with inb := [], inbLeft := 0, outb := [], waiting := [], heldHalf := none, resync := false } with
    waiters := d.waiters.filter (·.channel != c)
    pstore := { d.pstore with queue := queue } }

/-- A write of MB_ASSIGN by a secure agent. -/
def Dev.assign (d : Dev) (v : Word) : Dev :=
  let moved := (List.range 8).filter fun c => wbits v (3 * c) 3 != d.chanPort c
  let d := moved.foldl Dev.emptyChan d
  { d with regs := { d.regs with mbAssign := masked v 0xFFFFFF } }

/-! ### Fields with reserved encodings (R7) -/

/-- A write of a field that takes only values from `least` to `most`. -/
def putRange (old new : Word) (lo width least most : Nat) : Word :=
  putField old new lo width (decide (least ≤ wbits new lo width) && decide (wbits new lo width ≤ most))

/-- A write of several fields, each with its range: (lo, width, least, most). -/
def putFields (old new : Word) (fields : List (Nat × Nat × Nat × Nat)) : Word :=
  fields.foldl (fun w f => putRange w new f.1 f.2.1 f.2.2.1 f.2.2.2) old

/-- Fields of REGION_ATTR (R399). -/
def attrFields : List (Nat × Nat × Nat × Nat) :=
  [(0, 3, 0, 7), (3, 1, 0, 1), (4, 1, 0, 1), (5, 5, 0, 31), (10, 1, 0, 1), (11, 2, 0, 2), (13, 1, 0, 1), (14, 1, 0, 1)]

/-- Fields of PORT_CLASS (R400). -/
def portClassFields : List (Nat × Nat × Nat × Nat) := [(0, 3, 0, 7), (3, 2, 0, 2)]

/-- Fields of THERM_CTRL (R518). -/
def thermCtrlFields : List (Nat × Nat × Nat × Nat) :=
  [(0, 2, 0, 2), (2, 3, 1, 7), (5, 4, 1, 15), (9, 3, 1, 7), (12, 10, 16, 1023), (22, 4, 1, 15)]

/-- Fields of THERM_SKIP. -/
def thermSkipFields : List (Nat × Nat × Nat × Nat) := (List.range 7).map fun l => (5 * l, 5, 2, 16)

/-- Fields of THERM_SRC. -/
def thermSrcFields : List (Nat × Nat × Nat × Nat) :=
  [(0, 1, 0, 1), (1, 1, 0, 1), (2, 1, 0, 1), (3, 1, 0, 1), (4, 6, 0, 63), (10, 12, 2000, 4095)]

/-- The secure-only bits of REGION_ATTR (R399). -/
def secureAttr : Nat := 0x47F0

/-- Whether entry `n` of the region table is closed to non-secure writes (R400). -/
def Dev.regionLocked (d : Dev) (n : Nat) : Bool :=
  attrProtected (d.active.regionAttr.getD n 0) || attrProtected (d.shadow.regionAttr.getD n 0)

/-- A write of the shadow set, unless a swap is pending (R181). -/
def Dev.writeShadow (d : Dev) (a : Agent) (port off : Nat) (f : Groups → Groups) : Dev :=
  if d.swapPending then d.report a port off 3 else { d with shadow := f d.shadow }

/-- A write of REGION_BASE[n] or REGION_ATTR[n] (R399, R400). -/
def Dev.writeRegion (d : Dev) (a : Agent) (port off n : Nat) (attr : Bool) (v : Word) : Dev :=
  let old := d.shadow.regionAttr.getD n 0
  let forbidden := !secureAgent a
    && (d.regionLocked n || (attr && masked v secureAttr != masked old secureAttr))
  if forbidden then d.report a port off 4
  else d.writeShadow a port off fun g =>
    if attr then { g with regionAttr := upd g.regionAttr n fun w => putFields w v attrFields }
    else { g with regionBase := upd g.regionBase n fun _ => masked v 0xFFFFFFFFFFF }

/-! ### The global block (R393) -/

/-- A write in the global block. -/
def Dev.writeGlobal (d : Dev) (a : Agent) (port off : Nat) (v : Word) : Dev :=
  if off = 0x10 then d.onSel a fun s => { s with slice := wbits v 0 3 }
  else if off = 0x18 then d.onSel a fun s => { s with reach := wbits v 0 5 }
  else if off = 0x20 then
    if wbits v 34 1 = 1 then
      { d with regs := { d.regs with accessError := { d.regs.accessError with valid := false, count := 0 } } } else d
  else if off = 0x28 then d.writeSwap a port v
  else if off = 0x30 then if secureAgent a then d.assign v else d.report a port off 4
  else if off = 0x400 then { d with regs := { d.regs with maintBase := masked v 0x3FFFFFFFF } }
  else if off = 0x408 then { d with regs := { d.regs with maintLines := masked v 0x3FFFFFFFF } }
  else if off = 0x410 then
    let d := { d with regs := { d.regs with
      maintDone := d.regs.maintDone && wbits v 3 1 == 0
      maintDenied := d.regs.maintDenied && wbits v 4 1 == 0 } }
    d.startMaint (secureAgent a) (wbits v 0 2) d.regs.maintBase.toNat (d.regs.maintLines.toNat + 1)
  else if off = 0x800 then { d with regs := { d.regs with counterUser := wbits v 0 1 == 1 } }
  else if 0x1000 ≤ off && off < 0x1400 then
    d.writeRegion a port off ((off - 0x1000) / 16) (off % 16 == 8) v
  else if 0x1400 ≤ off && off < 0x1440 then
    d.writeShadow a port off fun g => { g with
      portClass := upd g.portClass ((off - 0x1400) / 8) fun w => putFields w v portClassFields }
  else if off = 0x3000 then
    d.writeShadow a port off fun g => { g with thermCtrl := putFields g.thermCtrl v thermCtrlFields }
  else if off = 0x3008 then
    d.writeShadow a port off fun g => { g with thermSkip := putFields g.thermSkip v thermSkipFields }
  else if off = 0x3010 || off = 0x3018 || off = 0x3020 then
    d.writeShadow a port off fun g => { g with
      thermLimit := upd g.thermLimit ((off - 0x3010) / 8) fun _ => masked v 0xFFFFFFFF }
  else if off = 0x3028 then
    d.writeShadow a port off fun g => { g with thermSrc := putFields g.thermSrc v thermSrcFields }
  else d

/-- A read in the global block: SH fields return the active value (R5). -/
def Dev.readGlobal (d : Dev) (sel : Sel) (off : Nat) : Word :=
  if off = 0x00 then d.deviceInfo
  else if off = 0x08 then d.modeStatus
  else if off = 0x10 then word sel.slice
  else if off = 0x18 then word sel.reach
  else if off = 0x20 then d.accessErrorWord
  else if off = 0x28 then d.swapStatus
  else if off = 0x30 then d.regs.mbAssign
  else if off = 0x100 then d.tickStatus
  else if off = 0x400 then d.regs.maintBase
  else if off = 0x408 then d.regs.maintLines
  else if off = 0x410 then d.maintStatus
  else if off = 0x800 then word (b2n d.regs.counterUser)
  else if 0x1000 ≤ off && off < 0x1400 then
    if off % 16 = 0 then d.active.regionBase.getD ((off - 0x1000) / 16) 0
    else d.active.regionAttr.getD ((off - 0x1000) / 16) 0
  else if 0x1400 ≤ off && off < 0x1440 then d.active.portClass.getD ((off - 0x1400) / 8) 0
  else if off = 0x3000 then d.active.thermCtrl
  else if off = 0x3008 then d.active.thermSkip
  else if off = 0x3010 || off = 0x3018 || off = 0x3020 then d.active.thermLimit.getD ((off - 0x3010) / 8) 0
  else if off = 0x3028 then d.active.thermSrc
  else 0

/-! ### The slice and reach windows (R393, R395) -/

/-- A write of CACHE_SETWAY (R283, R285). -/
def Dev.writeSetway (d : Dev) (secure : Bool) (i : Nat) (v : Word) : Dev :=
  let op := wbits v 17 2
  if op = 0 then d else d.setway secure i (wbits v 0 12) (wbits v 12 4) (wbits v 16 1 == 1) op

/-- A write of BASIN_CFG (R289). -/
def Basin.configure (b : Basin) (v : Word) : Basin :=
  { b with
    foldAge := if 1 ≤ wbits v 0 8 then wbits v 0 8 else b.foldAge
    foldOccupancy := if 10 ≤ wbits v 8 7 && wbits v 8 7 ≤ 95 then wbits v 8 7 else b.foldOccupancy }

/-- A write of HDM_POSITION: the fields of committed decoders keep their values (R301). -/
def Port.putPosition (p : Port) (v : Word) : Port :=
  { p with position := (List.range 4).foldl (fun w n =>
    putField w v (3 * n) 3 (!(p.decoders.getD n {}).committed)) p.position }

/-- A write of DRAM_TRAIN_CFG (R348). -/
def Dram.configure (m : Dram) (v : Word) : Dram :=
  let m := if 1 ≤ wbits v 0 8 then { m with oscThreshold := wbits v 0 8 } else m
  if wbits v 8 1 = 1 then m.makeDue 0xFF else m

/-- A write in the slice window. -/
def Dev.writeSlice (d : Dev) (a : Agent) (i off : Nat) (v : Word) : Dev :=
  if off = 0x300 then d.cacheCommand (secureAgent a) i (wbits v 0 2)
  else if off = 0x308 then
    if wbits v 2 1 = 1 then d.onSlice i fun s => { s with cache := { s.cache with denied := false } } else d
  else if off = 0x310 then d.writeSetway (secureAgent a) i v
  else if off = 0x318 then d.onSlice i fun s => { s with basin := s.basin.configure v }
  else if off = 0x500 then d.onPort i fun p => p.putPosition v
  else if off = 0x608 then d.onSlice i fun s => { s with dram := s.dram.configure v }
  else d

/-- A read in the slice window. -/
def Dev.readSlice (d : Dev) (i off : Nat) : Word :=
  if off = 0x200 then d.upkeepStatus i
  else if off = 0x308 then (d.slice i).cacheStatus
  else if off = 0x318 then (d.slice i).basinCfg
  else if off = 0x320 then (d.slice i).basinStatus
  else if off = 0x500 then (d.port i).position
  else if off = 0x600 then d.dramStatus i
  else if off = 0x608 then word (d.slice i).dram.oscThreshold
  else 0

/-- A write in the reach window: REACH_ARB_CFG takes effect at the next tick boundary (R107). -/
def Dev.writeReach (d : Dev) (i r off : Nat) (v : Word) : Dev :=
  if off = 0x40 then d.onSlice i fun s => s.onReach r fun h => { h with burstNext := some (wbits v 0 4) } else d

/-- A read in the reach window. A read of REACH_ARB_CFG between its write and the next tick boundary returns the value written
(R107; DESIGN CHOICE: the manual does not say which value it returns). -/
def Dev.readReachReg (d : Dev) (i r off : Nat) : Word :=
  if off = 0x40 then
    let h := (d.slice i).reach r
    word (h.burstNext.getD h.burst)
  else if off = 0x48 then d.reachHealth i r
  else 0

/-- Whether a select names an instance of the slice window (`window` 2) or the reach window (`window` 3). -/
def Dev.selects (d : Dev) (s : Sel) (window : Nat) : Bool :=
  decide (s.slice < d.sliceCount) && (window == 2 || decide (s.reach < 18))

/-! ### Mailbox channels (R402–R408) -/

/-- Whether a channel's registers are live for an agent at a port, or the reason of the report (R408). -/
def Dev.chanReason (d : Dev) (a : Agent) (port c : Nat) : Option Nat :=
  match a with
  | .host => if 8 ≤ c then some 4 else if d.chanPort c = port then none else some 8
  | .secure | .firmware => none

/-- Words of a header's payload (R425). -/
def headerLength (w : Word) : Nat := wbits w 28 4

/-- A word that a channel discards: overrun is set, and the firmware has a resynchronisation due (R404). -/
def Dev.overrunChan (d : Dev) (c : Nat) : Dev :=
  (d.onChan c fun ch => { ch with overrun := true, resync := true, heldHalf := none }).countPkg 2 1

/-- Appends a word to the inbound FIFO of a channel. A sideband word ends IDLE (R480). A word whose message the firmware has dropped with
the words before it (R406) goes the same way (DEDUCED: DROP removes what remains of the message). -/
def Dev.appendInbound (d : Dev) (c : Nat) (v : Word) (bad : Bool) : Dev :=
  let ch := d.chan c
  let d := if 8 ≤ c && d.mode == .idle then { d with regs := { d.regs with idleExit := true } } else d
  let first := ch.inbLeft == 0
  d.onChan c fun ch =>
    { ch with
      inb := if first || !ch.inb.isEmpty then ch.inb ++ [⟨v, first, bad⟩] else []
      inbLeft := if first then headerLength v else ch.inbLeft - 1
      heldHalf := none }

/-- Whether the inbound FIFO of a channel is full. -/
def Dev.inboundFull (d : Dev) (c : Nat) : Bool := decide (16 ≤ (d.chan c).inb.length)

/-- A write of MB_IN: a word that does not fit is discarded and reported, or is a fabric error at an internal master (R404). -/
def Dev.pushInbound (d : Dev) (a : Agent) (port c : Nat) (v : Word) (bad : Bool) : Dev :=
  if !d.inboundFull c then d.appendInbound c v bad
  else if a == .firmware then d.emit (.fabricError a)
  else (d.overrunChan c).report a port (0x10000 + 0x1000 * c) 7

/-- Removes the front word of the outbound FIFO; what waits moves up. Empty, it reads 0 and sets underrun. -/
def Dev.popOutbound (d : Dev) (c : Nat) (parityFail : Bool) : (Word × Bool) × Dev :=
  match (d.chan c).outb with
  | [] => ((0, false), d.onChan c fun ch => { ch with underrun := true })
  | w :: rest =>
    let bad := w.bad || parityFail
    ((w.word, bad), (d.onChan c fun ch => { ch with outb := rest, outPoison := ch.outPoison || bad }).pump c)

/-- The words from the next message's first word on. -/
def nextMessage : List MbWord → List MbWord
  | [] => []
  | w :: rest => if w.first then w :: rest else nextMessage rest

/-- DROP on the outbound FIFO (R406): the rest of the message at the front goes. -/
def Dev.dropOut (d : Dev) (c : Nat) : Dev :=
  (d.onChan c fun ch => { ch with outb := nextMessage ch.outb.tail, heldHalf := none }).pump c

/-- DROP on the inbound FIFO, which the firmware consumes (R406): the rest of the message at the front goes. -/
def Dev.dropIn (d : Dev) (c : Nat) : Dev := d.onChan c fun ch => { ch with inb := nextMessage ch.inb.tail }

/-- DROP acts on the FIFO that the issuing side consumes (R406). -/
def Dev.dropFor (d : Dev) (a : Agent) (c : Nat) : Dev := if a == .firmware then d.dropIn c else d.dropOut c

/-- A write of a channel register at channel offset `off`. -/
def Dev.writeChan (d : Dev) (a : Agent) (port c off : Nat) (v : Word) (bad : Bool) : Dev :=
  match d.chanReason a port c with
  | some reason => d.report a port (0x10000 + 0x1000 * c + off) reason
  | none =>
    let d := d.onChan c fun ch => { ch with heldHalf := none }
    if off = 0x00 then d.pushInbound a port c v bad
    else if off = 0x10 then
      d.onChan c fun ch =>
        { ch with
          overrun := ch.overrun && wbits v 11 1 == 0
          underrun := ch.underrun && wbits v 12 1 == 0
          outPoison := ch.outPoison && wbits v 13 1 == 0
          inEmpty := ch.inEmpty && wbits v 14 1 == 0
          outReady := ch.outReady && wbits v 15 1 == 0 }
    else if off = 0x18 then
      let d := d.onChan c fun ch =>
        { ch with inEmptyEn := wbits v 1 1 == 1, outReadyEn := wbits v 2 1 == 1, vector := wbits v 3 11 }
      if wbits v 0 1 = 1 then d.dropFor a c else d
    else if off = 0x20 then d.onChan c fun ch => { ch with bufAddr := wbits v 0 40 }
    else if off = 0x28 then
      d.onChan c fun ch => { ch with bufPages := if wbits v 0 9 ≤ 256 then wbits v 0 9 else ch.bufPages }
    else d

/-- A 64-bit read of a channel register: value, poisoned attribute, and the package after it. -/
def Dev.readChan (d : Dev) (a : Agent) (port c off : Nat) (parityFail : Bool) : (Word × Bool) × Dev :=
  match d.chanReason a port c with
  | some _ => ((0, false), d)
  | none =>
    let d := d.onChan c fun ch => { ch with heldHalf := none }
    let ch := d.chan c
    if off = 0x08 then d.popOutbound c parityFail
    else if off = 0x10 then ((ch.status, false), d)
    else if off = 0x18 then
      ((word (b2n ch.inEmptyEn * 2 + b2n ch.outReadyEn * 4 + ch.vector * 8), false), d)
    else if off = 0x20 then ((word ch.bufAddr, false), d)
    else if off = 0x28 then ((word ch.bufPages, false), d)
    else ((0, false), d)

/-- A read of MB_OUT by its size (R408): the lower half removes the word and holds its bits [47:32] for a read of the
upper half that follows. -/
def Dev.readOut (d : Dev) (a : Agent) (port c : Nat) (half : OutHalf) (parityFail : Bool) : (Nat × Bool) × Dev :=
  match d.chanReason a port c with
  | some _ => ((0, false), d)
  | none =>
    match half with
    | .full =>
      let (r, d) := d.readChan a port c 0x08 parityFail
      ((r.1.toNat, r.2), d)
    | .low =>
      let (r, d) := d.popOutbound c parityFail
      ((wbits r.1 0 32, r.2), d.onChan c fun ch => { ch with heldHalf := some (wbits r.1 32 16) })
    | .high =>
      (((d.chan c).heldHalf.getD 0, false), d.onChan c fun ch => { ch with heldHalf := none })

/-! ### Counter pages (R401, R541) -/

/-- Whether slice counter `i` is marked U (R539). -/
def sliceUser (i : Nat) : Bool := decide (i < 56) || (decide (104 ≤ i) && decide (i < 120))

/-- Whether slice counter `i` is a security counter (R539). -/
def sliceSecret (i : Nat) : Bool := decide (128 ≤ i) && decide (i < 136)

/-- Whether package counter `i` is a security counter (R540). -/
def packageSecret (i : Nat) : Bool := decide (8 ≤ i) && decide (i < 14)

/-- Word at offset `off` of the counter page of slice `i`, through the user alias or the privileged one. -/
def Dev.slicePage (d : Dev) (i off : Nat) (user : Bool) : Word :=
  let s := d.slice i
  let p := d.port i
  let seen (k : Nat) := if user then sliceUser k else !sliceSecret k
  let k := off / 8
  if off < 0x500 then if seen k then s.counters.getD k 0 else 0
  else if off < 0x540 then word (p.bwReadResult.getD ((off - 0x500) / 8) 0)
  else if off < 0x580 then word (p.bwWriteResult.getD ((off - 0x540) / 8) 0)
  else if off = 0x580 then word (d.counters.window + d.counters.windowEnd * 2 ^ 16)
  else if off = 0x588 then word d.counters.windowSpan
  else if 0x800 ≤ off && off < 0xD00 then
    if seen ((off - 0x800) / 8) then s.snapshot.getD ((off - 0x800) / 8) 0 else 0
  else 0

/-- Word at offset `off` of the package counter page. -/
def Dev.packagePage (d : Dev) (off : Nat) (user : Bool) : Word :=
  let seen (k : Nat) := !user && !packageSecret k
  if off < 0x100 then if seen (off / 8) then d.counters.package.getD (off / 8) 0 else 0
  else if off = 0x500 then d.counterEpoch
  else if off = 0x508 then d.snapStatusWord
  else if 0x800 ≤ off && off < 0x900 then
    if seen ((off - 0x800) / 8) then d.counters.snapshot.getD ((off - 0x800) / 8) 0 else 0
  else 0

/-- A read of the counter pages; the user alias reads 0 while user_enable is 0. -/
def Dev.readCounters (d : Dev) (rel : Nat) (user : Bool) : Word :=
  if user && !d.regs.counterUser then 0
  else if rel < 0x8000 then
    if rel / 0x1000 < d.sliceCount then d.slicePage (rel / 0x1000) (rel % 0x1000) user else 0
  else if rel < 0x9000 then d.packagePage (rel % 0x1000) user
  else 0

/-! ### Work rings (R415–R418) -/

/-- The fields of RING_CTRL but enable and reset. -/
def ringFields : Nat := 0x1FFFDF

/-- A write of RING_CTRL: fields only while DISABLED, then reset or enable (R416, R418). A write that leaves the other fields at their
values, as one that changes only enable or reset does, is no write to them (DEDUCED). -/
def Dev.writeRingCtrl (d : Dev) (a : Agent) (port off ring : Nat) (v : Word) : Dev :=
  let r := d.ring ring
  let idle := r.state == .disabled
  let d :=
    if idle then d.onRing ring fun r =>
      { r with
        sizeLog2 := if 6 ≤ wbits v 0 5 && wbits v 0 5 ≤ 16 then wbits v 0 5 else r.sizeLog2
        hostPort := wbits v 6 3
        vector := wbits v 9 11
        irqEnable := wbits v 20 1 == 1 }
    else if masked v ringFields = masked r.ctrl ringFields then d
    else d.report a port off 6
  if wbits v 21 1 = 1 then d.onRing ring Ring.resetRing
  else if wbits v 5 1 = 1 then d.onRing ring Ring.enableRing
  else d.onRing ring Ring.disableRing

/-- A write of ring configuration. -/
def Dev.writeRing (d : Dev) (a : Agent) (port off ring : Nat) (v : Word) : Dev :=
  let idle := (d.ring ring).state == .disabled
  match off % 0x40 with
  | 0x00 =>
    if idle then d.onRing ring fun r => { r with descBase := wbits v 0 40 } else d.report a port off 6
  | 0x08 =>
    if idle then d.onRing ring fun r => { r with cplBase := wbits v 0 40 } else d.report a port off 6
  | 0x10 => d.writeRingCtrl a port off ring v
  | 0x20 => d.onRing ring fun r => { r with consumed := BitVec.ofNat 32 (wbits v 0 32) }
  | _ => d

/-- A read of ring configuration. -/
def Dev.readRing (d : Dev) (off ring : Nat) : Word :=
  let r := d.ring ring
  match off % 0x40 with
  | 0x00 => word r.descBase
  | 0x08 => word r.cplBase
  | 0x10 => r.ctrl
  | 0x18 => r.status
  | 0x20 => word r.consumed.toNat
  | _ => 0

/-! ### The BAR2 map (R390–R392) -/

/-- The ring that a ring configuration or doorbell offset names. -/
def ringAt (off : Nat) : Nat := if off < 0x2000000 then (off - 0x1000000) / 0x40 else (off - 0x2000000) / 0x1000

/-- Whether an offset lies in ring configuration or doorbells. -/
def inRings (off : Nat) : Bool :=
  (decide (0x1000000 ≤ off) && decide (off < 0x1080000)) || (decide (0x2000000 ≤ off) && decide (off < 0x4000000))

/-- Whether an offset lies in a block of R392. -/
def Dev.mapped (d : Dev) (off : Nat) : Bool :=
  decide (off < 0x40000) || (decide (0x100000 ≤ off) && decide (off < 0x120000))
    || (decide (0x1800000 ≤ off) && decide (off < 0x1810000))
    || (inRings off && decide (ringAt off < d.ringCount))

/-- A 64-bit write to a slot of BAR2; `bad` marks a word whose parity fails in a mailbox FIFO. -/
def Dev.writeSlot (d : Dev) (a : Agent) (port : Nat) (sel : Sel) (off : Nat) (v : BitVec 64) (bad : Bool) : Dev :=
  let w : Word := v.setWidth 48
  if !d.mapped off then d
  else if off < 0x10000 then d.writeGlobal a port off w
  else if off < 0x20000 then d.writeChan a port ((off - 0x10000) / 0x1000) (off % 0x1000) w bad
  else if off < 0x40000 then
    if !d.selects sel (off / 0x10000) then d.report a port off 5
    else if off < 0x30000 then d.writeSlice a sel.slice (off - 0x20000) w
    else d.writeReach sel.slice sel.reach (off - 0x30000) w
  else if off < 0x120000 then d
  else if off < 0x1080000 then d.writeRing a port off (ringAt off) w
  else if off < 0x1810000 then (d.hintRecord port v.toNat).1
  else if off % 0x1000 = 0 && a == .host then d.doorbell port (ringAt off) (wbits w 0 32)
  else d

/-- A 64-bit read of a slot of BAR2: value, poisoned attribute, and the package after it. -/
def Dev.readSlot (d : Dev) (a : Agent) (port : Nat) (sel : Sel) (off : Nat) (parityFail : Bool) : (Word × Bool) × Dev :=
  if !d.mapped off then ((0, false), d)
  else if off < 0x10000 then ((d.readGlobal sel off, false), d)
  else if off < 0x20000 then d.readChan a port ((off - 0x10000) / 0x1000) (off % 0x1000) parityFail
  else if off < 0x40000 then
    if !d.selects sel (off / 0x10000) then ((0, false), d)
    else if off < 0x30000 then ((d.readSlice sel.slice (off - 0x20000), false), d)
    else ((d.readReachReg sel.slice sel.reach (off - 0x30000), false), d)
  else if off < 0x120000 then ((d.readCounters (off % 0x10000) (decide (0x110000 ≤ off)), false), d)
  else if off < 0x1080000 then ((d.readRing off (ringAt off), false), d)
  else if off < 0x1810000 then ((0, false), d)
  else if off % 0x1000 = 0 then ((word (d.ring (ringAt off)).produced.toNat, false), d)
  else ((0, false), d)

/-- An access to a mailbox channel that neither reads nor writes a slot discards its held half, where the channel is live (R408). -/
def Dev.touchChan (d : Dev) (a : Agent) (port off : Nat) : Dev :=
  let c := (off - 0x10000) / 0x1000
  if 0x10000 ≤ off && off < 0x20000 && (d.chanReason a port c).isNone then d.onChan c fun ch => { ch with heldHalf := none } else d

/-- A write access of `size` bytes (R390): 64 bits aligned reach the slot; any other is discarded and reported; in
reserved space it is ignored. A request of several whole slots is made as its single accesses. -/
def Dev.writeAccess (d : Dev) (a : Agent) (port off size : Nat) (v : BitVec 64) : Dev :=
  if !d.mapped off then d
  else if size = 8 && off % 8 = 0 then d.writeSlot a port (d.selOf a) off v false
  else (d.touchChan a port off).report a port off (if size = 4 && off % 4 = 0 then 1 else 2)

/-- Whether an offset lies in a half of MB_OUT of a channel. -/
def inMbOut (off : Nat) : Bool := decide (0x10000 ≤ off) && decide (off < 0x20000) && off % 0x1000 / 8 == 1

/-- A read access of `size` bytes (R390): its value, poisoned mark, and the package after it. 64 bits aligned read the slot; 32 bits
aligned read the half addressed, with no side effect but those of MB_OUT and of the half held there (R408); any other size or alignment
reads 0, as reserved space does. A request of several whole slots is made as its single accesses. -/
def Dev.readAccess (d : Dev) (a : Agent) (port : Nat) (sel : Sel) (off size : Nat) (parityFail : Bool) : (Nat × Bool) × Dev :=
  let c := (off - 0x10000) / 0x1000
  if !d.mapped off then ((0, false), d)
  else if size = 8 && off % 8 = 0 then
    let (r, d) := d.readSlot a port sel off parityFail
    ((r.1.toNat, r.2), d)
  else if size = 4 && off % 4 = 0 then
    if inMbOut off then d.readOut a port c (if off % 8 = 0 then .low else .high) parityFail
    else
      let r := (d.readSlot a port sel (off / 8 * 8) parityFail).1
      ((wbits r.1 (32 * (off / 4 % 2)) 32, r.2), d.touchChan a port off)
  else ((0, false), d.touchChan a port off)

/-! ### MSI-X (R423) -/

/-- A write of the vector control of an MSI-X table entry in BAR0: bit 0 masks it. A vector whose pending bit is set is sent when
it is unmasked (R423). -/
def Dev.maskVector (d : Dev) (port vector : Nat) (masked : Bool) : Dev :=
  let others := d.msix.enabled.filter fun e => e != (port, vector)
  if masked then { d with msix := { d.msix with enabled := others } }
  else if 2048 ≤ vector then d
  else { d with msix := { d.msix with enabled := others ++ [(port, vector)] } }.releaseVectors (· == (port, vector))

/-- A write of one 32-bit word of an MSI-X table entry: message address low and high, message data, vector control. -/
def Dev.writeVector (d : Dev) (port vector part : Nat) (v : BitVec 32) : Dev :=
  let e := d.msix.entry (port, vector)
  let put (e : MsixEntry) : Dev :=
    { d with msix := { d.msix with
      entries := (d.msix.entries.filter fun x => !(x.port == port && x.vector == vector)) ++ [e] } }
  match part with
  | 0 => put { e with address := BitVec.ofNat 64 (setBits e.address.toNat 0 32 v.toNat) }
  | 1 => put { e with address := BitVec.ofNat 64 (setBits e.address.toNat 32 32 v.toNat) }
  | 2 => put { e with data := v }
  | _ => d.maskVector port vector (v.getLsbD 0)

/-- A write of the message control of a port's function: enable and function mask; unmasking sends what is pending. -/
def Dev.writeMsixControl (d : Dev) (port : Nat) (v : BitVec 16) : Dev :=
  (d.onPort port fun p => { p with msixControl := v &&& 0xC000 }).releaseVectors (·.1 == port)

/-- The 32-bit word at an offset of BAR0 in the MSI-X table, 16 bytes per vector at 0x0010_0000, and in the pending-bit array at
0x0010_8000 (R423); the standard CXL registers below them are not of this map. -/
def Dev.readBar0 (d : Dev) (port off : Nat) : BitVec 32 :=
  if 0x100000 ≤ off ∧ off < 0x108000 then
    let v := (port, (off - 0x100000) / 16)
    let e := d.msix.entry v
    match off / 4 % 4 with
    | 0 => e.address.setWidth 32
    | 1 => BitVec.ofNat 32 (e.address.toNat / 2 ^ 32)
    | 2 => e.data
    | _ => if d.msix.enabled.contains v then 0 else 1
  else if 0x108000 ≤ off ∧ off < 0x108100 then
    let first := (off - 0x108000) / 4 * 32
    BitVec.ofNat 32 (((List.range 32).map fun k => b2n (d.msix.waiting.contains (port, first + k)) * 2 ^ k).sum)
  else 0

/-- A field of a device HDM decoder in BAR0; a committed decoder ignores it (R300). -/
def Hdm.put (h : Hdm) (field : HdmField) (v : Nat) : Hdm :=
  if h.committed then h
  else match field with
    | .base => { h with base := v }
    | .size => { h with size := v }
    | .granularity => { h with granularity := v }
    | .ways => { h with ways := v }
    | .skip => { h with skip := v }
    | .target => { h with target := v }
    | .lockOnCommit => { h with lockOnCommit := v != 0 }

/-! ### The frame of a register command -/

/-- A register access by an agent: a host's port must exist, and the access must reach the register space. -/
def runReg (a : Agent) (port : Nat) (s : State) (f : Dev → Dev) : Host.Outcome State Fault Refusal :=
  guardIf (a != .host || decide (port < s.dev.sliceCount)) .noSuchPort
    (run s fun d => if d.reached a port then f d else d)

/-- A 64-bit write of one register. -/
def runWrite (a : Agent) (port off : Nat) (v : Word) (s : State) : Host.Outcome State Fault Refusal :=
  runReg a port s fun d => d.writeAccess a port off 8 (v.setWidth 64)

/-- A write at an offset of the ring configuration of a ring: that of a ring at or above the part's ring count is reserved and
ignores it (R390, R392). -/
def runRingWrite (a : Agent) (port ring off : Nat) (v : Word) (s : State) : Host.Outcome State Fault Refusal :=
  runReg a port s fun d =>
    if ring < d.ringCount then d.writeAccess a port (0x1000000 + 0x40 * ring + off) 8 (v.setWidth 64) else d

/-- A word with bits [lo + width - 1 : lo] set to `x`. -/
def withField (v : Word) (lo width x : Nat) : Word := word (setBits v.toNat lo width x)

/-- REGISTER_WRITE (R5–R7, R390, R391, R397). -/
def execRegisterWrite (agent : Agent) (port : Nat) (target : RegTarget) (size : Nat) (value : BitVec 64) (s : State) :
    Host.Outcome State Fault Refusal :=
  runReg agent port s fun d =>
    match target with
    | .bar2 off => d.writeAccess agent port off size value
    | .hdm n field =>
      if secureAgent agent then d else d.onPort port fun p => { p with decoders := upd p.decoders n fun h => h.put field value.toNat }
    | .msix v k => if secureAgent agent then d else d.writeVector port v k (value.setWidth 32)
    | .msixControl => if secureAgent agent then d else d.writeMsixControl port (value.setWidth 16)
    | .mailboxControl =>
      if secureAgent agent then d else d.onPort port fun p => { p with mailboxIrq := value.getLsbD 1 }

/-- MAINT_CLEAN (R283, R284): MAINT_CMD with op 1. -/
def execMaintClean (agent : Agent) (port : Nat) (value : Word) (s : State) : Host.Outcome State Fault Refusal :=
  runWrite agent port 0x410 (withField value 0 2 1) s

/-- MAINT_INVALIDATE (R283–R285): MAINT_CMD with op 2. -/
def execMaintInvalidate (agent : Agent) (port : Nat) (value : Word) (s : State) : Host.Outcome State Fault Refusal :=
  runWrite agent port 0x410 (withField value 0 2 2) s

/-- MAINT_CLEAN_INVALIDATE (R283, R284): MAINT_CMD with op 3. -/
def execMaintCleanInvalidate (agent : Agent) (port : Nat) (value : Word) (s : State) : Host.Outcome State Fault Refusal :=
  runWrite agent port 0x410 (withField value 0 2 3) s

/-- SETWAY_CLEAN (R283): CACHE_SETWAY with op 1. -/
def execSetwayClean (agent : Agent) (port : Nat) (value : Word) (s : State) : Host.Outcome State Fault Refusal :=
  runWrite agent port 0x20310 (withField value 17 2 1) s

/-- SETWAY_INVALIDATE (R283, R285): CACHE_SETWAY with op 2. -/
def execSetwayInvalidate (agent : Agent) (port : Nat) (value : Word) (s : State) : Host.Outcome State Fault Refusal :=
  runWrite agent port 0x20310 (withField value 17 2 2) s

/-- SETWAY_CLEAN_INVALIDATE (R283): CACHE_SETWAY with op 3. -/
def execSetwayCleanInvalidate (agent : Agent) (port : Nat) (value : Word) (s : State) : Host.Outcome State Fault Refusal :=
  runWrite agent port 0x20310 (withField value 17 2 3) s

/-- CACHE_CMD_ENABLE (R289). -/
def execCacheCmdEnable (agent : Agent) (port : Nat) (s : State) : Host.Outcome State Fault Refusal :=
  runWrite agent port 0x20300 1 s

/-- DRAIN_DISABLE (R287). -/
def execDrainDisable (agent : Agent) (port : Nat) (s : State) : Host.Outcome State Fault Refusal :=
  runWrite agent port 0x20300 2 s

/-- DISCARD_DISABLE (R288). -/
def execDiscardDisable (agent : Agent) (port : Nat) (s : State) : Host.Outcome State Fault Refusal :=
  runWrite agent port 0x20300 3 s

/-- SWAP_REQUEST (R179, R398). -/
def execSwapRequest (agent : Agent) (port : Nat) (value : Word) (s : State) : Host.Outcome State Fault Refusal :=
  runWrite agent port 0x28 (withField value 0 1 1) s

/-- RETRAIN_ALL (R348). -/
def execRetrainAll (agent : Agent) (port : Nat) (value : Word) (s : State) : Host.Outcome State Fault Refusal :=
  runWrite agent port 0x20608 (withField value 8 1 1) s

/-- MB_ASSIGN_WRITE (R408). -/
def execMbAssignWrite (agent : Agent) (port : Nat) (value : Word) (s : State) : Host.Outcome State Fault Refusal :=
  runWrite agent port 0x30 value s

/-- MB_IN_WRITE (R402, R404, R405). -/
def execMbInWrite (agent : Agent) (port channel : Nat) (value : Word) (parityFail : Bool) (s : State) :
    Host.Outcome State Fault Refusal :=
  guardIf (decide (channel < 16)) .noSuchChannel
    (runReg agent port s fun d => d.writeChan agent port channel 0 value parityFail)

/-- MB_OUT_READ (R390, R405, R408). -/
def execMbOutRead (agent : Agent) (port channel : Nat) (half : OutHalf) (parityFail : Bool) (s : State) :
    Host.Outcome State Fault Refusal :=
  guardIf (decide (channel < 16)) .noSuchChannel
    (runReg agent port s fun d =>
      let at_ := 0x10000 + 0x1000 * channel + 0x08
      let (r, d) := match half with
        | .full => d.readAccess agent port (d.selOf agent) at_ 8 parityFail
        | .low => d.readAccess agent port (d.selOf agent) at_ 4 parityFail
        | .high => d.readAccess agent port (d.selOf agent) (at_ + 4) 4 parityFail
      d.emit (.readData (BitVec.ofNat 64 r.1) (r.2 && agent == .host)))

/-- MAILBOX_DROP (R406). -/
def execMailboxDrop (agent : Agent) (port channel : Nat) (value : Word) (s : State) : Host.Outcome State Fault Refusal :=
  guardIf (decide (channel < 16)) .noSuchChannel
    (runReg agent port s fun d => d.writeChan agent port channel 0x18 (withField value 0 1 1) false)

/-- RING_ENABLE (R416). -/
def execRingEnable (agent : Agent) (port ring : Nat) (value : Word) (s : State) : Host.Outcome State Fault Refusal :=
  runRingWrite agent port ring 0x10 (withField (withField value 21 1 0) 5 1 1) s

/-- RING_DISABLE (R418). -/
def execRingDisable (agent : Agent) (port ring : Nat) (value : Word) (s : State) : Host.Outcome State Fault Refusal :=
  runRingWrite agent port ring 0x10 (withField (withField value 21 1 0) 5 1 0) s

/-- RING_RESET (R418). -/
def execRingReset (agent : Agent) (port ring : Nat) (value : Word) (s : State) : Host.Outcome State Fault Refusal :=
  runRingWrite agent port ring 0x10 (withField value 21 1 1) s

/-- RING_DOORBELL (R416, R417); that of a ring at or above the part's ring count is reserved and ignores it (R390, R392). -/
def execRingDoorbell (port ring : Nat) (value : Word) (s : State) : Host.Outcome State Fault Refusal :=
  runReg .host port s fun d =>
    if ring < d.ringCount then d.writeAccess .host port (0x2000000 + 0x1000 * ring) 8 (value.setWidth 64) else d

/-- RING_CPL_HEAD_WRITE (R417). -/
def execRingCplHeadWrite (agent : Agent) (port ring : Nat) (value : Word) (s : State) : Host.Outcome State Fault Refusal :=
  runRingWrite agent port ring 0x20 value s

/-- HINT_WRITE (R290, R291): 64 bits in the hint window are one record; `size` is in bytes. -/
def execHintWrite (port size : Nat) (record : BitVec 64) (s : State) : Host.Outcome State Fault Refusal :=
  runReg .host port s fun d => d.writeAccess .host port 0x1800000 size record

end Sys2Proof.Machine
end

