-- ==== Sys2Proof/Machine/Mailbox.lean ====
section
/-!
DEFINITION. Requests on a mailbox channel: how the firmware takes the request at the front of a channel, checks it in the
order of R429 and answers it; buffers, and requests that no command answers (R402–R405, R424–R434).
-/
namespace Sys2Proof.Machine

open Sys2Proof

/-! ### The command summary (R434) -/

/-- A row of the command summary: opcode, secure channels only, modes (0 all, 1 service group, 2 service group and
RECOVERY), least and most payload words, and the bits of each payload word that are not reserved. -/
abbrev CmdSpec := Nat × Bool × Nat × Nat × Nat × List Nat

/-- Rows of groups 0x01 to 0x05. -/
def cmdTableA : List CmdSpec :=
  [(0x0101, false, 0, 0, 0, []),
   (0x0102, false, 0, 1, 1, [0x7]),
   (0x0201, false, 0, 2, 2, [0x1FFFFFFFF, 0xFFFFFFFF]),
   (0x0202, false, 1, 0, 0, []),
   (0x0203, false, 0, 0, 0, []),
   (0x0204, false, 0, 1, 1, [0x7FFFF]),
   (0x0205, false, 1, 0, 0, []),
   (0x0206, false, 0, 1, 1, [0x7]),
   (0x0301, false, 0, 3, 3, [0x3F, 0xFFFFFFFFFFF, 0x7FFF]),
   (0x0302, false, 0, 1, 1, [0x7F]),
   (0x0303, false, 0, 2, 2, [0x7, 0x1F]),
   (0x0304, false, 0, 0, 0, []),
   (0x0401, false, 0, 3, 3, [0x7, 0xFFFFFFFFFFFF, 0xFFFFFFFFFFFF]),
   (0x0402, false, 0, 1, 1, [0x1FF]),
   (0x0403, false, 0, 1, 1, [0xFF]),
   (0x0404, false, 0, 1, 1, [0x7]),
   (0x0501, true, 1, 1, 1, [0x1F]),
   (0x0502, true, 1, 1, 1, [0x1F]),
   (0x0503, true, 1, 1, 1, [0x1F]),
   (0x0504, false, 0, 1, 1, [0x1F]),
   (0x0505, true, 1, 1, 1, [0x3FFFFFF]),
   (0x0506, true, 1, 1, 1, [0x1F]),
   (0x0507, false, 0, 1, 1, [0x1]),
   (0x0510, true, 2, 1, 1, [0xFF])]

/-- Rows of groups 0x06 to 0x0C. -/
def cmdTableB : List CmdSpec :=
  [(0x0601, false, 0, 1, 1, [0xF]),
   (0x0602, false, 0, 1, 1, [0xFFFFFFFF]),
   (0x0603, false, 0, 0, 0, []),
   (0x0604, true, 0, 0, 0, []),
   (0x0605, false, 0, 0, 0, []),
   (0x0606, false, 0, 0, 0, []),
   (0x0607, false, 0, 1, 1, [0x1F]),
   (0x0701, false, 1, 1, 1, [0xF]),
   (0x0702, false, 0, 0, 0, []),
   (0x0703, false, 0, 0, 0, []),
   (0x0704, false, 0, 0, 0, []),
   (0x0705, true, 0, 0, 0, []),
   (0x0801, false, 0, 0, 0, []),
   (0x0802, true, 1, 1, 1, [0x1]),
   (0x0803, true, 1, 0, 0, []),
   (0x0804, false, 1, 0, 0, []),
   (0x0805, true, 1, 1, 1, [0x1FFF]),
   (0x0806, true, 1, 1, 1, [0x3FFF]),
   (0x0901, false, 0, 2, 2, [0x7FFFFFFFF, 0xFFFFFFFF]),
   (0x0902, false, 0, 1, 1, [0x3]),
   (0x0903, false, 0, 0, 0, []),
   (0x0A01, false, 0, 0, 0, []),
   (0x0A02, true, 0, 2, 2, [0x3, 0xFFFFFFFFFFFF]),
   (0x0A03, true, 0, 1, 1, [0x3]),
   (0x0A04, true, 0, 0, 0, []),
   (0x0A05, true, 0, 0, 0, []),
   (0x0A06, false, 0, 1, 1, [0xF]),
   (0x0A07, true, 0, 2, 2, [0xF, 0xFFFFFFFFFFFF]),
   (0x0A08, true, 0, 1, 1, [0x1F]),
   (0x0A09, false, 2, 0, 0, []),
   (0x0B01, false, 0, 0, 0, []),
   (0x0B02, true, 0, 1, 1, [0x1FFFF]),
   (0x0B03, false, 0, 1, 1, [0xFFFF]),
   (0x0C01, false, 0, 1, 1, [0xFFFFFF]),
   (0x0C02, false, 0, 2, 12, [0xFFFFFF])]

/-- The row of an opcode. -/
def cmdSpec (op : Nat) : Option CmdSpec := (cmdTableA ++ cmdTableB).find? fun r => r.1 == op

/-- Whether a mode is one of a command's modes. -/
def modeAllowed (set : Nat) (m : Mode) : Bool :=
  match set with
  | 0 => m.ticks
  | 1 => m.isService
  | _ => m.isService || m == .recovery

/-- Whether CLOVE serves an opcode (R355, R429): LIFECYCLE_GET and the identity and health groups. -/
def cloveServes (op : Nat) : Bool := op == 0x0A01 || op / 256 == 1 || op / 256 == 6

/-! ### Replies -/

/-- An error without payload. -/
def fail (status : Nat) : Reply := .now status 0 []

/-- BAD_FIELD with the offending word and the lowest bit of the offending field (R427). -/
def badField (i bit : Nat) : Reply := .now 4 0 [word (i + bit * 16)]

/-- A performed command with its payload. -/
def done (ws : List Word) : Reply := .now 0 0 ws

/-- A performed command that wrote buffer data (R430). -/
def doneBuffer (ws : List Word) : Reply := .now 0 2 ws

/-- Word `i` of a request, the header being word 0. -/
def Req.w (q : Req) (i : Nat) : Word := q.words.getD i 0

/-- Field of word `i` of a request. -/
def Req.f (q : Req) (i lo width : Nat) : Nat := wbits (q.w i) lo width

/-- Whether a request came on a secure channel. -/
def Req.secure (q : Req) : Bool := decide (8 ≤ q.channel)

/-- A response that waits for an event. -/
def Dev.await (d : Dev) (q : Req) (what : WaitFor) : Dev :=
  { d with waiters := d.waiters ++ [⟨q.channel, q.opcode, q.tag, what⟩] }

/-! ### Buffers (R412, R430) -/

/-- Bytes of a channel's buffer. -/
def Dev.bufferSize (d : Dev) (c : Nat) : Nat := if c < 8 then 4096 * (d.chan c).bufPages else 4096

/-- The secure buffer window. -/
def Dev.window (d : Dev) : List Byte := memRead d.i3c.window 0 4096

/-- The first `n` bytes of a request's buffer: what the host returned for a non-secure channel, the secure buffer window
for a secure one. Host bytes that stop short stand for data that came back poisoned. -/
def Dev.bufferBytes (d : Dev) (q : Req) (host : List Byte) (n : Nat) : Option (List Byte) :=
  if q.secure then some (d.window.take n) else if n ≤ host.length then some (host.take n) else none

/-- Writes data to a channel's buffer (R430). -/
def Dev.writeBuffer (d : Dev) (c : Nat) (b : List Byte) : Dev :=
  if c < 8 then d.emit (.hostWrite (d.chanPort c) (4096 * (d.chan c).bufAddr) b)
  else { d with i3c := { d.i3c with window := memWrite d.i3c.window 0 (b.take 4096) } }

/-! ### Taking a request (R403–R405) -/

/-- The lowest bit of the reserved field of `w` that holds its lowest set bit outside a mask; `none` when every such bit
is 0. -/
def reservedBit (w mask : Nat) : Option Nat :=
  ((List.range 48).find? fun b => bitAt w b && !bitAt mask b).map fun b =>
    b - ((List.range (b + 1)).findIdx fun k => k == b || bitAt mask (b - k - 1))

/-- The first reserved bit set in a request, as (word, bit). -/
def firstReserved (q : Req) (masks : List Nat) : Option (Nat × Nat) :=
  if q.f 0 0 12 != 0 then some (0, 0)
  else (List.range masks.length).findSome? fun i =>
    (reservedBit (q.w (i + 1)).toNat (masks.getD i 0)).map fun b => (i + 1, b)

/-- The whole request at the front of an inbound FIFO, with the words after it and whether a word failed its parity. -/
def Chan.front (ch : Chan) (c : Nat) : Option (Req × List MbWord × Bool) :=
  match ch.inb with
  | [] => none
  | h :: _ =>
    let n := headerLength h.word + 1
    if ch.inb.length < n then none
    else
      let ws := ch.inb.take n
      some (⟨c, wbits h.word 32 16, wbits h.word 12 16, ws.map (·.word)⟩, ch.inb.drop n, ws.any (·.bad))

/-- Opcodes that the firmware meets with an access to the parameter store: keys and title records, the recorder and the last gasp,
lifecycle records and anti-rollback counters. DEDUCED (log entry 155). -/
def storeOpcodes : List Nat :=
  [0x0201, 0x0501, 0x0506, 0x0602, 0x0604, 0x0605, 0x0803, 0x0805, 0x0901, 0x0A01, 0x0A02, 0x0A06, 0x0A07, 0x0A08]

/-- Whether the request at the front of a channel waits for the page that the parameter store programs (R523). -/
def Dev.awaitsStore (d : Dev) (c : Nat) : Bool :=
  d.pstore.writing.isSome && match (d.chan c).front c with
    | some (q, _, _) => storeOpcodes.contains q.opcode
    | none => false

/-- Whether the firmware serves a channel now: its mode runs the firmware, debug has not halted it (R381), no target holds firmware that
failed its check (R29), no earlier request of the channel is unanswered (R403), and the request in front does not wait for the parameter
store (R523). -/
def Dev.serving (d : Dev) (c : Nat) : Bool :=
  d.mode.ticks && !d.dbg.halted && d.notStarted.isNone && !d.waiters.any (·.channel == c) && !d.pstore.queue.any (·.channel == some c)
    && !d.awaitsStore c

/-- Empties the inbound FIFO after a discarded write and answers the first header it held (R404); in_empty is raised where that leaves a
FIFO empty which held a word (R407). -/
def Dev.resync (d : Dev) (c : Nat) : Dev :=
  let head := (d.chan c).inb.head?
  let d := d.onChan c fun ch => { ch with inb := [], inbLeft := 0 }
  let d := match head with
    | some h => (d.causeInEmpty c).respond c (wbits h.word 32 16) (wbits h.word 12 16) 0 3 []
    | none => d
  d.onChan c fun ch => { ch with overrun := false, resync := false }

/-- Takes the front request out of the inbound FIFO; in_empty is raised when that leaves it empty (R407). -/
def Dev.takeRequest (d : Dev) (c : Nat) (rest : List MbWord) : Dev :=
  let d := (d.onChan c fun ch => { ch with inb := rest }).countPkg (if c < 8 then 0 else 1) 1
  if rest.isEmpty then d.causeInEmpty c else d

/-- Sends the reply to a request. -/
def Dev.answer (d : Dev) (q : Req) : Reply → Dev
  | .now status flags payload =>
    let d := if status = 1 then d.countPkg 5 1 else if status = 9 then d.countPkg 3 1
      else if status = 0x0C then d.countPkg 4 1 else d
    d.respond q.channel q.opcode q.tag flags status payload
  | .later => d

/-- The checks of R429 that depend on no field of the command: the first failure, or none. `early` tells the command's
own BAD_LENGTH for its buffer, DENIED for its channel kind, and WRONG_MODE. -/
def Dev.refusal (d : Dev) (q : Req) (bad : Bool) (r : CmdSpec) (early : Option Nat) : Option Reply :=
  let (op, secureOnly, modes, least, most, masks) := r
  let n := q.words.length - 1
  if bad then some (fail 9)
  else if n < least || most < n then some (fail 3)
  else if early = some 3 then some (fail 3)
  else if (secureOnly && !q.secure) || early = some 5 then some (fail 5)
  else if d.fuses.lifecycle == .clove && !cloveServes op then some (fail 0x0E)
  else if !modeAllowed modes d.mode || early = some 6 then some (fail 6)
  else (firstReserved q masks).map fun e => badField e.1 e.2

/-- The firmware serves the front request of a channel when its opcode is `op`: it is refused by R429, or the command
runs and answers. -/
def Dev.serve (d : Dev) (c op : Nat) (early : Dev → Req → Option Nat) (body : Dev → Req → Dev × Reply) : Dev :=
  if !d.serving c then d
  else if (d.chan c).resync then d.resync c
  else match (d.chan c).front c, cmdSpec op with
    | some (q, rest, bad), some r =>
      if q.opcode != op then d
      else
        let d := d.takeRequest c rest
        match d.refusal q bad r (early d q) with
        | some reply => d.answer q reply
        | none =>
          let (d, reply) := body d q
          d.answer q reply
    | _, _ => d

/-- No check of its own ahead of the mode check. -/
def noEarly : Dev → Req → Option Nat := fun _ _ => none

/-- The frame of a mailbox command. -/
def runCmd (channel op : Nat) (s : State) (early : Dev → Req → Option Nat) (body : Dev → Req → Dev × Reply) :
    Host.Outcome State Fault Refusal :=
  runChan channel s fun d => d.serve channel op early body

/-- The frame of a command that only answers. -/
def runAnswer (channel op : Nat) (s : State) (body : Dev → Req → Reply) : Host.Outcome State Fault Refusal :=
  runCmd channel op s noEarly fun d q => (d, body d q)

/-! ### Requests that no command answers -/

/-- UNDEFINED_OPCODE (R426): the front request carries a notification code or an opcode of no command. -/
def execUndefinedOpcode (channel : Nat) (s : State) : Host.Outcome State Fault Refusal :=
  runChan channel s fun d =>
    if !d.serving channel then d
    else if (d.chan channel).resync then d.resync channel
    else match (d.chan channel).front channel with
      | some (q, rest, bad) =>
        if (cmdSpec q.opcode).isSome then d
        else (d.takeRequest channel rest).answer q (fail (if bad then 9 else 2))
      | none => d

/-- MAILBOX_TIMEOUT (R403): the declared words have not all arrived 10 ms after the header. -/
def execMailboxTimeout (channel : Nat) (s : State) : Host.Outcome State Fault Refusal :=
  runChan channel s fun d =>
    if !d.serving channel then d
    else if (d.chan channel).resync then d.resync channel
    else match (d.chan channel).inb, (d.chan channel).front channel with
      | h :: _, none =>
        let d := (d.onChan channel fun ch => { ch with inb := [], inbLeft := 0 }).causeInEmpty channel
        (d.countPkg 4 1).respond channel (wbits h.word 32 16) (wbits h.word 12 16) 0 0x0C []
      | _, _ => d

end Sys2Proof.Machine
end

