-- ==== Sys2Proof/Machine/Contract.lean ====
section
/-!
DEFINITION. What the package reports of its service contract: lapse causes, bounds under clock-step and while a swap is
pending, the bound of a Global Persistent Flush, and the identity of the variant a slice runs (R114, R116, R133, R174,
R294, R302, R318, R335, R440, R515, R545).
-/
namespace Sys2Proof.Machine

open Sys2Proof

/-! ### Lapse causes (R174, R545) -/

/-- Whether a slice runs no variant of the installed image. -/
def Source.isBuiltin : Source → Bool
  | .image _ _ => false
  | _ => true

/-- The variant index of an image source. -/
def Source.variant : Source → Option Nat
  | .image v _ => Option.some v
  | _ => Option.none

/-- Read and write rates in MB/s that a variant declares for port `p`: those of the slices whose DPA it serves under the
image's interleave (R318). -/
def portRates (b : List Byte) (v n p : Nat) : Nat × Nat :=
  let ways := byteAt b 0x0E
  let mine := ((List.range n).filter fun s => s % ways == p).length
  (mine * total ((List.range 6).map (imgReadRate b v)), mine * total ((List.range 6).map (imgWriteRate b v)))

/-- Whether a link carries a payload rate in MB/s out of a base at x16 and 64 GT/s (R297). -/
def Port.carries (p : Port) (base rate : Nat) : Bool :=
  decide (rate * 16 * 64 * 8 ≤ base * p.width * p.speed * (if p.flit256 then 8 else 7))

/-- Whether a port runs below the width and speed that carry its declared rates (R318). -/
def Port.belowRates (p : Port) (rates : Nat × Nat) : Bool :=
  !(p.carries 112000 rates.1 && p.carries 88000 rates.2 && p.carries 200000 (rates.1 + rates.2))

/-- Lapse causes of a slice as the health page numbers them (R545). -/
def Dev.lapseCauses (d : Dev) (i : Nat) : Nat :=
  let s := d.slice i
  let image := d.image.getD []
  let decoders := d.ports.flatMap fun p => p.decoders.filter (·.committed)
  let v := s.source.variant
  let nMin := match v with
    | some v => imgSummary image v 3 1
    | none => 0
  let rung := match s.source with
    | .image _ r => decide (r < d.rung)
    | _ => false
  let rates : Bool := match v with
    | some v => (d.port i).belowRates (portRates image v d.sliceCount i)
    | none => false
  b2n s.source.isBuiltin
    + 2 * b2n (d.throttleMethod == 1 && rung)
    + 4 * b2n (d.image.isSome && decoders.any fun h => h.ways != byteAt image 0x0E)
    + 8 * b2n rates
    + 16 * b2n (s.dram.healthy != 0xFF)
    + 32 * b2n (d.clock.skipN != 0 && (nMin == 0 || decide (d.clock.skipN < nMin)))

/-- Whether the contract of a slice is reported as lapsed. -/
def Dev.lapsed (d : Dev) (i : Nat) : Bool := d.lapseCauses i != 0

/-! ### Bounds (R116, R133, R440) -/

/-- A bound of `m` scheduled ticks in tick periods (R116). -/
def Dev.stretch (d : Dev) (m : Nat) : Nat :=
  if d.clock.skipN < 2 then m else m + ceilDiv m (d.clock.skipN - 1)

/-- The image of the variants in the shadow sets while a swap is pending: the one that it brings, and during the shadow copy the one
that it replaced. -/
def Dev.otherImage (d : Dev) : Option (List Byte) :=
  if d.swap.pending.isSome then d.images.arriving.orElse fun _ => d.image else d.images.leaving

/-- The bound reported for a class: that of the variant in force, or the larger of two while a swap is pending, which it is until
its shadow copy has finished (R133, R179); 0 for an uncovered class. -/
def Dev.reportedBound (d : Dev) (i c : Nat) : Nat :=
  let s := d.slice i
  let now := (sourceBound d.image s.source c).getD 0
  let other := (sourceBound d.otherImage s.shadowSource c).getD 0
  d.stretch (if d.swapPending then max now other else now)

/-- The applied rows of every healthy reach of a slice. -/
def Slice.appliedRows (s : Slice) : List (List Row) :=
  ((List.range 18).filter s.healthyReach).map fun r =>
    (List.range 1024).filterMap fun t => s.row r t

/-- Programs of a kind per round under the lane rule (R139). -/
def laneProgs (rows : List (List Row)) (k : FillKind) : Nat := sumSmallest 16 (perSequence rows (·.prog k))

/-- The largest number of ticks between the flagged ticks of a round, which repeats. -/
def largestGap (ticks : List Nat) : Option Nat :=
  match ticks with
  | [] => none
  | t :: rest => some (largest (((t :: rest).zip (rest ++ [t + 1024])).map fun e => e.2 - e.1))

/-- The bound of a Global Persistent Flush of a slice in µs, `none` without one (R294). -/
def Dev.flushBound (d : Dev) (i : Nat) : Option Nat :=
  let s := d.slice i
  let rows := s.appliedRows
  let p := laneProgs rows .host + laneProgs rows .durable + laneProgs rows .bulk
  match largestGap ((List.range 1024).filter fun t => s.flagged t 4) with
  | none => none
  | some g =>
    if p = 0 then none
    else
      let ticks := ceilDiv (16 * (basinSlots d.fuses.dram4 + 65536) * 1024) p + g + 2
      some (ceilDiv (400000 + d.stretch ticks * 1024) 1000)

/-- The GPF phase 2 duration of the CXL capability in ms (R294): the flush bound rounded up, and without one the largest value that the
field can encode. -/
def Dev.gpfPhase2 (d : Dev) (i : Nat) : Nat :=
  match d.flushBound i with
  | some n => min (ceilDiv n 1000) Config.gpfLargest
  | none => Config.gpfLargest

/-- Whether every row of every healthy reach grants a retry read. -/
def Slice.retryEverywhere (s : Slice) : Bool :=
  ((List.range 18).filter s.healthyReach).all fun r => (List.range 1024).all fun t =>
    match s.row r t with
    | some row => decide (1 ≤ row.tow .retry)
    | none => false

/-- The rung of a table source. -/
def Source.rung : Source → Nat
  | .builtin r _ => r
  | .image _ r => r
  | _ => 0

/-- Whether the variant a slice runs declares a durable class. -/
def Dev.hasDurable (d : Dev) (i : Nat) : Bool :=
  match (d.slice i).source.variant, d.image with
  | some v, some b => imgSummary b v 0x06 1 != 0
  | _, _ => false

/-- Variant number of a table source: an image index, or a built-in number of R438. -/
def Source.number : Source → Nat
  | .image v _ => v
  | .builtin r k => r + 8 * k
  | .preserve => 24
  | .shutdown | .none => 0

end Sys2Proof.Machine
end

