-- ==== Sys2Proof/Machine/Service.lean ====
section
/-!
DEFINITION. Mailbox commands of groups 0x01 to 0x04: identity, schedule images and swaps, regions and port classes, line
cache maintenance and disabling (R175–R184, R283–R289, R435–R444).
-/
namespace Sys2Proof.Machine

open Sys2Proof

/-! ### Identity (R435) -/

/-- Link speed code: 1 to 4 for 8 to 64 GT/s, 0 without a link. -/
def speedCode (gts : Nat) : Nat := if gts = 8 then 1 else if gts = 16 then 2 else if gts = 32 then 3 else if gts = 64 then 4 else 0

/-- Words of IDENTIFY. -/
def Dev.identifyWords (d : Dev) : List Word :=
  let rev (t : Nat) : Nat := (d.firmware.getD t {}).revision % 2 ^ 24
  let id := d.fuses.deviceId.toNat
  [d.deviceInfo,
   word (rev 0 + rev 1 * 2 ^ 24),
   word (id % 2 ^ 48),
   word (id / 2 ^ 48 + 512 * d.sliceCount * 2 ^ 16 + d.ringCount * 2 ^ 32)]

/-- IDENTIFY (R435). -/
def execIdentify (channel : Nat) (s : State) : Host.Outcome State Fault Refusal :=
  runAnswer channel 0x0101 s fun d _ => done d.identifyWords

/-- Words of IDENTIFY_SLICE. -/
def Dev.identifySliceWords (d : Dev) (i : Nat) : List Word :=
  let s := d.slice i
  let p := d.port i
  let healthy := total ((List.range 18).map fun r => if s.healthyReach r then 2 ^ r else 0)
  let up := p.link != .down
  [word (healthy + min 3 s.retiredCount * 2 ^ 18 + min 3 s.upkeep.effective * 2 ^ 20 + s.dram.healthy.toNat * 2 ^ 22
      + b2n d.fuses.dram4 * 2 ^ 30 + b2n s.inRecovery * 2 ^ 31),
   word ((if up then p.width + speedCode p.speed * 2 ^ 5 + b2n p.flit256 * 2 ^ 9 else 0)
      + b2n (!p.ideKeys.isEmpty) * 2 ^ 10)]

/-- Whether a slice number is of this part. -/
def Dev.hasSlice (d : Dev) (i : Nat) : Bool := decide (i < d.sliceCount)

/-- IDENTIFY_SLICE (R435). -/
def execIdentifySlice (channel : Nat) (s : State) : Host.Outcome State Fault Refusal :=
  runAnswer channel 0x0102 s fun d q =>
    if !d.hasSlice (q.f 1 0 3) then badField 1 0 else done (d.identifySliceWords (q.f 1 0 3))

/-! ### Schedule images (R175–R178, R436) -/

/-- Changes the image store. -/
def Dev.onImages (d : Dev) (f : Images → Images) : Dev := { d with images := f d.images }

/-- The two words of a validation failure. -/
def VFail.reply (f : VFail) : Reply := .now 0x0A 0 [word f.words.1, word f.words.2]

/-- A staged image fails: the report is kept, and any earlier candidate goes (R176). -/
def Dev.imageRejected (d : Dev) (f : VFail) : Dev × Reply :=
  (d.onImages fun m => { m with candidate := none, staging := none, report := f.words }, f.reply)

/-- The last part of an image has been copied: the validator runs. -/
def Dev.finishLoad (d : Dev) (b : List Byte) : Dev × Reply :=
  match d.validate b with
  | none => (d.onImages fun m => { m with candidate := some b, staging := none }, done [])
  | some f => d.imageRejected f

/-- A part of an image (R436). -/
def Dev.imagePart (d : Dev) (q : Req) (host : List Byte) : Dev × Reply :=
  let off := q.f 1 0 32
  let last := q.f 1 32 1 = 1
  let n := q.f 2 0 32
  let mine := d.images.staging.bind fun e => if e.1 = q.channel then some e.2 else none
  if off % 4096 ≠ 0 then (d, badField 1 0)
  else if n = 0 ∨ (¬ last ∧ n % 4096 ≠ 0) then (d, badField 2 0)
  else if off ≠ 0 ∧ mine.map List.length ≠ some off then (d, badField 1 0)
  else if d.images.staging.any fun e => e.1 != q.channel then (d, fail 1)
  else if 2 ^ 21 < off + n then d.imageRejected (imageFail 0x0104 0xFF)
  else match d.bufferBytes q host n with
    | none => (d, fail 9)
    | some b =>
      let staged := (if off = 0 then [] else mine.getD []) ++ b
      if last then d.finishLoad staged
      else (d.onImages fun m => { m with staging := some (q.channel, staged) }, done [])

/-- IMAGE_LOAD (R176, R436). -/
def execImageLoad (channel : Nat) (buffer : List Byte) (s : State) : Host.Outcome State Fault Refusal :=
  runCmd channel 0x0201 s
    (fun d q => if d.bufferSize q.channel < q.f 2 0 32 then some 3 else none)
    fun d q => d.imagePart q buffer

/-- IMAGE_STAGING_TIMEOUT (R431): one second without a part frees the staging. -/
def execImageStagingTimeout (s : State) : Host.Outcome State Fault Refusal :=
  run s fun d => if d.mode.ticks then d.onImages fun m => { m with staging := none } else d

/-- Whether an image covers a slice's effective retired count (R177 step 1). -/
def Dev.coveredBy (d : Dev) (b : List Byte) (i : Nat) : Bool :=
  let s := d.slice i
  let k := s.upkeep.effective
  k == 0 || decide (3 ≤ k) || !(usableVariants b k s.runnable).isEmpty

/-- Begins to write an image as the two copies of the next generation, that on slice 0 first (R177 step 2). -/
def Dev.storeImage (d : Dev) (b : List Byte) : Dev :=
  let gen := (((newestCopy d.images.copies).map (·.generation)).getD 0 + 1) % 2 ^ 48
  d.onImages fun m =>
    { m with copies := [some ⟨b, gen, false⟩, m.copies.getD 1 none], storing := some 0, candidate := none }

/-- IMAGE_ACTIVATE (R165, R177): its steps go on at tick boundaries, and the response follows the boundary at which the swap
takes effect. -/
def execImageActivate (channel : Nat) (s : State) : Host.Outcome State Fault Refusal :=
  runCmd channel 0x0202 s noEarly fun d q =>
    if d.swapPending then (d, fail 0x0F)
    else if d.swap.changeDue || d.images.storing.isSome then (d, fail 1)
    else match d.images.candidate with
      | none => (d, fail 7)
      | some b =>
        if !(List.range d.sliceCount).all (d.coveredBy b) then
          let f := imageFail 0x0701 0xFF
          (d.onImages fun m => { m with report := f.words }, f.reply)
        else
          ((d.storeImage b).await q .swap, .later)

/-! ### Schedule status (R437–R440) -/

/-- A 128-bit identifier in three words, the last with 32 bits (R437). -/
def idWords (id : Nat) : List Word := [word (id % 2 ^ 48), word (id / 2 ^ 48 % 2 ^ 48), word (id / 2 ^ 96 % 2 ^ 32)]

/-- Four words of an image: contract_id with variant_count, and security_version. -/
def imageWords (id count version flag high : Nat) : List Word :=
  [word (id % 2 ^ 48), word (id / 2 ^ 48 % 2 ^ 48), word (id / 2 ^ 96 % 2 ^ 32 + count * 2 ^ 32 + flag * 2 ^ 40),
   word (version % 2 ^ 32 + high * 2 ^ 32)]

/-- The byte of a slice in w11 and w12. -/
def Dev.variantByte (d : Dev) (i : Nat) : Nat :=
  let src := (d.slice i).source
  src.number + b2n src.isBuiltin * 32 + b2n (d.lapsed i) * 64

/-- Words of IMAGE_STATUS. -/
def Dev.imageStatusWords (d : Dev) : List Word :=
  let cand := b2n d.images.candidate.isSome
  let force := match d.image with
    | some b => imageWords (imgContract b) (imgVariants b) (imgSecurity b) 1 cand
    | none => imageWords Config.builtinContract.toNat 24 Config.builtinVersion 0 cand
  let next := match d.images.candidate with
    | some b => imageWords (imgContract b) (imgVariants b) (imgSecurity b) 0 0
    | none => [0, 0, 0, 0]
  let slices := total ((List.range d.sliceCount).map fun i => d.variantByte i * 256 ^ i)
  force ++ next ++ [word d.images.report.1, word d.images.report.2, word (slices % 2 ^ 48), word (slices / 2 ^ 48),
    word (b2n d.swapPending + d.rung * 2 + d.swap.lastRound.toNat * 2 ^ 16)]

/-- IMAGE_STATUS (R437). -/
def execImageStatus (channel : Nat) (s : State) : Host.Outcome State Fault Refusal :=
  runAnswer channel 0x0203 s fun d _ => done d.imageStatusWords

/-- The slot table that SCHED_READ names: templates and sequences, or the reply that refuses it (R438). DESIGN CHOICE: while an installed
image is stored and not in force (it failed at a start, or its swap was abandoned), source 2 reads the image in force, or answers STATE
where there is none; the manual does not say what it reads then (R175). -/
def Dev.namedTable (d : Dev) (q : Req) : Table ⊕ Reply :=
  let i := q.f 1 3 3
  let v := q.f 1 6 5
  match q.f 1 0 2 with
  | 0 => if d.hasSlice i then .inl (d.slice i).active else .inr (badField 1 3)
  | 1 => if d.hasSlice i then .inl (d.slice i).shadow else .inr (badField 1 3)
  | 2 =>
    match d.images.arriving.orElse fun _ => d.image with
    | none => .inr (fail 7)
    | some b => if v < imgVariants b then .inl ⟨imgTemplates b v, imgSequences b v⟩ else .inr (badField 1 6)
  | _ =>
    if v < 24 then .inl ⟨builtinTemplates (v % 8) (v / 8), List.replicate 18 fiveSequence⟩
    else if v = 24 then .inl ⟨preserveTemplates, List.replicate 18 fiveSequence⟩
    else .inr (badField 1 6)

/-- The bytes of a sequence; what a reach without a sequence holds is open. -/
def Dev.sequenceBytes (d : Dev) (q : List Nat) : List Byte × Dev :=
  if q.length = 1024 then (q.map (BitVec.ofNat 8), d)
  else ((List.range 1024).map fun k => BitVec.ofNat 8 (Config.freeNat (d.draws + k)), { d with draws := d.draws + 1024 })

/-- SCHED_READ (R438). -/
def execSchedRead (channel : Nat) (s : State) : Host.Outcome State Fault Refusal :=
  runCmd channel 0x0204 s
    (fun d q => if d.bufferSize q.channel < (if q.f 1 2 1 = 1 then 1024 else 96) then some 3 else none)
    fun d q =>
      let n := q.f 1 11 8
      match d.namedTable q with
      | .inr reply => (d, reply)
      | .inl t =>
        if q.f 1 2 1 = 0 then
          match t.templates[n]? with
          | none => (d, badField 1 11)
          | some r => (d.writeBuffer q.channel (bytesOfWords r), doneBuffer [word 96])
        else match t.sequences[n]? with
          | none => (d, badField 1 11)
          | some x =>
            let (b, d) := d.sequenceBytes x
            (d.writeBuffer q.channel b, doneBuffer [word 1024])

/-- SCHED_SWAP (R439). -/
def execSchedSwap (channel : Nat) (s : State) : Host.Outcome State Fault Refusal :=
  runCmd channel 0x0205 s noEarly fun d _ =>
    if d.swapPending then (d, fail 0x0F) else (d.acceptSwap .all, done [word d.swapRound])

/-- Whether a slice runs, or with a pending swap will run, a variant with a durable class. -/
def Dev.reportsDurable (d : Dev) (i : Nat) : Bool :=
  let next := match (d.slice i).shadowSource.variant, d.otherImage with
    | some v, some b => imgSummary b v 0x06 1 != 0
    | _, _ => false
  d.hasDurable i || (d.swapPending && next)

/-- Words of CONTRACT_REPORT but for the flush bound. -/
def Dev.contractWords (d : Dev) (i : Nat) : List Word :=
  let s := d.slice i
  let three (c : Nat) : Word :=
    word (d.reportedBound i c + d.reportedBound i (c + 1) * 2 ^ 16 + d.reportedBound i (c + 2) * 2 ^ 32)
  let durable := if d.reportsDurable i then d.stretch 10 else 0
  [three 0, three 3,
   word (durable + d.declaredW i % 2 ^ 16 * 2 ^ 16 + s.source.rung * 2 ^ 32 + b2n (d.lapsed i) * 2 ^ 35
     + b2n s.source.isBuiltin * 2 ^ 36 + b2n s.retryEverywhere * 2 ^ 37 + b2n (d.flushBound i).isNone * 2 ^ 38)]

/-- The flush bound word; a bound beyond 32 bits leaves it open. -/
def Dev.flushWord (d : Dev) (i : Nat) : Word × Dev :=
  match d.flushBound i with
  | none => (word 0xFFFFFFFF, d)
  | some n =>
    if n < 2 ^ 32 then (word n, d)
    else
      let (x, d) := d.draw (2 ^ 32)
      (word x, d)

/-- CONTRACT_REPORT (R116, R133, R294, R440). -/
def execContractReport (channel : Nat) (s : State) : Host.Outcome State Fault Refusal :=
  runCmd channel 0x0206 s noEarly fun d q =>
    let i := q.f 1 0 3
    if !d.hasSlice i then (d, badField 1 0)
    else
      let (w, d') := d.flushWord i
      (d', done (d.contractWords i ++ [w]))

/-! ### Regions (R400, R441, R442) -/

/-- Changes the shadow groups. -/
def Dev.onShadow (d : Dev) (f : Groups → Groups) : Dev := { d with shadow := f d.shadow }

/-- Whether an IMAGE_ACTIVATE that still runs holds the shadow sets (R431); once it has requested its swap, a swap is pending. -/
def Dev.shadowHeld (d : Dev) : Bool := d.images.storing.isSome

/-- REGION_SET (R400, R431, R441). -/
def execRegionSet (channel : Nat) (s : State) : Host.Outcome State Fault Refusal :=
  runCmd channel 0x0301 s noEarly fun d q =>
    let n := q.f 1 0 6
    if q.f 3 11 2 = 3 then (d, badField 3 11)
    else if d.swapPending then (d, fail 0x0F)
    else if d.shadowHeld then (d, fail 1)
    else if !q.secure && (masked (q.w 3) secureAttr != 0 || d.regionLocked n) then (d, fail 5)
    else
      (d.onShadow fun g => { g with
        regionBase := upd g.regionBase n fun _ => q.w 2
        regionAttr := upd g.regionAttr n fun _ => q.w 3 }, done [])

/-- REGION_GET (R441). -/
def execRegionGet (channel : Nat) (s : State) : Host.Outcome State Fault Refusal :=
  runAnswer channel 0x0302 s fun d q =>
    let g := if q.f 1 6 1 = 1 then d.shadow else d.active
    done [g.regionBase.getD (q.f 1 0 6) 0, g.regionAttr.getD (q.f 1 0 6) 0]

/-- PORT_CLASS_SET (R431, R442). -/
def execPortClassSet (channel : Nat) (s : State) : Host.Outcome State Fault Refusal :=
  runCmd channel 0x0303 s noEarly fun d q =>
    let p := q.f 1 0 3
    if !d.hasSlice p then (d, badField 1 0)
    else if q.f 2 3 2 = 3 then (d, badField 2 3)
    else if d.swapPending then (d, fail 0x0F)
    else if d.shadowHeld then (d, fail 1)
    else (d.onShadow fun g => { g with portClass := upd g.portClass p fun _ => q.w 2 }, done [])

/-- The shadow groups with regions and port classes taken back from the active ones, `kept` entries excepted. -/
def Groups.revert (shadow active : Groups) (kept : Nat → Bool) : Groups :=
  let take (a b : List Word) : List Word := (List.range 64).map fun n => if kept n then b.getD n 0 else a.getD n 0
  { shadow with
    regionBase := take active.regionBase shadow.regionBase
    regionAttr := take active.regionAttr shadow.regionAttr
    portClass := active.portClass }

/-- SHADOW_REVERT (R431, R442): the entries left untouched are counted. -/
def execShadowRevert (channel : Nat) (s : State) : Host.Outcome State Fault Refusal :=
  runCmd channel 0x0304 s noEarly fun d q =>
    if d.swapPending then (d, fail 0x0F)
    else if d.shadowHeld then (d, fail 1)
    else
      let kept (n : Nat) : Bool := !q.secure && d.regionLocked n
      let cart := { d.cart with streamShadow := d.cart.streamShadow.filter fun m => kept m.region }
      ({ d with cart := cart }.onShadow fun g => g.revert d.active kept, done [word ((List.range 64).filter kept).length])

/-! ### Line cache (R443, R444) -/

/-- The word of CACHE_MAINT with a reserved bit set, for a set-and-way or a range operation. -/
def maintReserved (q : Req) : Option (Nat × Nat) :=
  let masks := if q.f 1 2 1 = 1 then [0x7, 0xFFFFF, 0] else [0x7, 0x3FFFFFFFF, 0x3FFFFFFFF]
  firstReserved q masks

/-- CACHE_MAINT (R283–R285, R443): a range operation answers when it ends. -/
def execCacheMaint (channel : Nat) (s : State) : Host.Outcome State Fault Refusal :=
  runCmd channel 0x0401 s noEarly fun d q =>
    let op := q.f 1 0 2
    match maintReserved q with
    | some e => (d, badField e.1 e.2)
    | none =>
      if q.f 1 2 1 = 1 then
        if !d.hasSlice (q.f 2 0 3) then (d, badField 2 0)
        else if op = 0 then (d, done [])
        else (d.setway q.secure (q.f 2 0 3) (q.f 2 3 12) (q.f 2 15 4) (q.f 2 19 1 == 1) op, done [])
      else if op = 0 then (d, done [])
      else if d.regs.maintRun.isSome then (d, fail 1)
      else
        let base := q.f 2 0 34
        let count := q.f 3 0 34 + 1
        if d.maintForbidden q.secure op base count then (d.alarm 3 none 0, fail 5)
        else ((d.startMaint q.secure op base count).await q .maint, .later)

/-- The slices of a mask in w1 [7:0]. -/
def Req.named (q : Req) : List Nat := (List.range 8).filter fun i => q.f 1 i 1 == 1

/-- CACHE_DISABLE (R287, R288, R444): it answers when every named slice is OFF. -/
def execCacheDisable (channel : Nat) (s : State) : Host.Outcome State Fault Refusal :=
  runCmd channel 0x0402 s
    (fun d q =>
      if q.f 1 8 1 = 0 then none
      else if !q.secure then some 5
      else if q.named.all d.mayDiscard then none else some 6)
    fun d q =>
      let discard := q.f 1 8 1 == 1
      if !q.named.all d.hasSlice then (d, badField 1 0)
      else if q.named.any fun i => (d.slice i).cache.state == .invalidating then (d, fail 7)
      else
        let wait := q.named.filter fun i => (d.slice i).cache.state != .off
        if wait.isEmpty then (d, done [0])
        else
          let d := wait.foldl (fun d i =>
            if (d.slice i).cache.state != .on then d
            else d.onSlice i fun s => if discard then s.discardDisable else s.drainDisable d.fuses.dram4 d.round) d
          (d.await q (.cacheOff wait discard), .later)

/-- CACHE_ENABLE (R289, R444). -/
def execCacheEnable (channel : Nat) (s : State) : Host.Outcome State Fault Refusal :=
  runCmd channel 0x0403 s noEarly fun d q =>
    if !q.named.all d.hasSlice then (d, badField 1 0)
    else if q.named.any fun i => (d.slice i).cache.state == .draining || (d.slice i).cache.state == .invalidating then
      (d, fail 7)
    else (q.named.foldl (fun d i => d.onSlice i Slice.cacheEnable) d, done [])

/-- CACHE_STATUS (R444). -/
def execCacheStatus (channel : Nat) (s : State) : Host.Outcome State Fault Refusal :=
  runAnswer channel 0x0404 s fun d q =>
    let i := q.f 1 0 3
    if !d.hasSlice i then badField 1 0 else done [(d.slice i).cacheStatus, (d.slice i).basinStatus]

end Sys2Proof.Machine
end

