-- ==== Sys2Proof/Machine/Titles.lean ====
section
/-!
DEFINITION. Mailbox commands of group 0x05: titles, the device agreement key and IDE keys (R313, R314, R356–R366, R377,
R445–R449).
-/
namespace Sys2Proof.Machine

open Sys2Proof

/-! ### Title slots -/

/-- The slot that a title command names. -/
def Req.slot (q : Req) : Nat := q.f 1 0 5

/-- Whether a command in progress holds a title slot (R431). -/
def Dev.titleBusy (d : Dev) (t : Nat) : Bool :=
  d.waiters.any fun w => match w.what with
    | .flush _ x _ => x == t
    | .trims x _ => x == t
    | _ => false

/-- BAD_FIELD for a record in the buffer: no word of the request is at fault, and the manual does not say which the
report names. -/
def Dev.badRecord (d : Dev) : Dev × Reply :=
  let (x, d) := d.draw 1024
  (d, .now 4 0 [word x])

/-- The ranges of a title record: DPA base and size. -/
def recordRanges (b : List Byte) : List (Nat × Nat) :=
  (List.range (byteAt b 0x98)).map fun i => (leAt b (0xA0 + 16 * i) 8, leAt b (0xA8 + 16 * i) 8)

/-- Whether two ranges share a byte. -/
def rangesOverlap (a b : Nat × Nat) : Bool := decide (a.1 < b.1 + b.2) && decide (b.1 < a.1 + a.2)

/-- Whether no range of a list overlaps a later one. -/
def disjointRanges : List (Nat × Nat) → Bool
  | [] => true
  | r :: rest => !rest.any (rangesOverlap r) && disjointRanges rest

/-- Whether a title record is well formed for the slots in use (R446). -/
def Dev.recordOk (d : Dev) (b : List Byte) : Bool :=
  let n := byteAt b 0x98
  let rs := recordRanges b
  decide (1 ≤ n ∧ n ≤ 8) && zeroBytes b 0x99 7
    && (rs.all fun r => r.1 % 4096 == 0 && r.2 % 4096 == 0 && r.2 != 0 && decide (r.1 + r.2 ≤ d.capacity))
    && disjointRanges rs
    && !(d.titles.any fun t => t.state != .empty && t.ranges.any fun x => rs.any (rangesOverlap x))

/-- The key that a title record transports, unwrapped (R363). -/
def Dev.recordKey (d : Dev) (b : List Byte) : Option (BitVec 256) :=
  unwrapTitle d.root (beAt b 0 48) (beAt b 0x30 48) (bytesAt b 0x60 40)

/-- A title key as a title record holds it, wrapped under the storage key (R361, R363). -/
def Dev.rewrapped (d : Dev) (k : BitVec 256) : BitVec 320 :=
  BitVec.ofNat 320 (leAt (keyWrap (storageKeyOf d.root) (leBytes 32 k.toNat)) 0 40)

/-- TITLE_IMPORT (R363, R445, R446). -/
def execTitleImport (channel : Nat) (s : State) : Host.Outcome State Fault Refusal :=
  runCmd channel 0x0501 s noEarly fun d q =>
    let t := q.slot
    let b := d.window
    if d.titleBusy t then (d, fail 1)
    else if d.fuses.lifecycle == .anise then (d, fail 0x0E)
    else if (d.title t).state != .empty then (d, fail 7)
    else if !d.recordOk b then d.badRecord
    else match d.recordKey b with
      | none => (d.countPkg 15 1, fail 9)
      | some k =>
        let x : Title := { state := .installed, key := d.rewrapped k, id := BitVec.ofNat 128 (leAt b 0x88 16), ranges := recordRanges b }
        ((d.onTitle t fun _ => x).countPkg 16 1, done [])

/-- TITLE_OPEN (R364): the frame keys of the slot are loaded into every slice. -/
def execTitleOpen (channel : Nat) (s : State) : Host.Outcome State Fault Refusal :=
  runCmd channel 0x0502 s noEarly fun d q =>
    let t := q.slot
    if d.titleBusy t then (d, fail 1)
    else if d.fuses.lifecycle == .anise then (d, fail 0x0E)
    else if d.fuses.lifecycle == .mace && (d.dbg.unlocked || d.dbg.granted.isSome) then (d, fail 5)
    else if (d.title t).state != .installed then (d, fail 7)
    else (((d.loadFrameKey t).onTitle t fun x => { x with state := .opened }).countPkg 14 1, done [])

/-- Whether frame `lfn` of slice `i` lies in a range of a title slot. -/
def Dev.titleFrame (d : Dev) (t i lfn : Nat) : Bool :=
  let dpa := d.dpaOf i lfn 0
  (d.title t).ranges.any fun r => decide (r.1 ≤ dpa) && decide (dpa < r.1 + r.2)

/-- Cleans and invalidates the ranges of a slot and starts the fold of their dirty data; the flush to wait for is
returned (R365). -/
def Dev.closeFlush (d : Dev) (t : Nat) : Nat × Dev :=
  let (id, d) := d.startFlush none none (d.titleFrame t)
  (id, (d.title t).ranges.foldl (fun d r => d.maintainRange 3 (r.1 / 256) (r.2 / 256)) d)

/-- TITLE_CLOSE (R365): it answers when the dirty data of the ranges is on the medium under the slot's frame key. -/
def execTitleClose (channel : Nat) (s : State) : Host.Outcome State Fault Refusal :=
  runCmd channel 0x0503 s noEarly fun d q =>
    let t := q.slot
    if d.titleBusy t || d.regs.maintRun.isSome then (d, fail 1)
    else if (d.title t).state != .opened then (d, fail 7)
    else
      let (id, d) := d.closeFlush t
      (d.await q (.flush id t false), .later)

/-- Words of TITLE_STATUS (R447). -/
def Dev.titleWords (d : Dev) (t : Nat) : List Word :=
  let state (i : Nat) : Nat := match (d.title i).state with
    | .empty => 0
    | .installed => 1
    | .opened => 2
  let states (a n : Nat) : Word := word (total ((List.range n).map fun k => state (a + k) * 4 ^ k))
  let x := d.title t
  let bound := (d.rings.filter fun e => e.2.binding == some (.title t)).length
  [states 0 24, states 24 8] ++ idWords x.id.toNat ++ [word (x.ranges.length + bound * 16)]

/-- TITLE_STATUS (R447). -/
def execTitleStatus (channel : Nat) (s : State) : Host.Outcome State Fault Refusal :=
  runAnswer channel 0x0504 s fun d q => if d.titleBusy q.slot then fail 1 else done (d.titleWords q.slot)

/-- TITLE_BIND_RING (R377, R445). -/
def execTitleBindRing (channel : Nat) (s : State) : Host.Outcome State Fault Refusal :=
  runCmd channel 0x0505 s noEarly fun d q =>
    let t := q.slot
    let ring := q.f 1 5 13
    let region := q.f 1 19 6
    let byRegion := q.f 1 18 1 == 1
    let goal : Binding := if byRegion then .region region else .title t
    let held := (d.ring ring).binding
    if d.ringCount ≤ ring then (d, badField 1 5)
    else if byRegion && wbits (d.active.regionAttr.getD region 0) 10 1 == 0 then (d, badField 1 19)
    else if !byRegion && d.titleBusy t then (d, fail 1)
    else if !byRegion && (d.title t).state != .opened then (d, fail 7)
    else if held.isSome && held != some goal then (d, fail 7)
    else
      let b := if q.f 1 25 1 = 1 then none else some goal
      (d.onRing ring fun r => { r with binding := b }, done [])

/-- TITLE_DELETE (R445): an OPEN slot closes, every range is trimmed, and the record is erased. -/
def execTitleDelete (channel : Nat) (s : State) : Host.Outcome State Fault Refusal :=
  runCmd channel 0x0506 s noEarly fun d q =>
    let t := q.slot
    let x := (d.title t).state
    if d.titleBusy t || (x == .opened && d.regs.maintRun.isSome) then (d, fail 1)
    else if x == .empty then (d, fail 7)
    else if d.mode == .preserve then (d, fail 0x10)
    else if x == .opened then
      let (id, d) := d.closeFlush t
      (d.await q (.flush id t true), .later)
    else
      let (d, n) := d.trimTitle t
      (d.await q (.trims t n), .later)

/-! ### Public keys and IDE keys (R448, R449) -/

/-- A 48-byte value in 8 words, byte 6k in bits [47:40] of word k. -/
def keyWords (x : BitVec 384) : List Word := (List.range 8).map fun k => word (x.toNat / 2 ^ (48 * (7 - k)))

/-- DEVICE_KEY_GET (R448). -/
def execDeviceKeyGet (channel : Nat) (s : State) : Host.Outcome State Fault Refusal :=
  runAnswer channel 0x0507 s fun d q =>
    if d.fuses.lifecycle == .anise then fail 0x0E else done (keyWords (agreementPublic d.root (q.f 1 0 1 == 1)))

/-- A port with an IDE key set of a selector: the stream is secure again (R314). -/
def Port.setIdeKey (p : Port) (k : IdeKey) : Port :=
  { p with
    ideKeys := p.ideKeys.filter (·.selector != k.selector) ++ [k]
    ideInsecure := upd p.ideInsecure (k.selector % 2) fun _ => false }

/-- IDE_KEY_SET (R313, R449): the selector holds stream, substream, direction and key set. -/
def execIdeKeySet (channel : Nat) (s : State) : Host.Outcome State Fault Refusal :=
  runCmd channel 0x0510 s noEarly fun d q =>
    let b := d.window
    let k : IdeKey := ⟨q.f 1 3 5, BitVec.ofNat 256 (leAt b 0 32), BitVec.ofNat 96 (leAt b 0x20 12)⟩
    if !d.hasSlice (q.f 1 0 3) then (d, badField 1 0)
    else if q.f 1 4 2 = 3 then (d, badField 1 4)
    else (d.onPort (q.f 1 0 3) fun p => p.setIdeKey k, done [])

end Sys2Proof.Machine
end

