-- ==== Sys2Proof/Machine/Health.lean ====
section
/-!
DEFINITION. Mailbox commands of groups 0x06 and 0x07: health pages, the recorder, the last gasp, life and notifications;
mode entries, warm reset, thermal status and faults (R269, R433, R450–R452, R477, R483, R496, R497, R510, R529–R537,
R545).
-/
namespace Sys2Proof.Machine

open Sys2Proof

/-! ### Fields -/

/-- A value for a field of `w` bits; one that does not fit leaves the field open. -/
def Dev.fit (d : Dev) (n w : Nat) : Nat × Dev := if n < 2 ^ w then (n, d) else d.draw (2 ^ w)

/-- A value for a field of `w` bits of a page; one that does not fit leaves the field open, the `k`-th of its page. -/
def Dev.pageField (d : Dev) (k n w : Nat) : Nat := if n < 2 ^ w then n else Config.freeNat (d.draws + k) % 2 ^ w

/-- A temperature in whole °C from quarter degrees, rounded down, as a signed byte. -/
def degreeByte (q : Int) : Nat := (BitVec.ofInt 8 (q / 4)).toNat

/-- A byte string of `n` bytes with values placed in it: offset, length, value. -/
def pageOf (n : Nat) (fields : List (Nat × Nat × Nat)) : List Byte :=
  fields.foldl (fun b f => patchBytes b f.1 (leBytes f.2.1 f.2.2)) (List.replicate n 0)

/-! ### The health page (R545) -/

/-- Frames of a slice with poisoned set in the map. -/
def Slice.poisonedFrames (s : Slice) : Nat := (s.map.filter fun (e : Nat × MapEntry) => e.2.poisoned).length

/-- A live slice counter. -/
def Slice.counter (s : Slice) (i : Nat) : Nat := (s.counters.getD i 0).toNat

/-- The slice page but for over-provisioning. -/
def Dev.sliceHealth (d : Dev) (i op : Nat) : List Byte :=
  let s := d.slice i
  let flags := b2n s.inRecovery + 2 * b2n (d.lapsed i) + 4 * b2n (d.mode == .preserve)
  pageOf 96 ([(0, 2, 1), (2, 1, i), (3, 1, flags), (4, 2, d.lapseCauses i), (8, 2, s.free), (0x0A, 2, s.upkeep.formable),
    (0x0C, 2, op), (0x0E, 1, s.upkeep.watermark.code), (0x0F, 1, s.upkeep.effective), (0x10, 4, s.meanWear),
    (0x14, 4, s.highWear), (0x18, 6, s.counter 64), (0x20, 6, s.counter 66), (0x28, 6, s.counter 67),
    (0x30, 6, s.counter 68), (0x38, 6, s.poisonedFrames), (0x52, 2, d.pageField 0 s.wearLifeUsed 16),
    (0x58, 4, s.badBlocks.length)]
    ++ (List.range 18).map fun r =>
      (0x40 + r, 1, if (s.reach r).state == .retired then 0xFF else (s.reach r).retiredBanks.length))

/-- Over-provisioning in thousandths; below the user capacity the field is open. -/
def Dev.overProvisioning (d : Dev) (i : Nat) : Nat × Dev :=
  let n := 1000 * (d.slice i).upkeep.formable / 8192
  if 1000 ≤ n then (n - 1000, d) else d.draw (2 ^ 16)

/-- A peak temperature as a byte; without a reading it is open. -/
def Dev.peakByte (d : Dev) (g : Nat) : Nat × Dev :=
  match d.thermal.peaks.getD g none with
  | some q => (degreeByte q, d)
  | none => d.draw 256

/-- The health state of the package. -/
def Dev.healthState (d : Dev) (flags : Nat) : Nat :=
  if d.mode == .recovery then 3 else if d.mode == .preserve then 2 else if 2 ≤ flags || d.rung != 0 then 1 else 0

/-- The package page, with its peaks. -/
def Dev.packageHealth (d : Dev) (peaks : List Nat) : List Byte :=
  let lapsed := (List.range d.sliceCount).any d.lapsed
  let flags := b2n (d.mode == .preserve) + 2 * b2n d.recorder.failed + 4 * b2n lapsed + 8 * b2n (d.recoveryMask != 0)
  pageOf 448 ([(0, 2, 1), (2, 1, 0xFF), (3, 1, flags), (4, 1, d.healthState flags), (8, 6, d.preserve.firstDpa.getD 0),
    (0x10, 6, min (2 ^ 48 - 1) d.preserve.discarded), (0x18, 2, d.pageField 0 d.thermalLifeUsed 16),
    (0x1A, 2, d.pageField 1 d.wearLifeUsed 16), (0x1C, 2, d.pageField 2 d.lifeUsed 16)]
    ++ ((List.range 3).map fun g => (0x20 + g, 1, peaks.getD g 0))
    ++ ((List.range 3).map fun g => (0x24 + 4 * g, 4, d.thermal.rorCounts.getD g 0))
    ++ (List.range 96).map fun k => (0x40 + 4 * k, 4, (d.thermal.bins.getD (k / 32) []).getD (k % 32) 0))

/-- HEALTH_GET (R450, R545). -/
def execHealthGet (channel : Nat) (s : State) : Host.Outcome State Fault Refusal :=
  runCmd channel 0x0601 s
    (fun d q => if d.bufferSize q.channel < (if q.f 1 0 4 = 15 then 448 else 96) then some 3 else none)
    fun d q =>
      let i := q.f 1 0 4
      if i = 15 then
        let (a, d) := d.peakByte 0
        let (b, d) := d.peakByte 1
        let (c, d) := d.peakByte 2
        ({ d.writeBuffer q.channel (d.packageHealth [a, b, c]) with draws := d.draws + 3 }, doneBuffer [word 448])
      else if !d.hasSlice i then (d, badField 1 0)
      else
        let (op, d) := d.overProvisioning i
        ({ d.writeBuffer q.channel (d.sliceHealth i op) with draws := d.draws + 1 }, doneBuffer [word 96])

/-! ### The recorder (R531–R537) -/

/-- Reads a record at an offset of the recorder region. A repeat count that does not decode reads 0xFFFF (R534); `none`
when another group does not decode. -/
def PStore.recordAt (p : PStore) (off len : Nat) : Option (List Byte) :=
  let a := 0x10000 + off
  let bad := (groupsOf a len).filter p.broken.contains
  let b := memRead p.mem a len
  if bad.isEmpty then some b
  else if bad = [a / 8 + 2] then some (patchBytes b 0x10 [0xFF, 0xFF, 0, 0, 0, 0, 0, 0])
  else none

/-- Record starts of the recorder region with their lengths, from an offset on. -/
def PStore.recordStarts (p : PStore) (limit : Nat) : Nat → Nat → List (Nat × Nat)
  | 0, _ => []
  | fuel + 1, pos =>
    if limit ≤ pos then []
    else
      let len := 8 * byteAt (memRead p.mem (0x10000 + pos) 8) 2
      if len = 0 then [] else (pos, len) :: p.recordStarts limit fuel (pos + len)

/-- Takes whole records while they fit; `none` when a record does not decode. -/
def PStore.takeRecords (p : PStore) (room : Nat) : List (Nat × Nat) → Option (List Byte)
  | [] => some []
  | r :: rest =>
    if room < r.2 then some []
    else match p.recordAt r.1 r.2, p.takeRecords (room - r.2) rest with
      | some a, some b => some (a ++ b)
      | _, _ => none

/-- RECORDER_READ (R450, R531): whole records from a record start, or from the end of the records. -/
def Dev.readRecords (d : Dev) (q : Req) : Dev × Reply :=
  let off := q.f 1 0 16
  let most := q.f 1 16 16
  let rs := (d.pstore.recordStarts d.recorder.writePos 2731 0)
  let mine := rs.filter fun r => decide (off ≤ r.1)
  if off != d.recorder.writePos && !rs.any (·.1 == off) then (d, badField 1 0)
  else if mine.head?.any fun r => decide (most < r.2) then (d, fail 3)
  else match d.pstore.takeRecords most mine with
    | none => (d, fail 8)
    | some b =>
      if d.bufferSize q.channel < b.length then (d, fail 3)
      else
        let w1 := off + b.length + b.length * 2 ^ 17
        let w2 := b2n d.recorder.full + 2 * b2n d.recorder.failed
        (d.writeBuffer q.channel b, doneBuffer [word w1, word w2])

/-- RECORDER_READ (R450). -/
def execRecorderRead (channel : Nat) (s : State) : Host.Outcome State Fault Refusal :=
  runCmd channel 0x0602 s noEarly Dev.readRecords

/-- RECORDER_STATUS (R450). -/
def execRecorderStatus (channel : Nat) (s : State) : Host.Outcome State Fault Refusal :=
  runAnswer channel 0x0603 s fun d _ =>
    let r := d.recorder
    done [word (r.writePos + r.records * 2 ^ 17 + b2n r.full * 2 ^ 33 + b2n r.failed * 2 ^ 34)]

/-- A group whose write failed its read-back holds an open value or does not decode. -/
def Dev.openGroup (d : Dev) (g : Nat) : Dev :=
  let (x, d) := d.draw (2 ^ 64 + 1)
  let p := d.pstore
  if x = 2 ^ 64 then { d with pstore := { p with broken := if p.broken.contains g then p.broken else p.broken ++ [g] } }
  else { d with pstore := { p with mem := memWrite p.mem (8 * g) (leBytes 8 x), broken := p.broken.filter (· != g) } }

/-- RECORDER_CLEAR (R537): only the control page is written; `pass` tells whether its read-back holds. -/
def execRecorderClear (channel : Nat) (pass : Bool) (s : State) : Host.Outcome State Fault Refusal :=
  runCmd channel 0x0604 s noEarly fun d _ =>
    if d.recorder.generation = 0xFFFF then (d, fail 0x11)
    else if pass then
      let d := { d with
        recorder := { generation := d.recorder.generation + 1 }
        mirror := { d.mirror with recorderFailed := false, repeats := 0, newestOffset := 0, droppedEvents := 0 } }
      (d.storeControl, done [])
    else
      let was := d.recorder.failed
      let d := (d.openGroup (0x140 / 8)).countPkg 16 1
      let d := { d with
        recorder := { d.recorder with failed := true }
        mirror := { d.mirror with recorderFailed := true } }
      (if was then d else d.notify 1 0x0681 [], fail 8)

/-! ### The last gasp, life and notifications -/

/-- LAST_GASP_READ (R450, R529). -/
def execLastGaspRead (channel : Nat) (s : State) : Host.Outcome State Fault Refusal :=
  runAnswer channel 0x0605 s fun d _ =>
    match d.pstore.read lastGaspAt 64 with
    | none => fail 8
    | some b => done (wordsOf 11 (b ++ [BitVec.ofNat 8 (b2n d.pstore.gasp.isSome), 0]))

/-- LIFE_GET (R269, R450). -/
def execLifeGet (channel : Nat) (s : State) : Host.Outcome State Fault Refusal :=
  runCmd channel 0x0606 s noEarly fun d _ =>
    let (thermal, d) := d.fit d.thermalLifeUsed 16
    let (wear, d) := d.fit d.wearLifeUsed 16
    let m := d.mirror
    (d, done [word m.lifeClock, word m.seconds, word (m.bootCount % 2 ^ 24 + m.dirtyShutdowns % 2 ^ 24 * 2 ^ 24),
      word (thermal + wear * 2 ^ 16)])

/-- NOTIFY_SET (R433, R450). -/
def execNotifySet (channel : Nat) (s : State) : Host.Outcome State Fault Refusal :=
  runCmd channel 0x0607 s noEarly fun d q =>
    let old := (d.chan q.channel).mask
    (d.onChan q.channel fun c => { c with mask := BitVec.ofNat 16 (q.f 1 0 16) }, done [word old.toNat])

/-! ### Modes (R451, R477, R481, R483) -/

/-- Whether a transition by command runs (R431, R481). -/
def Dev.transitioning (d : Dev) : Bool := d.transition.any fun t => t.target != .service

/-- Accepts a transition; entries that drain begin their drain. -/
def Dev.beginTransition (d : Dev) (target : Mode) : Dev :=
  let d := { d with transition := some ⟨target, 1⟩ }
  if target == .held || target == .dormant || (target == .boot && d.clock.on) then d.drainAll else d

/-- The mode that MODE_ENTER names. -/
def modeTarget (n : Nat) : Option Mode := if n = 1 then some .held else if n = 8 then some .drowse else if n = 9 then some .dormant else none

/-- MODE_ENTER (R451, R477). -/
def execModeEnter (channel : Nat) (s : State) : Host.Outcome State Fault Refusal :=
  runCmd channel 0x0701 s noEarly fun d q =>
    match modeTarget (q.f 1 0 4) with
    | none => (d, badField 1 0)
    | some m => if d.transitioning then (d, fail 1) else (d.beginTransition m, done [])

/-- WARM_RESET (R451, R483). -/
def execWarmReset (channel : Nat) (s : State) : Host.Outcome State Fault Refusal :=
  runCmd channel 0x0702 s noEarly fun d _ =>
    if d.transitioning then (d, fail 1) else (d.beginTransition .boot, done [])

/-! ### Thermal status and faults (R452, R496, R497, R510) -/

/-- The byte of a sensor: 0x80 for an input disabled or not fitted, 0x81 in fault, else its newest reading, which is open
before the first. -/
def Dev.thermalByte (d : Dev) (k : Nat) (enabled : Bool) : Nat × Dev :=
  let x := d.sensor k
  if !enabled then (0x80, d)
  else if x.faulty then (0x81, d)
  else match x.readings with
    | q :: _ => (degreeByte q, d)
    | [] => d.draw 256

/-- Bytes of the sensors of a list, each with whether it is enabled. -/
def Dev.thermalBytes (d : Dev) : List (Nat × Bool) → List Nat × Dev
  | [] => ([], d)
  | e :: rest =>
    let (b, d) := d.thermalByte e.1 e.2
    let (bs, d) := d.thermalBytes rest
    (b :: bs, d)

/-- THERMAL_STATUS (R452, R510). -/
def execThermalStatus (channel : Nat) (s : State) : Host.Outcome State Fault Refusal :=
  runCmd channel 0x0703 s noEarly fun d _ =>
    let n := 4 * d.sliceCount
    let (outer, d) := d.thermalBytes ((List.range 4).map fun i => (n + i, wbits d.active.thermSrc i 1 == 1))
    let (inner, d) := d.thermalBytes ((List.range 36).map fun k => (k, decide (k < n)))
    let (top, d) := match hottest d.readings with
      | some e => (degreeByte e.2, d)
      | none => d.draw 256
    let bytes (l : List Nat) : List Byte := l.map (BitVec.ofNat 8)
    (d, done (word (leAt (bytes (outer ++ [top])) 0 5 + d.rung * 2 ^ 40) :: wordsOf 6 (bytes inner)))

/-- FAULT_STATUS (R452, R496). -/
def execFaultStatus (channel : Nat) (s : State) : Host.Outcome State Fault Refusal :=
  runCmd channel 0x0704 s noEarly fun d _ =>
    let (n, d) := d.fit d.seq.shortDrops 16
    (d, done [word (d.seq.latch.toNat + n * 2 ^ 16), word d.seq.stateAtFault])

/-- FAULT_CLEAR (R477, R497): in RECOVERY after a latched start it is the secure clear, and the package goes to service at
the next round boundary; elsewhere it clears the latch only. -/
def execFaultClear (channel : Nat) (s : State) : Host.Outcome State Fault Refusal :=
  runCmd channel 0x0705 s noEarly fun d _ =>
    let d := { d with seq := { d.seq with latch := 0 } }
    if d.mode == .recovery && d.seq.latchedStart then
      let d := { d with seq := { d.seq with shortDrops := 0, stateAtFault := 0 } }
      (if d.transition.isNone then { d with transition := some ⟨.service, 0⟩ } else d, done [])
    else (d, done [])

end Sys2Proof.Machine
end

