-- ==== Sys2Proof/Machine/Cartridge.lean ====
section
/-!
DEFINITION. The cartridge port: card presence, power and link, authentication, the title manifest, title import and
streamed regions, removal and failure, and the card's own requests (R361, R453, R461–R476).
-/
namespace Sys2Proof.Machine

open Sys2Proof

/-- Changes the cartridge port. -/
def Dev.onCart (d : Dev) (f : Cart → Cart) : Dev := { d with cart := f d.cart }

/-- Whether an authenticated card serves a streamed region in force (R476). -/
def Dev.streaming (d : Dev) : Bool :=
  (List.range 64).any fun n =>
    regionSizeMib (d.active.regionBase.getD n 0) != 0 && wbits (d.active.regionAttr.getD n 0) 14 1 == 1
      && (d.cart.entryOf n).isSome

/-- A CARTRIDGE notification (R433). -/
def Dev.notifyCart (d : Dev) (present streaming : Bool) : Dev := d.notify 4 0x0880 [word (b2n present + 2 * b2n streaming)]

/-! ### Power (R462, R463) -/

/-- What every end of cartridge service takes away (R476): session, manifest, hash tables and stream buffer; streamed reads
that wait return poison, and INSTALL descriptors in progress end with TIMEOUT. -/
def Dev.cartEnd (d : Dev) : Dev :=
  let waits := d.cart.streamWaits
  let d := d.onCart fun c =>
    { c with auth := 0, session := false, manifest := [], hashTables := [], stream := [], streamWaits := [] }
  let d := waits.foldl (fun d w =>
    let c := d.active.classify w.port (d.dpaOf w.slice (w.line / 16) (4 * (w.line % 16)))
    d.answerRead w.port w.tag c.cls none) d
  d.endDescs 0x0C fun x => x.field 0 2 == 2

/-- CART_STATUS (R453). -/
def execCartStatus (channel : Nat) (s : State) : Host.Outcome State Fault Refusal :=
  runAnswer channel 0x0801 s fun d _ =>
    let c := d.cart
    done [word (b2n c.present + b2n c.pwrEn * 2 + b2n c.linkUp * 4 + c.auth * 8 + c.entryCount * 32)]

/-- Whether a command in progress holds the cartridge port (R431). -/
def Dev.cartBusy (d : Dev) : Bool := d.waiters.any (·.what == .cartOff)

/-- The card is told of its shutdown, its I/O queues deleted first (R463, R464). -/
def Dev.notifyShutdown (d : Dev) (queues : Bool) : Dev :=
  let d := d.onCart fun c => { c with step := 5, queues := false }
  (if queues then d.issue [.deleteSubmissionQueue, .deleteCompletionQueue] else d).emit .cardShutdown

/-- CART_POWER (R453, R463): on completes once CART_PWR_EN is high, off once the power-off sequence has ended. -/
def execCartPower (channel : Nat) (s : State) : Host.Outcome State Fault Refusal :=
  runCmd channel 0x0802 s noEarly fun d q =>
    let falling := decide (5 ≤ d.cart.step)
    if d.cartBusy then (d, fail 1)
    else if q.f 1 0 1 = 1 then
      if !d.cart.present then (d, fail 7)
      else if falling then (d, fail 1)
      else if d.cart.pwrEn then (d, done [])
      else (d.onCart fun c => { c with pwrEn := true, step := 1 }, done [])
    else if !d.cart.pwrEn then (d, done [])
    else if falling then (d.await q .cartOff, .later)
    else
      let streaming := d.streaming
      let up := d.cart.linkUp
      let queues := d.cart.queues
      let d := d.cartEnd
      let d := if streaming then d.notifyCart d.cart.present true else d
      let d := if up then d.notifyShutdown queues else d.onCart Cart.perstFalls
      (d.await q .cartOff, .later)

/-- CART_REFCLK_START (R463): 20 ms after CART_PWR_EN rose. -/
def execCartRefclkStart (s : State) : Host.Outcome State Fault Refusal :=
  run s fun d => d.onCart fun c => if c.step = 1 then { c with refclkStarted := true, step := 2 }.clocked else c

/-- CART_PERST_RELEASE (R463): 100 ms after power is valid. -/
def execCartPerstRelease (s : State) : Host.Outcome State Fault Refusal :=
  run s fun d => d.onCart fun c => if c.step = 2 then { c with perstHigh := true, step := 3 }.clocked else c

/-- The widths, and the speeds in units of 0.5 GT/s (DESIGN CHOICE, log entry 157), that the cartridge port supports (R461). -/
def cartTrains (width speed : Nat) : Bool := [1, 2, 4].contains width && [5, 16, 32].contains speed

/-- CART_LINK_UP (R461, R463): the link trains at a width and a speed of the port's. -/
def execCartLinkUp (width speed : Nat) (s : State) : Host.Outcome State Fault Refusal :=
  run s fun d => d.onCart fun c =>
    if c.step = 3 ∧ cartTrains width speed then { c with linkUp := true, width := width, speed := speed, step := 4 } else c

/-- CART_CLKREQ_CHANGE (R462). -/
def execCartClkreqChange (low : Bool) (s : State) : Host.Outcome State Fault Refusal :=
  run s fun d => if d.mode.ticks then d.onCart fun c => { c with clkreqLow := low }.clocked else d

/-- CART_SHUTDOWN_DONE (R463): the card has answered, or 10 ms have passed. -/
def execCartShutdownDone (s : State) : Host.Outcome State Fault Refusal :=
  run s fun d => d.onCart fun c => if c.step = 5 then c.perstFalls else c

/-- CART_REFCLK_STOP (R463): 100 µs after CART_PERST_N fell. -/
def execCartRefclkStop (s : State) : Host.Outcome State Fault Refusal :=
  run s fun d => d.onCart fun c => if c.step = 6 then { c with refclkStarted := false, step := 7 }.clocked else c

/-- CART_PWR_EN_FALL (R463): 1 ms after CART_PERST_N fell; the command that powered the card off is answered. -/
def execCartPwrEnFall (s : State) : Host.Outcome State Fault Refusal :=
  run s fun d =>
    if d.cart.step = 7 then
      let d := d.onCart fun c => { c with pwrEn := false, step := 0 }
      (d.waiters.filter (·.what == .cartOff)).foldl (fun d w =>
        { d with waiters := d.waiters.erase w }.respond w.channel w.opcode w.tag 0 0 []) d
    else d

/-! ### Presence, removal and failure (R463, R476) -/

/-- CARD_PRESENT (R463): ten low samples of CART_DET_N. -/
def execCardPresent (s : State) : Host.Outcome State Fault Refusal :=
  run s fun d =>
    if d.mode.ticks && !d.cart.present then (d.onCart fun c => { c with present := true }).notifyCart true false else d

/-- CARD_REMOVED (R476): a high sample of CART_DET_N. -/
def execCardRemoved (s : State) : Host.Outcome State Fault Refusal :=
  run s fun d =>
    if d.mode.ticks && d.cart.present then
      let streaming := d.streaming
      let d := d.cartEnd.onCart fun c => { c with present := false }.cutPower
      (d.event 0x0601 0xFF (b2n streaming) 0xFF []).notifyCart false streaming
    else d

/-- Reason of a card failure (R570). -/
def cardFaultReason : CardFault → Nat
  | .commandTimeout => 1
  | .fatalLink => 2
  | .linkDown => 3

/-- CART_FAILURE (R465, R476): as removal, but the card stays seated. -/
def execCartFailure (fault : CardFault) (s : State) : Host.Outcome State Fault Refusal :=
  run s fun d =>
    if d.cart.linkUp then
      let streaming := d.streaming
      let d := d.cartEnd.onCart Cart.cutPower
      let d := d.event 0x0602 0xFF (cardFaultReason fault) 0xFF []
      if streaming then d.notifyCart d.cart.present true else d
    else d

/-! ### Authentication and the manifest (R465, R468–R471) -/

/-- Whether entry `e` of manifest bytes is well formed (R471). -/
def entryOk (b : List Byte) (e : Nat) : Bool :=
  let o := entryAt e
  leAt b (o + 0x10) 8 % 4096 == 0 && leAt b (o + 0x18) 8 % 4096 == 0 && leAt b (o + 0x18) 8 != 0
    && leAt b (o + 0x20) 8 % 4096 == 0 && decide (byteAt b (o + 0x28) < 4) && zeroBytes b (o + 0x29) 7
    && zeroBytes b (o + 0x60) 32

/-- Whether manifest bytes pass R471 under a leaf key. -/
def manifestOk (b : List Byte) (x y : Nat) : Bool :=
  let n := byteAt b 5
  let size := 64 + 128 * n + 112
  leAt b 0 4 == 0x4D515654 && byteAt b 4 == 1 && n != 0 && leAt b 6 2 == 64 && leAt b 8 4 == size
    && decide (size ≤ b.length ∧ size ≤ 65536) && zeroBytes b 0x10 44 && crc32c (padTo 0x3C b) == leAt b 0x3C 4
    && ((List.range n).all (entryOk b)) && sectionVerifies x y (b.take size)

/-- Whether a card's chain is accepted (R469). -/
def Dev.chainOk (d : Dev) (c : CardInfo) : Bool :=
  ((rangeFrom 6 4).any fun k => d.keySlot k == some (c.rootX.toNat, c.rootY.toNat))
    && decide (c.certificates ≤ 4) && decide (c.chainBytes ≤ 16384) && c.chainP384 && c.chainSigned

/-- Whether CSTS.RDY comes within the smaller of 1 s and CAP.TO (R465). -/
def cardReady (c : CardInfo) : Bool := c.readyAfter.any fun t => decide (t ≤ min 1000 (500 * c.capTimeout))

/-- Whether the device accepts a card (R465). -/
def cardAccepted (c : CardInfo) : Bool :=
  c.namespace1 && (c.lbaBytes == 512 || c.lbaBytes == 4096) && c.metadata == 0 && !c.protection && c.security

/-- The longest Read of a card (R465): 256 KiB, or what its MDTS allows. -/
def cardReadLimit (c : CardInfo) : Nat := min 262144 (c.maxTransfer.getD 262144)

/-- Bytes of a manifest (R471). -/
def manifestBytes (b : List Byte) : Nat := 64 + 128 * byteAt b 5 + 112

/-- Messages sent one by one, each with its answer fetched. -/
def exchange (l : List CardMessage) : List CardCommand := l.flatMap fun m => [.securitySend m, .securityReceive]

/-- The commands of a step of R468 (R464). DESIGN CHOICE (log entry 154): the I/O queue pair is made just before the manifest is read. -/
def authCommands (card : CardInfo) (nonce : BitVec 256) : Nat → List CardCommand
  | 1 => [.identifyController, .identifyNamespace]
  | 2 => exchange [.getVersion, .getCapabilities, .negotiateAlgorithms]
  | 3 => exchange [.getDigests, .getCertificate 0]
  | 4 => exchange [.challenge 0 nonce]
  | 5 => exchange [.keyExchange, .finish]
  | 6 => [.numberOfQueues, .createCompletionQueue 64, .createSubmissionQueue 64]
      ++ readsOf (cardReadLimit card) 0 (manifestBytes card.manifest)
  | _ => []

/-- The device talks to the card through step `k` of R468; the nonce of step 4 comes from the DRBG. -/
def Dev.authTalk (d : Dev) (card : CardInfo) (k : Nat) : Dev :=
  let (high, d) := if k < 4 then (0, d) else d.random
  let (low, d) := if k < 4 then (0, d) else d.random
  let d := d.issue ((rangeFrom 1 k).flatMap (authCommands card (high ++ low)))
  if k = 6 then d.onCart fun c => { c with queues := true, readLimit := cardReadLimit card } else d

/-- The step of R468 that fails, if any. -/
def Dev.authStep (d : Dev) (c : CardInfo) : Option Nat :=
  if !cardAccepted c then some 1
  else if !c.spdmAgreed then some 2
  else if !d.chainOk c then some 3
  else if !c.challengeSigned then some 4
  else if !c.sessionOpen then some 5
  else if !manifestOk c.manifest c.leafX.toNat c.leafY.toNat then some 6
  else none

/-- Authentication has failed at a step, and the command ends with a status. -/
def Dev.authFailed (d : Dev) (step status : Nat) : Dev × Reply :=
  let d := d.onCart fun c =>
    { c with auth := 3, session := false, manifest := [], hashTables := [], stream := [] }
  ((d.countPkg 29 1).event 0x0605 0xFF step 0xFF [], fail status)

/-- CART_AUTH (R464, R465, R468): a card that does not answer ends it with TIMEOUT; at which step is open unless it never became
ready. -/
def execCartAuth (channel : Nat) (card : CardInfo) (s : State) : Host.Outcome State Fault Refusal :=
  runCmd channel 0x0803 s noEarly fun d _ =>
    if d.cartBusy then (d, fail 1)
    else if !d.cart.linkUp || !cardReady card then d.authFailed 1 0x0C
    else if !card.answers then
      let (k, d) := d.draw 6
      (d.authTalk card (k + 1)).authFailed (k + 1) 0x0C
    else match d.authStep card with
      | some k => (d.authTalk card k).authFailed k 5
      | none =>
        let size := manifestBytes card.manifest
        let d := (d.authTalk card 6).onCart fun c =>
          { c with auth := 2, session := true, manifest := card.manifest.take size, hashTables := [], stream := [] }
        ((d.countPkg 28 1).countPkg 31 (size / 256), done [])

/-- CART_MANIFEST_READ (R453). -/
def execCartManifestRead (channel : Nat) (s : State) : Host.Outcome State Fault Refusal :=
  runCmd channel 0x0804 s
    (fun d q => if d.cart.serves && decide (d.bufferSize q.channel < d.cart.manifest.length) then some 3 else none)
    fun d q =>
      if !d.cart.serves then (d, fail 7)
      else (d.writeBuffer q.channel d.cart.manifest, doneBuffer [word d.cart.manifest.length])

/-! ### Titles and streaming (R361, R470, R473, R475) -/

/-- Asks the card for the title key of a manifest entry, inside the session (R470). -/
def Dev.askTitleKey (d : Dev) (e : Nat) : Dev :=
  d.issue (exchange [.vendorDefined (leAt d.cart.manifest 0x0C 2) (leAt d.cart.manifest 0x0E 2) 1 e])

/-- CART_TITLE_IMPORT (R470): `status` and `key` are the card's answer inside the session. -/
def execCartTitleImport (channel : Nat) (status : BitVec 16) (key : BitVec 256) (s : State) :
    Host.Outcome State Fault Refusal :=
  runCmd channel 0x0805 s noEarly fun d q =>
    let e := q.f 1 0 8
    let t := q.f 1 8 5
    let b := d.window
    if d.cart.serves && decide (d.cart.entryCount ≤ e) then (d, badField 1 0)
    else if d.titleBusy t || d.cartBusy then (d, fail 1)
    else if d.fuses.lifecycle == .anise then (d, fail 0x0E)
    else if (d.title t).state != .empty then (d, fail 7)
    else if !d.cart.serves then (d, fail 7)
    else if !d.recordOk b then d.badRecord
    else
      let d := d.askTitleKey e
      if status != 0 then (d, fail 5)
      else
      let x : Title := { state := .installed, key := d.rewrapped key, id := d.cart.titleId e, ranges := recordRanges b }
      ((d.onTitle t fun _ => x).countPkg 16 1, done [])

/-- Writes a shadow region that maps a streamed entry (R475). -/
def Dev.mapStream (d : Dev) (n e t : Nat) : Dev :=
  let len := d.cart.contentLength e
  let size := d.fit (ceilDiv len (2 ^ 20)) 22
  let mib := size.1
  let d := size.2
  let m : StreamMap := ⟨n, d.cart.titleId e, len, d.cart.tableDigest e, d.cart.tableOf e⟩
  let d := d.onCart fun c => { c with streamShadow := m :: c.streamShadow.filter (·.region != n) }
  let attr (w : Word) : Word :=
    let w := withField (withField w 14 1 1) 4 1 1
    withField (withField w 11 2 1) 5 5 t
  d.onShadow fun g => { g with
    regionBase := upd g.regionBase n fun w => withField w 22 22 mib
    regionAttr := upd g.regionAttr n attr }

/-- CART_STREAM_MAP (R453, R473, R475): `hashTable` holds the bytes read from the card when the table is not loaded. -/
def execCartStreamMap (channel : Nat) (hashTable : List Byte) (s : State) : Host.Outcome State Fault Refusal :=
  runCmd channel 0x0806 s noEarly fun d q =>
    let e := q.f 1 0 8
    if d.cart.serves && decide (d.cart.entryCount ≤ e) then (d, badField 1 0)
    else if d.swapPending then (d, fail 0x0F)
    else if d.shadowHeld || d.cartBusy then (d, fail 1)
    else
      let slot := (List.range 32).find? fun t => (d.title t).state != .empty && (d.title t).id == d.cart.titleId e
      match slot with
      | none => (d, fail 7)
      | some t =>
        if !d.cart.serves || !d.cart.streamable e then (d, fail 7)
        else
          let (d, st) := d.loadTable e hashTable
          if st != 0 then (d, fail st) else (d.mapStream (q.f 1 8 6) e t, done [])

/-! ### Card requests (R466, R467) -/

/-- Whether a Read that the device issued has not completed: a streamed unit or an INSTALL. -/
def Dev.cardReading (d : Dev) : Bool :=
  !d.cart.streamWaits.isEmpty
    || d.rings.any fun e => e.2.descs.any fun x => x.started && x.status.isNone && x.field 0 2 == 2

/-- CARD_REQUEST (R467): requests outside the window are refused; a write into the hash table, install staging or stream
buffer areas is dropped unless it falls into the buffer of a Read in progress, which the device places; a read returns what the device's
queues and buffers hold there, which is open. -/
def execCardRequest (request : CardReq) (s : State) : Host.Outcome State Fault Refusal :=
  run s fun d =>
    let last := request.address + request.bytes
    let msix := request.write && request.address == 0x4000000 && request.bytes == 4
    if !d.cart.linkUp then d
    else if !(msix || decide (last ≤ 0x4000000)) then
      (d.emit .cardRefused).event 0x0603 0xFF 1 0xFF (leBytes 8 request.address)
    else if request.write && !msix && decide (0x100000 < last) then
      let (x, d) := if d.cardReading then d.draw 2 else (0, d)
      if x = 0 then d.event 0x0603 0xFF 2 0xFF (leBytes 8 request.address) else d
    else if request.write then d
    else
      { d with draws := d.draws + 1 }.emit (.cardData ((rangeFrom request.address request.bytes).map (Config.windowByte d.draws)))

end Sys2Proof.Machine
end

