-- ==== Sys2Proof/Machine/Firmware.lean ====
section
/-!
DEFINITION. Mailbox commands of group 0x09: firmware and boot images are staged, checked, activated and reported
(R436, R454–R457).
-/
namespace Sys2Proof.Machine

open Sys2Proof

/-- Firmware target `t`. -/
def Dev.fwTarget (d : Dev) (t : Nat) : FwTarget := d.firmware.getD t {}

/-- Changes a firmware target. -/
def Dev.onFirmware (d : Dev) (t : Nat) (f : FwTarget → FwTarget) : Dev := { d with firmware := upd d.firmware t f }

/-- A check code as a VALIDATION reply: word 2 is 0 (R454). -/
def fwFailed (code : Nat) : Reply := .now 0x0A 0 [word code, 0]

/-- A staged image fails: it goes with the staging and any earlier staged image. -/
def Dev.fwRejected (d : Dev) (t code : Nat) : Dev × Reply :=
  (d.onFirmware t fun f => { f with staging := none, staged := none }, fwFailed code)

/-- The last part has been copied: the image is checked (R456). -/
def Dev.fwFinish (d : Dev) (t : Nat) (b : List Byte) : Dev × Reply :=
  let code := d.fwCheck t b
  if code = 0 then (d.onFirmware t fun f => { f with staging := none, staged := some b }, done [])
  else d.fwRejected t code

/-- Whether another channel holds the staging of a target (R431). -/
def Dev.fwBusy (d : Dev) (t channel : Nat) : Bool := (d.fwTarget t).staging.any fun e => e.1 != channel

/-- A part of a firmware image (R436, R454). -/
def Dev.fwPart (d : Dev) (q : Req) (host : List Byte) : Dev × Reply :=
  let off := q.f 1 0 32
  let last := q.f 1 32 1 = 1
  let t := q.f 1 33 2
  let n := q.f 2 0 32
  let mine := (d.fwTarget t).staging.bind fun e => if e.1 = q.channel then some e.2 else none
  if t = 3 then (d, badField 1 33)
  else if off % 4096 ≠ 0 then (d, badField 1 0)
  else if n = 0 ∨ (¬ last ∧ n % 4096 ≠ 0) then (d, badField 2 0)
  else if off ≠ 0 ∧ mine.map List.length ≠ some off then (d, badField 1 0)
  else if d.fwBusy t q.channel then (d, fail 1)
  else if 2 ^ 24 < off + n then d.fwRejected t 0x0803
  else match d.bufferBytes q host n with
    | none => (d, fail 9)
    | some b =>
      let staged := (if off = 0 then [] else mine.getD []) ++ b
      if last then d.fwFinish t staged
      else (d.onFirmware t fun f => { f with staging := some (q.channel, staged) }, done [])

/-- FW_STAGE (R454): a part longer than the buffer is BAD_LENGTH; target 2 needs a secure channel. -/
def execFwStage (channel : Nat) (buffer : List Byte) (s : State) : Host.Outcome State Fault Refusal :=
  runCmd channel 0x0901 s
    (fun d q =>
      if d.bufferSize q.channel < q.f 2 0 32 then some 3
      else if q.f 1 33 2 = 2 ∧ !q.secure then some 5
      else none)
    fun d q => d.fwPart q buffer

/-- Begins to write a staged image as the two copies of the next generation, that on slice 0 first (R457). -/
def Dev.fwStore (d : Dev) (t : Nat) (b : List Byte) : Dev :=
  let gen := (((newestCopy (d.fwTarget t).copies).map (·.generation)).getD 0 + 1) % 2 ^ 48
  d.onFirmware t fun f =>
    { f with copies := [some ⟨b, gen, false⟩, f.copies.getD 1 none], staged := none, storing := some 0 }

/-- FW_ACTIVATE (R457): its steps go on at tick boundaries, and the response follows the second copy. Target 2 needs a secure
channel (R434). -/
def execFwActivate (channel : Nat) (s : State) : Host.Outcome State Fault Refusal :=
  runCmd channel 0x0902 s (fun _ q => if q.f 1 0 2 = 2 ∧ !q.secure then some 5 else none) fun d q =>
    let t := q.f 1 0 2
    if t = 3 then (d, badField 1 0)
    else if d.fwBusy t q.channel || (d.fwTarget t).storing.isSome then (d, fail 1)
    else match (d.fwTarget t).staged with
      | none => (d, fail 7)
      | some b => ((d.fwStore t b).await q (.firmware t), .later)

/-- The two words of a target in FW_INFO (R457). -/
def Dev.fwWords (d : Dev) (t : Nat) : List Word :=
  let f := d.fwTarget t
  [word (f.revision % 2 ^ 24 + ((f.staged.map fwRevision).getD 0) * 2 ^ 24), word f.version]

/-- FW_INFO (R457). -/
def execFwInfo (channel : Nat) (s : State) : Host.Outcome State Fault Refusal :=
  runAnswer channel 0x0903 s fun d _ => done (d.fwWords 0 ++ d.fwWords 1 ++ d.fwWords 2)

end Sys2Proof.Machine
end

