-- ==== Sys2Proof/Machine/Security.lean ====
section
/-!
DEFINITION. Mailbox commands of group 0x0A: lifecycle, alarms, anti-rollback counters, key slots and the entry to TEST
(R351–R355, R378, R379, R384–R386, R458, R525–R527).
-/
namespace Sys2Proof.Machine

open Sys2Proof

/-! ### Debug state (R381, R382) -/

/-- Whether the debug port is open without a token (R382). -/
def Dev.debugOpen (d : Dev) : Bool := d.fuses.lifecycle == .anise || d.fuses.lifecycle == .clove

/-- Whether debug is unlocked: by a token, or open in the lifecycle state. -/
def Dev.debugUnlocked (d : Dev) : Bool := d.debugOpen || d.dbg.unlocked

/-- The scope in force: B, R, M, W, P, T in bits 0 to 5 (R381, R382). -/
def Dev.debugScope (d : Dev) : Nat :=
  match d.fuses.lifecycle with
  | .anise => 0x37
  | .clove => 0x3F
  | _ => if d.dbg.unlocked then d.dbg.scope.toNat else 0

/-! ### Lifecycle (R351–R355) -/

/-- Life clock at the entry to lifecycle state `n`, 0 when its record is absent (R458, R571). -/
def Dev.enteredAt (d : Dev) (n : Nat) : Nat := ((d.pstore.record16 (0x40 * n)).map fun b => leAt b 8 6).getD 0

/-- LIFECYCLE_GET (R458). -/
def execLifecycleGet (channel : Nat) (s : State) : Host.Outcome State Fault Refusal :=
  runAnswer channel 0x0A01 s fun d _ =>
    done [word (d.fuses.lifecycle.code + b2n d.debugUnlocked * 4 + d.debugScope * 8),
      word (d.enteredAt 1), word (d.enteredAt 2), word (d.enteredAt 3)]

/-- Whether the key slots that MACE needs are written (R352). -/
def Dev.maceKeys (d : Dev) : Bool :=
  ((List.range 4).any fun n => (d.keySlot n).isSome) && (rangeFrom 4 2).any fun n => (d.keySlot n).isSome

/-- The bytes of a key slot (R525). -/
def slotBytes (written : Bool) (x y : List Byte) : List Byte :=
  let body := x ++ y ++ [if written then 1 else 0]
  body ++ [0, 0, 0] ++ leBytes 4 (crc32c body)

/-- An erased key slot: bytes 0x00 to 0x60 are 0, with their CRC. -/
def erasedSlot : List Byte := slotBytes false (List.replicate 48 0) (List.replicate 48 0)

/-- A device root drawn from the DRBG is programmed into the first unprogrammed bank of the root fuse block, with its CRC (R352,
R353); `errors` are the fuses that come out wrong, those of the CRC on top. A root that a good bank holds already, from a transition
that lost its power before the lifecycle fuses, stays (DEDUCED: fuses are programmed once). `none` when no bank is left, or when the
one programmed fails its CRC. -/
def Dev.fuseRoot (d : Dev) (errors : BitVec 288) : Bool × Dev :=
  if d.fuses.rootBanks.any fun b => b.any RootBank.good then (true, d)
  else match d.fuses.rootBanks.findIdx? Option.isNone with
    | none => (false, d)
    | some i =>
      let (low, d) := d.random
      let (high, d) := d.random
      let root : BitVec 256 := high ++ low
      let crc := BitVec.ofNat 32 (crc32c (leBytes 32 root.toNat))
      let b : RootBank := ⟨root ^^^ errors.setWidth 256, crc ^^^ (errors >>> 256).setWidth 32⟩
      (b.good, { d with fuses := { d.fuses with rootBanks := upd d.fuses.rootBanks i fun _ => some b } })

/-- Programs the lifecycle fuses, the commit point of a transition (R353); into CLOVE the root is killed with them (R352). -/
def Dev.fuseLifecycle (d : Dev) (next : Lifecycle) : Dev :=
  { d with fuses := { d.fuses with lifecycle := next, rootKilled := next == .clove } }

/-- What follows the lifecycle fuses (R351, R352): entering CLOVE erases the key slots and the title records and unloads every key of the
medium, and the record of the transition is written. -/
def Dev.recordLifecycle (d : Dev) (next : Lifecycle) : Dev :=
  let d := if next == .clove then
      let d := { d.onSlices fun s => { s with engine := { s.engine with media := none, frames := [] } } with
        titles := d.titles.map fun _ => {} }
      (List.range 10).foldl (fun d k => d.store (0x1000 + 128 * k) erasedSlot) d
    else d
  d.store (0x40 * next.code) (clockRecord next.code 0 d.lifeClock)

/-- The event codes of the device (R570). -/
def eventCodes : List Nat :=
  rangeFrom 0x0101 13 ++ [0x010E] ++ rangeFrom 0x0201 6 ++ rangeFrom 0x0301 4 ++ rangeFrom 0x0401 7 ++ rangeFrom 0x0501 9
    ++ rangeFrom 0x0601 5

/-- INTERNAL: nothing done, and an event recorded (R428). The manual gives that event no code of its own, and the device writes no code
but those of R570: which one is open. -/
def Dev.internalError (d : Dev) : Dev × Reply :=
  let (k, d) := d.draw eventCodes.length
  (d.event (eventCodes.getD k 0) 0xFF 0 0xFF [], fail 0xFF)

/-- The lifecycle state a request names. -/
def lifecycleOf (n : Nat) : Option Lifecycle :=
  if n = 1 then some .cumin else if n = 2 then some .mace else if n = 3 then some .clove else none

/-- A transition that is allowed (R352, R353): out of ANISE the root is fused first; then the lifecycle fuses, the commit point; then the
records, and a warm reset into the new state. A power loss after the root fuses leaves the old state, one after the lifecycle fuses the
new state without its record. -/
def Dev.advance (d : Dev) (next : Lifecycle) (fuseErrors : BitVec 288) (cut : FuseCut) : Dev × Reply :=
  let (ok, d) := if d.fuses.lifecycle == .anise && next != .clove then d.fuseRoot fuseErrors else (true, d)
  if cut == .afterRoot then (d.powerOff, .later)
  else if !ok then d.internalError
  else
    let d := d.fuseLifecycle next
    if cut == .afterLifecycle then (d.powerOff, .later) else ((d.recordLifecycle next).beginTransition .boot, done [])

/-- LIFECYCLE_ADVANCE (R352, R353, R458): `fuses` tells which root fuses program wrong and where the power fails, if
it does. The command that fails a bank, and every later one once both have failed, completes with INTERNAL. -/
def execLifecycleAdvance (channel : Nat) (fuses : FuseProgram) (s : State) : Host.Outcome State Fault Refusal :=
  runCmd channel 0x0A02 s noEarly fun d q =>
    let now := d.fuses.lifecycle
    match lifecycleOf (q.f 1 0 2) with
    | none => (d, badField 1 0)
    | some next =>
      if (q.w 2).toNat ≠ d.fuses.deviceId.toNat % 2 ^ 48 then (d, badField 2 0)
      else if d.transitioning then (d, fail 1)
      else if next.code ≤ now.code || (next == .mace && !d.maceKeys) then (d, fail 7)
      else d.advance next fuses.errors fuses.cut

/-! ### Alarms (R384, R385) -/

/-- SEC_POLICY_SET (R385, R458). -/
def execSecPolicySet (channel : Nat) (s : State) : Host.Outcome State Fault Refusal :=
  runCmd channel 0x0A03 s noEarly fun d q =>
    let p := q.f 1 0 2
    if p = 3 then (d, badField 1 0)
    else ({ d with alarms := { d.alarms with policy := p } }, done [word d.alarms.policy])

/-- SEC_ALARM_STATUS (R458). -/
def execSecAlarmStatus (channel : Nat) (s : State) : Host.Outcome State Fault Refusal :=
  runAnswer channel 0x0A04 s fun d _ =>
    done [word d.alarms.causes.toNat, word (min 0xFFFF d.alarms.count + d.alarms.lastRound.toNat * 2 ^ 16)]

/-- SEC_ALARM_CLEAR (R384, R458): SEC_ALARM_N goes high. -/
def execSecAlarmClear (channel : Nat) (s : State) : Host.Outcome State Fault Refusal :=
  runCmd channel 0x0A05 s noEarly fun d _ =>
    ({ d with alarms := { d.alarms with causes := 0, count := 0, asserted := false } }, done [])

/-! ### Anti-rollback counters (R378, R379, R527) -/

/-- ROLLBACK_READ (R378, R458). -/
def execRollbackRead (channel : Nat) (s : State) : Host.Outcome State Fault Refusal :=
  runAnswer channel 0x0A06 s fun d q => done [word (d.rollback (q.f 1 0 4))]

/-- The sequence number of a counter's newest valid copy. -/
def Dev.rollbackSeq (d : Dev) (n : Nat) : Nat :=
  max (((d.pstore.counterCopy 0x400 n).map (·.2)).getD 0) (((d.pstore.counterCopy 0x800 n).map (·.2)).getD 0)

/-- ROLLBACK_ADVANCE (R379, R458): an update whose sequence number would not fit ends with COUNTER_END. -/
def execRollbackAdvance (channel : Nat) (s : State) : Host.Outcome State Fault Refusal :=
  runCmd channel 0x0A07 s noEarly fun d q =>
    let n := q.f 1 0 4
    let target := (q.w 2).toNat
    if n < 4 then (d, fail 5)
    else if target ≤ d.rollback n then (d, done [word (d.rollback n)])
    else if 2 ^ 48 ≤ d.rollbackSeq n + 1 then (d, fail 0x11)
    else
      let d := d.setRollback n target
      (d, done [word (d.rollback n)])

/-! ### Key slots and TEST (R386, R458, R525) -/

/-- Slots of a kind, with the place of its first: image, debug authority, content root (R356, R524). -/
def keyKind (kind : Nat) : Option (Nat × Nat) :=
  if kind = 0 then some (4, 0) else if kind = 1 then some (2, 4) else if kind = 2 then some (4, 6) else none

/-- KEY_SLOT_WRITE (R458, R525): the key stands in the secure buffer window; no word names it, so which word a point off
the curve is reported at is open. -/
def execKeySlotWrite (channel : Nat) (s : State) : Host.Outcome State Fault Refusal :=
  runCmd channel 0x0A08 s noEarly fun d q =>
    let n := q.f 1 2 2
    let x := bytesAt d.window 0 48
    let y := bytesAt d.window 0x30 48
    match keyKind (q.f 1 0 2) with
    | none => (d, badField 1 0)
    | some (count, base) =>
      if count ≤ n then (d, badField 1 2)
      else if q.f 1 4 1 = 1 then (d.store (0x1000 + 128 * (base + n)) erasedSlot, done [])
      else if !onCurve (beAt x 0 48) (beAt y 0 48) then d.badRecord
      else (d.store (0x1000 + 128 * (base + n)) (slotBytes true x y), done [])

/-- Whether TEST_ENTER may come on a channel (R386). -/
def Dev.testAllowed (d : Dev) (secure : Bool) : Bool :=
  match d.fuses.lifecycle with
  | .mace => false
  | .cumin => secure
  | _ => true

/-- TEST_ENTER (R386, R458): the package enters TEST at the next round boundary. -/
def execTestEnter (channel : Nat) (s : State) : Host.Outcome State Fault Refusal :=
  runCmd channel 0x0A09 s (fun d q => if d.testAllowed q.secure then none else some 5) fun d _ =>
    if d.transitioning then (d, fail 1) else (d.beginTransition .test, done [])

end Sys2Proof.Machine
end

