-- ==== Sys2Proof/Machine/Counting.lean ====
section
/-!
DEFINITION. Mailbox commands of group 0x0B and the bandwidth windows: snapshots, counter reads, windows (R459, R538–R544).
-/
namespace Sys2Proof.Machine

open Sys2Proof

/-- COUNTER_SNAPSHOT (R459, R543): while the tick runs the answer names the next scheduled tick, at whose start the
counters are latched, and one that waits for the same tick joins; before the tick starts they are latched at once. -/
def execCounterSnapshot (channel : Nat) (s : State) : Host.Outcome State Fault Refusal :=
  runCmd channel 0x0B01 s noEarly fun d _ =>
    if d.clock.on then
      let (r, t) := d.clock.following
      ({ d with counters := { d.counters with snapDue := true } }, done [word (r + t * 2 ^ 32)])
    else (d.latchCounters 0 0, done [word (2 ^ 42)])

/-- COUNTER_READ (R459): one word per counter, security counters included. -/
def execCounterRead (channel : Nat) (s : State) : Host.Outcome State Fault Refusal :=
  runAnswer channel 0x0B02 s fun d q =>
    let i := q.f 1 0 4
    let first := q.f 1 4 8
    let n := q.f 1 12 4 + 1
    let snap := q.f 1 16 1 = 1
    let package := i = 15
    if n = 16 then badField 1 12
    else if ¬ package ∧ !d.hasSlice i then badField 1 0
    else if (if package then 32 else 160) < first + n then badField 1 4
    else
      let l := if package then (if snap then d.counters.snapshot else d.counters.package)
        else if snap then (d.slice i).snapshot else (d.slice i).counters
      done ((rangeFrom first n).map fun k => l.getD k 0)

/-- BW_WINDOW_SET (R459, R544): the window in progress is discarded. -/
def execBwWindowSet (channel : Nat) (s : State) : Host.Outcome State Fault Refusal :=
  runCmd channel 0x0B03 s noEarly fun d q =>
    let n := q.f 1 0 16
    if n = 0 then (d, badField 1 0)
    else ({ d with counters := { d.counters with windowNext := some n, windowLast := d.clock.round.toNat } }, done [])

/-- Whether the package stands at a round boundary: between the end of tick 1,023 and the first work of tick 0. -/
def Dev.atRoundBoundary (d : Dev) : Bool :=
  d.clock.on && (d.clock.tick == 0 || (d.clock.tick == 1023 && d.clock.roundClosed))

/-- A port starts to count again; `keep` moves its counts into the result words. -/
def Port.restartWindow (keep : Bool) (p : Port) : Port :=
  let p := if keep then { p with bwReadResult := p.bwRead, bwWriteResult := p.bwWrite } else p
  { p with bwRead := List.replicate 8 0, bwWrite := List.replicate 8 0 }

/-- BW_WINDOW_END (R544): at a round boundary whose round count is a multiple of the window. A new window takes effect at
its first such boundary, and the window in progress reports nothing. -/
def execBwWindowEnd (s : State) : Host.Outcome State Fault Refusal :=
  run s fun d =>
    let c := d.counters
    let r := d.clock.round.toNat
    let w := c.windowNext.getD c.window
    if d.atRoundBoundary && r % w == 0 && r != c.windowLast then
      let keep := c.windowNext.isNone
      let c := { c with window := w, windowNext := none, windowLast := r, windowStart := d.clock.periods }
      let c := if keep then { c with windowEnd := r, windowSpan := d.clock.periods - d.counters.windowStart } else c
      { d with counters := c, ports := d.ports.map (Port.restartWindow keep) }
    else d

end Sys2Proof.Machine
end

