-- ==== Sys2Proof/Machine/Params.lean ====
section
/-!
DEFINITION. Mailbox commands of group 0x0C, the parameter store's programs, the repeat count and the periodic mirror save
(R460, R519–R524, R528, R534).
-/
namespace Sys2Proof.Machine

open Sys2Proof

/-! ### The content map (R524) -/

/-- Areas of the store: base, size, and whether a non-secure channel reads and writes and a secure one reads and
writes. -/
def pstoreAreas : List (Nat × Nat × Bool × Bool × Bool × Bool) :=
  [(0x00000, 0x40, true, false, true, false),
   (0x00040, 0xC0, true, false, true, false),
   (0x00100, 0x40, true, false, true, false),
   (0x00140, 0x40, true, false, true, false),
   (0x00180, 0x40, true, false, true, false),
   (0x001C0, 0x08, true, false, true, true),
   (0x00200, 0x80, true, false, true, false),
   (0x00400, 0x400, true, false, true, false),
   (0x00800, 0x400, true, false, true, false),
   (0x01000, 0x500, true, false, true, false),
   (0x02000, 0x800, false, false, true, false),
   (0x10000, 0x10000, true, false, true, false),
   (0x20000, 0x10000, false, false, true, true),
   (0x30000, 0x10000, true, true, true, true)]

/-- Whether a channel kind may read or write one byte. -/
def pstoreByteOpen (write secure : Bool) (a : Nat) : Bool :=
  pstoreAreas.any fun (base, size, nr, nw, sr, sw) =>
    decide (base ≤ a ∧ a < base + size) && (if secure then (if write then sw else sr) else if write then nw else nr)

/-- Whether a channel kind may read or write a range: every byte of it. -/
def pstoreOpen (write secure : Bool) (a n : Nat) : Bool := (rangeFrom a n).all (pstoreByteOpen write secure)

/-! ### Accesses in arrival order (R431, R523) -/

/-- A byte as a read returns it: the title directory shows the title slots. -/
def Dev.storeByte (d : Dev) (a : Nat) (b : Byte) : Byte :=
  if 0x2000 ≤ a ∧ a < 0x2800 then
    let t := d.title ((a - 0x2000) / 64)
    Config.titleDirByte (t.state != .empty) t.id t.key (a % 64)
  else b

/-- Answers an access. -/
def Dev.answerAccess (d : Dev) (a : PAccess) (status : Nat) (payload : List Word) : Dev :=
  match a.channel with
  | some c => d.respond c a.opcode a.tag 0 status payload
  | none => d

/-- Performs a read: corrected groups are counted and written back once per start; with an uncorrectable group it returns
no data (R522). -/
def Dev.performRead (d : Dev) (a : PAccess) : Dev :=
  match d.pstore.read a.address a.length with
  | none => (d.countPkg 18 1).answerAccess a 8 []
  | some b =>
    let d := if a.fixed.isEmpty then d else d.countPkg 17 1
    let back := a.fixed.filter fun g => !d.pstore.rewritten.contains g
    let d := { d with pstore := { d.pstore with rewritten := d.pstore.rewritten ++ back } }.countPkg 16 back.length
    let b := (List.range a.length).map fun k => d.storeByte (a.address + k) (b.getD k 0)
    d.answerAccess a 0 (wordsOf (ceilDiv a.length 6) b)

/-- Performs a register access of the sideband's control target (R411). -/
def Dev.performRegister (d : Dev) (r : RegAccess) : Dev :=
  match r.value with
  | some v => d.writeSlot .secure 0 d.regs.selSecure r.offset (v.setWidth 64) r.bad
  | none => { d with i3c := { d.i3c with regPointer := r.offset, readsBuffer := false } }

/-- Serves the accesses at the front of the store until one programs a page: a register access that waited is made, reads are performed, and a write that covers
an uncorrectable group only in part fails (R520). -/
def Dev.serveStore (d : Dev) : Nat → Dev
  | 0 => d
  | fuel + 1 =>
    match d.pstore.queue with
    | [] => d
    | a :: rest =>
      let next := { d with pstore := { d.pstore with queue := rest } }
      if a.register.isSome then (a.register.elim next next.performRegister).serveStore fuel
      else if a.isRead then (next.performRead a).serveStore fuel
      else if d.pstore.writable a.address a.data.length then d
      else (next.answerAccess a 8 []).serveStore fuel

/-- An access joins the store behind those that wait. -/
def Dev.addAccess (d : Dev) (a : PAccess) : Dev :=
  let first := d.pstore.queue.isEmpty
  let d := { d with pstore := { d.pstore with queue := d.pstore.queue ++ [a] } }
  if first then d.serveStore 1 else d

/-- Whether a range ends beyond the store (R460). -/
def beyondStore (a n : Nat) : Bool := decide (2 ^ 18 < a + n)

/-- PSTORE_READ (R460, R522–R524): `correctedGroups` are the groups that show a single-bit error. -/
def execPstoreRead (channel : Nat) (correctedGroups : List Nat) (s : State) : Host.Outcome State Fault Refusal :=
  runCmd channel 0x0C01 s noEarly fun d q =>
    let a := q.f 1 0 18
    let n := q.f 1 18 6 + 1
    if beyondStore a n then (d, badField 1 0)
    else if !pstoreOpen false q.secure a n then (d, fail 5)
    else
      let fixed := (groupsOf a n).filter correctedGroups.contains
      (d.addAccess ⟨a, [], false, some channel, q.tag, q.opcode, n, true, fixed, none⟩, .later)

/-- The first payload word of PSTORE_WRITE whose unused bytes are not 0, with their lowest bit. -/
def unusedSet (q : Req) (n : Nat) : Option (Nat × Nat) :=
  let last := 1 + ceilDiv n 6
  let used := n - 6 * (last - 2)
  if (q.w last).toNat / 2 ^ (8 * used) = 0 then none else some (last, 8 * used)

/-- PSTORE_WRITE (R460, R520, R523, R524): the response follows the last program. -/
def execPstoreWrite (channel : Nat) (s : State) : Host.Outcome State Fault Refusal :=
  runCmd channel 0x0C02 s
    (fun _ q => if q.words.length ≠ 2 + ceilDiv (q.f 1 18 6 + 1) 6 then some 3 else none)
    fun d q =>
      let a := q.f 1 0 18
      let n := q.f 1 18 6 + 1
      let data := (bytesOfWords (q.words.drop 2)).take n
      if beyondStore a n then (d, badField 1 0)
      else match unusedSet q n with
        | some e => (d, badField e.1 e.2)
        | none =>
          if !pstoreOpen true q.secure a n then (d, fail 5)
          else (d.addAccess ⟨a, data, false, some channel, q.tag, q.opcode, n, false, [], none⟩, .later)

/-- PSTORE_PROGRAM_DONE (R520, R523): the page being programmed has ended. With a pass a crossing write goes on with its
second page; a failed program leaves the groups it addressed open and ends the write with MEDIA_ERROR. -/
def execPstoreProgramDone (pass : Bool) (s : State) : Host.Outcome State Fault Refusal :=
  run s fun d =>
    match d.pstore.queue with
    | a :: rest =>
      if a.isRead then d
      else
        let (at_, b) := a.page
        if pass then
          let p := d.pstore.write at_ b
          if a.secondPage.isEmpty || a.page2 then
            let d := { d with pstore := { p with queue := rest } }
            ((d.countPkg 16 1).answerAccess a 0 []).serveStore (rest.length + 1)
          else { d with pstore := { p with queue := { a with page2 := true } :: rest } }
        else
          let d := { d with pstore := { d.pstore with queue := rest } }
          let d := (groupsOf at_ b.length).foldl Dev.openGroup d
          ((d.countPkg 16 1).answerAccess a 8 []).serveStore (rest.length + 1)
    | [] => d

/-! ### Writes of the firmware's own (R528, R534) -/

/-- REPEAT_COUNT_WRITE (R534, R536): the pending repeat count goes into the newest record; a read-back that does not hold
leaves the group open and makes the recorder failed. -/
def execRepeatCountWrite (readBackGood : Bool) (s : State) : Host.Outcome State Fault Refusal :=
  run s fun d =>
    if !d.mode.ticks then d
    else if readBackGood || !d.recorder.repeatDirty || d.recorder.failed then d.storeRepeats
    else
      let g := 0x2000 + d.mirror.newestOffset + 2
      let d := { d with recorder := { d.recorder with repeatDirty := false } }
      ((d.openGroup g).countPkg 16 1).failRecorder

/-- Whether the saved mirror was saved in this round. -/
def Dev.mirrorCurrent (d : Dev) : Bool :=
  match d.pstore.savedMirror with
  | some m => leAt m.2 0 6 == d.mirror.lifeClock
  | none => false

/-- MIRROR_SAVE (R528): every 1,048,576 rounds, once. -/
def execMirrorSave (s : State) : Host.Outcome State Fault Refusal :=
  run s fun d =>
    if d.mode.ticks && d.mirror.lifeClock != 0 && d.mirror.lifeClock % 1048576 == 0 && !d.mirrorCurrent then
      d.saveMirrors false
    else d

end Sys2Proof.Machine
end

