-- ==== Sys2Proof/Machine/StdBox.lean ====
section
/-!
DEFINITION. The standard primary mailbox of every host port: identification, health, alerts, event records, event
interrupts, logs, timestamp and firmware information (R299, R304–R311, R546).
-/
namespace Sys2Proof.Machine

open Sys2Proof

/-- The primary mailbox of a port has completed a command: its interrupt, where the standard control register asks for one (R423). -/
def Dev.mailboxInterrupt (d : Dev) (port : Nat) : Dev :=
  if (d.port port).mailboxIrq then d.signals [(port, Config.mailboxVector % 16)] else d

/-- A port answers a standard command: the return code and fields leave through it, with the mailbox's interrupt. -/
def Dev.stdReply (d : Dev) (port code : Nat) (fields : List Nat) : Dev :=
  (d.emit (.std port code fields)).mailboxInterrupt port

/-- The frame of a standard command at a linked port: its return code and fields leave through the port. -/
def runStd (port : Nat) (s : State) (f : Dev → Dev × Nat × List Nat) : Host.Outcome State Fault Refusal :=
  runPort port s fun d =>
    if d.reached .host port then
      let (d, code, fields) := f d
      d.stdReply port code fields
    else d

/-- A standard command that only answers. -/
def runStdAnswer (port : Nat) (s : State) (f : Dev → Nat × List Nat) : Host.Outcome State Fault Refusal :=
  runStd port s fun d => (d, f d)

/-! ### Identification and health -/

/-- IDENTIFY_MEMORY_DEVICE (R299, R305): firmware revision (open), total, volatile and persistent capacity and partition
alignment in units of 256 MiB, sizes of the four event logs, label storage size, poison list maximum, inject poison limit,
QoS telemetry, dynamic capacity. -/
def execIdentifyMemoryDevice (port : Nat) (s : State) : Host.Outcome State Fault Refusal :=
  runStd port s fun d =>
    let units := d.capacity / 2 ^ 28
    let (revision, d) := d.draw (2 ^ 128)
    (d, 0, [revision, units, 0, units, 0] ++ d.std.logs.map (·.size) ++ [0, 0, 0, 0, 0])

/-- Whether a port has narrowed (R318). -/
def Port.narrowed (p : Port) : Bool := decide (p.widthLimit < 16) || p.down

/-- Health Status: maintenance needed, performance degraded, hardware replacement needed (R546). -/
def Dev.stdHealth (d : Dev) : Nat :=
  b2n (d.recorder.failed || (List.range d.sliceCount).any d.lapsed)
    + 2 * b2n (d.rung != 0 || d.slices.any (·.inRecovery) || d.ports.any (·.narrowed))
    + 4 * b2n (d.mode == .preserve || decide (10000 ≤ d.lifeUsed))

/-- Media Status: 0 normal, 1 not ready, 2 write persistency lost, 3 all data lost (R546). -/
def Dev.stdMedia (d : Dev) : Nat :=
  if d.fuses.lifecycle == .clove then 3
  else if d.mode == .preserve then 2
  else if d.mode.isService then (if d.slices.any (·.inRecovery) then 2 else 0)
  else 1

/-- Additional Status: the warning bits follow the thresholds (R546). -/
def Dev.stdAdditional (d : Dev) : Nat :=
  let c (i : Nat) : Bool := d.alertsCrossed.getD i false
  b2n (c 0) + 4 * b2n (c 1 || c 2) + 16 * b2n (c 3) + 32 * b2n (c 4)

/-- GET_HEALTH_INFO (R546); without a reading the temperature is open. -/
def execGetHealthInfo (port : Nat) (s : State) : Host.Outcome State Fault Refusal :=
  runStd port s fun d =>
    let (t, d) := match d.internalHigh with
      | some q => ((BitVec.ofInt 16 (q / 4)).toNat, d)
      | none => d.draw (2 ^ 16)
    (d, 0, [d.stdHealth, d.stdMedia, d.stdAdditional, min 100 (d.lifeUsed / 100), t, d.mirror.dirtyShutdowns,
      d.correctedVolatile, d.correctedPersistent])

/-- GET_ALERT_CONFIGURATION (R304): the enabled thresholds and their values. -/
def execGetAlertConfiguration (port : Nat) (s : State) : Host.Outcome State Fault Refusal :=
  runStdAnswer port s fun d => (0, d.std.alertValid.toNat :: d.std.alertValues.map fun v => (BitVec.ofInt 32 v).toNat)

/-- SET_ALERT_CONFIGURATION (R304, R306): `valid` names the thresholds enabled, each with its value; the command
completed later wins. -/
def execSetAlertConfiguration (port : Nat) (valid : BitVec 5) (values : List Int) (s : State) :
    Host.Outcome State Fault Refusal :=
  runStd port s fun d =>
    let old := d.std.alertValues
    let new := (List.range 5).map fun i => if bitAt valid.toNat i then values.getD i (old.getD i 0) else old.getD i 0
    ({ d with std := { d.std with alertValid := valid, alertValues := new } }, 0, [])

/-! ### Event records (R307, R310, R311) -/

/-- The UUID of a Vendor Specific record (R311). -/
def vendorUuid : Nat := 0x5e1a7c203b944d6fa8120c77e49b1f35

/-- The 32 bytes of vendor data of a Vendor Specific record (R311): event code, slice, class or reach, reason, and from 0x08 the life
clock, from 0x10 the first 16 parameter bytes; the rest is 0. -/
def Event.vendorData (e : Event) : List Byte :=
  leBytes 2 e.code ++ leBytes 1 e.slice ++ leBytes 1 e.cls ++ leBytes 1 e.reason ++ List.replicate 3 0 ++ leBytes 6 e.clock
    ++ List.replicate 2 0 ++ padTo 16 (e.params.take 16)

/-- The fields of a record: handle and kind; of a Vendor Specific record its UUID and its vendor data, byte 0 lowest; of any other the
code, slice, class or reach, reason, life clock and first 16 parameter bytes. -/
def LogRec.fields (r : LogRec) : List Nat :=
  let e := r.event
  let common := [e.code, e.slice, e.cls, e.reason, e.clock, leAt (padTo 16 e.params) 0 16]
  match r.kind with
  | .generalMedia => [r.handle, 0] ++ common
  | .dram => [r.handle, 1] ++ common
  | .memoryModule => [r.handle, 2] ++ common
  | .vendor => [r.handle, 3, vendorUuid, leAt e.vendorData 0 32]

/-- GET_EVENT_RECORDS (R307): overflow count, number of records, and the records of a log. -/
def execGetEventRecords (port log : Nat) (s : State) : Host.Outcome State Fault Refusal :=
  runStdAnswer port s fun d =>
    match d.std.logs[log]? with
    | none => (2, [])
    | some g => (0, [g.overflow, g.records.length] ++ g.records.flatMap LogRec.fields)

/-- CLEAR_EVENT_RECORDS (R307): every record of a log, or those of the named handles; a handle that the log does not hold
is Invalid Handle, and nothing is cleared. -/
def execClearEventRecords (port log : Nat) (all : Bool) (handles : List Nat) (s : State) :
    Host.Outcome State Fault Refusal :=
  runStd port s fun d =>
    match d.std.logs[log]? with
    | none => (d, 2, [])
    | some g =>
      if !all && !handles.all fun h => g.records.any (·.handle == h) then (d, 0xE, [])
      else
        let kept := if all then [] else g.records.filter fun r => !handles.contains r.handle
        let overflow := if kept.length < g.records.length then 0 else g.overflow
        ({ d with std := { d.std with
          logs := upd d.std.logs log fun g => { g with records := kept, overflow := overflow } } }, 0, [])

/-- GET_EVENT_INTERRUPT_POLICY (R304). -/
def execGetEventInterruptPolicy (port : Nat) (s : State) : Host.Outcome State Fault Refusal :=
  runStdAnswer port s fun d => (0, [(d.port port).policy.toNat])

/-- SET_EVENT_INTERRUPT_POLICY (R304): of this port. -/
def execSetEventInterruptPolicy (port : Nat) (policy : BitVec 32) (s : State) : Host.Outcome State Fault Refusal :=
  runStd port s fun d => (d.onPort port fun p => { p with policy := policy }, 0, [])

/-! ### Logs, timestamp, firmware (R304) -/

/-- The UUID of the Command Effects Log, as CXL 3.1 gives it. -/
def effectsUuid : Nat := 0x0da9c0b5bf414b788f7996b1623b3f17

/-- GET_SUPPORTED_LOGS: the Command Effects Log only. -/
def execGetSupportedLogs (port : Nat) (s : State) : Host.Outcome State Fault Refusal :=
  runStdAnswer port s fun _ => (0, [1, effectsUuid, Config.effectsLength])

/-- GET_LOG: bytes of the Command Effects Log. -/
def execGetLog (port : Nat) (uuid : BitVec 128) (offset length : Nat) (s : State) : Host.Outcome State Fault Refusal :=
  runStdAnswer port s fun _ =>
    if uuid.toNat = effectsUuid ∧ offset + length ≤ Config.effectsLength then
      (0, (rangeFrom offset length).map fun n => (Config.effectsByte n).toNat)
    else (2, [])

/-- The timestamp in nanoseconds: the value set, and the rounds of the life clock since. -/
def Dev.timestampNow (d : Dev) : Nat :=
  (d.std.timestamp + 1048576 * (d.lifeClock - d.std.timestampClock)) % 2 ^ 64

/-- GET_TIMESTAMP (R304). -/
def execGetTimestamp (port : Nat) (s : State) : Host.Outcome State Fault Refusal :=
  runStdAnswer port s fun d => (0, [d.timestampNow])

/-- SET_TIMESTAMP (R304, R306): the command completed later wins. -/
def execSetTimestamp (port : Nat) (value : BitVec 64) (s : State) : Host.Outcome State Fault Refusal :=
  runStd port s fun d =>
    ({ d with std := { d.std with timestamp := value.toNat, timestampClock := d.lifeClock } }, 0, [])

/-- GET_FW_INFO (R304): two slots, no standard transfer path, active and staged revision of the control processor's
firmware. -/
def execGetFwInfo (port : Nat) (s : State) : Host.Outcome State Fault Refusal :=
  runStdAnswer port s fun d =>
    let f := d.fwTarget 0
    (0, [2, 0, f.revision, (f.staged.map fwRevision).getD 0])

/-- UNSUPPORTED_STANDARD_COMMAND (R304): Unsupported, and no effect. -/
def execUnsupportedStandardCommand (port : Nat) (_opcode : BitVec 16) (s : State) : Host.Outcome State Fault Refusal :=
  runStdAnswer port s fun _ => (3, [])

end Sys2Proof.Machine
end

