-- ==== Sys2Proof/Machine/HostPort.lean ====
section
/-!
DEFINITION. Events of the host ports: decoder commits, per-port reset, link training, L1, recoveries, IDE failures
(R296–R301, R313–R318, R480, R481).
-/
namespace Sys2Proof.Machine

open Sys2Proof

/-! ### HDM decoders (R300) -/

/-- Changes decoder `n` of a port. -/
def Port.onDecoder (p : Port) (n : Nat) (f : Hdm → Hdm) : Port := { p with decoders := upd p.decoders n f }

/-- HDM_DECODER_COMMIT (R300): a commit that fails a check leaves the decoder uncommitted with Error Not Committed. -/
def execHdmDecoderCommit (port decoder : Nat) (s : State) : Host.Outcome State Fault Refusal :=
  runPort port s fun d =>
    if !d.reached .host port || ((d.port port).decoders.getD decoder {}).committed then d
    else
      let ok := d.commitOk port decoder
      d.onPort port fun p => p.onDecoder decoder fun h => { h with committed := ok, notCommitted := !ok }

/-- Whether the Commit bit of decoder `n` may be cleared. -/
def Port.mayUncommit (p : Port) (n : Nat) : Bool :=
  !(p.decoders.getD n {}).lockOnCommit && (p.decoders.drop (n + 1)).all fun h => !h.committed

/-- HDM_DECODER_UNCOMMIT (R300): refused under Lock On Commit, or while a higher decoder is committed. -/
def execHdmDecoderUncommit (port decoder : Nat) (s : State) : Host.Outcome State Fault Refusal :=
  runPort port s fun d =>
    if d.reached .host port && (d.port port).mayUncommit decoder then
      d.onPort port fun p => p.onDecoder decoder fun h => { h with committed := false }
    else d

/-! ### What a port no longer answers (R317) -/

/-- A requester that a port reset takes away: a host read of the port, or a descriptor of one of its rings. -/
def Who.gone (port : Nat) (rings : List Nat) : Who → Bool
  | .host p _ _ => p == port
  | .desc r _ _ => rings.contains r
  | _ => false

/-- A completion that a port reset takes away. -/
def Ack.gone (port : Nat) (rings : List Nat) : Ack → Bool
  | .host p _ _ _ => p == port
  | .desc r _ => rings.contains r
  | .title _ => false

/-- A slice whose work goes on while nothing of a port, or of its rings, waits for it: writes that the port accepted go on
without a completion, and those of its rings that wait at ingress are dropped. -/
def Slice.forget (port : Nat) (rings : List Nat) (s : Slice) : Slice :=
  let req (q : ReadReq) : ReadReq := { q with who := q.who.filter fun w => !w.gone port rings }
  let acks (l : List Ack) : List Ack := l.filter fun a => !a.gone port rings
  let held := (s.flow.heldWrites.filter fun (w : HeldWrite) => !w.desc.any fun e => rings.contains e.1).map
    fun (w : HeldWrite) => if w.desc.isNone && w.port == port then { w with port := 8 } else w
  { s with
    flow := { s.flow with
      queue := s.flow.queue.map req
      hold := s.flow.hold.map req
      tow := s.flow.tow.map req
      flights := s.flow.flights.map fun (f : Flight) => { f with req := req f.req, kept := f.kept.map req }
      rewrites := s.flow.rewrites.map fun (r : Rewrite) => { r with acks := acks r.acks }
      durables := s.flow.durables.map fun (x : Durable) => { x with acks := acks x.acks }
      trims := s.flow.trims.map fun (t : TrimReq) =>
        if t.ack.any (Ack.gone port rings) then { t with ack := none } else t
      heldWrites := held
      heldReads := s.flow.heldReads.filter (·.port != port) }
    basin := { s.basin with entries := s.basin.entries.map fun (e : BasinEntry) => { e with acks := acks e.acks } }
    upkeep := { s.upkeep with rebuilds := s.upkeep.rebuilds.map fun (r : Rebuild) => { r with req := req r.req } } }

/-- The package once a port answers nothing: its reads are dropped, its writes have no completion. -/
def Dev.forgetPort (d : Dev) (port : Nat) (rings : List Nat) : Dev :=
  let flush (f : Flush) : Flush :=
    { f with
      host := if f.host = some port then none else f.host
      desc := if f.desc.any fun e => rings.contains e.1 then none else f.desc }
  { d.onPort port fun p => { p with reads := [], writes := [] } with
    slices := d.slices.map (Slice.forget port rings)
    flushes := d.flushes.map flush
    cart := { d.cart with streamWaits := d.cart.streamWaits.filter (·.port != port) } }

/-- The rings of a port. -/
def Dev.ringsOf (d : Dev) (port : Nat) : List Nat := (d.rings.filter (·.2.hostPort == port)).map (·.1)

/-- A port through its own reset: the counters of its bandwidth window stay (R486). -/
def Port.ownReset (p : Port) : Port :=
  { bwRead := p.bwRead, bwWrite := p.bwWrite, bwReadResult := p.bwReadResult, bwWriteResult := p.bwWriteResult,
    activeInRound := p.activeInRound }

/-- PORT_RESET (R317, R481, R486): by PERST# or CXL hot reset, of this port and its rings only. Where the package's links
are off it is ignored. -/
def execPortReset (port : Nat) (s : State) : Host.Outcome State Fault Refusal :=
  runPort port s fun d =>
    if !d.mode.ticks then d
    else
      let rings := d.ringsOf port
      let d := (d.forgetPort port rings).onPort port Port.ownReset
      { d with
        rings := d.rings.filter fun e => !rings.contains e.1
        msix := ⟨d.msix.enabled.filter (·.1 != port), d.msix.waiting.filter (·.1 != port),
          d.msix.entries.filter (·.port != port)⟩ }

/-! ### The link (R296, R316, R318) -/

/-- Whether a port can train at a width, speed and flit mode (R296, R318). -/
def Port.trains (p : Port) (width speed : Nat) (flit256 : Bool) : Bool :=
  !p.down && (width == 4 || width == 8 || width == 16) && decide (width ≤ p.widthLimit)
    && (speed == 8 || speed == 16 || speed == 32 || (speed == 64 && flit256))

/-- The CDAT of a port (R315): one DSMAS range over the whole DPA space, 2,348 ns and 600 ns, 112 and 88 GB/s. -/
def Dev.cdatEntry (d : Dev) : Cdat :=
  { base := 0, length := d.capacity, readLatency := 2348, writeLatency := 600, readBandwidth := 112, writeBandwidth := 88 }

/-- The Memory_Active_Timeout that the ports report: its encoding, and the time in s that it stands for (R319; PRESUMED: CXL 3.1 encodes
1 s as 0). -/
def memoryActiveTimeout : Nat × Nat := (0, 1)

/-- HOST_LINK_UP (R315, R319): the link of a port reaches L0, and the host can read its CDAT. -/
def execHostLinkUp (port width speed : Nat) (flit256 : Bool) (s : State) : Host.Outcome State Fault Refusal :=
  runPort port s fun d =>
    if d.mode.ticks && (d.port port).link == .down && (d.port port).trains width speed flit256 then
      d.onPort port fun p =>
        { p with link := .l0, width := width, speed := speed, flit256 := flit256, activeInRound := true,
                 cdat := some d.cdatEntry }
    else d

/-- LINK_L1_ENTRY (R316). -/
def execLinkL1Entry (port : Nat) (s : State) : Host.Outcome State Fault Refusal :=
  runPort port s fun d =>
    if d.mode.ticks && (d.port port).link == .l0 then d.onPort port fun p => { p with link := .l1 } else d

/-- LINK_L1_EXIT (R316, R480): from IDLE the package returns to SERVICE at the next tick boundary. -/
def execLinkL1Exit (port : Nat) (s : State) : Host.Outcome State Fault Refusal :=
  runPort port s fun d =>
    if d.mode.ticks && (d.port port).link == .l1 then
      let d := d.onPort port fun p => { p with link := .l0, activeInRound := true }
      if d.mode == .idle then { d with regs := { d.regs with idleExit := true } } else d
    else d

/-- The widest of x8 and x4 that avoids excluded lanes, 0 when neither does: a narrower link uses the lowest lanes. -/
def widthAvoiding (excluded : BitVec 16) : Nat :=
  if excluded.toNat % 2 ^ 8 = 0 then 8 else if excluded.toNat % 2 ^ 4 = 0 then 4 else 0

/-- A permanent lane fault: the port keeps a narrower width, or goes down (R318). -/
def Dev.narrowPort (d : Dev) (port : Nat) (excluded : BitVec 16) : Dev :=
  let w := widthAvoiding excluded
  let d := d.onPort port fun p => { p with recoveries := [] }
  let d :=
    if w = 0 then
      (d.forgetPort port []).onPort port fun p => { p with down := true, link := .down, width := 0, speed := 0 }
    else d.onPort port fun p => { p with widthLimit := min w p.widthLimit, width := min w p.width }
  d.event 0x0303 port w port []

/-- LINK_RECOVERY (R318): `excluded` holds the lanes that the width needed excludes. A third recovery within 1,024 rounds
that excludes the same lanes is a permanent fault. -/
def execLinkRecovery (port : Nat) (excluded : BitVec 16) (s : State) : Host.Outcome State Fault Refusal :=
  runPort port s fun d =>
    if !d.mode.ticks || (d.port port).link == .down then d
    else
      let d := d.count port 111 1
      let recent := (d.port port).recoveries.filter fun e => decide (d.lifeClock < e.1 + 1024)
      let now := recent ++ [(d.lifeClock, excluded)]
      let d := d.onPort port fun p => { p with recoveries := now }
      if excluded != 0 && decide (3 ≤ (now.filter (·.2 == excluded)).length) then d.narrowPort port excluded else d

/-! ### IDE (R313, R314) -/

/-- IDE_INTEGRITY_FAILURE (R314, R384): the stream goes insecure, CXL.mem service of the port stops, and the failure is an
alarm. A stream without keys has nothing to check. -/
def execIdeIntegrityFailure (port : Nat) (selective : Bool) (s : State) : Host.Outcome State Fault Refusal :=
  runPort port s fun d =>
    let k := b2n selective
    if d.mode.ticks && (d.port port).link != .down && (d.port port).ideKeys.any (·.selector % 2 == k) then
      let d := d.onPort port fun p => { p with ideInsecure := upd p.ideInsecure k fun _ => true }
      ((d.countPkg 13 1).event 0x0402 port k port []).alarm 2 none 0
    else d

end Sys2Proof.Machine
end

