-- ==== Sys2Proof/Machine/BootPort.lean ====
section
/-!
DEFINITION. The boot port: an xSPI target that reads out the boot image (R323–R327).
-/
namespace Sys2Proof.Machine

open Sys2Proof

/-- Changes the boot port. -/
def Dev.onBoot (d : Dev) (f : BootPort → BootPort) : Dev := { d with boot := f d.boot }

/-- The end of a command: Write Enable and an armed reset last until the end of the next command (R324). -/
def BootPort.endCommand (b : BootPort) : BootPort := { b with writeEnabled := false, resetArmed := false }

/-- A command of protocol `proto`, or of both: while BOOT_READY is low, or in the other protocol, it is ignored with the
data lines floating (R323, R324, R326). -/
def runXspi (proto : Option XspiMode) (s : State) (f : Dev → Dev) : Host.Outcome State Fault Refusal :=
  run s fun d => if d.bootReady && proto.all (· == d.boot.proto) then f d else d.emit .xspiFloat

/-- A command that returns bytes. -/
def runXspiRead (proto : XspiMode) (s : State) (bytes : Dev → List Byte) : Host.Outcome State Fault Refusal :=
  runXspi (some proto) s fun d => (d.onBoot BootPort.endCommand).emit (.xspi (bytes d))

/-- Image data from an address on: 0xFF at and above the image length, without wrap (R325). -/
def Dev.imageBytes (d : Dev) (address length : Nat) : List Byte :=
  (rangeFrom address length).map fun a => d.boot.image.getD a 0xFF

/-- The status byte: bit 1 is Write Enable (R324). -/
def Dev.statusBytes (d : Dev) (length : Nat) : List Byte :=
  List.replicate length (if d.boot.writeEnabled then 2 else 0)

/-- READ (R323, R325). -/
def execRead (address : BitVec 24) (length : Nat) (s : State) : Host.Outcome State Fault Refusal :=
  runXspiRead .single s fun d => d.imageBytes address.toNat length

/-- FAST_READ (R323, R325). -/
def execFastRead (address : BitVec 24) (length : Nat) (s : State) : Host.Outcome State Fault Refusal :=
  runXspiRead .single s fun d => d.imageBytes address.toNat length

/-- Where the basic parameter table stands, past the header and one parameter header. -/
def sfdpTable : Nat := 16 + 4 * (Config.sfdpPlace % 1024)

/-- Byte `n` of the JESD216 header and basic parameter table, which describe a 32 Mibit device without program or erase support (R325).
PRESUMED, from JESD216: the signature and major revision 1; the parameter header's identifier 0xFF00 and pointer; in the table, no 4 KiB
erase, density 0x01FF_FFFF (bits less 1), and no erase type. What the manual and these leave is open. -/
def sfdpByte (n : Nat) : Byte :=
  if n < 4 then (asciiOf "SFDP").getD n 0
  else if n = 5 ∨ n = 10 then 1
  else if n = 8 then 0
  else if 12 ≤ n ∧ n < 15 then (leBytes 3 sfdpTable).getD (n - 12) 0
  else if n = 15 then 0xFF
  else if n < sfdpTable then Config.sfdpByte n
  else
    let k := n - sfdpTable
    if k = 0 then Config.sfdpByte n ||| 3
    else if k = 1 then 0xFF
    else if 4 ≤ k ∧ k < 8 then (leBytes 4 0x01FFFFFF).getD (k - 4) 0
    else if k = 28 ∨ k = 30 ∨ k = 32 ∨ k = 34 then 0
    else Config.sfdpByte n

/-- READ_SFDP (R325): the JESD216 tables. -/
def execReadSfdp (address : BitVec 24) (length : Nat) (s : State) : Host.Outcome State Fault Refusal :=
  runXspiRead .single s fun _ => (rangeFrom address.toNat length).map sfdpByte

/-- READ_STATUS (R324). -/
def execReadStatus (length : Nat) (s : State) : Host.Outcome State Fault Refusal :=
  runXspiRead .single s fun d => d.statusBytes length

/-- OCTAL_READ (R323, R325). -/
def execOctalRead (address : BitVec 32) (length : Nat) (s : State) : Host.Outcome State Fault Refusal :=
  runXspiRead .octal s fun d => d.imageBytes address.toNat length

/-- OCTAL_READ_STATUS (R324). -/
def execOctalReadStatus (length : Nat) (s : State) : Host.Outcome State Fault Refusal :=
  runXspiRead .octal s fun d => d.statusBytes length

/-- WRITE_ENABLE (R324). -/
def execWriteEnable (s : State) : Host.Outcome State Fault Refusal :=
  runXspi none s fun d => d.onBoot fun b => { b.endCommand with writeEnabled := true }

/-- The protocol that a configuration value selects (R324). -/
def protoOf (value : Byte) : Option XspiMode :=
  if value = 0xE7 then some .octal else if value = 0xFF then some .single else none

/-- WRITE_VOLATILE_CONFIG (R324): accepted after a WRITE_ENABLE, at address 0, with one of two values; else ignored. -/
def execWriteVolatileConfig (address : BitVec 32) (value : Byte) (s : State) : Host.Outcome State Fault Refusal :=
  runXspi none s fun d =>
    match protoOf value with
    | some m =>
      if d.boot.writeEnabled && address == 0 then d.onBoot fun b => { b.endCommand with proto := m } else d.emit .xspiFloat
    | none => d.emit .xspiFloat

/-- RESET_ENABLE (R324). -/
def execResetEnable (s : State) : Host.Outcome State Fault Refusal :=
  runXspi none s fun d => d.onBoot fun b => { b.endCommand with resetArmed := true }

/-- RESET (R324): right after a RESET_ENABLE the port returns to 1S-1S-1S. -/
def execReset (s : State) : Host.Outcome State Fault Refusal :=
  runXspi none s fun d => d.onBoot fun b => { b.endCommand with proto := if b.resetArmed then .single else b.proto }

/-- XSPI_IGNORED_COMMAND (R324): the data lines stay floating, and no state changes. -/
def execXspiIgnoredCommand (_opcode : Byte) (s : State) : Host.Outcome State Fault Refusal :=
  run s fun d => d.emit .xspiFloat

end Sys2Proof.Machine
end

