-- ==== Sys2Proof/Machine/Sideband.lean ====
section
/-!
DEFINITION. The I3C secure sideband: addresses, the channel targets and the control target (R409–R414).
-/
namespace Sys2Proof.Machine

open Sys2Proof

/-- Changes the sideband interface. -/
def Dev.onI3c (d : Dev) (f : I3c → I3c) : Dev := { d with i3c := f d.i3c }

/-- Static address of a target (R409): target 0 is the control target, target 1 + (c − 8) serves channel c. -/
def staticAddress (target : Nat) : BitVec 7 := BitVec.ofNat 7 (0x30 + target)

/-- The target that an assignment names: SETDASA by a static address, ENTDAA one of the 9 in turn (R409). -/
def assignedTarget : I3cAssign → Option Nat
  | .setdasa a => (List.range 9).find? fun t => staticAddress t == a
  | .entdaa t => if t < 9 then some t else none

/-- I3C_ADDRESS_ASSIGN (R409): a static address of no target is not acknowledged. -/
def execI3cAddressAssign (how : I3cAssign) (address : BitVec 7) (s : State) : Host.Outcome State Fault Refusal :=
  run s fun d =>
    if !d.mode.ticks then d
    else match assignedTarget how with
      | some t => d.onI3c fun i => { i with addresses := upd i.addresses t fun _ => some address }
      | none => d.emit .i3cNack

/-- Whether a target answers on the bus: its domain is on and it has taken an address. -/
def Dev.targetUp (d : Dev) (target : Nat) : Bool := d.mode.ticks && (d.i3c.addresses.getD target none).isSome

/-- A transfer to a target that answers; any other is not acknowledged. -/
def runTarget (target : Nat) (s : State) (f : Dev → Dev) : Host.Outcome State Fault Refusal :=
  run s fun d => if d.targetUp target then f d else d.emit .i3cNack

/-- A transfer to the target of a channel; channels 0 to 7 have none. -/
def runChannelTarget (channel : Nat) (s : State) (f : Dev → Dev) : Host.Outcome State Fault Refusal :=
  guardIf (decide (channel < 16)) .noSuchChannel
    (run s fun d => if decide (8 ≤ channel) && d.targetUp (channel - 7) then f d else d.emit .i3cNack)

/-! ### Channel targets (R410) -/

/-- Places the whole words of a transfer from word `n` on: one that arrives after the FIFO has filled is discarded, as is a trailing
partial word, and sets overrun. The words of `bad` fail their parity in the FIFO (R405). -/
def Dev.takeWords (d : Dev) (c : Nat) (bad : List Nat) : Nat → Nat → List Byte → Dev
  | 0, _, _ => d
  | fuel + 1, n, bytes =>
    if bytes.isEmpty then d
    else if bytes.length < 6 || d.inboundFull c then (d.overrunChan c).takeWords c bad fuel (n + 1) (bytes.drop 6)
    else (d.appendInbound c (word (leAt bytes 0 6)) (bad.contains n)).takeWords c bad fuel (n + 1) (bytes.drop 6)

/-- I3C_CHANNEL_WRITE (R404, R410): the address is acknowledged only while the inbound FIFO is not full. -/
def execI3cChannelWrite (channel : Nat) (bytes : SidebandBytes) (s : State) :
    Host.Outcome State Fault Refusal :=
  runChannelTarget channel s fun d =>
    if d.inboundFull channel then d.emit .i3cNack else 
    d.takeWords channel bytes.parityFails (bytes.bytes.length + 1) 0 bytes.bytes

/-- The stages that hold the message at the front of an outbound FIFO. -/
def frontMessage : List MbWord → List MbWord
  | [] => []
  | w :: rest => w :: rest.takeWhile fun x => !x.first

/-- I3C_CHANNEL_READ (R405, R410): the message at the front, while it is whole; a word of it that fails its parity sets out_poison. -/
def execI3cChannelRead (channel : SidebandRead) (s : State) : Host.Outcome State Fault Refusal :=
  let c := channel.operand
  runChannelTarget c s fun d =>
    if !(d.chan c).outMsg then d.emit .i3cNack
    else
      let ws := frontMessage (d.chan c).outb
      let bad := ws.any (·.bad) || channel.parityFails.any (decide <| · < ws.length)
      let d := d.onChan c fun ch => { ch with outPoison := ch.outPoison || bad }
      (d.emit (.i3cData (bytesOfWords (ws.map (·.word))))).dropOut c

/-! ### The control target (R411–R413) -/

/-- Whether a register access of the control target waits in the parameter store's order (R413). -/
def Dev.registerWaits (d : Dev) : Bool := d.pstore.queue.any (·.register.isSome)

/-- A transfer to the control target: while a register access that it has accepted waits, it is not acknowledged (R413). -/
def runControl (s : State) (f : Dev → Dev) : Host.Outcome State Fault Refusal :=
  runTarget 0 s fun d => if d.registerWaits then d.emit .i3cNack else f d

/-- A register access that the control target has accepted: it waits while the parameter store programs a page, behind the accesses that
came before it (R413). DESIGN CHOICE: the manual does not say which registers reach the store; the model lets every one wait. -/
def Dev.acceptRegister (d : Dev) (r : RegAccess) : Dev :=
  if d.pstore.queue.isEmpty then d.performRegister r
  else
    let a : PAccess := ⟨0, [], false, none, 0, 0, 0, true, [], some r⟩
    { d with pstore := { d.pstore with queue := d.pstore.queue ++ [a] } }

/-- A register offset of the control target: aligned, and within BAR2; any other is reported with reason SIZE. -/
def Dev.withOffset (d : Dev) (offset : BitVec 32) (f : Dev → Dev) : Dev :=
  if offset.toNat % 8 = 0 && decide (offset.toNat < 0x4000000) then f d else d.report .secure 0 offset.toNat 2

/-- REG_WRITE (R411): a 64-bit write as the secure sideband. -/
def execRegWrite (offset : BitVec 32) (value : SidebandValue) (s : State) : Host.Outcome State Fault Refusal :=
  runControl s fun d => d.withOffset offset fun d => d.acceptRegister ⟨offset.toNat, some value.value, value.parityFail⟩

/-- REG_ADDR (R411): sets the register read pointer. -/
def execRegAddr (offset : BitVec 32) (s : State) : Host.Outcome State Fault Refusal :=
  runControl s fun d => d.withOffset offset fun d => d.acceptRegister ⟨offset.toNat, none, false⟩

/-- BUF_WRITE (R411, R412): bytes past 4,095 are discarded. -/
def execBufWrite (offset : BitVec 16) (data : List Byte) (s : State) : Host.Outcome State Fault Refusal :=
  runControl s fun d =>
    d.onI3c fun i => { i with window := memWrite i.window offset.toNat (data.take (4096 - offset.toNat)) }

/-- BUF_ADDR (R411): sets the window read pointer. -/
def execBufAddr (offset : BitVec 16) (s : State) : Host.Outcome State Fault Refusal :=
  runControl s fun d => d.onI3c fun i => { i with bufPointer := offset.toNat, readsBuffer := true }

/-- DROP (R406, R411): on channels 8 to 15; any other transfer is ignored. -/
def execDrop (channel : Byte) (s : State) : Host.Outcome State Fault Refusal :=
  runControl s fun d => if 8 ≤ channel.toNat ∧ channel.toNat ≤ 15 then d.dropOut channel.toNat else d

/-- The bytes of `n` slots from slot `k` of the transfer on, each read as a 64-bit access of the secure sideband; the slots of `bad` find
a mailbox word that fails its parity (R405). -/
def Dev.readSlots (d : Dev) (bad : List Nat) : Nat → Nat → Nat → List Byte × Dev
  | 0, _, _ => ([], d)
  | n + 1, k, off =>
    let (w, d) :=
      if off < 0x4000000 then
        let (r, d) := d.readAccess .secure 0 d.regs.selSecure off 8 (bad.contains k)
        (r.1, d)
      else (0, d)
    let (rest, d) := d.readSlots bad n (k + 1) (off + 8)
    (leBytes 6 w ++ rest, d)

/-- I3C_CONTROL_READ (R411): from the pointer set last, which stays; the window reads 0 past 4,095. -/
def execI3cControlRead (bytes : SidebandRead) (s : State) : Host.Outcome State Fault Refusal :=
  let n := bytes.operand
  runControl s fun d =>
    if d.i3c.readsBuffer then
      d.emit (.i3cData ((rangeFrom d.i3c.bufPointer n).map fun a => if a < 4096 then memByte d.i3c.window a else 0))
    else
      let (b, d) := d.readSlots bytes.parityFails (ceilDiv n 6) 0 d.i3c.regPointer
      d.emit (.i3cData (b.take n))

end Sys2Proof.Machine
end

