-- ==== Sys2Proof/Machine/Debug.lean ====
section
/-!
DEFINITION. The JTAG port: its instructions, the unlock by token, and the debug access port (R366, R376, R380–R383, R386,
R396, R560).
-/
namespace Sys2Proof.Machine

open Sys2Proof

/-- Changes the debug state. -/
def Dev.onDebug (d : Dev) (f : Debug → Debug) : Dev := { d with dbg := f d.dbg }

/-- A JTAG instruction with code `code`: the port answers in every mode except OFF (R380). -/
def runJtag (code : Nat) (s : State) (f : Dev → Dev) : Host.Outcome State Fault Refusal :=
  run s fun d => if d.mode == .off then d else f (d.onDebug fun g => { g with selected := BitVec.ofNat 8 code })

/-- Whether a scope letter is in reach: granted, and slice 0's CONTROL domain on (R380, R386). -/
def Dev.inScope (d : Dev) (letter : Nat) : Bool := d.mode.ticks && bitAt d.debugScope letter

/-- The one-bit bypass register, which captures 0. -/
def Dev.bypass (d : Dev) : Dev := d.emit (.jtag 1 0)

/-! ### Instructions that only answer (R380, R560) -/

/-- BYPASS (R380): also every code that is not decoded. -/
def execBypass (code : Byte) (s : State) : Host.Outcome State Fault Refusal := runJtag code.toNat s Dev.bypass

/-- Part number of the identification code. -/
def Part.number : Part → Nat
  | .tvq2 => 0x7402
  | .tvq4 => 0x7404
  | .tvq8 => 0x7408

/-- IDCODE (R560). -/
def execIdcode (s : State) : Host.Outcome State Fault Refusal :=
  runJtag 0x02 s fun d =>
    d.emit (.jtag 32 (1 + 0x4E5 * 2 + d.part.number * 2 ^ 12 + d.fuses.stepping.toNat % 16 * 2 ^ 28))

/-- UNLOCK_STATUS (R380). -/
def execUnlockStatus (s : State) : Host.Outcome State Fault Refusal :=
  runJtag 0x12 s fun d =>
    d.emit (.jtag 16 (d.debugScope + b2n d.debugUnlocked * 2 ^ 8 + min 8 d.dbg.failures * 2 ^ 9))

/-- FAULT (R380, R496). -/
def execFault (s : State) : Host.Outcome State Fault Refusal :=
  runJtag 0x13 s fun d => d.emit (.jtag 16 d.seq.latch.toNat)

/-! ### Boundary scan (R380) -/

/-- Shifts the boundary register: what it captured from the pins is open. -/
def Dev.boundaryScan (d : Dev) (scan : List Bool) : Dev :=
  let (v, d) := d.draw (2 ^ scan.length)
  (d.onDebug fun g => { g with boundary := scan }).emit (.jtag scan.length v)

/-- EXTEST (R380): scope B, in TEST only. -/
def execExtest (scan : List Bool) (s : State) : Host.Outcome State Fault Refusal :=
  runJtag 0x00 s fun d => if d.inScope 0 && d.mode == .test then d.boundaryScan scan else d.bypass

/-- SAMPLE_PRELOAD (R380): scope B. -/
def execSamplePreload (scan : List Bool) (s : State) : Host.Outcome State Fault Refusal :=
  runJtag 0x01 s fun d => if d.inScope 0 then d.boundaryScan scan else d.bypass

/-! ### Unlock (R381–R383) -/

/-- CHALLENGE (R381): device ID, a fresh nonce, lifecycle state. -/
def execChallenge (s : State) : Host.Outcome State Fault Refusal :=
  runJtag 0x10 s fun d =>
    let (n, d) := d.random
    let v := d.fuses.deviceId.toNat + n.toNat * 2 ^ 64 + d.fuses.lifecycle.code * 2 ^ 192
    (d.onDebug fun g => { g with nonce := some n }).emit (.jtag 256 v)

/-- Whether a token fails no condition of R382; in MACE no device ID of 0 is accepted. -/
def Dev.tokenOk (d : Dev) (t : List Byte) : Bool :=
  let id := leAt t 0 8
  t.length == 128
    && (id == d.fuses.deviceId.toNat || (id == 0 && d.fuses.lifecycle == .cumin))
    && d.dbg.nonce == some (BitVec.ofNat 128 (leAt t 8 16))
    && decide (byteAt t 24 < 64) && decide (byteAt t 25 < 2) && zeroBytes t 26 6
    && match d.keySlot (4 + byteAt t 25) with
      | some (x, y) => ecdsaVerify x y (beAt t 32 48) (beAt t 80 48) (sha384 (t.take 32))
      | none => false

/-- The scope a token grants: W never in MACE. -/
def Dev.grantedScope (d : Dev) (t : List Byte) : Nat :=
  let n := byteAt t 24
  if d.fuses.lifecycle == .mace && bitAt n 3 then n - 8 else n

/-- An open title begins to close as by TITLE_CLOSE, for a token that waits for it (R365, R366). -/
def Dev.closeForDebug (d : Dev) (t : Nat) : Dev :=
  if (d.title t).state == .opened then
    let (id, d) := d.closeFlush t
    d.onDebug fun g => { g with closing := g.closing ++ [(id, t)] }
  else d

/-- A token unlocks the port: in MACE every title closes first (R366). -/
def Dev.unlock (d : Dev) (scope : Nat) : Dev :=
  if d.fuses.lifecycle == .mace && d.titles.any (·.state == .opened) then
    (List.range 32).foldl Dev.closeForDebug (d.onDebug fun g => { g with granted := some (BitVec.ofNat 8 scope), closing := [] })
  else (d.onDebug fun g => { g with unlocked := true, scope := BitVec.ofNat 8 scope }).countPkg 10 1

/-- A failed token: the eighth since the start is an alarm (R383). -/
def Dev.tokenFailed (d : Dev) : Dev :=
  let n := d.dbg.failures + 1
  let d := ((d.onDebug fun g => { g with failures := n }).countPkg 8 1).event 0x0403 0xFF n 0xFF []
  if n = 8 then d.alarm 1 none 0 else d

/-- TOKEN (R381–R383): the nonce ends with the token; an open port needs none, after 8 failures tokens are refused, and in
the modes without the CONTROL domain none unlocks (R386). -/
def execToken (bytes : List Byte) (s : State) : Host.Outcome State Fault Refusal :=
  runJtag 0x11 s fun d =>
    let ok := d.tokenOk bytes
    let d := d.onDebug fun g => { g with nonce := none }
    if d.debugOpen || 8 ≤ d.dbg.failures || !d.mode.ticks then d
    else if ok then d.unlock (d.grantedScope bytes)
    else d.tokenFailed

/-! ### The debug access port (R376, R386, R396) -/

/-- A debug access that R376 excludes: it reads zeros, does nothing, and is counted. -/
def Dev.debugDenied (d : Dev) : Dev := (d.countPkg 9 1).emit (.dap 0)

/-- An access to a register: the BAR2 offset in the low bits, the selects above (R396). It acts as no port and no agent that
writes secure-only fields; a mailbox channel is reached as through its own port. -/
def Dev.debugRegister (d : Dev) (write : Bool) (address : Nat) (value : BitVec 64) : Dev :=
  let off := address % 2 ^ 28
  let sel : Sel := ⟨address / 2 ^ 33 % 8, address / 2 ^ 28 % 32⟩
  let c := (off - 0x10000) / 0x1000
  let port := if 0x10000 ≤ off ∧ off < 0x18000 then d.chanPort c else 8
  if off % 8 ≠ 0 ∨ !d.mapped off then d.emit (.dap 0)
  else if write then
    let aer := (d.port port).aer
    let d := (d.writeSlot .host port sel off value false).onPort port fun p => { p with aer := aer }
    let e := d.regs.accessError
    { d with regs := { d.regs with accessError := { e with port := e.port % 8 } } }.emit (.dap 0)
  else
    let (r, d) := d.readSlot .host port sel off false
    d.emit (.dap (r.1.setWidth 64))

/-- The sector at a DPA as debug finds it; `none` where its data is open: poison, a lost line, a page whose key is not loaded (R360), or
no map in force. -/
def Dev.debugSector (d : Dev) (dpa : Nat) : Option Sector :=
  let s := d.slice (d.sliceOf dpa)
  let lfn := d.frameOf dpa
  let k := sectorInFrame dpa
  if d.mode == .boot || d.fuses.lifecycle == .clove then none
  else match s.find true lfn k with
    | .hit v _ => some v
    | .newer v _ => some v
    | .zero => some 0
    | .poisoned => none
    | .lost => none
    | .medium =>
      match s.cell (s.entry lfn).slot (s.entry lfn).pos (k / 4) with
      | some (.page p) => if d.keyLoaded p.title then some ((s.decrypted p).getD (k % 4) 0) else none
      | _ => none

/-- The sector, with an open one drawn. -/
def Dev.debugData (d : Dev) (dpa : Nat) : Sector × Dev :=
  match d.debugSector dpa with
  | some v => (v, d)
  | none =>
    let (n, d) := d.draw (2 ^ 512)
    (BitVec.ofNat 512 n, d)

/-- Whether a line stands in the line cache or the victim buffer with its protection bit set (R376). -/
def Slice.lineMarked (s : Slice) (line : Nat) : Bool := (s.lineOf? line).any (·.prot) || (s.victimOf line).any (·.prot)

/-- An access of 8 bytes to DPA space: never to a protected range, which is denied and alarmed; a write goes the way of host
writes, and is discarded where those are. -/
def Dev.debugDpa (d : Dev) (write : Bool) (address : Nat) (value : BitVec 64) : Dev :=
  let a := address / 8 * 8
  if d.capacity ≤ a then d.emit (.dap 0)
  else
    let c := d.active.classify 0 a
    if d.lineProtected c a || (d.slice (d.sliceOf a)).lineMarked (lineOf (d.frameOf a) (subOf a)) then d.debugDenied.alarm 3 none 0
    else
      let (v, d) := d.debugData a
      let lo := 8 * (a % 64)
      if write then
        let new := BitVec.ofNat 512 (setBits v.toNat lo 64 value.toNat)
        let d := if (d.discardReason c a).isSome || d.mode == .boot then d else d.putWrite ⟨8, 0, a, some new, c, none, d.now⟩
        d.emit (.dap 0)
      else d.emit (.dap (BitVec.ofNat 64 (bits v.toNat lo 64)))

/-- An access to memory whose contents the manual does not give: a read returns an open value. -/
def Dev.debugOpaque (d : Dev) (write : Bool) : Dev :=
  if write then d.emit (.dap 0)
  else
    let (n, d) := d.draw (2 ^ 64)
    d.emit (.dap (BitVec.ofNat 64 n))

/-- An access outside the granted scope reaches nothing. -/
def Dev.withScope (d : Dev) (letter : Nat) (f : Dev → Dev) : Dev := if d.inScope letter then f d else d.emit (.dap 0)

/-- An access of 8 bytes to the control processor's working memory (R27, R381). What debug writes while the processor is halted stays
until it runs on; what the memory holds otherwise is the firmware's, and open. -/
def Dev.debugWorking (d : Dev) (write : Bool) (address : Nat) (value : BitVec 64) : Dev :=
  let a := address / 8 * 8
  if 2 ^ 27 ≤ a then d.emit (.dap 0)
  else if write then
    let stored := (List.range 8).foldl (fun m k => sset m (a + k) ((leBytes 8 value.toNat).getD k 0)) d.working
    { d with working := if d.dbg.halted then stored else d.working }.emit (.dap 0)
  else
    let (n, d) := d.draw (2 ^ 64)
    let bytes := (List.range 8).map fun k => sget d.working (a + k) ((leBytes 8 n).getD k 0)
    d.emit (.dap (BitVec.ofNat 64 (leAt bytes 0 8)))

/-- An access to a slice's local DRAM: that of slice 0 reaches the control processor's working memory there, any other nothing (R376). -/
def Dev.debugDram (d : Dev) (write : Bool) (memory slice address : Nat) (value : BitVec 64) : Dev :=
  let base := workingBase d.fuses.dram4
  if slice = 0 ∧ base ≤ address ∧ address < base + 2 ^ 27 then
    d.withScope memory fun d => d.debugWorking write (address - base) value
  else d.debugDenied

/-- Processor control: action 0 runs, 1 halts, 2 steps and stays halted; another sets a breakpoint. -/
def Debug.act (g : Debug) (action : Nat) : Debug :=
  { g with halted := if action = 0 then false else if action ≤ 2 then true else g.halted }

/-- A processor that runs, or steps, may write its working memory: what debug has written there is open again. -/
def Dev.debugProcessor (d : Dev) (action : Nat) : Dev :=
  { d.onDebug fun g => g.act action with working := if action = 0 ∨ action = 2 then [] else d.working }.emit (.dap 0)

/-- TEST_ENTER through the debug access port (R381, R386). -/
def Dev.debugTest (d : Dev) : Dev :=
  let d := if (d.mode.isService || d.mode == .recovery) && !d.transitioning then d.beginTransition .test else d
  d.emit (.dap 0)

/-- DAP_ACCESS (R376, R380, R381, R386): scopes R, M or W, P and T, and the security core and its memory in ANISE, but never the fuses or
a key register. -/
def execDapAccess (write : Bool) (target : DapTarget) (value : BitVec 64) (s : State) :
    Host.Outcome State Fault Refusal :=
  runJtag 0x20 s fun d =>
    if !d.mode.ticks || d.debugScope = 0 then d.bypass
    else
      let memory := if write then 3 else 2
      match target with
      | .register a => d.withScope 1 fun d => d.debugRegister write a value
      | .dpa a => d.withScope memory fun d => d.debugDpa write a value
      | .workingMemory a => d.withScope memory fun d => d.debugWorking write a value
      | .sliceDram i a => d.debugDram write memory i a value
      | .fuses => d.debugDenied
      | .securityCore _ => if d.fuses.lifecycle == .anise then d.debugOpaque write else d.debugDenied
      | .keyRegisters _ => d.debugDenied
      | .processor action => d.withScope 4 fun d => d.debugProcessor action
      | .testEnter => d.withScope 5 Dev.debugTest

end Sys2Proof.Machine
end

