-- ==== Sys2Proof/Machine/Dispatch.lean ====
section
/-!
DEFINITION. One arm per command: the direct call of its meaning.
-/
namespace Sys2Proof.Machine

open Sys2Proof

/-- The effect of a command on everything but the queue. -/
def exec (i : Instr) (s : State) : Host.Outcome State Fault Refusal :=
  match i with
  | .tickBoundary env => Sys2Proof.Machine.execTickBoundary env s
  | .checkpointCopyTaken slice => Sys2Proof.Machine.execCheckpointCopyTaken slice s
  | .rekeySweepEnd slice => Sys2Proof.Machine.execRekeySweepEnd slice s
  | .skippedTick => Sys2Proof.Machine.execSkippedTick s
  | .roundBoundary selfCheckFails => Sys2Proof.Machine.execRoundBoundary selfCheckFails s
  | .shadowCopyDone => Sys2Proof.Machine.execShadowCopyDone s
  | .dryTimeout slice => Sys2Proof.Machine.execDryTimeout slice s
  | .idleExit => Sys2Proof.Machine.execIdleExit s
  | .firmwareVariantChange => Sys2Proof.Machine.execFirmwareVariantChange s
  | .thermalSample input => Sys2Proof.Machine.execThermalSample input s
  | .cxlMemRead port hpa tag env => Sys2Proof.Machine.execCxlMemRead port hpa tag env s
  | .streamUnitLoaded entry unit data => Sys2Proof.Machine.execStreamUnitLoaded entry unit data s
  | .cxlMemWrite port hpa tag data poison env => Sys2Proof.Machine.execCxlMemWrite port hpa tag data poison env s
  | .alarmPolicyAction slice => Sys2Proof.Machine.execAlarmPolicyAction slice s
  | .pageReadComplete slice flight errors => Sys2Proof.Machine.execPageReadComplete slice flight errors s
  | .programComplete slice reach group bank pass => Sys2Proof.Machine.execProgramComplete slice reach group bank pass s
  | .durableWriteComplete slice write => Sys2Proof.Machine.execDurableWriteComplete slice write s
  | .trim slice => Sys2Proof.Machine.execTrim slice s
  | .clearSegmentComplete slice reach group bank pass => Sys2Proof.Machine.execClearSegmentComplete slice reach group bank pass s
  | .sourceInvalidate slice slot => Sys2Proof.Machine.execSourceInvalidate slice slot s
  | .sourceClearStart slice slot => Sys2Proof.Machine.execSourceClearStart slice slot s
  | .verifyComplete slice slot => Sys2Proof.Machine.execVerifyComplete slice slot s
  | .tailAdvance slice => Sys2Proof.Machine.execTailAdvance slice s
  | .hintWrite port size record => Sys2Proof.Machine.execHintWrite port size record s
  | .globalPersistentFlush port => Sys2Proof.Machine.execGlobalPersistentFlush port s
  | .flushComplete flush => Sys2Proof.Machine.execFlushComplete flush s
  | .cacheClearingDone slice => Sys2Proof.Machine.execCacheClearingDone slice s
  | .cacheDrainDone slice => Sys2Proof.Machine.execCacheDrainDone slice s
  | .maintDone => Sys2Proof.Machine.execMaintDone s
  | .maintClean agent port value => Sys2Proof.Machine.execMaintClean agent port value s
  | .maintInvalidate agent port value => Sys2Proof.Machine.execMaintInvalidate agent port value s
  | .maintCleanInvalidate agent port value => Sys2Proof.Machine.execMaintCleanInvalidate agent port value s
  | .setwayClean agent port value => Sys2Proof.Machine.execSetwayClean agent port value s
  | .setwayInvalidate agent port value => Sys2Proof.Machine.execSetwayInvalidate agent port value s
  | .setwayCleanInvalidate agent port value => Sys2Proof.Machine.execSetwayCleanInvalidate agent port value s
  | .cacheCmdEnable agent port => Sys2Proof.Machine.execCacheCmdEnable agent port s
  | .drainDisable agent port => Sys2Proof.Machine.execDrainDisable agent port s
  | .discardDisable agent port => Sys2Proof.Machine.execDiscardDisable agent port s
  | .swapRequest agent port value => Sys2Proof.Machine.execSwapRequest agent port value s
  | .retrainAll agent port value => Sys2Proof.Machine.execRetrainAll agent port value s
  | .registerWrite agent port target size value => Sys2Proof.Machine.execRegisterWrite agent port target size value s
  | .mbInWrite agent port channel value parityFail => Sys2Proof.Machine.execMbInWrite agent port channel value parityFail s
  | .mbOutRead agent port channel half parityFail => Sys2Proof.Machine.execMbOutRead agent port channel half parityFail s
  | .mailboxDrop agent port channel value => Sys2Proof.Machine.execMailboxDrop agent port channel value s
  | .mbAssignWrite agent port value => Sys2Proof.Machine.execMbAssignWrite agent port value s
  | .mailboxTimeout channel => Sys2Proof.Machine.execMailboxTimeout channel s
  | .ringEnable agent port ring value => Sys2Proof.Machine.execRingEnable agent port ring value s
  | .ringDisable agent port ring value => Sys2Proof.Machine.execRingDisable agent port ring value s
  | .ringReset agent port ring value => Sys2Proof.Machine.execRingReset agent port ring value s
  | .ringDoorbell port ring value => Sys2Proof.Machine.execRingDoorbell port ring value s
  | .ringCplHeadWrite agent port ring value => Sys2Proof.Machine.execRingCplHeadWrite agent port ring value s
  | .copy ring descriptor host => Sys2Proof.Machine.execCopy ring descriptor host s
  | .install ring descriptor host => Sys2Proof.Machine.execInstall ring descriptor host s
  | .installUnitLoaded ring slot unit data => Sys2Proof.Machine.execInstallUnitLoaded ring slot unit data s
  | .hint ring descriptor host => Sys2Proof.Machine.execHint ring descriptor host s
  | .persist ring descriptor host => Sys2Proof.Machine.execPersist ring descriptor host s
  | .verify ring descriptor host => Sys2Proof.Machine.execVerify ring descriptor host s
  | .zero ring descriptor host => Sys2Proof.Machine.execZero ring descriptor host s
  | .trimDescriptor ring descriptor host => Sys2Proof.Machine.execTrimDescriptor ring descriptor host s
  | .descriptorComplete ring slot => Sys2Proof.Machine.execDescriptorComplete ring slot s
  | .identifyMemoryDevice port => Sys2Proof.Machine.execIdentifyMemoryDevice port s
  | .getHealthInfo port => Sys2Proof.Machine.execGetHealthInfo port s
  | .getAlertConfiguration port => Sys2Proof.Machine.execGetAlertConfiguration port s
  | .setAlertConfiguration port valid values => Sys2Proof.Machine.execSetAlertConfiguration port valid values s
  | .getEventRecords port log => Sys2Proof.Machine.execGetEventRecords port log s
  | .clearEventRecords port log all handles => Sys2Proof.Machine.execClearEventRecords port log all handles s
  | .getEventInterruptPolicy port => Sys2Proof.Machine.execGetEventInterruptPolicy port s
  | .setEventInterruptPolicy port policy => Sys2Proof.Machine.execSetEventInterruptPolicy port policy s
  | .getSupportedLogs port => Sys2Proof.Machine.execGetSupportedLogs port s
  | .getLog port uuid offset length => Sys2Proof.Machine.execGetLog port uuid offset length s
  | .getTimestamp port => Sys2Proof.Machine.execGetTimestamp port s
  | .setTimestamp port value => Sys2Proof.Machine.execSetTimestamp port value s
  | .getFwInfo port => Sys2Proof.Machine.execGetFwInfo port s
  | .unsupportedStandardCommand port opcode => Sys2Proof.Machine.execUnsupportedStandardCommand port opcode s
  | .hdmDecoderCommit port decoder => Sys2Proof.Machine.execHdmDecoderCommit port decoder s
  | .hdmDecoderUncommit port decoder => Sys2Proof.Machine.execHdmDecoderUncommit port decoder s
  | .portReset port => Sys2Proof.Machine.execPortReset port s
  | .linkL1Entry port => Sys2Proof.Machine.execLinkL1Entry port s
  | .linkL1Exit port => Sys2Proof.Machine.execLinkL1Exit port s
  | .linkRecovery port excluded => Sys2Proof.Machine.execLinkRecovery port excluded s
  | .ideIntegrityFailure port selective => Sys2Proof.Machine.execIdeIntegrityFailure port selective s
  | .read address length => Sys2Proof.Machine.execRead address length s
  | .fastRead address length => Sys2Proof.Machine.execFastRead address length s
  | .readSfdp address length => Sys2Proof.Machine.execReadSfdp address length s
  | .readStatus length => Sys2Proof.Machine.execReadStatus length s
  | .octalRead address length => Sys2Proof.Machine.execOctalRead address length s
  | .octalReadStatus length => Sys2Proof.Machine.execOctalReadStatus length s
  | .writeEnable => Sys2Proof.Machine.execWriteEnable s
  | .writeVolatileConfig address value => Sys2Proof.Machine.execWriteVolatileConfig address value s
  | .resetEnable => Sys2Proof.Machine.execResetEnable s
  | .reset => Sys2Proof.Machine.execReset s
  | .xspiIgnoredCommand opcode => Sys2Proof.Machine.execXspiIgnoredCommand opcode s
  | .i3cAddressAssign how address => Sys2Proof.Machine.execI3cAddressAssign how address s
  | .i3cChannelWrite channel bytes => Sys2Proof.Machine.execI3cChannelWrite channel bytes s
  | .i3cChannelRead channel => Sys2Proof.Machine.execI3cChannelRead channel s
  | .regWrite offset value => Sys2Proof.Machine.execRegWrite offset value s
  | .regAddr offset => Sys2Proof.Machine.execRegAddr offset s
  | .bufWrite offset data => Sys2Proof.Machine.execBufWrite offset data s
  | .bufAddr offset => Sys2Proof.Machine.execBufAddr offset s
  | .drop channel => Sys2Proof.Machine.execDrop channel s
  | .i3cControlRead bytes => Sys2Proof.Machine.execI3cControlRead bytes s
  | .undefinedOpcode channel => Sys2Proof.Machine.execUndefinedOpcode channel s
  | .identify channel => Sys2Proof.Machine.execIdentify channel s
  | .identifySlice channel => Sys2Proof.Machine.execIdentifySlice channel s
  | .imageLoad channel buffer => Sys2Proof.Machine.execImageLoad channel buffer s
  | .imageStagingTimeout => Sys2Proof.Machine.execImageStagingTimeout s
  | .imageActivate channel => Sys2Proof.Machine.execImageActivate channel s
  | .imageStatus channel => Sys2Proof.Machine.execImageStatus channel s
  | .schedRead channel => Sys2Proof.Machine.execSchedRead channel s
  | .schedSwap channel => Sys2Proof.Machine.execSchedSwap channel s
  | .contractReport channel => Sys2Proof.Machine.execContractReport channel s
  | .regionSet channel => Sys2Proof.Machine.execRegionSet channel s
  | .regionGet channel => Sys2Proof.Machine.execRegionGet channel s
  | .portClassSet channel => Sys2Proof.Machine.execPortClassSet channel s
  | .shadowRevert channel => Sys2Proof.Machine.execShadowRevert channel s
  | .cacheMaint channel => Sys2Proof.Machine.execCacheMaint channel s
  | .cacheDisable channel => Sys2Proof.Machine.execCacheDisable channel s
  | .cacheEnable channel => Sys2Proof.Machine.execCacheEnable channel s
  | .cacheStatus channel => Sys2Proof.Machine.execCacheStatus channel s
  | .titleImport channel => Sys2Proof.Machine.execTitleImport channel s
  | .titleOpen channel => Sys2Proof.Machine.execTitleOpen channel s
  | .titleClose channel => Sys2Proof.Machine.execTitleClose channel s
  | .titleStatus channel => Sys2Proof.Machine.execTitleStatus channel s
  | .titleBindRing channel => Sys2Proof.Machine.execTitleBindRing channel s
  | .titleDelete channel => Sys2Proof.Machine.execTitleDelete channel s
  | .deviceKeyGet channel => Sys2Proof.Machine.execDeviceKeyGet channel s
  | .ideKeySet channel => Sys2Proof.Machine.execIdeKeySet channel s
  | .healthGet channel => Sys2Proof.Machine.execHealthGet channel s
  | .recorderRead channel => Sys2Proof.Machine.execRecorderRead channel s
  | .recorderStatus channel => Sys2Proof.Machine.execRecorderStatus channel s
  | .recorderClear channel pass => Sys2Proof.Machine.execRecorderClear channel pass s
  | .lastGaspRead channel => Sys2Proof.Machine.execLastGaspRead channel s
  | .lifeGet channel => Sys2Proof.Machine.execLifeGet channel s
  | .notifySet channel => Sys2Proof.Machine.execNotifySet channel s
  | .modeEnter channel => Sys2Proof.Machine.execModeEnter channel s
  | .orderlyShutdown slice => Sys2Proof.Machine.execOrderlyShutdown slice s
  | .warmReset channel => Sys2Proof.Machine.execWarmReset channel s
  | .thermalStatus channel => Sys2Proof.Machine.execThermalStatus channel s
  | .faultStatus channel => Sys2Proof.Machine.execFaultStatus channel s
  | .faultClear channel => Sys2Proof.Machine.execFaultClear channel s
  | .cartStatus channel => Sys2Proof.Machine.execCartStatus channel s
  | .cartPower channel => Sys2Proof.Machine.execCartPower channel s
  | .cartRefclkStart => Sys2Proof.Machine.execCartRefclkStart s
  | .cartPerstRelease => Sys2Proof.Machine.execCartPerstRelease s
  | .cartAuth channel card => Sys2Proof.Machine.execCartAuth channel card s
  | .cartManifestRead channel => Sys2Proof.Machine.execCartManifestRead channel s
  | .cartTitleImport channel status key => Sys2Proof.Machine.execCartTitleImport channel status key s
  | .cartStreamMap channel hashTable => Sys2Proof.Machine.execCartStreamMap channel hashTable s
  | .cardPresent => Sys2Proof.Machine.execCardPresent s
  | .cardRemoved => Sys2Proof.Machine.execCardRemoved s
  | .cartFailure fault => Sys2Proof.Machine.execCartFailure fault s
  | .cardRequest request => Sys2Proof.Machine.execCardRequest request s
  | .fwStage channel buffer => Sys2Proof.Machine.execFwStage channel buffer s
  | .fwActivate channel => Sys2Proof.Machine.execFwActivate channel s
  | .fwInfo channel => Sys2Proof.Machine.execFwInfo channel s
  | .lifecycleGet channel => Sys2Proof.Machine.execLifecycleGet channel s
  | .lifecycleAdvance channel fuses => Sys2Proof.Machine.execLifecycleAdvance channel fuses s
  | .secPolicySet channel => Sys2Proof.Machine.execSecPolicySet channel s
  | .secAlarmStatus channel => Sys2Proof.Machine.execSecAlarmStatus channel s
  | .secAlarmClear channel => Sys2Proof.Machine.execSecAlarmClear channel s
  | .rollbackRead channel => Sys2Proof.Machine.execRollbackRead channel s
  | .rollbackAdvance channel => Sys2Proof.Machine.execRollbackAdvance channel s
  | .keySlotWrite channel => Sys2Proof.Machine.execKeySlotWrite channel s
  | .testEnter channel => Sys2Proof.Machine.execTestEnter channel s
  | .counterSnapshot channel => Sys2Proof.Machine.execCounterSnapshot channel s
  | .snapshotLatch => Sys2Proof.Machine.execSnapshotLatch s
  | .counterRead channel => Sys2Proof.Machine.execCounterRead channel s
  | .bwWindowSet channel => Sys2Proof.Machine.execBwWindowSet channel s
  | .bwWindowEnd => Sys2Proof.Machine.execBwWindowEnd s
  | .pstoreRead channel correctedGroups => Sys2Proof.Machine.execPstoreRead channel correctedGroups s
  | .pstoreWrite channel => Sys2Proof.Machine.execPstoreWrite channel s
  | .pstoreProgramDone pass => Sys2Proof.Machine.execPstoreProgramDone pass s
  | .repeatCountWrite readBackGood => Sys2Proof.Machine.execRepeatCountWrite readBackGood s
  | .mirrorSave => Sys2Proof.Machine.execMirrorSave s
  | .extest scan => Sys2Proof.Machine.execExtest scan s
  | .samplePreload scan => Sys2Proof.Machine.execSamplePreload scan s
  | .idcode => Sys2Proof.Machine.execIdcode s
  | .challenge => Sys2Proof.Machine.execChallenge s
  | .token bytes => Sys2Proof.Machine.execToken bytes s
  | .unlockStatus => Sys2Proof.Machine.execUnlockStatus s
  | .fault => Sys2Proof.Machine.execFault s
  | .dapAccess write target value => Sys2Proof.Machine.execDapAccess write target value s
  | .bypass code => Sys2Proof.Machine.execBypass code s
  | .alwaysOnPowerOn => Sys2Proof.Machine.execAlwaysOnPowerOn s
  | .aonPowerOff => Sys2Proof.Machine.execAonPowerOff s
  | .resetNLow cut => Sys2Proof.Machine.execResetNLow cut s
  | .resetNHigh => Sys2Proof.Machine.execResetNHigh s
  | .powerFail pfail cut => Sys2Proof.Machine.execPowerFail pfail cut s
  | .wakeEvent => Sys2Proof.Machine.execWakeEvent s
  | .startConditionMet => Sys2Proof.Machine.execStartConditionMet s
  | .railGood rail => Sys2Proof.Machine.execRailGood rail s
  | .railRampTimeout rail => Sys2Proof.Machine.execRailRampTimeout rail s
  | .railFailure rail => Sys2Proof.Machine.execRailFailure rail s
  | .railShortDrop rail => Sys2Proof.Machine.execRailShortDrop rail s
  | .railOffTimeout rail => Sys2Proof.Machine.execRailOffTimeout rail s
  | .vppDischargeTimeout => Sys2Proof.Machine.execVppDischargeTimeout s
  | .vppClampRelease => Sys2Proof.Machine.execVppClampRelease s
  | .barrierRelease => Sys2Proof.Machine.execBarrierRelease s
  | .barrierTimeout => Sys2Proof.Machine.execBarrierTimeout s
  | .externalFault => Sys2Proof.Machine.execExternalFault s
  | .watchdogExpiry => Sys2Proof.Machine.execWatchdogExpiry s
  | .dramTrainingDone slice failures densityGood => Sys2Proof.Machine.execDramTrainingDone slice failures densityGood s
  | .tickStart sentinels formatInterrupted => Sys2Proof.Machine.execTickStart sentinels formatInterrupted s
  | .bootComplete => Sys2Proof.Machine.execBootComplete s
  | .dramRefresh slice channel bank => Sys2Proof.Machine.execDramRefresh slice channel bank s
  | .forcedRefresh slice channel bank => Sys2Proof.Machine.execForcedRefresh slice channel bank s
  | .hostLinkUp port width speed flit256 => Sys2Proof.Machine.execHostLinkUp port width speed flit256 s
  | .cartLinkUp width speed => Sys2Proof.Machine.execCartLinkUp width speed s
  | .cartClkreqChange low => Sys2Proof.Machine.execCartClkreqChange low s
  | .cartShutdownDone => Sys2Proof.Machine.execCartShutdownDone s
  | .cartRefclkStop => Sys2Proof.Machine.execCartRefclkStop s
  | .cartPwrEnFall => Sys2Proof.Machine.execCartPwrEnFall s
  | .drowseThermalSample tdA thA => Sys2Proof.Machine.execDrowseThermalSample tdA thA s
  | .railOff rail => Sys2Proof.Machine.execRailOff rail s
  | .protectedSpaceFillDone slice => Sys2Proof.Machine.execProtectedSpaceFillDone slice s
  | .descriptorFetchTimeout ring slot => Sys2Proof.Machine.execDescriptorFetchTimeout ring slot s

end Sys2Proof.Machine
end

