-- ==== Sys2Proof/Safety.lean ====
section
/-!
DEFINITION. What a safe state and a safe run are, in the terms the statements use.
-/
namespace Sys2Proof.Machine

open Sys2Proof

/-- The output pins stand at the levels the rest of the state gives them: MEM_READY high exactly in the service
group outside a departure from it, BOOT_READY as R326, ALERT_N as R312, SEC_ALARM_N as R384. -/
def State.PinsFollow (s : State) : Prop := s.dev.pins = s.dev.levels

/-- The tick runs only in the modes of R18, and TICK_STATUS reads its reset value in every other mode. -/
def State.TickStands (s : State) : Prop :=
  s.dev.mode.ticks = false → s.dev.clock.on = false ∧ s.dev.clock.tick = 0 ∧ s.dev.clock.round = 0

/-- What stays of a package for its life, but for LIFECYCLE_ADVANCE: the part, its fuses, and how many slices, host ports,
mailbox channels, title slots and firmware targets it holds. -/
def Dev.shape (d : Dev) : Part × Fuses × Nat × Nat × Nat × Nat × Nat :=
  (d.part, d.fuses, d.slices.length, d.ports.length, d.chans.length, d.titles.length, d.firmware.length)

/-- Every unit of the part is there: slices and ports as the ordering code says, 16 mailbox channels, 32 title slots,
three firmware targets (R1, R14, R361, R402, R454). -/
def State.Shaped (s : State) : Prop :=
  s.dev.slices.length = s.dev.sliceCount ∧ s.dev.ports.length = s.dev.sliceCount ∧ s.dev.chans.length = 16
    ∧ s.dev.titles.length = 32 ∧ s.dev.firmware.length = 3

/-- The parameter store and the secure buffer window stand in canonical form: strictly rising addresses, no listed zero. -/
def Dev.Stored (d : Dev) : Prop := Memory.wf d.pstore.mem = true ∧ Memory.wf d.i3c.window = true

/-- The memories of the package are canonical. -/
def State.Canonical (s : State) : Prop := s.dev.Stored

/-- The invariant that every step keeps. -/
def State.Inv (s : State) : Prop := s.PinsFollow ∧ s.TickStands ∧ s.Shaped

/-- A command that stops with a fault names a unit the part does not have; no command is refused. -/
def Safe (s : State) : Prop := ∃ t, step s = .next t

/-! ### Units that a command names -/

/-- The fault of a command that names unit `i` of `n`. -/
def lacks (f : Fault) (i n : Nat) : Option Fault := if i < n then none else some f

/-- A register access needs its port only when a host makes it. -/
def lacksPort (a : Agent) (p n : Nat) : Option Fault := if a = .host then lacks .noSuchPort p n else none

/-- The unit that a command names and the part does not have: a host port, a slice or a mailbox channel
(R1, R10, R14, R402); a work ring that the part does not have is reserved space (R392), where a command does nothing. -/
def missing (d : Dev) : Instr → Option Fault
  | .checkpointCopyTaken slice | .rekeySweepEnd slice | .dryTimeout slice | .alarmPolicyAction slice
  | .pageReadComplete slice _ _ | .programComplete slice _ _ _ _ | .durableWriteComplete slice _ | .trim slice
  | .clearSegmentComplete slice _ _ _ _ | .sourceInvalidate slice _ | .sourceClearStart slice _
  | .verifyComplete slice _ | .tailAdvance slice | .cacheClearingDone slice | .cacheDrainDone slice
  | .orderlyShutdown slice | .dramTrainingDone slice _ _ | .dramRefresh slice _ _ | .forcedRefresh slice _ _
  | .protectedSpaceFillDone slice =>
    lacks .noSuchSlice slice d.sliceCount
  | .cxlMemRead port _ _ _ | .cxlMemWrite port _ _ _ _ _ | .globalPersistentFlush port | .hdmDecoderCommit port _
  | .hdmDecoderUncommit port _ | .portReset port | .linkL1Entry port | .linkL1Exit port | .linkRecovery port _
  | .ideIntegrityFailure port _ | .hostLinkUp port _ _ _ | .hintWrite port _ _ | .identifyMemoryDevice port
  | .getHealthInfo port | .setAlertConfiguration port _ _ | .clearEventRecords port _ _ _
  | .setEventInterruptPolicy port _ | .setTimestamp port _ | .getAlertConfiguration port | .getEventRecords port _
  | .getEventInterruptPolicy port | .getSupportedLogs port | .getLog port _ _ _ | .getTimestamp port
  | .getFwInfo port | .unsupportedStandardCommand port _ | .ringDoorbell port _ _ =>
    lacks .noSuchPort port d.sliceCount
  | .registerWrite agent port _ _ _ | .maintClean agent port _ | .maintInvalidate agent port _
  | .maintCleanInvalidate agent port _ | .setwayClean agent port _ | .setwayInvalidate agent port _
  | .setwayCleanInvalidate agent port _ | .cacheCmdEnable agent port | .drainDisable agent port
  | .discardDisable agent port | .swapRequest agent port _ | .retrainAll agent port _ | .mbAssignWrite agent port _
  | .ringEnable agent port _ _ | .ringDisable agent port _ _ | .ringReset agent port _ _
  | .ringCplHeadWrite agent port _ _ =>
    lacksPort agent port d.sliceCount
  | .mbInWrite agent port channel _ _ | .mbOutRead agent port channel _ _ | .mailboxDrop agent port channel _ =>
    (lacks .noSuchChannel channel 16).orElse fun _ => lacksPort agent port d.sliceCount
  | .mailboxTimeout channel | .undefinedOpcode channel | .i3cChannelWrite channel _ | .i3cChannelRead ⟨channel, _⟩
  | .identify channel | .identifySlice channel | .imageStatus channel | .regionGet channel | .cacheStatus channel
  | .titleStatus channel | .deviceKeyGet channel | .recorderStatus channel | .lastGaspRead channel
  | .cartStatus channel | .fwInfo channel | .lifecycleGet channel | .secAlarmStatus channel | .rollbackRead channel
  | .counterRead channel | .imageLoad channel _ | .imageActivate channel | .schedRead channel | .schedSwap channel
  | .contractReport channel | .regionSet channel | .portClassSet channel | .shadowRevert channel
  | .cacheMaint channel | .cacheDisable channel | .cacheEnable channel | .titleImport channel | .titleOpen channel
  | .titleClose channel | .titleBindRing channel | .titleDelete channel | .ideKeySet channel | .healthGet channel
  | .recorderRead channel | .recorderClear channel _ | .lifeGet channel | .notifySet channel | .modeEnter channel
  | .warmReset channel | .thermalStatus channel | .faultStatus channel | .faultClear channel | .cartPower channel
  | .cartAuth channel _ | .cartManifestRead channel | .cartTitleImport channel _ _ | .cartStreamMap channel _
  | .fwStage channel _ | .fwActivate channel | .lifecycleAdvance channel _ | .secPolicySet channel
  | .secAlarmClear channel | .rollbackAdvance channel | .keySlotWrite channel | .testEnter channel
  | .counterSnapshot channel | .bwWindowSet channel | .pstoreRead channel _ | .pstoreWrite channel =>
    lacks .noSuchChannel channel 16
  | .tickBoundary _ | .skippedTick | .roundBoundary _ | .shadowCopyDone | .idleExit | .firmwareVariantChange
  | .thermalSample _ | .streamUnitLoaded _ _ _ | .flushComplete _ | .maintDone | .read _ _ | .fastRead _ _
  | .readSfdp _ _ | .readStatus _ | .octalRead _ _ | .octalReadStatus _ | .writeEnable | .writeVolatileConfig _ _
  | .resetEnable | .reset | .xspiIgnoredCommand _ | .i3cAddressAssign _ _ | .regWrite _ _ | .regAddr _
  | .bufWrite _ _ | .bufAddr _ | .drop _ | .i3cControlRead _ | .imageStagingTimeout | .cartRefclkStart
  | .cartPerstRelease | .cardPresent | .cardRemoved | .cartFailure _ | .cardRequest _ | .snapshotLatch | .bwWindowEnd
  | .pstoreProgramDone _ | .repeatCountWrite _ | .mirrorSave | .extest _ | .samplePreload _ | .idcode | .challenge
  | .token _ | .unlockStatus | .fault | .dapAccess _ _ _ | .bypass _ | .alwaysOnPowerOn | .aonPowerOff | .resetNLow _
  | .resetNHigh | .powerFail _ _ | .wakeEvent | .startConditionMet | .railGood _ | .railRampTimeout _
  | .railFailure _ | .railShortDrop _ | .railOffTimeout _ | .vppDischargeTimeout | .vppClampRelease | .barrierRelease
  | .barrierTimeout | .externalFault | .watchdogExpiry | .tickStart _ _ | .bootComplete | .cartLinkUp _ _
  | .cartClkreqChange _ | .cartShutdownDone | .cartRefclkStop | .cartPwrEnFall | .drowseThermalSample _ _
  | .railOff _ | .copy _ _ _ | .install _ _ _ | .installUnitLoaded _ _ _ _ | .hint _ _ _ | .persist _ _ _ | .verify _ _ _
  | .zero _ _ _ | .trimDescriptor _ _ _ | .descriptorComplete _ _ | .descriptorFetchTimeout _ _ =>
    none

/-- The channel that a command of the command summary (R434) comes on, and its opcode. -/
def mailboxRow : Instr → Option (Nat × Nat)
  | .identify channel => some (channel, 0x0101)
  | .identifySlice channel => some (channel, 0x0102)
  | .imageLoad channel _ => some (channel, 0x0201)
  | .imageActivate channel => some (channel, 0x0202)
  | .imageStatus channel => some (channel, 0x0203)
  | .schedRead channel => some (channel, 0x0204)
  | .schedSwap channel => some (channel, 0x0205)
  | .contractReport channel => some (channel, 0x0206)
  | .regionSet channel => some (channel, 0x0301)
  | .regionGet channel => some (channel, 0x0302)
  | .portClassSet channel => some (channel, 0x0303)
  | .shadowRevert channel => some (channel, 0x0304)
  | .cacheMaint channel => some (channel, 0x0401)
  | .cacheDisable channel => some (channel, 0x0402)
  | .cacheEnable channel => some (channel, 0x0403)
  | .cacheStatus channel => some (channel, 0x0404)
  | .titleImport channel => some (channel, 0x0501)
  | .titleOpen channel => some (channel, 0x0502)
  | .titleClose channel => some (channel, 0x0503)
  | .titleStatus channel => some (channel, 0x0504)
  | .titleBindRing channel => some (channel, 0x0505)
  | .titleDelete channel => some (channel, 0x0506)
  | .deviceKeyGet channel => some (channel, 0x0507)
  | .ideKeySet channel => some (channel, 0x0510)
  | .healthGet channel => some (channel, 0x0601)
  | .recorderRead channel => some (channel, 0x0602)
  | .recorderStatus channel => some (channel, 0x0603)
  | .recorderClear channel _ => some (channel, 0x0604)
  | .lastGaspRead channel => some (channel, 0x0605)
  | .lifeGet channel => some (channel, 0x0606)
  | .notifySet channel => some (channel, 0x0607)
  | .modeEnter channel => some (channel, 0x0701)
  | .warmReset channel => some (channel, 0x0702)
  | .thermalStatus channel => some (channel, 0x0703)
  | .faultStatus channel => some (channel, 0x0704)
  | .faultClear channel => some (channel, 0x0705)
  | .cartStatus channel => some (channel, 0x0801)
  | .cartPower channel => some (channel, 0x0802)
  | .cartAuth channel _ => some (channel, 0x0803)
  | .cartManifestRead channel => some (channel, 0x0804)
  | .cartTitleImport channel _ _ => some (channel, 0x0805)
  | .cartStreamMap channel _ => some (channel, 0x0806)
  | .fwStage channel _ => some (channel, 0x0901)
  | .fwActivate channel => some (channel, 0x0902)
  | .fwInfo channel => some (channel, 0x0903)
  | .lifecycleGet channel => some (channel, 0x0A01)
  | .lifecycleAdvance channel _ => some (channel, 0x0A02)
  | .secPolicySet channel => some (channel, 0x0A03)
  | .secAlarmStatus channel => some (channel, 0x0A04)
  | .secAlarmClear channel => some (channel, 0x0A05)
  | .rollbackRead channel => some (channel, 0x0A06)
  | .rollbackAdvance channel => some (channel, 0x0A07)
  | .keySlotWrite channel => some (channel, 0x0A08)
  | .testEnter channel => some (channel, 0x0A09)
  | .counterSnapshot channel => some (channel, 0x0B01)
  | .counterRead channel => some (channel, 0x0B02)
  | .bwWindowSet channel => some (channel, 0x0B03)
  | .pstoreRead channel _ => some (channel, 0x0C01)
  | .pstoreWrite channel => some (channel, 0x0C02)
  | _ => none

/-- Commands with a check of their own, ahead of those of R429 that look at the mode and the fields: a buffer that is too
small (R430), a channel kind that depends on a field (R444, R454, R458). -/
def ownChecks : List Nat := [0x0201, 0x0204, 0x0402, 0x0601, 0x0804, 0x0901, 0x0902, 0x0A09, 0x0C02]

/-! ### The terms of the statements -/

/-- The state once request `q` is taken, its command's effect `f` is made and the answer `r` is sent (R403, R425). -/
def State.answered (s : State) (q : Req) (rest : List MbWord) (f : Dev → Dev) (r : Reply) : State :=
  { s with dev := settle ((f (s.dev.takeRequest q.channel rest)).answer q r) }

/-- The state after a command whose effect on the package is `d`: the queue is as it was, and the pins follow. -/
def State.after (s : State) (d : Dev) : State := { s with dev := settle d }

/-- Requests that the checks of R429 let through: the length, the channel kind, CLOVE, the mode and the reserved fields are
right for row `r` of the command summary (R434). -/
def Dev.Admits (d : Dev) (q : Req) (r : CmdSpec) : Prop :=
  r.2.2.2.1 ≤ q.words.length - 1 ∧ q.words.length - 1 ≤ r.2.2.2.2.1
    ∧ (r.2.1 = true → q.secure = true)
    ∧ (d.fuses.lifecycle = .clove → cloveServes r.1 = true)
    ∧ modeAllowed r.2.2.1 d.mode = true
    ∧ firstReserved q r.2.2.2.2.2 = none

/-- The firmware serves channel `c` now, and the request `q` stands whole and intact at its front, with the words `rest`
after it (R403, R404); its opcode is `op`, and R429 lets it through. -/
def Dev.Asks (d : Dev) (c op : Nat) (q : Req) (rest : List MbWord) : Prop :=
  c < 16 ∧ d.serving c = true ∧ (d.chan c).resync = false ∧ (d.chan c).front c = some (q, rest, false) ∧ q.opcode = op
    ∧ ∃ r, cmdSpec op = some r ∧ d.Admits q r

end Sys2Proof.Machine
end

