-- ==== Sys2Proof/Certificates/Slice0/Obligations.lean ====
section
/-!
DEFINITION. The statements for the provers. A command's effect is stated as the next state: `s.after d` is the state whose
package is `d` with its pins settled and whose queue is that of `s`; `s.answered q rest f r` is the state once mailbox
request `q` is taken, `f` is done and `r` is answered. Every field that such an equation does not name stays.
-/

open Sys2Proof Sys2Proof.Machine

/-! ### The whole machine -/

/-- A step runs the command at the front of the queue on the state that keeps the queue's rest. -/
def Obligations.StepRunsFrontCommand : Prop :=
  ∀ (c : Instr) (s : State), step { s with pending := c :: s.pending } = exec c s

/-- On an empty queue the block idles: the model's choice (log entry 1). No command changes the queue (the host's form of a
block: log entry 1). -/
def Obligations.QueueOnlyLosesItsFront : Prop :=
  (∀ s : State, s.pending = [] → step s = .next s)
  ∧ (∀ (c : Instr) (s t : State), exec c s = .next t → t.pending = s.pending)

/-- A command answers a next state exactly when the part has the unit that the command names; otherwise it stops with the
fault of that unit, and nothing is ever refused. -/
def Obligations.CommandsStopOnlyAtAbsentUnits : Prop :=
  ∀ (c : Instr) (s : State),
    (∀ f, missing s.dev c = some f → exec c s = .fault f) ∧ (missing s.dev c = none → ∃ t, exec c s = .next t)

/-- The pins follow the state, the tick stands where it must, and every unit is there: every step keeps that. -/
def Obligations.InvariantKept : Prop := ∀ s t : State, s.Inv → step s = .next t → t.Inv

/-- The invariant holds at reset, and the parameter store and the buffer window are canonical there. -/
def Obligations.ResetMeetsInvariant : Prop := State.reset.Inv ∧ State.reset.Canonical

/-- The parameter store and the secure buffer window keep their canonical form at every step. -/
def Obligations.MemoryStaysCanonical : Prop := ∀ s t : State, s.Canonical → step s = .next t → t.Canonical

/-- No step changes the part, and the lifecycle state never goes backward; LIFECYCLE_ADVANCE alone changes the fuses. -/
def Obligations.LifecycleNeverGoesBack : Prop :=
  ∀ (c : Instr) (s t : State), exec c s = .next t →
    t.dev.part = s.dev.part ∧ s.dev.fuses.lifecycle.code ≤ t.dev.fuses.lifecycle.code
    ∧ ((∀ k f, c ≠ .lifecycleAdvance k f) → t.dev.fuses = s.dev.fuses)

/-- The package right after reset: HELD with its sequencer in
state 1, every rail off, the tick still, no swap pending, no link, every ring DISABLED, no title, every line cache INVALIDATING, ANISE
with nothing in the buffer window, no key written and every anti-rollback counter at 0. -/
def Obligations.ResetState : Prop :=
  State.reset.pending = [] ∧ State.reset.dev.mode = .held ∧ State.reset.dev.seq.state = 1 ∧ State.reset.dev.seq.en = 0
    ∧ State.reset.dev.clock.on = false ∧ State.reset.dev.swapPending = false
    ∧ (∀ p, (State.reset.dev.port p).link = .down) ∧ (∀ r, (State.reset.dev.ring r).state = .disabled)
    ∧ (∀ t, (State.reset.dev.title t).state = .empty) ∧ (∀ i, (State.reset.dev.slice i).cache.state = .invalidating)
    ∧ State.reset.dev.fuses.lifecycle = .anise ∧ State.reset.dev.i3c.window = []
    ∧ (∀ n, n < 10 → (State.reset.dev.keySlot n).isNone) ∧ (∀ n, n < 16 → State.reset.dev.rollback n = 0)

/-! ### Mailbox: identity and schedule (R435–R440) -/

/-- IDENTIFY answers DEVICE_INFO, the firmware revisions, the device ID, the capacity in GiB and the rings; IDENTIFY_SLICE
answers the words of the slice; IMAGE_STATUS and CONTRACT_REPORT answer theirs; a slice that the part does not have is BAD_FIELD.
None has another effect. SCHED_READ writes the template or the sequence that it names to the buffer, open bytes for a sequence that a
retired reach lacks; a table, template or sequence that is not there is refused, and so is a buffer that is too small. A flush bound
beyond 32 bits is reported as an open value. -/
def Obligations.IdentityAndSchedulesReported : Prop :=
  (∀ (s : State) (c : Nat) (q : Req) (rest : List MbWord),
     (s.dev.Asks c 0x0101 q rest →
       exec (.identify c) s = .next (s.answered q rest id (done
         [s.dev.deviceInfo,
          word ((s.dev.fwTarget 0).revision % 2 ^ 24 + (s.dev.fwTarget 1).revision % 2 ^ 24 * 2 ^ 24),
          word (s.dev.fuses.deviceId.toNat % 2 ^ 48),
          word (s.dev.fuses.deviceId.toNat / 2 ^ 48 + 512 * s.dev.sliceCount * 2 ^ 16 + s.dev.ringCount * 2 ^ 32)])))
     ∧ (s.dev.Asks c 0x0102 q rest → q.f 1 0 3 < s.dev.sliceCount →
         exec (.identifySlice c) s = .next (s.answered q rest id (done (s.dev.identifySliceWords (q.f 1 0 3)))))
     ∧ (s.dev.Asks c 0x0102 q rest → s.dev.sliceCount ≤ q.f 1 0 3 →
         exec (.identifySlice c) s = .next (s.answered q rest id (badField 1 0))))
  ∧ (∀ (s : State) (c : Nat) (q : Req) (rest : List MbWord),
       let d := s.dev.takeRequest c rest
       (s.dev.Asks c 0x0203 q rest → exec (.imageStatus c) s = .next (s.answered q rest id (done d.imageStatusWords)))
       ∧ (s.dev.Asks c 0x0206 q rest →
           let i := q.f 1 0 3
           (d.sliceCount ≤ i → exec (.contractReport c) s = .next (s.answered q rest id (badField 1 0)))
           ∧ (i < d.sliceCount → d.flushBound i = none →
               exec (.contractReport c) s
                 = .next (s.answered q rest id (done (d.contractWords i ++ [word 0xFFFFFFFF]))))
           ∧ (∀ n, i < d.sliceCount → d.flushBound i = some n → n < 2 ^ 32 →
               exec (.contractReport c) s = .next (s.answered q rest id (done (d.contractWords i ++ [word n]))))
           ∧ (∀ n, i < d.sliceCount → d.flushBound i = some n → 2 ^ 32 ≤ n →
               ∃ x, x < 2 ^ 32 ∧ exec (.contractReport c) s
                 = .next (s.answered q rest (fun d => { d with draws := d.draws + 1 })
                     (done (d.contractWords i ++ [word x])))))
       ∧ (∀ t : Table, s.dev.Asks c 0x0204 q rest → d.namedTable q = .inl t →
           let n := q.f 1 11 8
           (∀ r, q.f 1 2 1 = 0 → 96 ≤ d.bufferSize q.channel → t.templates[n]? = some r →
             exec (.schedRead c) s
               = .next (s.answered q rest (fun d => d.writeBuffer q.channel (bytesOfWords r)) (doneBuffer [word 96])))
           ∧ (∀ x, q.f 1 2 1 = 1 → 1024 ≤ d.bufferSize q.channel → t.sequences[n]? = some x → x.length = 1024 →
             exec (.schedRead c) s
               = .next (s.answered q rest (fun d => d.writeBuffer q.channel (x.map (BitVec.ofNat 8)))
                   (doneBuffer [word 1024])))
           ∧ (∀ x, q.f 1 2 1 = 1 → 1024 ≤ d.bufferSize q.channel → t.sequences[n]? = some x → x.length ≠ 1024 →
             ∃ b : List Byte, b.length = 1024 ∧ exec (.schedRead c) s = .next (s.answered q rest
               (fun d => ({ d with draws := d.draws + 1024 } : Dev).writeBuffer q.channel b) (doneBuffer [word 1024])))
           ∧ (q.f 1 2 1 = 0 → 96 ≤ d.bufferSize q.channel → t.templates.length ≤ n →
             exec (.schedRead c) s = .next (s.answered q rest id (badField 1 11)))
           ∧ (q.f 1 2 1 = 1 → 1024 ≤ d.bufferSize q.channel → t.sequences.length ≤ n →
             exec (.schedRead c) s = .next (s.answered q rest id (badField 1 11))))
       ∧ (s.dev.Asks c 0x0204 q rest →
           (∀ y, d.namedTable q = .inr y → (if q.f 1 2 1 = 1 then 1024 else 96) ≤ d.bufferSize q.channel →
             exec (.schedRead c) s = .next (s.answered q rest id y))
           ∧ (d.bufferSize q.channel < (if q.f 1 2 1 = 1 then 1024 else 96) →
             exec (.schedRead c) s = .next (s.answered q rest id (fail 3)))))

/-- IMAGE_LOAD copies parts, and the last one runs the validator, whose failure is reported and leaves no candidate; a part whose
offset or length the command does not take is BAD_FIELD, another channel's is BUSY, and one beyond 2 MiB fails; IMAGE_ACTIVATE begins to store the candidate, which the next
tick boundaries go on with, and answers when its swap takes effect, and is BUSY while another runs or a change of variants is due; an
image that does not cover a slice is not activated, and without a candidate it is STATE; SCHED_SWAP requests a swap
and names its round. -/
def Obligations.ImagesLoadedAndSwapped : Prop :=
  ∀ (s : State) (c : Nat) (q : Req) (rest : List MbWord),
    let d := s.dev.takeRequest c rest
    (∀ (buffer old b : List Byte), s.dev.Asks c 0x0201 q rest →
      let off := q.f 1 0 32
      let n := q.f 2 0 32
      n ≤ d.bufferSize q.channel → off % 4096 = 0 → n ≠ 0 → (q.f 1 32 1 = 1 ∨ n % 4096 = 0) →
      (∀ e, d.images.staging = some e → e.1 = q.channel) →
      (off = 0 ∧ old = [] ∨ d.images.staging = some (q.channel, old) ∧ old.length = off) →
      off + n ≤ 2 ^ 21 → d.bufferBytes q buffer n = some b →
      (q.f 1 32 1 = 0 → exec (.imageLoad c buffer) s
          = .next (s.answered q rest
              (fun d => { d with images := { d.images with staging := some (q.channel, old ++ b) } }) (done [])))
      ∧ (q.f 1 32 1 = 1 → d.validate (old ++ b) = none → exec (.imageLoad c buffer) s
          = .next (s.answered q rest
              (fun d => { d with images := { d.images with candidate := some (old ++ b), staging := none } })
              (done [])))
      ∧ (∀ f, q.f 1 32 1 = 1 → d.validate (old ++ b) = some f → exec (.imageLoad c buffer) s
          = .next (s.answered q rest
              (fun d => { d with images := { d.images with candidate := none, staging := none, report := f.words } })
              (.now 0x0A 0 [word f.words.1, word f.words.2]))))
    ∧ (∀ buffer : List Byte, s.dev.Asks c 0x0201 q rest → q.f 2 0 32 ≤ d.bufferSize q.channel →
        let off := q.f 1 0 32
        let n := q.f 2 0 32
        let mine := d.images.staging.bind fun e => if e.1 = q.channel then some e.2.length else none
        let refused (r : Reply) : Prop := exec (.imageLoad c buffer) s = .next (s.answered q rest id r)
        (off % 4096 ≠ 0 → refused (badField 1 0))
        ∧ (off % 4096 = 0 → (n = 0 ∨ q.f 1 32 1 = 0 ∧ n % 4096 ≠ 0) → refused (badField 2 0))
        ∧ (off % 4096 = 0 → n ≠ 0 → (q.f 1 32 1 = 1 ∨ n % 4096 = 0) →
            (off ≠ 0 → mine ≠ some off → refused (badField 1 0))
            ∧ ((off = 0 ∨ mine = some off) →
                (∀ e, d.images.staging = some e → e.1 ≠ q.channel → refused (fail 1))
                ∧ ((∀ e, d.images.staging = some e → e.1 = q.channel) →
                    (2 ^ 21 < off + n → exec (.imageLoad c buffer) s = .next (s.answered q rest
                      (fun d => { d with images := { d.images with
                        candidate := none, staging := none, report := (imageFail 0x0104 0xFF).words } })
                      (imageFail 0x0104 0xFF).reply))
                    ∧ (off + n ≤ 2 ^ 21 → d.bufferBytes q buffer n = none → refused (fail 9))))))
    ∧ (∀ buffer : List Byte, s.dev.Asks c 0x0201 q rest → d.bufferSize q.channel < q.f 2 0 32 →
        exec (.imageLoad c buffer) s = .next (s.answered q rest id (fail 3)))
    ∧ (s.dev.Asks c 0x0202 q rest → d.swapPending = false → d.swap.changeDue = false → d.images.storing = none →
        (d.images.candidate = none → exec (.imageActivate c) s = .next (s.answered q rest id (fail 7)))
        ∧ (∀ b, d.images.candidate = some b → (∀ i, i < d.sliceCount → d.coveredBy b i = true) →
            exec (.imageActivate c) s = .next (s.answered q rest (fun d => (d.storeImage b).await q .swap) .later))
        ∧ (∀ b i, d.images.candidate = some b → i < d.sliceCount → d.coveredBy b i = false →
            exec (.imageActivate c) s
              = .next (s.answered q rest
                  (fun d => { d with images := { d.images with report := (imageFail 0x0701 0xFF).words } })
                  (imageFail 0x0701 0xFF).reply)))
    ∧ (s.dev.Asks c 0x0202 q rest → d.swapPending = false → (d.swap.changeDue = true ∨ d.images.storing ≠ none) →
        exec (.imageActivate c) s = .next (s.answered q rest id (fail 1)))
    ∧ (s.dev.Asks c 0x0205 q rest → d.swapPending = false →
        let w := if d.clock.roundClosed = true ∨ d.clock.tick ≤ 991 then 1 else 2
        exec (.schedSwap c) s
          = .next (s.answered q rest (fun d => { d with swap := { d.swap with pending := some .all, wait := w } })
              (done [word ((d.clock.round.toNat + w) % 2 ^ 32)])))
    ∧ (s.dev.Asks c 0x0202 q rest → d.swapPending = true →
        exec (.imageActivate c) s = .next (s.answered q rest id (fail 0x0F)))
    ∧ (s.dev.Asks c 0x0205 q rest → d.swapPending = true →
        exec (.schedSwap c) s = .next (s.answered q rest id (fail 0x0F)))

/-! ### Mailbox: regions, the line cache, titles (R441–R449) -/

/-- REGION_SET and PORT_CLASS_SET write one entry of the shadow copy, REGION_GET reads one, and SHADOW_REVERT takes the
shadow back from the active copy but for the entries that a non-secure channel may not touch. A non-secure REGION_SET of a
locked entry, or of a secure-only field, is DENIED; each writer answers SWAP_PENDING while a swap is pending, and BUSY while an
IMAGE_ACTIVATE runs. -/
def Obligations.RegionsSet : Prop :=
  ∀ (s : State) (c : Nat) (q : Req) (rest : List MbWord),
    let d := s.dev.takeRequest c rest
    (s.dev.Asks c 0x0301 q rest →
      let n := q.f 1 0 6
      (q.f 3 11 2 = 3 → exec (.regionSet c) s = .next (s.answered q rest id (badField 3 11)))
      ∧ (q.f 3 11 2 ≠ 3 → d.swapPending = true → exec (.regionSet c) s = .next (s.answered q rest id (fail 0x0F)))
      ∧ (q.f 3 11 2 ≠ 3 → d.swapPending = false → d.images.storing ≠ none →
          exec (.regionSet c) s = .next (s.answered q rest id (fail 1)))
      ∧ (q.f 3 11 2 ≠ 3 → d.swapPending = false → d.images.storing = none → q.secure = false →
          (masked (q.w 3) secureAttr ≠ 0 ∨ d.regionLocked n = true) →
          exec (.regionSet c) s = .next (s.answered q rest id (fail 5)))
      ∧ (q.f 3 11 2 ≠ 3 → d.swapPending = false → d.images.storing = none →
          (q.secure = true ∨ masked (q.w 3) secureAttr = 0 ∧ d.regionLocked n = false) →
          exec (.regionSet c) s
            = .next (s.answered q rest (fun d => { d with shadow := { d.shadow with
                regionBase := upd d.shadow.regionBase n fun _ => q.w 2
                regionAttr := upd d.shadow.regionAttr n fun _ => q.w 3 } }) (done []))))
    ∧ (s.dev.Asks c 0x0302 q rest →
        let g := if q.f 1 6 1 = 1 then d.shadow else d.active
        exec (.regionGet c) s = .next (s.answered q rest id
          (done [g.regionBase.getD (q.f 1 0 6) 0, g.regionAttr.getD (q.f 1 0 6) 0])))
    ∧ (s.dev.Asks c 0x0303 q rest →
        let p := q.f 1 0 3
        (d.sliceCount ≤ p → exec (.portClassSet c) s = .next (s.answered q rest id (badField 1 0)))
        ∧ (p < d.sliceCount → q.f 2 3 2 ≠ 3 → d.swapPending = true →
            exec (.portClassSet c) s = .next (s.answered q rest id (fail 0x0F)))
        ∧ (p < d.sliceCount → q.f 2 3 2 = 3 → exec (.portClassSet c) s = .next (s.answered q rest id (badField 2 3)))
        ∧ (p < d.sliceCount → q.f 2 3 2 ≠ 3 → d.swapPending = false → d.images.storing ≠ none →
            exec (.portClassSet c) s = .next (s.answered q rest id (fail 1)))
        ∧ (p < d.sliceCount → q.f 2 3 2 ≠ 3 → d.swapPending = false → d.images.storing = none →
            exec (.portClassSet c) s
              = .next (s.answered q rest (fun d => { d with shadow := { d.shadow with
                  portClass := upd d.shadow.portClass p fun _ => q.w 2 } }) (done []))))
    ∧ (s.dev.Asks c 0x0304 q rest → d.swapPending = false → d.images.storing ≠ none →
        exec (.shadowRevert c) s = .next (s.answered q rest id (fail 1)))
    ∧ (s.dev.Asks c 0x0304 q rest → d.swapPending = false → d.images.storing = none →
        let kept (n : Nat) : Bool := !q.secure && d.regionLocked n
        ∃ t, exec (.shadowRevert c) s = .next t
          ∧ t = s.answered q rest (fun d => { d with
              cart := { d.cart with streamShadow := d.cart.streamShadow.filter fun m => kept m.region }
              shadow := d.shadow.revert d.active kept }) (done [word ((List.range 64).filter kept).length])
          ∧ (∀ n, n < 64 → t.dev.shadow.regionBase.getD n 0
              = if kept n then s.dev.shadow.regionBase.getD n 0 else s.dev.active.regionBase.getD n 0)
          ∧ (∀ n, n < 64 → t.dev.shadow.regionAttr.getD n 0
              = if kept n then s.dev.shadow.regionAttr.getD n 0 else s.dev.active.regionAttr.getD n 0)
          ∧ t.dev.shadow.portClass = s.dev.active.portClass ∧ t.dev.active = s.dev.active)
    ∧ (s.dev.Asks c 0x0304 q rest → d.swapPending = true →
        exec (.shadowRevert c) s = .next (s.answered q rest id (fail 0x0F)))

/-- The line-cache commands. CACHE_MAINT makes set-and-way maintenance at once and answers a range operation when it ends; a second
one is BUSY, and a range that the channel may not touch is DENIED and an alarm; op 0 does nothing, and a reserved bit or a slice that
the part lacks is BAD_FIELD. CACHE_DISABLE starts what is ON on its way to OFF and answers when every named slice is OFF; while one
clears it is STATE, and a discard is for a secure channel where R288 allows it. CACHE_ENABLE turns the named slices on at the next
tick boundary. CACHE_STATUS reports. -/
def Obligations.LineCacheCommanded : Prop :=
  ∀ (s : State) (c : Nat) (q : Req) (rest : List MbWord),
    let d := s.dev.takeRequest c rest
    (∀ e, s.dev.Asks c 0x0401 q rest → maintReserved q = some e →
      exec (.cacheMaint c) s = .next (s.answered q rest id (badField e.1 e.2)))
    ∧ (s.dev.Asks c 0x0401 q rest → maintReserved q = none →
      let op := q.f 1 0 2
      (q.f 1 2 1 = 1 → q.f 2 0 3 < d.sliceCount → op ≠ 0 →
        exec (.cacheMaint c) s = .next (s.answered q rest
          (fun d => d.setway q.secure (q.f 2 0 3) (q.f 2 3 12) (q.f 2 15 4) (q.f 2 19 1 == 1) op) (done [])))
      ∧ (q.f 1 2 1 = 1 → d.sliceCount ≤ q.f 2 0 3 →
          exec (.cacheMaint c) s = .next (s.answered q rest id (badField 2 0)))
      ∧ (op = 0 → (q.f 1 2 1 = 0 ∨ q.f 2 0 3 < d.sliceCount) →
          exec (.cacheMaint c) s = .next (s.answered q rest id (done [])))
      ∧ (q.f 1 2 1 = 0 → op ≠ 0 → d.regs.maintRun = none →
          d.maintForbidden q.secure op (q.f 2 0 34) (q.f 3 0 34 + 1) = false →
          exec (.cacheMaint c) s = .next (s.answered q rest
            (fun d => (d.startMaint q.secure op (q.f 2 0 34) (q.f 3 0 34 + 1)).await q .maint) .later))
      ∧ (q.f 1 2 1 = 0 → op ≠ 0 → d.regs.maintRun = none →
          d.maintForbidden q.secure op (q.f 2 0 34) (q.f 3 0 34 + 1) = true →
          exec (.cacheMaint c) s = .next (s.answered q rest (fun d => d.alarm 3 none 0) (fail 5)))
      ∧ (q.f 1 2 1 = 0 → op ≠ 0 → d.regs.maintRun.isSome = true →
          exec (.cacheMaint c) s = .next (s.answered q rest id (fail 1))))
    ∧ (s.dev.Asks c 0x0402 q rest → q.f 1 8 1 = 1 →
        (q.secure = false → exec (.cacheDisable c) s = .next (s.answered q rest id (fail 5)))
        ∧ (q.secure = true → q.named.all d.mayDiscard = false →
            exec (.cacheDisable c) s = .next (s.answered q rest id (fail 6))))
    ∧ (s.dev.Asks c 0x0402 q rest → (q.f 1 8 1 = 0 ∨ q.secure = true ∧ q.named.all d.mayDiscard = true) →
        let discard := q.f 1 8 1 == 1
        let wait := q.named.filter fun i => (d.slice i).cache.state != .off
        (q.named.all d.hasSlice = false → exec (.cacheDisable c) s = .next (s.answered q rest id (badField 1 0)))
        ∧ (q.named.all d.hasSlice = true →
            ((∃ i, i ∈ q.named ∧ (d.slice i).cache.state = .invalidating) →
              exec (.cacheDisable c) s = .next (s.answered q rest id (fail 7)))
            ∧ ((∀ i, i ∈ q.named → (d.slice i).cache.state ≠ .invalidating) →
                (wait = [] → exec (.cacheDisable c) s = .next (s.answered q rest id (done [0])))
                ∧ (wait ≠ [] → exec (.cacheDisable c) s = .next (s.answered q rest (fun d =>
                    (wait.foldl (fun d i => if (d.slice i).cache.state != .on then d
                      else d.onSlice i fun x => if discard then x.discardDisable
                        else x.drainDisable d.fuses.dram4 d.round) d).await q (.cacheOff wait discard)) .later)))))
    ∧ (s.dev.Asks c 0x0403 q rest → q.named.all d.hasSlice = false →
        exec (.cacheEnable c) s = .next (s.answered q rest id (badField 1 0)))
    ∧ (s.dev.Asks c 0x0403 q rest → q.named.all d.hasSlice = true →
        ((∃ i, i ∈ q.named ∧ ((d.slice i).cache.state = .draining ∨ (d.slice i).cache.state = .invalidating)) →
          exec (.cacheEnable c) s = .next (s.answered q rest id (fail 7)))
        ∧ ((∀ i, i ∈ q.named → (d.slice i).cache.state = .on ∨ (d.slice i).cache.state = .off) →
            exec (.cacheEnable c) s = .next (s.answered q rest
              (fun d => q.named.foldl (fun d i => d.onSlice i Slice.cacheEnable) d) (done []))))
    ∧ (s.dev.Asks c 0x0404 q rest → d.sliceCount ≤ q.f 1 0 3 →
        exec (.cacheStatus c) s = .next (s.answered q rest id (badField 1 0)))
    ∧ (s.dev.Asks c 0x0404 q rest → q.f 1 0 3 < d.sliceCount →
        exec (.cacheStatus c) s = .next (s.answered q rest id
          (done [(d.slice (q.f 1 0 3)).cacheStatus, (d.slice (q.f 1 0 3)).basinStatus])))

/-- TITLE_OPEN is refused as R364 says, each case after those above it: outside the service group, in ANISE, in MACE with
debug unlocked or a token accepted, and for a slot that is not INSTALLED. Otherwise every slice holds the slot's frame key and the slot is
OPEN. (A slot that another command holds is
BUSY by R431, and CLOVE serves no title command by R429; both are assumed away here and said in R429's own statement.) -/
def Obligations.TitleOpenRefusedOrDone : Prop :=
  ∀ (s : State) (c : Nat) (q : Req) (rest : List MbWord),
    let t := q.slot
    s.dev.serving c = true → c < 16 → (s.dev.chan c).resync = false → (s.dev.chan c).front c = some (q, rest, false) →
    q.opcode = 0x0502 → q.words.length = 2 → q.secure = true → s.dev.fuses.lifecycle ≠ .clove →
    (s.dev.mode.isService = false → exec (.titleOpen c) s = .next (s.answered q rest id (fail 6)))
    ∧ (s.dev.mode.isService = true → firstReserved q [0x1F] = none → s.dev.titleBusy t = false →
        (s.dev.fuses.lifecycle = .anise → exec (.titleOpen c) s = .next (s.answered q rest id (fail 0x0E)))
        ∧ (s.dev.fuses.lifecycle = .mace → (s.dev.dbg.unlocked = true ∨ s.dev.dbg.granted ≠ none) →
            exec (.titleOpen c) s = .next (s.answered q rest id (fail 5)))
        ∧ (s.dev.fuses.lifecycle ≠ .anise →
            ¬(s.dev.fuses.lifecycle = .mace ∧ (s.dev.dbg.unlocked = true ∨ s.dev.dbg.granted ≠ none)) →
            (s.dev.title t).state ≠ .installed → exec (.titleOpen c) s = .next (s.answered q rest id (fail 7)))
        ∧ (s.dev.fuses.lifecycle ≠ .anise →
            ¬(s.dev.fuses.lifecycle = .mace ∧ (s.dev.dbg.unlocked = true ∨ s.dev.dbg.granted ≠ none)) →
            (s.dev.title t).state = .installed →
            exec (.titleOpen c) s = .next (s.answered q rest (fun d =>
              ({ d with
                slices := d.slices.map fun x => { x with engine := { x.engine with
                  frames := sset x.engine.frames t (frameKeyOf d.root (d.titleKey t)) } }
                titles := upd d.titles t fun x => { x with state := .opened } } : Dev).countPkg 14 1) (done []))))

/-- TITLE_IMPORT installs a record that is well formed and unwraps into an EMPTY slot; TITLE_CLOSE of an OPEN slot and TITLE_DELETE
wait for the folds and trims that they start; TITLE_STATUS reports; TITLE_BIND_RING binds or unbinds a ring, to a protected region or
an OPEN title. Each is refused in its other cases: a slot that another command holds is BUSY, ANISE imports nothing, a slot or a ring
in another state is STATE, PRESERVE deletes nothing, a ring beyond the part or a region that is not protected is BAD_FIELD. -/
def Obligations.TitlesCommanded : Prop :=
  ∀ (s : State) (c : Nat) (q : Req) (rest : List MbWord),
    let d := s.dev.takeRequest c rest
    let t := q.slot
    (s.dev.Asks c 0x0501 q rest →
      (d.titleBusy t = true → exec (.titleImport c) s = .next (s.answered q rest id (fail 1)))
      ∧ (d.titleBusy t = false → d.fuses.lifecycle = .anise →
          exec (.titleImport c) s = .next (s.answered q rest id (fail 0x0E))))
    ∧ (s.dev.Asks c 0x0501 q rest → d.titleBusy t = false → d.fuses.lifecycle ≠ .anise →
      (∀ k, (d.title t).state = .empty → d.recordOk d.window = true → d.recordKey d.window = some k →
        exec (.titleImport c) s = .next (s.answered q rest (fun d =>
          { d with titles := upd d.titles t fun _ =>
              { state := .installed, key := d.rewrapped k, id := BitVec.ofNat 128 (leAt d.window 0x88 16)
                ranges := recordRanges d.window } }.countPkg 16 1) (done [])))
      ∧ ((d.title t).state = .empty → d.recordOk d.window = true → d.recordKey d.window = none →
          exec (.titleImport c) s = .next (s.answered q rest (fun d => d.countPkg 15 1) (fail 9)))
      ∧ ((d.title t).state ≠ .empty → exec (.titleImport c) s = .next (s.answered q rest id (fail 7))))
    ∧ (s.dev.Asks c 0x0503 q rest → d.titleBusy t = false → d.regs.maintRun = none →
        ((d.title t).state = .opened →
          exec (.titleClose c) s = .next (s.answered q rest
            (fun d => (d.closeFlush t).2.await q (.flush (d.closeFlush t).1 t false)) .later))
        ∧ ((d.title t).state ≠ .opened → exec (.titleClose c) s = .next (s.answered q rest id (fail 7))))
    ∧ (s.dev.Asks c 0x0503 q rest → (d.titleBusy t = true ∨ d.regs.maintRun ≠ none) →
        exec (.titleClose c) s = .next (s.answered q rest id (fail 1)))
    ∧ (s.dev.Asks c 0x0504 q rest → d.titleBusy t = true →
        exec (.titleStatus c) s = .next (s.answered q rest id (fail 1)))
    ∧ (s.dev.Asks c 0x0504 q rest → d.titleBusy t = false →
        exec (.titleStatus c) s = .next (s.answered q rest id (done (d.titleWords t))))
    ∧ (s.dev.Asks c 0x0505 q rest →
        let region := q.f 1 19 6
        let held := (d.ring (q.f 1 5 13)).binding
        let goal : Binding := if q.f 1 18 1 = 1 then .region region else .title t
        let guarded := wbits (d.active.regionAttr.getD region 0) 10 1 = 1
        let refused (r : Reply) : Prop := exec (.titleBindRing c) s = .next (s.answered q rest id r)
        (d.ringCount ≤ q.f 1 5 13 → refused (badField 1 5))
        ∧ (q.f 1 5 13 < d.ringCount → q.f 1 18 1 = 1 → ¬guarded → refused (badField 1 19))
        ∧ (q.f 1 5 13 < d.ringCount → q.f 1 18 1 = 0 → d.titleBusy t = true → refused (fail 1))
        ∧ (q.f 1 5 13 < d.ringCount → q.f 1 18 1 = 0 → d.titleBusy t = false → (d.title t).state ≠ .opened →
            refused (fail 7))
        ∧ (q.f 1 5 13 < d.ringCount → (q.f 1 18 1 = 1 → guarded) →
            (q.f 1 18 1 = 0 → d.titleBusy t = false ∧ (d.title t).state = .opened) → held ≠ none → held ≠ some goal →
            refused (fail 7)))
    ∧ (s.dev.Asks c 0x0505 q rest → q.f 1 5 13 < d.ringCount →
        let ring := q.f 1 5 13
        let region := q.f 1 19 6
        let goal : Binding := if q.f 1 18 1 = 1 then .region region else .title t
        (q.f 1 18 1 = 1 → wbits (d.active.regionAttr.getD region 0) 10 1 = 1) →
        (q.f 1 18 1 = 0 → d.titleBusy t = false ∧ (d.title t).state = .opened) →
        ((d.ring ring).binding = none ∨ (d.ring ring).binding = some goal) →
        exec (.titleBindRing c) s = .next (s.answered q rest (fun d => d.onRing ring fun r =>
          { r with binding := if q.f 1 25 1 = 1 then none else some goal }) (done [])))
    ∧ (s.dev.Asks c 0x0506 q rest →
        ((d.titleBusy t = true ∨ (d.title t).state = .opened ∧ d.regs.maintRun ≠ none) →
          exec (.titleDelete c) s = .next (s.answered q rest id (fail 1)))
        ∧ (d.titleBusy t = false → d.mode = .preserve →
            ((d.title t).state = .installed ∨ (d.title t).state = .opened ∧ d.regs.maintRun = none) →
            exec (.titleDelete c) s = .next (s.answered q rest id (fail 0x10))))
    ∧ (s.dev.Asks c 0x0506 q rest → d.titleBusy t = false → d.mode ≠ .preserve →
        ((d.title t).state = .installed →
          exec (.titleDelete c) s = .next (s.answered q rest
            (fun d => (d.trimTitle t).1.await q (.trims t (d.trimTitle t).2)) .later))
        ∧ ((d.title t).state = .opened → d.regs.maintRun = none →
            exec (.titleDelete c) s = .next (s.answered q rest
              (fun d => (d.closeFlush t).2.await q (.flush (d.closeFlush t).1 t true)) .later))
        ∧ ((d.title t).state = .empty → exec (.titleDelete c) s = .next (s.answered q rest id (fail 7))))

/-- DEVICE_KEY_GET answers one coordinate of the device agreement key, X or Y as w1 bit 0 says, in 8 words of 6 bytes, most
significant byte first, and has no other effect; in ANISE it answers LIFECYCLE. -/
def Obligations.DeviceKeyAnswered : Prop :=
  ∀ (s : State) (c : Nat) (q : Req) (rest : List MbWord), s.dev.Asks c 0x0507 q rest →
    (s.dev.fuses.lifecycle = .anise → exec (.deviceKeyGet c) s = .next (s.answered q rest id (fail 0x0E)))
    ∧ (s.dev.fuses.lifecycle ≠ .anise →
        ∃ ws, exec (.deviceKeyGet c) s = .next (s.answered q rest id (done ws)) ∧ ws.length = 8
          ∧ ∀ k j, k < 8 → j < 6 →
              wbits (ws.getD k 0) (40 - 8 * j) 8
                = (agreementPublic s.dev.root (decide (q.f 1 0 1 = 1))).toNat / 256 ^ (47 - (6 * k + j)) % 256)

/-- IDE_KEY_SET puts the key and the initial IV of the window into the port named, replaces the set of that selector, keeps
the other sets, and makes the stream secure again; a port or a stream that is not there is BAD_FIELD. ROLLBACK_READ answers a
counter. ROLLBACK_ADVANCE: counters 0 to 3 are DENIED, a target that is not above the value changes nothing, another is
written, and one whose sequence number would not fit is COUNTER_END. KEY_SLOT_WRITE erases a key slot, or puts into it a key
on the curve; a kind or a slot that is not there is BAD_FIELD, and so is a point off the curve, at a word that the manual leaves open. -/
def Obligations.CountersAndKeysWritten : Prop :=
  (∀ (s : State) (c : Nat) (q : Req) (rest : List MbWord), s.dev.Asks c 0x0510 q rest →
     let p := q.f 1 0 3
     let sel := q.f 1 3 5
     (s.dev.sliceCount ≤ p → exec (.ideKeySet c) s = .next (s.answered q rest id (badField 1 0)))
     ∧ (p < s.dev.sliceCount → q.f 1 4 2 = 3 → exec (.ideKeySet c) s = .next (s.answered q rest id (badField 1 4)))
     ∧ (p < s.dev.sliceCount → q.f 1 4 2 ≠ 3 →
         exec (.ideKeySet c) s = .next (s.answered q rest (fun d => d.onPort p fun x =>
           { x with
             ideKeys := x.ideKeys.filter (fun k => k.selector != sel)
               ++ [⟨sel, BitVec.ofNat 256 (leAt s.dev.window 0 32), BitVec.ofNat 96 (leAt s.dev.window 0x20 12)⟩]
             ideInsecure := upd x.ideInsecure (sel % 2) fun _ => false }) (done []))))
  ∧ (∀ (s : State) (c : Nat) (q : Req) (rest : List MbWord),
       let d := s.dev.takeRequest c rest
       let n := q.f 1 0 4
       (s.dev.Asks c 0x0A06 q rest →
         exec (.rollbackRead c) s = .next (s.answered q rest id (done [word (d.rollback n)])))
       ∧ (s.dev.Asks c 0x0A07 q rest →
           (n < 4 → exec (.rollbackAdvance c) s = .next (s.answered q rest id (fail 5)))
           ∧ (4 ≤ n → (q.w 2).toNat ≤ d.rollback n →
               exec (.rollbackAdvance c) s = .next (s.answered q rest id (done [word (d.rollback n)])))
           ∧ (4 ≤ n → d.rollback n < (q.w 2).toNat → d.rollbackSeq n + 1 < 2 ^ 48 →
               exec (.rollbackAdvance c) s = .next (s.answered q rest (fun d => d.setRollback n (q.w 2).toNat)
                 (done [word ((d.setRollback n (q.w 2).toNat).rollback n)])))
           ∧ (4 ≤ n → d.rollback n < (q.w 2).toNat → 2 ^ 48 ≤ d.rollbackSeq n + 1 →
               exec (.rollbackAdvance c) s = .next (s.answered q rest id (fail 0x11))))
       ∧ (s.dev.Asks c 0x0A08 q rest → q.f 1 0 2 = 3 →
           exec (.keySlotWrite c) s = .next (s.answered q rest id (badField 1 0)))
       ∧ (∀ count base, s.dev.Asks c 0x0A08 q rest →
           (q.f 1 0 2 = 0 ∧ count = 4 ∧ base = 0 ∨ q.f 1 0 2 = 1 ∧ count = 2 ∧ base = 4
             ∨ q.f 1 0 2 = 2 ∧ count = 4 ∧ base = 6) →
           let slot := q.f 1 2 2
           let x := bytesAt d.window 0 48
           let y := bytesAt d.window 0x30 48
           (count ≤ slot → exec (.keySlotWrite c) s = .next (s.answered q rest id (badField 1 2)))
           ∧ (slot < count → q.f 1 4 1 = 1 → exec (.keySlotWrite c) s = .next (s.answered q rest
               (fun d => d.store (0x1000 + 128 * (base + slot)) erasedSlot) (done [])))
           ∧ (slot < count → q.f 1 4 1 = 0 → onCurve (beAt x 0 48) (beAt y 0 48) = true →
               exec (.keySlotWrite c) s = .next (s.answered q rest
                 (fun d => d.store (0x1000 + 128 * (base + slot)) (slotBytes true x y)) (done [])))
           ∧ (slot < count → q.f 1 4 1 = 0 → onCurve (beAt x 0 48) (beAt y 0 48) = false →
               ∃ w, exec (.keySlotWrite c) s = .next (s.answered q rest
                 (fun d => { d with draws := d.draws + 1 }) (.now 4 0 [w])))))

/-! ### Mailbox: health, modes, temperatures and faults (R450–R452, R477, R497) -/

/-- HEALTH_GET writes the page of the package or of a slice to the buffer, and RECORDER_READ the whole records from a record's
start on, as many as w1 allows; a slice or a start that is not there is BAD_FIELD, a buffer that is too small BAD_LENGTH, a record that does
not decode MEDIA_ERROR. RECORDER_STATUS, LAST_GASP_READ and LIFE_GET answer their words. Values that do not fit their fields, and
a peak without a reading, are open. RECORDER_CLEAR empties the recorder under the next generation, leaves it failed where the
write does not hold, and is COUNTER_END at the last generation; NOTIFY_SET sets the channel's mask and answers the old one. -/
def Obligations.HealthReadAndChanged : Prop :=
  (∀ (s : State) (c : Nat) (q : Req) (rest : List MbWord),
     let d := s.dev.takeRequest c rest
     (s.dev.Asks c 0x0601 q rest → q.f 1 0 4 = 15 → 448 ≤ d.bufferSize q.channel →
       ∃ (n : Nat) (peaks : List Nat), n ≤ 3 ∧ peaks.length = 3
         ∧ (∀ g x, g < 3 → d.thermal.peaks.getD g none = some x → peaks.getD g 0 = degreeByte x)
         ∧ exec (.healthGet c) s = .next (s.answered q rest (fun d =>
             { d.writeBuffer q.channel (({ d with draws := d.draws + n } : Dev).packageHealth peaks) with
               draws := d.draws + n + 3 }) (doneBuffer [word 448])))
     ∧ (s.dev.Asks c 0x0601 q rest → q.f 1 0 4 < d.sliceCount → 96 ≤ d.bufferSize q.channel →
         let i := q.f 1 0 4
         8192 ≤ (d.slice i).upkeep.formable →
         exec (.healthGet c) s = .next (s.answered q rest (fun d =>
           { d.writeBuffer q.channel (d.sliceHealth i (1000 * (d.slice i).upkeep.formable / 8192 - 1000)) with
             draws := d.draws + 1 }) (doneBuffer [word 96])))
     ∧ (s.dev.Asks c 0x0601 q rest → q.f 1 0 4 < d.sliceCount → 96 ≤ d.bufferSize q.channel →
         let i := q.f 1 0 4
         (d.slice i).upkeep.formable < 8192 →
         ∃ beyond, beyond < 2 ^ 16 ∧ exec (.healthGet c) s = .next (s.answered q rest (fun d =>
           { d.writeBuffer q.channel (({ d with draws := d.draws + 1 } : Dev).sliceHealth i beyond) with
             draws := d.draws + 2 }) (doneBuffer [word 96])))
     ∧ (s.dev.Asks c 0x0601 q rest → q.f 1 0 4 ≠ 15 → d.sliceCount ≤ q.f 1 0 4 → 96 ≤ d.bufferSize q.channel →
         exec (.healthGet c) s = .next (s.answered q rest id (badField 1 0)))
     ∧ (s.dev.Asks c 0x0601 q rest → d.bufferSize q.channel < (if q.f 1 0 4 = 15 then 448 else 96) →
         exec (.healthGet c) s = .next (s.answered q rest id (fail 3)))
     ∧ (s.dev.Asks c 0x0602 q rest → q.f 1 0 16 = d.recorder.writePos →
         exec (.recorderRead c) s = .next (s.answered q rest (fun d => d.writeBuffer q.channel [])
           (doneBuffer [word d.recorder.writePos, word (b2n d.recorder.full + 2 * b2n d.recorder.failed)])))
     ∧ (∀ (b : List Byte), s.dev.Asks c 0x0602 q rest →
         let off := q.f 1 0 16
         let rs := d.pstore.recordStarts d.recorder.writePos 2731 0
         let mine := rs.filter fun r => decide (off ≤ r.1)
         (∃ r, r ∈ rs ∧ r.1 = off) → (∀ r, mine.head? = some r → r.2 ≤ q.f 1 16 16) →
         d.pstore.takeRecords (q.f 1 16 16) mine = some b → b.length ≤ d.bufferSize q.channel →
         exec (.recorderRead c) s = .next (s.answered q rest (fun d => d.writeBuffer q.channel b)
           (doneBuffer [word (off + b.length + b.length * 2 ^ 17),
             word (b2n d.recorder.full + 2 * b2n d.recorder.failed)])))
     ∧ (s.dev.Asks c 0x0602 q rest →
         let off := q.f 1 0 16
         let rs := d.pstore.recordStarts d.recorder.writePos 2731 0
         let mine := rs.filter fun r => decide (off ≤ r.1)
         (off ≠ d.recorder.writePos → (∀ r, r ∈ rs → r.1 ≠ off) →
           exec (.recorderRead c) s = .next (s.answered q rest id (badField 1 0)))
         ∧ ((∃ r, r ∈ rs ∧ r.1 = off) →
             (∀ r, mine.head? = some r → q.f 1 16 16 < r.2 →
               exec (.recorderRead c) s = .next (s.answered q rest id (fail 3)))
             ∧ ((∀ r, mine.head? = some r → r.2 ≤ q.f 1 16 16) →
                 (d.pstore.takeRecords (q.f 1 16 16) mine = none →
                   exec (.recorderRead c) s = .next (s.answered q rest id (fail 8)))
                 ∧ (∀ b, d.pstore.takeRecords (q.f 1 16 16) mine = some b → d.bufferSize q.channel < b.length →
                   exec (.recorderRead c) s = .next (s.answered q rest id (fail 3))))))
     ∧ (s.dev.Asks c 0x0603 q rest →
         exec (.recorderStatus c) s = .next (s.answered q rest id (done
           [word (d.recorder.writePos + d.recorder.records * 2 ^ 17 + b2n d.recorder.full * 2 ^ 33
             + b2n d.recorder.failed * 2 ^ 34)])))
     ∧ (s.dev.Asks c 0x0605 q rest →
         (∀ b, d.pstore.read 0x180 64 = some b →
           exec (.lastGaspRead c) s = .next (s.answered q rest id (done
             (wordsOf 11 (b ++ [BitVec.ofNat 8 (b2n d.pstore.gasp.isSome), 0])))))
         ∧ (d.pstore.read 0x180 64 = none → exec (.lastGaspRead c) s = .next (s.answered q rest id (fail 8))))
     ∧ (s.dev.Asks c 0x0606 q rest → ∃ n x y, x < 2 ^ 16 ∧ y < 2 ^ 16
         ∧ (d.thermalLifeUsed < 2 ^ 16 → x = d.thermalLifeUsed) ∧ (d.wearLifeUsed < 2 ^ 16 → y = d.wearLifeUsed)
         ∧ exec (.lifeGet c) s = .next (s.answered q rest (fun d => { d with draws := d.draws + n }) (done
           [word d.mirror.lifeClock, word d.mirror.seconds,
            word (d.mirror.bootCount % 2 ^ 24 + d.mirror.dirtyShutdowns % 2 ^ 24 * 2 ^ 24),
            word (x + y * 2 ^ 16)]))))
  ∧ (∀ (s : State) (c : Nat) (q : Req) (rest : List MbWord),
       let d := s.dev.takeRequest c rest
       (∀ pass, s.dev.Asks c 0x0604 q rest → d.recorder.generation = 0xFFFF →
         exec (.recorderClear c pass) s = .next (s.answered q rest id (fail 0x11)))
       ∧ (s.dev.Asks c 0x0604 q rest → d.recorder.generation ≠ 0xFFFF →
           exec (.recorderClear c true) s = .next (s.answered q rest (fun d =>
             ({ d with
               recorder := { generation := d.recorder.generation + 1 }
               mirror := { d.mirror with recorderFailed := false, repeats := 0, newestOffset := 0, droppedEvents := 0 }
             } : Dev).storeControl) (done [])))
       ∧ (s.dev.Asks c 0x0604 q rest → d.recorder.generation ≠ 0xFFFF →
           ∃ t f, exec (.recorderClear c false) s = .next t ∧ t = s.answered q rest f (fail 8)
             ∧ t.dev.recorder = { d.recorder with failed := true } ∧ t.dev.mirror.recorderFailed = true)
       ∧ (s.dev.Asks c 0x0607 q rest →
           ∃ t, exec (.notifySet c) s = .next t
             ∧ t = s.answered q rest (fun d => d.onChan c fun x => { x with mask := BitVec.ofNat 16 (q.f 1 0 16) })
                 (done [word (s.dev.chan c).mask.toNat])))

/-- MODE_ENTER, WARM_RESET and TEST_ENTER accept a transition, which then runs, and are BUSY while another one runs; a target
that MODE_ENTER does not name is BAD_FIELD, and TEST_ENTER is DENIED in MACE, and in CUMIN on a channel that is not secure.
THERMAL_STATUS reports the four external inputs, the hottest reading, the rung and 36 internal sensors: 0x80 for one that is disabled or not
fitted, 0x81 for one in fault, else its newest reading. FAULT_STATUS reports the latch, the short drops and the state at the fault. FAULT_CLEAR clears
the latch; in RECOVERY after a latched start it also clears the other two, and starts the way to service unless a transition runs. -/
def Obligations.TransitionsAndFaults : Prop :=
  (∀ (s : State) (c : Nat) (q : Req) (rest : List MbWord),
     let d := s.dev.takeRequest c rest
     (∀ m, s.dev.Asks c 0x0701 q rest → d.transitioning = false →
       (q.f 1 0 4 = 1 ∧ m = .held ∨ q.f 1 0 4 = 8 ∧ m = .drowse ∨ q.f 1 0 4 = 9 ∧ m = .dormant) →
       exec (.modeEnter c) s = .next (s.answered q rest (fun d => d.beginTransition m) (done [])))
     ∧ (s.dev.Asks c 0x0701 q rest → (q.f 1 0 4 = 1 ∨ q.f 1 0 4 = 8 ∨ q.f 1 0 4 = 9) → d.transitioning = true →
         exec (.modeEnter c) s = .next (s.answered q rest id (fail 1)))
     ∧ (s.dev.Asks c 0x0701 q rest → q.f 1 0 4 ≠ 1 → q.f 1 0 4 ≠ 8 → q.f 1 0 4 ≠ 9 →
         exec (.modeEnter c) s = .next (s.answered q rest id (badField 1 0)))
     ∧ (s.dev.Asks c 0x0702 q rest → d.transitioning = false →
         exec (.warmReset c) s = .next (s.answered q rest (fun d => d.beginTransition .boot) (done [])))
     ∧ (s.dev.Asks c 0x0702 q rest → d.transitioning = true →
         exec (.warmReset c) s = .next (s.answered q rest id (fail 1)))
     ∧ (s.dev.Asks c 0x0A09 q rest →
         (s.dev.fuses.lifecycle = .mace ∨ s.dev.fuses.lifecycle = .cumin ∧ q.secure = false →
           exec (.testEnter c) s = .next (s.answered q rest id (fail 5)))
         ∧ (s.dev.fuses.lifecycle = .anise ∨ s.dev.fuses.lifecycle = .cumin ∧ q.secure = true → d.transitioning = false →
             exec (.testEnter c) s = .next (s.answered q rest
               (fun d => { d with transition := some ⟨.test, 1⟩ }) (done [])))
         ∧ (s.dev.fuses.lifecycle = .anise ∨ s.dev.fuses.lifecycle = .cumin ∧ q.secure = true → d.transitioning = true →
             exec (.testEnter c) s = .next (s.answered q rest id (fail 1)))))
  ∧ (∀ (s : State) (c : Nat) (q : Req) (rest : List MbWord),
       let d := s.dev.takeRequest c rest
       (s.dev.Asks c 0x0703 q rest →
         ∃ (n : Nat) (outer inner : List Nat) (top : Nat), outer.length = 4 ∧ inner.length = 36
           ∧ (∀ i, i < 4 →
               (wbits d.active.thermSrc i 1 ≠ 1 → outer.getD i 0 = 0x80)
               ∧ (wbits d.active.thermSrc i 1 = 1 → (d.sensor (4 * d.sliceCount + i)).faulty = true → outer.getD i 0 = 0x81)
               ∧ (∀ x l, wbits d.active.thermSrc i 1 = 1 → (d.sensor (4 * d.sliceCount + i)).faulty = false →
                   (d.sensor (4 * d.sliceCount + i)).readings = x :: l → outer.getD i 0 = degreeByte x))
           ∧ (∀ k, k < 36 →
               (4 * d.sliceCount ≤ k → inner.getD k 0 = 0x80)
               ∧ (k < 4 * d.sliceCount → (d.sensor k).faulty = true → inner.getD k 0 = 0x81)
               ∧ (∀ x l, k < 4 * d.sliceCount → (d.sensor k).faulty = false → (d.sensor k).readings = x :: l →
                   inner.getD k 0 = degreeByte x))
           ∧ (∀ e, hottest d.readings = some e → top = degreeByte e.2)
           ∧ exec (.thermalStatus c) s = .next (s.answered q rest (fun d => { d with draws := d.draws + n }) (done
               (word (leAt ((outer ++ [top]).map (BitVec.ofNat 8)) 0 5 + d.rung * 2 ^ 40)
                 :: wordsOf 6 (inner.map (BitVec.ofNat 8))))))
       ∧ (s.dev.Asks c 0x0704 q rest → ∃ n x, x < 2 ^ 16 ∧ (d.seq.shortDrops < 2 ^ 16 → x = d.seq.shortDrops)
           ∧ exec (.faultStatus c) s = .next (s.answered q rest (fun d => { d with draws := d.draws + n }) (done
               [word (d.seq.latch.toNat + x * 2 ^ 16), word d.seq.stateAtFault])))
       ∧ (s.dev.Asks c 0x0705 q rest → ¬(d.mode = .recovery ∧ d.seq.latchedStart = true) →
           exec (.faultClear c) s
             = .next (s.answered q rest (fun d => { d with seq := { d.seq with latch := 0 } }) (done [])))
       ∧ (s.dev.Asks c 0x0705 q rest → d.mode = .recovery → d.seq.latchedStart = true → d.transition = none →
           exec (.faultClear c) s = .next (s.answered q rest (fun d =>
             { d with seq := { d.seq with latch := 0, shortDrops := 0, stateAtFault := 0 }
                      transition := some ⟨.service, 0⟩ }) (done [])))
       ∧ (s.dev.Asks c 0x0705 q rest → d.mode = .recovery → d.seq.latchedStart = true → d.transition ≠ none →
           exec (.faultClear c) s = .next (s.answered q rest (fun d =>
             { d with seq := { d.seq with latch := 0, shortDrops := 0, stateAtFault := 0 } }) (done []))))

/-! ### Mailbox: the cartridge and firmware (R453–R457, R463, R468–R475) -/

/-- CART_STATUS reports. CART_POWER raises CART_PWR_EN at once and answers its fall when the power-off sequence has ended; it is
STATE without a card. CART_AUTH opens the session of a card that passes every step, DENIES one that fails a step, and times out on a link
that is down or a card that does not answer. CART_MANIFEST_READ writes the manifest to the buffer. CART_TITLE_IMPORT installs a title of
the authenticated card, and CART_STREAM_MAP maps a streamable entry; both are refused as listed. CART_POWER, CART_AUTH, CART_TITLE_IMPORT and
CART_STREAM_MAP are BUSY while a card is being powered off. -/
def Obligations.CartridgeCommanded : Prop :=
  ∀ (s : State) (c : Nat) (q : Req) (rest : List MbWord),
    let d := s.dev.takeRequest c rest
    (s.dev.Asks c 0x0801 q rest →
      exec (.cartStatus c) s = .next (s.answered q rest id (done
        [word (b2n d.cart.present + b2n d.cart.pwrEn * 2 + b2n d.cart.linkUp * 4 + d.cart.auth * 8
          + d.cart.entryCount * 32)])))
    ∧ (s.dev.Asks c 0x0802 q rest → d.cartBusy = true → exec (.cartPower c) s = .next (s.answered q rest id (fail 1)))
    ∧ (s.dev.Asks c 0x0802 q rest → d.cartBusy = false →
        (q.f 1 0 1 = 1 → d.cart.present = false → exec (.cartPower c) s = .next (s.answered q rest id (fail 7)))
        ∧ (q.f 1 0 1 = 1 → d.cart.present = true → d.cart.pwrEn = false → d.cart.step < 5 →
            exec (.cartPower c) s = .next (s.answered q rest
              (fun d => { d with cart := { d.cart with pwrEn := true, step := 1 } }) (done [])))
        ∧ (q.f 1 0 1 = 1 → d.cart.present = true → d.cart.pwrEn = true → d.cart.step < 5 →
            exec (.cartPower c) s = .next (s.answered q rest id (done [])))
        ∧ (q.f 1 0 1 = 1 → d.cart.present = true → 5 ≤ d.cart.step →
            exec (.cartPower c) s = .next (s.answered q rest id (fail 1)))
        ∧ (q.f 1 0 1 = 0 → d.cart.pwrEn = true → 5 ≤ d.cart.step →
            exec (.cartPower c) s = .next (s.answered q rest (fun d => d.await q .cartOff) .later))
        ∧ (q.f 1 0 1 = 0 → d.cart.pwrEn = false → exec (.cartPower c) s = .next (s.answered q rest id (done [])))
        ∧ (q.f 1 0 1 = 0 → d.cart.pwrEn = true → d.cart.step < 5 →
            exec (.cartPower c) s = .next (s.answered q rest (fun d =>
              let e := if d.streaming then d.cartEnd.notifyCart d.cartEnd.cart.present true else d.cartEnd
              (if d.cart.linkUp then e.notifyShutdown d.cart.queues
                else e.onCart Cart.perstFalls).await q .cartOff) .later)))
    ∧ (∀ card, s.dev.Asks c 0x0803 q rest → d.cartBusy = false → d.cart.linkUp = true → cardReady card = true →
        card.answers = true →
        (d.authStep card = none →
          exec (.cartAuth c card) s = .next (s.answered q rest (fun d =>
            let size := 64 + 128 * byteAt card.manifest 5 + 112
            let d := d.authTalk card 6
            (({ d with cart := { d.cart with auth := 2, session := true, manifest := card.manifest.take size
                                             hashTables := [], stream := [] } } : Dev).countPkg 28 1).countPkg 31
              (size / 256)) (done [])))
        ∧ (∀ k, d.authStep card = some k →
            exec (.cartAuth c card) s = .next (s.answered q rest (fun d => ((d.authTalk card k).authFailed k 5).1) (fail 5))))
    ∧ (∀ card, s.dev.Asks c 0x0803 q rest →
        (d.cartBusy = true → exec (.cartAuth c card) s = .next (s.answered q rest id (fail 1)))
        ∧ (d.cartBusy = false → (d.cart.linkUp = false ∨ cardReady card = false) →
            exec (.cartAuth c card) s = .next (s.answered q rest (fun d => (d.authFailed 1 0x0C).1) (fail 0x0C)))
        ∧ (d.cartBusy = false → d.cart.linkUp = true → cardReady card = true → card.answers = false →
            ∃ k, 1 ≤ k ∧ k ≤ 6 ∧ exec (.cartAuth c card) s = .next (s.answered q rest
              (fun d => ((({ d with draws := d.draws + 1 } : Dev).authTalk card k).authFailed k 0x0C).1) (fail 0x0C))))
    ∧ (s.dev.Asks c 0x0804 q rest →
        (d.cart.serves = true → d.bufferSize q.channel < d.cart.manifest.length →
          exec (.cartManifestRead c) s = .next (s.answered q rest id (fail 3)))
        ∧ (d.cart.serves = false → exec (.cartManifestRead c) s = .next (s.answered q rest id (fail 7)))
        ∧ (d.cart.serves = true → d.cart.manifest.length ≤ d.bufferSize q.channel →
            exec (.cartManifestRead c) s = .next (s.answered q rest
              (fun d => d.writeBuffer q.channel d.cart.manifest) (doneBuffer [word d.cart.manifest.length]))))
    ∧ (∀ (status : BitVec 16) (key : BitVec 256), s.dev.Asks c 0x0805 q rest →
        let e := q.f 1 0 8
        let t := q.f 1 8 5
        d.cart.serves = true → e < d.cart.entryCount → d.titleBusy t = false → d.cartBusy = false →
        d.fuses.lifecycle ≠ .anise → (d.title t).state = .empty → d.recordOk d.window = true →
        (status ≠ 0 → exec (.cartTitleImport c status key) s = .next (s.answered q rest (fun d => d.askTitleKey e) (fail 5)))
        ∧ (status = 0 → exec (.cartTitleImport c status key) s = .next (s.answered q rest (fun d =>
            ({ d.askTitleKey e with titles := upd d.titles t fun _ =>
                { state := .installed, key := d.rewrapped key, id := d.cart.titleId e, ranges := recordRanges d.window }
              } : Dev).countPkg 16 1) (done []))))
    ∧ (∀ (status : BitVec 16) (key : BitVec 256), s.dev.Asks c 0x0805 q rest →
        let e := q.f 1 0 8
        let t := q.f 1 8 5
        (d.cart.serves = true → d.cart.entryCount ≤ e →
          exec (.cartTitleImport c status key) s = .next (s.answered q rest id (badField 1 0)))
        ∧ ((d.cart.serves = false ∨ e < d.cart.entryCount) →
            ((d.titleBusy t = true ∨ d.cartBusy = true) →
              exec (.cartTitleImport c status key) s = .next (s.answered q rest id (fail 1)))
            ∧ (d.titleBusy t = false → d.cartBusy = false →
                (d.fuses.lifecycle = .anise →
                  exec (.cartTitleImport c status key) s = .next (s.answered q rest id (fail 0x0E)))
                ∧ (d.fuses.lifecycle ≠ .anise → ((d.title t).state ≠ .empty ∨ d.cart.serves = false) →
                    exec (.cartTitleImport c status key) s = .next (s.answered q rest id (fail 7)))
                ∧ (d.fuses.lifecycle ≠ .anise → (d.title t).state = .empty → d.cart.serves = true →
                    d.recordOk d.window = false →
                    ∃ w, exec (.cartTitleImport c status key) s = .next (s.answered q rest
                      (fun d => { d with draws := d.draws + 1 }) (.now 4 0 [w]))))))
    ∧ (∀ hashTable, s.dev.Asks c 0x0806 q rest →
        let e := q.f 1 0 8
        let slot := (List.range 32).find? fun t => (d.title t).state != .empty && (d.title t).id == d.cart.titleId e
        (d.cart.serves = true → d.cart.entryCount ≤ e →
          exec (.cartStreamMap c hashTable) s = .next (s.answered q rest id (badField 1 0)))
        ∧ ((d.cart.serves = false ∨ e < d.cart.entryCount) →
            (d.swapPending = true → exec (.cartStreamMap c hashTable) s = .next (s.answered q rest id (fail 0x0F)))
            ∧ (d.swapPending = false → (d.images.storing ≠ none ∨ d.cartBusy = true) →
                exec (.cartStreamMap c hashTable) s = .next (s.answered q rest id (fail 1)))
            ∧ (d.swapPending = false → d.images.storing = none → d.cartBusy = false →
                ((slot = none ∨ d.cart.serves = false ∨ d.cart.streamable e = false) →
                  exec (.cartStreamMap c hashTable) s = .next (s.answered q rest id (fail 7)))
                ∧ (slot ≠ none → d.cart.serves = true → d.cart.streamable e = true → (d.loadTable e hashTable).2 ≠ 0 →
                    exec (.cartStreamMap c hashTable) s = .next (s.answered q rest
                      (fun d => (d.loadTable e hashTable).1) (fail (d.loadTable e hashTable).2))))))
    ∧ (∀ hashTable t, s.dev.Asks c 0x0806 q rest →
        let e := q.f 1 0 8
        d.cart.serves = true → e < d.cart.entryCount → d.swapPending = false → d.images.storing = none →
        d.cartBusy = false →
        ((List.range 32).find? fun t => (d.title t).state != .empty && (d.title t).id == d.cart.titleId e) = some t →
        d.cart.streamable e = true → (d.loadTable e hashTable).2 = 0 →
        exec (.cartStreamMap c hashTable) s = .next (s.answered q rest
          (fun d => (d.loadTable e hashTable).1.mapStream (q.f 1 8 6) e t) (done [])))

/-- FW_STAGE copies parts, and the last one checks the image; a part that is misplaced, empty, too long, held by another
channel or poisoned is refused as listed. FW_ACTIVATE begins to store it as the two copies of the next generation, which the next tick
boundaries go on with, is BUSY while that runs, and STATE with nothing staged; FW_INFO reports each target. Target 3 is
BAD_FIELD, and target 2 from a non-secure channel is DENIED. -/
def Obligations.FirmwareStagedAndActivated : Prop :=
  ∀ (s : State) (c : Nat) (q : Req) (rest : List MbWord),
    let d := s.dev.takeRequest c rest
    (∀ (buffer old b : List Byte), s.dev.Asks c 0x0901 q rest →
      let off := q.f 1 0 32
      let t := q.f 1 33 2
      let n := q.f 2 0 32
      n ≤ d.bufferSize q.channel → t ≠ 3 → (t = 2 → q.secure = true) → off % 4096 = 0 → n ≠ 0 →
      (q.f 1 32 1 = 1 ∨ n % 4096 = 0) → (∀ e, (d.fwTarget t).staging = some e → e.1 = q.channel) →
      (off = 0 ∧ old = [] ∨ (d.fwTarget t).staging = some (q.channel, old) ∧ old.length = off) →
      off + n ≤ 2 ^ 24 → d.bufferBytes q buffer n = some b →
      (q.f 1 32 1 = 0 → exec (.fwStage c buffer) s = .next (s.answered q rest (fun d =>
          { d with firmware := upd d.firmware t fun f => { f with staging := some (q.channel, old ++ b) } }) (done [])))
      ∧ (q.f 1 32 1 = 1 → d.fwCheck t (old ++ b) = 0 →
          exec (.fwStage c buffer) s = .next (s.answered q rest (fun d =>
            { d with firmware := upd d.firmware t fun f =>
                { f with staging := none, staged := some (old ++ b) } }) (done [])))
      ∧ (q.f 1 32 1 = 1 → d.fwCheck t (old ++ b) ≠ 0 →
          exec (.fwStage c buffer) s = .next (s.answered q rest (fun d =>
            { d with firmware := upd d.firmware t fun f => { f with staging := none, staged := none } })
            (.now 0x0A 0 [word (d.fwCheck t (old ++ b)), 0]))))
    ∧ (∀ buffer : List Byte, s.dev.Asks c 0x0901 q rest →
        let off := q.f 1 0 32
        let t := q.f 1 33 2
        let n := q.f 2 0 32
        let size (b : List Byte) := decide (b.length = off)
        let mine := (d.fwTarget t).staging.any fun e => e.1 == q.channel && size e.2
        let uneven := n = 0 ∨ q.f 1 32 1 = 0 ∧ n % 4096 ≠ 0
        (d.bufferSize q.channel < n → exec (.fwStage c buffer) s = .next (s.answered q rest id (fail 3)))
        ∧ (n ≤ d.bufferSize q.channel → t ≠ 3 → (t = 2 → q.secure = true) →
            (off % 4096 ≠ 0 → exec (.fwStage c buffer) s = .next (s.answered q rest id (badField 1 0)))
            ∧ (off % 4096 = 0 → uneven → exec (.fwStage c buffer) s = .next (s.answered q rest id (badField 2 0)))
            ∧ (off % 4096 = 0 → ¬uneven → off ≠ 0 → mine = false →
                exec (.fwStage c buffer) s = .next (s.answered q rest id (badField 1 0)))
            ∧ (off = 0 → ¬uneven → (∃ e, (d.fwTarget t).staging = some e ∧ e.1 ≠ q.channel) →
                exec (.fwStage c buffer) s = .next (s.answered q rest id (fail 1)))
            ∧ (off % 4096 = 0 → ¬uneven → (off ≠ 0 → mine = true) →
                (∀ e, (d.fwTarget t).staging = some e → e.1 = q.channel) →
                (2 ^ 24 < off + n → exec (.fwStage c buffer) s = .next (s.answered q rest (fun d =>
                  { d with firmware := upd d.firmware t fun f => { f with staging := none, staged := none } })
                  (.now 0x0A 0 [word 0x0803, 0])))
                ∧ (off + n ≤ 2 ^ 24 → d.bufferBytes q buffer n = none →
                    exec (.fwStage c buffer) s = .next (s.answered q rest id (fail 9))))))
    ∧ (∀ buffer, s.dev.Asks c 0x0901 q rest → q.f 2 0 32 ≤ d.bufferSize q.channel → q.f 1 33 2 = 3 →
        exec (.fwStage c buffer) s = .next (s.answered q rest id (badField 1 33)))
    ∧ (∀ buffer, s.dev.Asks c 0x0901 q rest → q.f 2 0 32 ≤ d.bufferSize q.channel → q.f 1 33 2 = 2 →
        q.secure = false → exec (.fwStage c buffer) s = .next (s.answered q rest id (fail 5)))
    ∧ (s.dev.Asks c 0x0902 q rest →
        let t := q.f 1 0 2
        (t = 2 → q.secure = false → exec (.fwActivate c) s = .next (s.answered q rest id (fail 5)))
        ∧ (t = 3 → exec (.fwActivate c) s = .next (s.answered q rest id (badField 1 0)))
        ∧ (t ≠ 3 → (t = 2 → q.secure = true) → (d.fwBusy t q.channel = true ∨ (d.fwTarget t).storing ≠ none) →
            exec (.fwActivate c) s = .next (s.answered q rest id (fail 1)))
        ∧ (t ≠ 3 → (t = 2 → q.secure = true) → d.fwBusy t q.channel = false → (d.fwTarget t).storing = none →
            (d.fwTarget t).staged = none → exec (.fwActivate c) s = .next (s.answered q rest id (fail 7)))
        ∧ (∀ b, t ≠ 3 → (t = 2 → q.secure = true) → d.fwBusy t q.channel = false → (d.fwTarget t).storing = none →
            (d.fwTarget t).staged = some b →
            let gen := (((newestCopy (d.fwTarget t).copies).map (·.generation)).getD 0 + 1) % 2 ^ 48
            exec (.fwActivate c) s = .next (s.answered q rest (fun d =>
              ({ d with firmware := upd d.firmware t fun f =>
                  { f with copies := [some ⟨b, gen, false⟩, f.copies.getD 1 none], staged := none, storing := some 0 }
              } : Dev).await q (.firmware t)) .later)))
    ∧ (s.dev.Asks c 0x0903 q rest →
        exec (.fwInfo c) s = .next (s.answered q rest id (done (([0, 1, 2] : List Nat).flatMap fun t =>
          [word ((d.fwTarget t).revision % 2 ^ 24 + (((d.fwTarget t).staged.map fwRevision).getD 0) * 2 ^ 24),
           word (d.fwTarget t).version]))))

/-! ### Mailbox: lifecycle, alarms, counters, keys (R351–R353, R378, R379, R384, R385, R458, R459) -/

/-- LIFECYCLE_GET reports the state, the debug unlock and the entry times. LIFECYCLE_ADVANCE takes an allowed transition,
whose warm reset then runs, and out of ANISE draws a root into the first free bank, with its CRC, before the lifecycle fuses; a power
loss between the two leaves the root and the old state, one after them the new state without its record. A state that it cannot name and a
wrong device ID are BAD_FIELD, it is BUSY while a transition runs, STATE for one that is not allowed, and INTERNAL, with an event, where
the bank fails its CRC or none is left. SEC_POLICY_SET sets the
policy and answers the old one, SEC_ALARM_STATUS reports causes and count, and SEC_ALARM_CLEAR clears them and lets
SEC_ALARM_N go high. -/
def Obligations.LifecycleAndAlarms : Prop :=
  (∀ (s : State) (c : Nat) (q : Req) (rest : List MbWord),
     let d := s.dev.takeRequest c rest
     (s.dev.Asks c 0x0A01 q rest →
       exec (.lifecycleGet c) s = .next (s.answered q rest id (done
         [word (d.fuses.lifecycle.code + b2n d.debugUnlocked * 4 + d.debugScope * 8),
          word (d.enteredAt 1), word (d.enteredAt 2), word (d.enteredAt 3)])))
     ∧ (∀ e cut, s.dev.Asks c 0x0A02 q rest → q.f 1 0 2 = 0 →
         exec (.lifecycleAdvance c ⟨e, cut⟩) s = .next (s.answered q rest id (badField 1 0)))
     ∧ (∀ e cut, s.dev.Asks c 0x0A02 q rest → q.f 1 0 2 ≠ 0 → (q.w 2).toNat ≠ d.fuses.deviceId.toNat % 2 ^ 48 →
         exec (.lifecycleAdvance c ⟨e, cut⟩) s = .next (s.answered q rest id (badField 2 0)))
     ∧ (∀ e cut (next : Lifecycle), s.dev.Asks c 0x0A02 q rest → next.code = q.f 1 0 2 → next ≠ .anise →
         (q.w 2).toNat = d.fuses.deviceId.toNat % 2 ^ 48 → d.transitioning = false →
         ((next.code ≤ d.fuses.lifecycle.code ∨ next = .mace ∧ d.maceKeys = false) →
           exec (.lifecycleAdvance c ⟨e, cut⟩) s = .next (s.answered q rest id (fail 7)))
         ∧ (d.fuses.lifecycle.code < next.code → (next = .mace → d.maceKeys = true) →
             let fused (d : Dev) : Dev := { d with fuses := { d.fuses with lifecycle := next, rootKilled := next == .clove } }
             let goesOn (prepare : Dev → Dev) : Prop :=
               (cut = .never → exec (.lifecycleAdvance c ⟨e, cut⟩) s = .next (s.answered q rest
                 (fun d => ((fused (prepare d)).recordLifecycle next).beginTransition .boot) (done [])))
               ∧ (cut = .afterRoot → exec (.lifecycleAdvance c ⟨e, cut⟩) s = .next (s.answered q rest
                   (fun d => (prepare d).powerOff) .later))
               ∧ (cut = .afterLifecycle → exec (.lifecycleAdvance c ⟨e, cut⟩) s = .next (s.answered q rest
                   (fun d => (fused (prepare d)).powerOff) .later))
             ((d.fuses.lifecycle ≠ .anise ∨ next = .clove ∨ ∃ b ∈ d.fuses.rootBanks, b.any RootBank.good = true) → goesOn id)
             ∧ (d.fuses.lifecycle = .anise → next ≠ .clove →
                 (∀ b ∈ d.fuses.rootBanks, b.any RootBank.good = false) →
                 (∀ i, d.fuses.rootBanks.findIdx? Option.isNone = some i →
                   let root : BitVec 256 := Config.drbg (d.draws + 1) ++ Config.drbg d.draws
                   let bank : RootBank := ⟨root ^^^ e.setWidth 256,
                     BitVec.ofNat 32 (crc32c (leBytes 32 root.toNat)) ^^^ (e >>> 256).setWidth 32⟩
                   let burn (d : Dev) : Dev := { d with
                     draws := d.draws + 2
                     fuses := { d.fuses with rootBanks := upd d.fuses.rootBanks i fun _ => some bank } }
                   (bank.good = true → goesOn burn)
                   ∧ (bank.good = false → cut ≠ .afterRoot → exec (.lifecycleAdvance c ⟨e, cut⟩) s = .next (s.answered q rest
                       (fun d => (burn d).internalError.1) (fail 0xFF)))
                   ∧ (bank.good = false → cut = .afterRoot → exec (.lifecycleAdvance c ⟨e, cut⟩) s = .next (s.answered q rest
                       (fun d => (burn d).powerOff) .later)))
                 ∧ (d.fuses.rootBanks.findIdx? Option.isNone = none → cut ≠ .afterRoot →
                     exec (.lifecycleAdvance c ⟨e, cut⟩) s = .next (s.answered q rest
                       (fun d => d.internalError.1) (fail 0xFF)))
                 ∧ (d.fuses.rootBanks.findIdx? Option.isNone = none → cut = .afterRoot →
                     exec (.lifecycleAdvance c ⟨e, cut⟩) s = .next (s.answered q rest (fun d => d.powerOff) .later)))))
     ∧ (∀ e cut, s.dev.Asks c 0x0A02 q rest → q.f 1 0 2 ≠ 0 → (q.w 2).toNat = d.fuses.deviceId.toNat % 2 ^ 48 →
         d.transitioning = true → exec (.lifecycleAdvance c ⟨e, cut⟩) s = .next (s.answered q rest id (fail 1))))
  ∧ (∀ (s : State) (c : Nat) (q : Req) (rest : List MbWord),
       let d := s.dev.takeRequest c rest
       (s.dev.Asks c 0x0A03 q rest →
         (q.f 1 0 2 = 3 → exec (.secPolicySet c) s = .next (s.answered q rest id (badField 1 0)))
         ∧ (q.f 1 0 2 ≠ 3 → exec (.secPolicySet c) s = .next (s.answered q rest
             (fun d => { d with alarms := { d.alarms with policy := q.f 1 0 2 } }) (done [word d.alarms.policy]))))
       ∧ (s.dev.Asks c 0x0A04 q rest →
           exec (.secAlarmStatus c) s = .next (s.answered q rest id (done
             [word d.alarms.causes.toNat, word (min 0xFFFF d.alarms.count + d.alarms.lastRound.toNat * 2 ^ 16)])))
       ∧ (s.dev.Asks c 0x0A05 q rest →
           ∃ t, exec (.secAlarmClear c) s = .next t
             ∧ t = s.answered q rest
                 (fun d => { d with alarms := { d.alarms with causes := 0, count := 0, asserted := false } }) (done [])
             ∧ t.dev.pins.secAlarmLow = false))

/-- COUNTER_SNAPSHOT falls due at the next scheduled tick while the tick runs and is taken at once before; COUNTER_READ answers up to
15 counters of the package or of a slice, live or from the snapshot, and BAD_FIELD for 16, for a slice that is not there and for counters
beyond the page; BW_WINDOW_SET puts a new bandwidth window behind the one in progress, which it discards, and a window of 0 is BAD_FIELD. -/
def Obligations.CountersReported : Prop :=
  ∀ (s : State) (c : Nat) (q : Req) (rest : List MbWord),
    let d := s.dev.takeRequest c rest
    (s.dev.Asks c 0x0B01 q rest → d.clock.on = true →
      exec (.counterSnapshot c) s = .next (s.answered q rest
        (fun d => { d with counters := { d.counters with snapDue := true } })
        (done [word (d.clock.following.1 + d.clock.following.2 * 2 ^ 32)])))
    ∧ (s.dev.Asks c 0x0B01 q rest → d.clock.on = false →
        exec (.counterSnapshot c) s
          = .next (s.answered q rest (fun d => d.latchCounters 0 0) (done [word (2 ^ 42)])))
    ∧ (s.dev.Asks c 0x0B02 q rest →
        let i := q.f 1 0 4
        let first := q.f 1 4 8
        let n := q.f 1 12 4 + 1
        (n = 16 → exec (.counterRead c) s = .next (s.answered q rest id (badField 1 12)))
        ∧ (n ≠ 16 → i ≠ 15 → d.sliceCount ≤ i →
            exec (.counterRead c) s = .next (s.answered q rest id (badField 1 0)))
        ∧ (n ≠ 16 → (i = 15 ∧ 32 < first + n ∨ i < d.sliceCount ∧ 160 < first + n) →
            exec (.counterRead c) s = .next (s.answered q rest id (badField 1 4)))
        ∧ (n ≠ 16 → i = 15 → first + n ≤ 32 →
            let l := if q.f 1 16 1 = 1 then d.counters.snapshot else d.counters.package
            exec (.counterRead c) s
              = .next (s.answered q rest id (done ((rangeFrom first n).map fun k => l.getD k 0))))
        ∧ (n ≠ 16 → i < d.sliceCount → first + n ≤ 160 →
            let l := if q.f 1 16 1 = 1 then (d.slice i).snapshot else (d.slice i).counters
            exec (.counterRead c) s
              = .next (s.answered q rest id (done ((rangeFrom first n).map fun k => l.getD k 0)))))
    ∧ (s.dev.Asks c 0x0B03 q rest →
        (q.f 1 0 16 = 0 → exec (.bwWindowSet c) s = .next (s.answered q rest id (badField 1 0)))
        ∧ (q.f 1 0 16 ≠ 0 → exec (.bwWindowSet c) s = .next (s.answered q rest (fun d =>
            { d with counters :=
                { d.counters with windowNext := some (q.f 1 0 16), windowLast := d.clock.round.toNat } }) (done []))))

/-- PSTORE_READ and PSTORE_WRITE: an access that may be made joins the store and is answered when it is performed; one that its
channel may not make is DENIED, a range beyond the store and an unused byte that is set are BAD_FIELD, and a request without
exactly its data words is BAD_LENGTH. PSTORE_PROGRAM_DONE: a pass writes the page, a write that crosses a page goes on with its second one, and
the last page answers SUCCESS; a failure leaves the groups it addressed open and answers MEDIA_ERROR; while nothing is programmed nothing changes.
REPEAT_COUNT_WRITE writes the pending repeat count, or the recorder fails. MIRROR_SAVE saves the mirrors every 1,048,576 rounds,
once. The last two do nothing in a mode without the tick. -/
def Obligations.StoreAccessed : Prop :=
  (∀ (s : State) (c : Nat) (q : Req) (rest : List MbWord),
     let a := q.f 1 0 18
     let n := q.f 1 18 6 + 1
     (∀ g, s.dev.Asks c 0x0C01 q rest →
       (2 ^ 18 < a + n → exec (.pstoreRead c g) s = .next (s.answered q rest id (badField 1 0)))
       ∧ (a + n ≤ 2 ^ 18 → pstoreOpen false q.secure a n = false →
           exec (.pstoreRead c g) s = .next (s.answered q rest id (fail 5)))
       ∧ (a + n ≤ 2 ^ 18 → pstoreOpen false q.secure a n = true →
           exec (.pstoreRead c g) s = .next (s.answered q rest (fun d =>
             d.addAccess ⟨a, [], false, some c, q.tag, q.opcode, n, true, (groupsOf a n).filter g.contains, none⟩) .later)))
     ∧ (s.dev.Asks c 0x0C02 q rest → q.words.length ≠ 2 + ceilDiv n 6 →
         exec (.pstoreWrite c) s = .next (s.answered q rest id (fail 3)))
     ∧ (s.dev.Asks c 0x0C02 q rest → q.words.length = 2 + ceilDiv n 6 →
         (2 ^ 18 < a + n → exec (.pstoreWrite c) s = .next (s.answered q rest id (badField 1 0)))
         ∧ (∀ e, a + n ≤ 2 ^ 18 → unusedSet q n = some e →
             exec (.pstoreWrite c) s = .next (s.answered q rest id (badField e.1 e.2)))
         ∧ (a + n ≤ 2 ^ 18 → unusedSet q n = none → pstoreOpen true q.secure a n = false →
             exec (.pstoreWrite c) s = .next (s.answered q rest id (fail 5)))
         ∧ (a + n ≤ 2 ^ 18 → unusedSet q n = none → pstoreOpen true q.secure a n = true →
             exec (.pstoreWrite c) s = .next (s.answered q rest (fun d =>
               d.addAccess ⟨a, (bytesOfWords (q.words.drop 2)).take n, false, some c, q.tag, q.opcode, n, false, [], none⟩)
               .later))))
  ∧ (∀ s : State,
       (∀ (a : PAccess) (rest : List PAccess), s.dev.pstore.queue = a :: rest → a.isRead = false →
         let (at_, b) := a.page
         let p := s.dev.pstore.write at_ b
         (a.secondPage ≠ [] → a.page2 = false → exec (.pstoreProgramDone true) s
             = .next (s.after { s.dev with pstore := { p with queue := { a with page2 := true } :: rest } }))
         ∧ ((a.secondPage = [] ∨ a.page2 = true) → exec (.pstoreProgramDone true) s = .next (s.after
             (((({ s.dev with pstore := { p with queue := rest } } : Dev).countPkg 16 1).answerAccess a 0 []).serveStore
               (rest.length + 1))))
         ∧ exec (.pstoreProgramDone false) s = .next (s.after
             (((((groupsOf at_ b.length).foldl Dev.openGroup
               { s.dev with pstore := { s.dev.pstore with queue := rest } }).countPkg 16 1).answerAccess a 8 []).serveStore
                 (rest.length + 1))))
       ∧ (∀ pass, (∀ a, s.dev.pstore.queue.head? = some a → a.isRead = true) →
           exec (.pstoreProgramDone pass) s = .next (s.after s.dev))
       ∧ (s.dev.mode.ticks = false → ∀ good,
           exec (.repeatCountWrite good) s = .next (s.after s.dev) ∧ exec .mirrorSave s = .next (s.after s.dev))
       ∧ (s.dev.mode.ticks = true → (s.dev.recorder.repeatDirty = false ∨ s.dev.recorder.failed = true) →
           exec (.repeatCountWrite false) s = .next (s.after s.dev.storeRepeats))
       ∧ (s.dev.mode.ticks = true → exec (.repeatCountWrite true) s = .next (s.after s.dev.storeRepeats))
       ∧ (s.dev.mode.ticks = true → s.dev.recorder.repeatDirty = true → s.dev.recorder.failed = false →
           exec (.repeatCountWrite false) s = .next (s.after
             ((({ s.dev with recorder := { s.dev.recorder with repeatDirty := false } } : Dev).openGroup
               (0x2002 + s.dev.mirror.newestOffset)).countPkg 16 1).failRecorder))
       ∧ (s.dev.mode.ticks = true → s.dev.mirror.lifeClock ≠ 0 → s.dev.mirror.lifeClock % 1048576 = 0 →
           s.dev.mirrorCurrent = false → exec .mirrorSave s = .next (s.after (s.dev.saveMirrors false)))
       ∧ ((s.dev.mirror.lifeClock = 0 ∨ s.dev.mirror.lifeClock % 1048576 ≠ 0 ∨ s.dev.mirrorCurrent = true) →
           exec .mirrorSave s = .next (s.after s.dev)))

/-! ### Mailbox: requests, refusals and answers (R402–R407, R425–R429) -/

/-- Every command of the summary is refused in the order of R429, and a refused request has no effect but its answer: first
parity poison, then a wrong length, then the wrong channel kind; then, for a command without a check of its own, whatever
R429 finds next. -/
def Obligations.RefusalsHaveNoEffect : Prop :=
  ∀ (i : Instr) (s : State) (c op : Nat) (q : Req) (rest : List MbWord) (bad : Bool) (r : CmdSpec),
    mailboxRow i = some (c, op) → c < 16 → s.dev.serving c = true → (s.dev.chan c).resync = false →
    (s.dev.chan c).front c = some (q, rest, bad) → q.opcode = op → cmdSpec op = some r →
    let d := s.dev.takeRequest c rest
    let n := q.words.length - 1
    (bad = true → exec i s = .next (s.answered q rest id (fail 9)))
    ∧ (bad = false → (n < r.2.2.2.1 ∨ r.2.2.2.2.1 < n) → exec i s = .next (s.answered q rest id (fail 3)))
    ∧ (bad = false → r.2.2.2.1 ≤ n → n ≤ r.2.2.2.2.1 → r.2.1 = true → q.secure = false →
        exec i s = .next (s.answered q rest id (fail 5)))
    ∧ (∀ y, d.refusal q bad r none = some y → op ∉ ownChecks → exec i s = .next (s.answered q rest id y))
    ∧ (∀ y, d.refusal q bad r none = some y →
        ∃ st ws, st ≠ 0 ∧ exec i s = .next (s.answered q rest id (.now st 0 ws)))

/-- A request waits while an earlier one of its channel is unanswered, while the firmware does not run, while the parameter store that it
needs programs a page, and while another
request stands in front: the command then changes nothing. After a discarded write the channel is resynchronized. This
holds of every command of the summary; UNDEFINED_OPCODE waits alike, and does nothing when a command answers the opcode in front. -/
def Obligations.RequestsWait : Prop :=
  (∀ (i : Instr) (s : State) (c op : Nat), mailboxRow i = some (c, op) → c < 16 →
    (s.dev.serving c = false → exec i s = .next (s.after s.dev))
    ∧ (s.dev.serving c = true → (s.dev.chan c).resync = true → exec i s = .next (s.after (s.dev.resync c)))
    ∧ (s.dev.serving c = true → (s.dev.chan c).resync = false → (s.dev.chan c).front c = none →
        exec i s = .next (s.after s.dev))
    ∧ (∀ q rest bad, s.dev.serving c = true → (s.dev.chan c).resync = false →
        (s.dev.chan c).front c = some (q, rest, bad) → q.opcode ≠ op → exec i s = .next (s.after s.dev)))
  ∧ (∀ (d : Dev) (c : Nat) (q : Req) (rest : List MbWord) (bad : Bool), d.pstore.writing ≠ none →
      (d.chan c).front c = some (q, rest, bad) → q.opcode ∈ storeOpcodes → d.serving c = false)
  ∧ ∀ (s : State) (c : Nat), c < 16 →
    (s.dev.serving c = false → exec (.undefinedOpcode c) s = .next (s.after s.dev))
    ∧ (s.dev.serving c = true → (s.dev.chan c).resync = true →
        exec (.undefinedOpcode c) s = .next (s.after (s.dev.resync c)))
    ∧ (s.dev.serving c = true → (s.dev.chan c).resync = false →
        ((s.dev.chan c).front c = none ∨ ∃ q rest bad, (s.dev.chan c).front c = some (q, rest, bad) ∧ cmdSpec q.opcode ≠ none) →
        exec (.undefinedOpcode c) s = .next (s.after s.dev))

/-- UNDEFINED_OPCODE: a notification code, 0x80 to 0xFF in the low byte, is the opcode of no command, and a request with the opcode of no
command is answered with BAD_OPCODE (with INTEGRITY when one of its words failed its parity) and has no other effect. -/
def Obligations.UndefinedOpcodesRefused : Prop :=
  (∀ op : Nat, 0x80 ≤ op % 256 → cmdSpec op = none)
  ∧ ∀ (s : State) (c : Nat) (q : Req) (rest : List MbWord) (bad : Bool), c < 16 → s.dev.serving c = true →
      (s.dev.chan c).resync = false → (s.dev.chan c).front c = some (q, rest, bad) → cmdSpec q.opcode = none →
      exec (.undefinedOpcode c) s = .next (s.answered q rest id (fail (if bad then 9 else 2)))

/-- MAILBOX_TIMEOUT empties the inbound FIFO of an incomplete message and answers TIMEOUT under its header, resynchronizes a
channel with a discarded write, and does nothing where the front message is whole or none, or the firmware does not serve the channel
(it does not run, or an earlier request of the channel is unanswered);
IMAGE_STAGING_TIMEOUT frees the staging, and does nothing where the firmware does not run. -/
def Obligations.TimeoutsAnswered : Prop :=
  (∀ (s : State) (c : Nat) (h : MbWord) (l : List MbWord), c < 16 → s.dev.serving c = true →
    (s.dev.chan c).resync = false → (s.dev.chan c).inb = h :: l → (s.dev.chan c).front c = none →
    exec (.mailboxTimeout c) s = .next (s.after
      (((((s.dev.onChan c fun ch => { ch with inb := [], inbLeft := 0 }).causeInEmpty c).countPkg 4 1).respond c
        (wbits h.word 32 16) (wbits h.word 12 16) 0 0x0C []))))
  ∧ (∀ (s : State) (c : Nat), c < 16 →
      (s.dev.serving c = false → exec (.mailboxTimeout c) s = .next (s.after s.dev))
      ∧ (s.dev.serving c = true → (s.dev.chan c).resync = true →
          exec (.mailboxTimeout c) s = .next (s.after (s.dev.resync c)))
      ∧ (s.dev.serving c = true → (s.dev.chan c).resync = false →
          ((s.dev.chan c).inb = [] ∨ ∃ e, (s.dev.chan c).front c = some e) →
          exec (.mailboxTimeout c) s = .next (s.after s.dev)))
  ∧ (∀ s : State, s.dev.mode.ticks = false → exec .imageStagingTimeout s = .next (s.after s.dev))
  ∧ (∀ s : State, s.dev.mode.ticks = true →
      exec .imageStagingTimeout s
        = .next (s.after { s.dev with images := { s.dev.images with staging := none } }))

/-- Taking a request leaves the words after it, counts it, raises in_empty when none is left, and changes no other channel and
nothing else. An answer with room goes whole into the outbound FIFO behind what stands there, under a header that repeats
the opcode and the tag and carries the length, the flags and the status; out_ready is raised, and no other channel and
nothing else changes. -/
def Obligations.RequestTakenAndAnswered : Prop :=
  (∀ (d : Dev) (c : Nat) (rest : List MbWord), c < d.chans.length →
     let t := d.takeRequest c rest
     (t.chan c).inb = rest ∧ (rest = [] → (t.chan c).inEmpty = true) ∧ (t.chan c).outb = (d.chan c).outb
     ∧ (∀ e, e ≠ c → t.chan e = d.chan e)
     ∧ { t with chans := d.chans, counters := d.counters, out := d.out } = d)
  ∧ ((∀ (d : Dev) (q : Req) (status flags : Nat) (ws : List Word), q.channel < d.chans.length →
       (d.chan q.channel).waiting = [] → (d.chan q.channel).notices = [] →
       (d.chan q.channel).outb.length + 1 + ws.length ≤ 16 →
       let t := d.answer q (.now status flags ws)
       (t.chan q.channel).outb = (d.chan q.channel).outb ++ marked (replyHeader q.opcode ws.length q.tag flags status :: ws)
       ∧ (t.chan q.channel).outReady = true ∧ (t.chan q.channel).inb = (d.chan q.channel).inb
       ∧ (∀ e, e ≠ q.channel → t.chan e = d.chan e)
       ∧ { t with chans := d.chans, counters := d.counters, out := d.out } = d)
     ∧ ∀ op len tag flags status : Nat, op < 2 ^ 16 → len < 2 ^ 4 → tag < 2 ^ 16 → flags < 2 ^ 4 → status < 2 ^ 8 →
         let h := replyHeader op len tag flags status
         wbits h 32 16 = op ∧ wbits h 28 4 = len ∧ wbits h 12 16 = tag ∧ wbits h 8 4 = flags ∧ wbits h 0 8 = status)

/-! ### The boot port (R323–R327) -/

/-- The boot port: in the protocol that a read belongs to, with BOOT_READY high, it returns image data from its address on, 0xFF at and above
the image length and without wrap, or its table (whose bytes are not stated here), or its status byte, whose bit 1 is Write Enable; nothing else changes but
that Write Enable and an armed reset end with it. WRITE_ENABLE sets Write Enable; WRITE_VOLATILE_CONFIG after it, at
address 0, switches the protocol; RESET_ENABLE arms a reset, RESET right after it returns the port to 1S-1S-1S, and another
RESET only ends Write Enable. -/
def Obligations.BootPortServes : Prop :=
  (∀ s : State, s.dev.bootReady = true →
     let ended := { s.dev with boot := { s.dev.boot with writeEnabled := false, resetArmed := false } }
     let status (n : Nat) : List Byte := List.replicate n (if s.dev.boot.writeEnabled then 2 else 0)
     let image (a n : Nat) : List Byte := (List.range n).map fun k => s.dev.boot.image.getD (a + k) 0xFF
     (s.dev.boot.proto = .single → ∀ (a : BitVec 24) (n : Nat),
       exec (.read a n) s = .next (s.after (ended.emit (.xspi (image a.toNat n))))
       ∧ exec (.fastRead a n) s = .next (s.after (ended.emit (.xspi (image a.toNat n))))
       ∧ exec (.readSfdp a n) s
           = .next (s.after (ended.emit (.xspi ((List.range n).map fun k => sfdpByte (a.toNat + k)))))
       ∧ exec (.readStatus n) s = .next (s.after (ended.emit (.xspi (status n)))))
     ∧ (s.dev.boot.proto = .octal → ∀ (a : BitVec 32) (n : Nat),
       exec (.octalRead a n) s = .next (s.after (ended.emit (.xspi (image a.toNat n))))
       ∧ exec (.octalReadStatus n) s = .next (s.after (ended.emit (.xspi (status n))))))
  ∧ (∀ s : State, s.dev.bootReady = true →
       let b := s.dev.boot
       exec .writeEnable s
         = .next (s.after { s.dev with boot := { b with writeEnabled := true, resetArmed := false } })
       ∧ (b.writeEnabled = true →
           exec (.writeVolatileConfig 0 0xE7) s = .next (s.after
             { s.dev with boot := { b with proto := .octal, writeEnabled := false, resetArmed := false } })
           ∧ exec (.writeVolatileConfig 0 0xFF) s = .next (s.after
             { s.dev with boot := { b with proto := .single, writeEnabled := false, resetArmed := false } }))
       ∧ exec .resetEnable s
           = .next (s.after { s.dev with boot := { b with resetArmed := true, writeEnabled := false } })
       ∧ (b.resetArmed = true → exec .reset s = .next (s.after
           { s.dev with boot := { b with proto := .single, resetArmed := false, writeEnabled := false } }))
       ∧ (b.resetArmed = false →
           exec .reset s = .next (s.after { s.dev with boot := { b with writeEnabled := false, resetArmed := false } })))

/-- A boot-port command floats the data lines and changes no state: an ignored opcode always, every command while BOOT_READY
is low, a read of the other protocol, and a configuration write without Write Enable, at another address or of another
value. -/
def Obligations.BootPortIgnores : Prop :=
  ∀ s : State,
    let floated := s.after (s.dev.emit .xspiFloat)
    (∀ op, exec (.xspiIgnoredCommand op) s = .next floated)
    ∧ (s.dev.bootReady = false → ∀ (a : BitVec 24) (b : BitVec 32) (v : Byte) (n : Nat),
        exec (.read a n) s = .next floated ∧ exec (.fastRead a n) s = .next floated
        ∧ exec (.readSfdp a n) s = .next floated ∧ exec (.readStatus n) s = .next floated
        ∧ exec (.octalRead b n) s = .next floated ∧ exec (.octalReadStatus n) s = .next floated
        ∧ exec .writeEnable s = .next floated ∧ exec (.writeVolatileConfig b v) s = .next floated
        ∧ exec .resetEnable s = .next floated ∧ exec .reset s = .next floated)
    ∧ (s.dev.boot.proto = .octal → ∀ (a : BitVec 24) (n : Nat),
        exec (.read a n) s = .next floated ∧ exec (.fastRead a n) s = .next floated
        ∧ exec (.readSfdp a n) s = .next floated ∧ exec (.readStatus n) s = .next floated)
    ∧ (s.dev.boot.proto = .single → ∀ (a : BitVec 32) (n : Nat),
        exec (.octalRead a n) s = .next floated ∧ exec (.octalReadStatus n) s = .next floated)
    ∧ (∀ (a : BitVec 32) (v : Byte), (s.dev.boot.writeEnabled = false ∨ a ≠ 0 ∨ v ≠ 0xE7 ∧ v ≠ 0xFF) →
        exec (.writeVolatileConfig a v) s = .next floated)

/-! ### The secure sideband (R409–R413) -/

/-- The sideband: where the firmware's domain is on, SETDASA gives the target of a static address 0x30 to 0x38 its address, and ENTDAA one
of the 9; a channel target places whole words in the inbound FIFO and returns the whole message at the outbound front, with out_poison
where a word fails its parity; a transfer that no target takes is not acknowledged, and neither is one of the control target while a
register access of it waits. The control target: REG_WRITE writes a register as the secure sideband, REG_ADDR and BUF_ADDR set the two read
pointers (the first two wait while the parameter store programs, which is the model's choice: a log entry), BUF_WRITE writes the buffer window in place and up to its end, DROP drops the message at the outbound front of a secure channel,
and a read reads from the pointer set last. An offset that is not aligned, or beyond BAR2, is reported. -/
def Obligations.SidebandTransfers : Prop :=
  (∀ s : State,
     (∀ (k : Nat) (how : I3cAssign) (a : BitVec 7), s.dev.mode.ticks = true → k < 9 →
       (how = .setdasa (BitVec.ofNat 7 (0x30 + k)) ∨ how = .entdaa k) →
       exec (.i3cAddressAssign how a) s = .next (s.after { s.dev with i3c :=
         { s.dev.i3c with addresses := upd s.dev.i3c.addresses k fun _ => some a } }))
     ∧ (∀ (x : BitVec 7) (k : Nat) (how : I3cAssign) (a : BitVec 7), s.dev.mode.ticks = true →
         (how = .setdasa x ∧ (x.toNat < 0x30 ∨ 0x38 < x.toNat) ∨ how = .entdaa k ∧ 9 ≤ k) →
         exec (.i3cAddressAssign how a) s = .next (s.after (s.dev.emit .i3cNack)))
     ∧ (∀ (how : I3cAssign) (a : BitVec 7), s.dev.mode.ticks = false →
         exec (.i3cAddressAssign how a) s = .next (s.after s.dev))
     ∧ (∀ (c : Nat) (w : Word) (bad : List Nat), 8 ≤ c → c < 16 → s.dev.targetUp (c - 7) = true →
         s.dev.inboundFull c = false → exec (.i3cChannelWrite c ⟨leBytes 6 w.toNat, bad⟩) s
           = .next (s.after (s.dev.appendInbound c w (decide (0 ∈ bad)))))
     ∧ (∀ (c : Nat) (b : List Byte) (bad : List Nat), 8 ≤ c → c < 16 → s.dev.targetUp (c - 7) = true →
         s.dev.inboundFull c = false →
         exec (.i3cChannelWrite c ⟨b, bad⟩) s = .next (s.after (s.dev.takeWords c bad (b.length + 1) 0 b)))
     ∧ (∀ (c : Nat) (b : List Byte) (bad : List Nat), 8 ≤ c → c < 16 → s.dev.targetUp (c - 7) = true →
         s.dev.inboundFull c = true → exec (.i3cChannelWrite c ⟨b, bad⟩) s = .next (s.after (s.dev.emit .i3cNack)))
     ∧ (∀ (c : Nat) (b : List Byte) (bad : List Nat), c < 16 → (c < 8 ∨ s.dev.targetUp (c - 7) = false) →
         exec (.i3cChannelWrite c ⟨b, bad⟩) s = .next (s.after (s.dev.emit .i3cNack)))
     ∧ ((s.dev.targetUp 0 = false ∨ ∃ a ∈ s.dev.pstore.queue, a.register ≠ none) →
         ∀ (off : BitVec 32) (v : Word) (at_ : BitVec 16) (b : List Byte) (c : Byte) (n : Nat) (bad : Bool) (bads : List Nat),
         let unheard := s.after (s.dev.emit .i3cNack)
         exec (.regWrite off ⟨v, bad⟩) s = .next unheard ∧ exec (.regAddr off) s = .next unheard
         ∧ exec (.bufWrite at_ b) s = .next unheard ∧ exec (.bufAddr at_) s = .next unheard
         ∧ exec (.drop c) s = .next unheard ∧ exec (.i3cControlRead ⟨n, bads⟩) s = .next unheard)
     ∧ (∀ (c : Nat) (bad : List Nat), 8 ≤ c → c < 16 → s.dev.targetUp (c - 7) = true → (s.dev.chan c).outMsg = true →
         let ws := frontMessage (s.dev.chan c).outb
         let poison := ws.any (fun w => w.bad) || bad.any (fun k => decide (k < ws.length))
         exec (.i3cChannelRead ⟨c, bad⟩) s = .next (s.after
           (((s.dev.onChan c fun x => { x with outPoison := x.outPoison || poison }).emit
             (.i3cData (bytesOfWords (ws.map (·.word))))).dropOut c)))
     ∧ (∀ (c : Nat) (bad : List Nat), c < 16 →
         (c < 8 ∨ s.dev.targetUp (c - 7) = false ∨ (s.dev.chan c).outMsg = false) →
         exec (.i3cChannelRead ⟨c, bad⟩) s = .next (s.after (s.dev.emit .i3cNack))))
  ∧ (∀ s : State, s.dev.targetUp 0 = true → (∀ a ∈ s.dev.pstore.queue, a.register = none) →
       (∀ (off : BitVec 32) (v : Word) (bad : Bool), off.toNat % 8 = 0 → off.toNat < 0x4000000 →
         let waits (v : Option Word) (bad : Bool) : State := s.after { s.dev with pstore := { s.dev.pstore with
           queue := s.dev.pstore.queue ++ [⟨0, [], false, none, 0, 0, 0, true, [], some ⟨off.toNat, v, bad⟩⟩] } }
         (s.dev.pstore.queue = [] →
           exec (.regWrite off ⟨v, bad⟩) s
             = .next (s.after (s.dev.writeSlot .secure 0 s.dev.regs.selSecure off.toNat (v.setWidth 64) bad))
           ∧ exec (.regAddr off) s = .next (s.after
               { s.dev with i3c := { s.dev.i3c with regPointer := off.toNat, readsBuffer := false } }))
         ∧ (s.dev.pstore.queue ≠ [] →
             exec (.regWrite off ⟨v, bad⟩) s = .next (waits (some v) bad) ∧ exec (.regAddr off) s = .next (waits none false)))
       ∧ (∀ (off : BitVec 32) (v : Word) (bad : Bool), (off.toNat % 8 ≠ 0 ∨ 0x4000000 ≤ off.toNat) →
           exec (.regWrite off ⟨v, bad⟩) s = .next (s.after (s.dev.report .secure 0 off.toNat 2))
           ∧ exec (.regAddr off) s = .next (s.after (s.dev.report .secure 0 off.toNat 2)))
       ∧ (∀ (off : BitVec 16) (b : List Byte), Memory.wf s.dev.i3c.window = true →
           ∃ t, exec (.bufWrite off b) s = .next t
             ∧ t = s.after { s.dev with i3c := { s.dev.i3c with window := t.dev.i3c.window } }
             ∧ (∀ a, memByte t.dev.i3c.window a
                 = if off.toNat ≤ a ∧ a < off.toNat + b.length ∧ a < 4096 then b.getD (a - off.toNat) 0
                   else memByte s.dev.i3c.window a))
       ∧ (∀ off : BitVec 16, exec (.bufAddr off) s = .next (s.after
           { s.dev with i3c := { s.dev.i3c with bufPointer := off.toNat, readsBuffer := true } }))
       ∧ (∀ c : Byte, (8 ≤ c.toNat ∧ c.toNat ≤ 15 → exec (.drop c) s = .next (s.after (s.dev.dropOut c.toNat)))
           ∧ (¬(8 ≤ c.toNat ∧ c.toNat ≤ 15) → exec (.drop c) s = .next (s.after s.dev)))
       ∧ (∀ (n : Nat) (bad : List Nat), s.dev.i3c.readsBuffer = true →
           exec (.i3cControlRead ⟨n, bad⟩) s = .next (s.after (s.dev.emit (.i3cData ((List.range n).map fun k =>
             if s.dev.i3c.bufPointer + k < 4096 then memByte s.dev.i3c.window (s.dev.i3c.bufPointer + k) else 0)))))
       ∧ (∀ (n : Nat) (bad : List Nat), s.dev.i3c.readsBuffer = false →
           exec (.i3cControlRead ⟨n, bad⟩) s = .next (s.after
             (let r := s.dev.readSlots bad (ceilDiv n 6) 0 s.dev.i3c.regPointer
              r.2.emit (.i3cData (r.1.take n))))))

/-! ### JTAG and debug (R376, R380–R383, R386, R560) -/

/-- The JTAG instructions that only answer, in every mode but OFF, and the boundary scan in its scope (bit 0 of the granted
scope: B): BYPASS shifts one bit, IDCODE the part, UNLOCK_STATUS the debug state, FAULT the latch; what the boundary register
captures is open. In OFF every JTAG instruction does nothing. -/
def Obligations.JtagAnswers : Prop :=
  (∀ s : State, s.dev.mode = .off → ∀ (code : Byte) (scan : List Bool) (b : List Byte) (w : Bool) (x : DapTarget) (v : BitVec 64),
    exec (.bypass code) s = .next (s.after s.dev) ∧ exec .idcode s = .next (s.after s.dev)
    ∧ exec .unlockStatus s = .next (s.after s.dev) ∧ exec .fault s = .next (s.after s.dev)
    ∧ exec (.samplePreload scan) s = .next (s.after s.dev) ∧ exec (.extest scan) s = .next (s.after s.dev)
    ∧ exec .challenge s = .next (s.after s.dev) ∧ exec (.token b) s = .next (s.after s.dev)
    ∧ exec (.dapAccess w x v) s = .next (s.after s.dev))
  ∧ ∀ s : State, s.dev.mode ≠ .off →
    let on (code : Nat) : Dev := { s.dev with dbg := { s.dev.dbg with selected := BitVec.ofNat 8 code } }
    (∀ code : Byte, exec (.bypass code) s = .next (s.after ((on code.toNat).emit (.jtag 1 0))))
    ∧ exec .idcode s = .next (s.after ((on 0x02).emit
        (.jtag 32 (1 + 0x4E5 * 2 + s.dev.part.number * 2 ^ 12 + s.dev.fuses.stepping.toNat % 16 * 2 ^ 28))))
    ∧ exec .unlockStatus s = .next (s.after ((on 0x12).emit
        (.jtag 16 (s.dev.debugScope + b2n s.dev.debugUnlocked * 2 ^ 8 + min 8 s.dev.dbg.failures * 2 ^ 9))))
    ∧ exec .fault s = .next (s.after ((on 0x13).emit (.jtag 16 s.dev.seq.latch.toNat)))
    ∧ (∀ scan : List Bool, s.dev.mode.ticks = true → bitAt s.dev.debugScope 0 = true →
        (∃ v, v < 2 ^ scan.length ∧ exec (.samplePreload scan) s = .next (s.after
          (({ on 0x01 with dbg := { (on 0x01).dbg with boundary := scan }
                           draws := s.dev.draws + 1 } : Dev).emit (.jtag scan.length v))))
        ∧ (s.dev.mode = .test → ∃ v, v < 2 ^ scan.length ∧ exec (.extest scan) s = .next (s.after
            (({ on 0x00 with dbg := { (on 0x00).dbg with boundary := scan }
                             draws := s.dev.draws + 1 } : Dev).emit (.jtag scan.length v)))))
    ∧ (∀ scan : List Bool, (s.dev.mode.ticks = false ∨ bitAt s.dev.debugScope 0 = false) →
        exec (.samplePreload scan) s = .next (s.after ((on 0x01).emit (.jtag 1 0))))
    ∧ (∀ scan : List Bool, (s.dev.mode ≠ .test ∨ bitAt s.dev.debugScope 0 = false) →
        exec (.extest scan) s = .next (s.after ((on 0x00).emit (.jtag 1 0))))

/-- CHALLENGE puts out a fresh nonce between the device ID and the lifecycle state; a good TOKEN unlocks the port with the
scope it grants; in MACE with a title open it first closes every title, and the port stays locked until that has ended
(FLUSH_COMPLETE of the last one unlocks it: Obligations.FlushesAndStreams). A bad token is counted and recorded, and the eighth is
an alarm. An answered token ends its nonce. A token that is not needed, comes after eight failures, or comes where the
control domain is off, only ends the nonce. -/
def Obligations.DebugUnlocked : Prop :=
  ∀ s : State, s.dev.mode ≠ .off →
    (∃ n : BitVec 128, exec .challenge s = .next (s.after (({ s.dev with
        dbg := { s.dev.dbg with selected := 0x10, nonce := some n }, draws := s.dev.draws + 1 } : Dev).emit
        (.jtag 256 (s.dev.fuses.deviceId.toNat + n.toNat * 2 ^ 64 + s.dev.fuses.lifecycle.code * 2 ^ 192)))))
    ∧ (∀ b : List Byte, s.dev.mode.ticks = true → s.dev.debugOpen = false → s.dev.dbg.failures < 8 →
        let d := s.dev.onDebug fun g => { g with selected := 0x11, nonce := none }
        (s.dev.tokenOk b = true →
          let scope : BitVec 8 := BitVec.ofNat 8 (s.dev.grantedScope b)
          ((s.dev.fuses.lifecycle ≠ .mace ∨ s.dev.titles.any (·.state == .opened) = false) →
            exec (.token b) s = .next (s.after
              ((d.onDebug fun g => { g with unlocked := true, scope := scope }).countPkg 10 1)))
          ∧ (s.dev.fuses.lifecycle = .mace → s.dev.titles.any (·.state == .opened) = true →
            exec (.token b) s = .next (s.after ((List.range 32).foldl
              (fun d t => if (d.title t).state = .opened then
                  (d.closeFlush t).2.onDebug fun g => { g with closing := g.closing ++ [((d.closeFlush t).1, t)] }
                else d)
              (d.onDebug fun g => { g with granted := some scope, closing := [] })))))
        ∧ (s.dev.tokenOk b = false →
            ∃ t, exec (.token b) s = .next t ∧ t = s.after d.tokenFailed
              ∧ t.dev.dbg.failures = s.dev.dbg.failures + 1 ∧ t.dev.dbg.nonce = none
              ∧ t.dev.dbg.unlocked = s.dev.dbg.unlocked ∧ t.dev.dbg.scope = s.dev.dbg.scope))
    ∧ (∀ b : List Byte, (8 ≤ s.dev.dbg.failures ∨ s.dev.debugOpen = true ∨ s.dev.mode.ticks = false) →
        exec (.token b) s = .next (s.after (s.dev.onDebug fun g => { g with selected := 0x11, nonce := none })))

/-- DAP_ACCESS runs within its scope: a register as debug writes and reads it, DPA space but no protected line, whose access
reads zeros, is counted and is an alarm; the control processor's working memory, where what is written while the processor is halted is
read back; processor control, and the entry to TEST. Local DRAM but that memory, the fuses and the key registers are always excluded, the
security core outside ANISE: the access reads zeros and is counted. Outside the granted scope it reads zeros and reaches nothing, and without a scope the port is bypassed. -/
def Obligations.DebugAccess : Prop :=
  ∀ (s : State) (w : Bool) (v : BitVec 64), s.dev.mode ≠ .off →
    let d := s.dev.onDebug fun g => { g with selected := 0x20 }
    (∀ target, (s.dev.mode.ticks = false ∨ s.dev.debugScope = 0) →
      exec (.dapAccess w target v) s = .next (s.after (d.emit (.jtag 1 0))))
    ∧ (s.dev.mode.ticks = true → s.dev.debugScope ≠ 0 →
        (∀ a, bitAt s.dev.debugScope 1 = true →
          exec (.dapAccess w (.register a) v) s = .next (s.after (d.debugRegister w a v)))
        ∧ (∀ a, bitAt s.dev.debugScope (if w then 3 else 2) = true →
            exec (.dapAccess w (.dpa a) v) s = .next (s.after (d.debugDpa w a v))
            ∧ (a / 8 * 8 < d.capacity →
                (d.lineProtected (d.active.classify 0 (a / 8 * 8)) (a / 8 * 8) = true
                  ∨ (d.slice (d.sliceOf (a / 8 * 8))).lineMarked
                      (lineOf (d.frameOf (a / 8 * 8)) (subOf (a / 8 * 8))) = true) →
                exec (.dapAccess w (.dpa a) v) s
                  = .next (s.after (((d.countPkg 9 1).emit (.dap 0)).alarm 3 none 0)))
            ∧ exec (.dapAccess w (.workingMemory a) v) s = .next (s.after (d.debugWorking w a v))
            ∧ (a < 2 ^ 27 → exec (.dapAccess w (.sliceDram 0 (workingBase s.dev.fuses.dram4 + a)) v) s
                = .next (s.after (d.debugWorking w a v))))
        ∧ (∀ a, a < 2 ^ 27 → s.dev.dbg.halted = true → bitAt s.dev.debugScope 2 = true → bitAt s.dev.debugScope 3 = true →
            ∃ t, exec (.dapAccess true (.workingMemory a) v) s = .next t
              ∧ exec (.dapAccess false (.workingMemory a) 0) t
                = .next (t.after (({ t.dev with draws := t.dev.draws + 1 } : Dev).emit (.dap v))))
        ∧ (∀ a, bitAt s.dev.debugScope (if w then 3 else 2) = false →
            exec (.dapAccess w (.dpa a) v) s = .next (s.after (d.emit (.dap 0)))
            ∧ exec (.dapAccess w (.workingMemory a) v) s = .next (s.after (d.emit (.dap 0))))
        ∧ (∀ a, bitAt s.dev.debugScope 1 = false →
            exec (.dapAccess w (.register a) v) s = .next (s.after (d.emit (.dap 0))))
        ∧ (∀ n, (bitAt s.dev.debugScope 4 = false ∨ 3 ≤ n) →
            exec (.dapAccess w (.processor n) v) s = .next (s.after (d.emit (.dap 0))))
        ∧ ((bitAt s.dev.debugScope 5 = false ∨ s.dev.mode.isService = false ∧ s.dev.mode ≠ .recovery
              ∨ s.dev.transitioning = true) →
            exec (.dapAccess w .testEnter v) s = .next (s.after (d.emit (.dap 0))))
        ∧ (∀ a, s.dev.fuses.lifecycle = .anise →
            exec (.dapAccess w (.securityCore a) v) s = .next (s.after (d.debugOpaque w)))
        ∧ (∀ i a, (i ≠ 0 ∨ a < workingBase s.dev.fuses.dram4 ∨ workingBase s.dev.fuses.dram4 + 2 ^ 27 ≤ a) →
            exec (.dapAccess w (.sliceDram i a) v) s = .next (s.after ((d.countPkg 9 1).emit (.dap 0))))
        ∧ (∀ on, exec (.dapAccess w (.keyRegisters on) v) s = .next (s.after ((d.countPkg 9 1).emit (.dap 0))))
        ∧ exec (.dapAccess w .fuses v) s = .next (s.after ((d.countPkg 9 1).emit (.dap 0)))
        ∧ (∀ a, s.dev.fuses.lifecycle ≠ .anise →
            exec (.dapAccess w (.securityCore a) v) s = .next (s.after ((d.countPkg 9 1).emit (.dap 0))))
        ∧ (∀ n, bitAt s.dev.debugScope 4 = true → n < 3 →
            exec (.dapAccess w (.processor n) v) s = .next (s.after
              (({ d.onDebug (fun g => { g with halted := decide (n ≠ 0) }) with
                working := if n = 1 then d.working else [] } : Dev).emit (.dap 0))))
        ∧ (bitAt s.dev.debugScope 5 = true → (s.dev.mode.isService = true ∨ s.dev.mode = .recovery) →
            s.dev.transitioning = false →
            exec (.dapAccess w .testEnter v) s
              = .next (s.after (({ d with transition := some ⟨.test, 1⟩ } : Dev).emit (.dap 0)))))

/-! ### The standard mailbox of a port (R299, R304–R311, R546) -/

/-- The standard commands of a port: at a port without a link they do nothing. At a linked port IDENTIFY_MEMORY_DEVICE,
GET_HEALTH_INFO, GET_ALERT_CONFIGURATION, GET_EVENT_RECORDS, GET_EVENT_INTERRUPT_POLICY, GET_SUPPORTED_LOGS, GET_LOG, GET_TIMESTAMP,
GET_FW_INFO and UNSUPPORTED_STANDARD_COMMAND answer through their port and change nothing else. The order of the fields,
and the return codes other than success, are the model's (log entries 59 and 60). SET_ALERT_CONFIGURATION, SET_TIMESTAMP and
SET_EVENT_INTERRUPT_POLICY write; CLEAR_EVENT_RECORDS clears every record of a log or those with the handles named, and the overflow with them;
a log that is not there, and a handle that the log does not hold, clear nothing. -/
def Obligations.StandardMailbox : Prop :=
  (∀ (s : State) (p : Nat), p < s.dev.sliceCount → s.dev.reached .host p = false →
     exec (.identifyMemoryDevice p) s = .next (s.after s.dev) ∧ exec (.getHealthInfo p) s = .next (s.after s.dev)
     ∧ exec (.getAlertConfiguration p) s = .next (s.after s.dev)
     ∧ exec (.getEventInterruptPolicy p) s = .next (s.after s.dev)
     ∧ exec (.getSupportedLogs p) s = .next (s.after s.dev) ∧ exec (.getTimestamp p) s = .next (s.after s.dev)
     ∧ exec (.getFwInfo p) s = .next (s.after s.dev)
     ∧ (∀ l, exec (.getEventRecords p l) s = .next (s.after s.dev))
     ∧ (∀ u off n, exec (.getLog p u off n) s = .next (s.after s.dev))
     ∧ (∀ op, exec (.unsupportedStandardCommand p op) s = .next (s.after s.dev))
     ∧ (∀ m v, exec (.setAlertConfiguration p m v) s = .next (s.after s.dev))
     ∧ (∀ v, exec (.setTimestamp p v) s = .next (s.after s.dev))
     ∧ (∀ v, exec (.setEventInterruptPolicy p v) s = .next (s.after s.dev))
     ∧ (∀ l all hs, exec (.clearEventRecords p l all hs) s = .next (s.after s.dev)))
  ∧ (∀ (s : State) (p : Nat), p < s.dev.sliceCount → s.dev.reached .host p = true →
     let d := s.dev
     let reply (code : Nat) (l : List Nat) : State := s.after (d.stdReply p code l)
     (∃ r, exec (.identifyMemoryDevice p) s = .next (s.after (({ d with draws := d.draws + 1 } : Dev).stdReply p 0
         ([r, d.capacity / 2 ^ 28, 0, d.capacity / 2 ^ 28, 0] ++ d.std.logs.map (·.size) ++ [0, 0, 0, 0, 0]))))
     ∧ (∃ n temp, n ≤ 1 ∧ exec (.getHealthInfo p) s
         = .next (s.after (({ d with draws := d.draws + n } : Dev).stdReply p 0
           [d.stdHealth, d.stdMedia, d.stdAdditional, min 100 (d.lifeUsed / 100), temp, d.mirror.dirtyShutdowns,
             d.correctedVolatile, d.correctedPersistent]))
         ∧ (∀ q, d.internalHigh = some q → temp = (BitVec.ofInt 16 (q / 4)).toNat))
     ∧ exec (.getAlertConfiguration p) s
         = .next (reply 0 (d.std.alertValid.toNat :: d.std.alertValues.map fun v => (BitVec.ofInt 32 v).toNat))
     ∧ (∀ l g, d.std.logs[l]? = some g → exec (.getEventRecords p l) s
         = .next (reply 0 ([g.overflow, g.records.length] ++ g.records.flatMap LogRec.fields)))
     ∧ (∀ l, d.std.logs[l]? = none → exec (.getEventRecords p l) s = .next (reply 2 []))
     ∧ exec (.getEventInterruptPolicy p) s = .next (reply 0 [(d.port p).policy.toNat])
     ∧ exec (.getSupportedLogs p) s = .next (reply 0 [1, effectsUuid, Config.effectsLength])
     ∧ (∀ (u : BitVec 128) off n, u.toNat = effectsUuid → off + n ≤ Config.effectsLength →
         exec (.getLog p u off n) s
           = .next (reply 0 ((List.range n).map fun k => (Config.effectsByte (off + k)).toNat)))
     ∧ (∀ (u : BitVec 128) off n, (u.toNat ≠ effectsUuid ∨ Config.effectsLength < off + n) →
         exec (.getLog p u off n) s = .next (reply 2 []))
     ∧ exec (.getTimestamp p) s
         = .next (reply 0 [(d.std.timestamp + 1048576 * (d.lifeClock - d.std.timestampClock)) % 2 ^ 64])
     ∧ exec (.getFwInfo p) s
         = .next (reply 0 [2, 0, (d.fwTarget 0).revision, ((d.fwTarget 0).staged.map fwRevision).getD 0])
     ∧ (∀ op, exec (.unsupportedStandardCommand p op) s = .next (reply 3 [])))
  ∧ (∀ (s : State) (p : Nat), p < s.dev.sliceCount → s.dev.reached .host p = true →
       let d := s.dev
       (∀ (valid : BitVec 5) (values : List Int), ∃ t, exec (.setAlertConfiguration p valid values) s = .next t
         ∧ t = s.after (({ d with std := { d.std with alertValid := valid, alertValues := t.dev.std.alertValues } } : Dev).stdReply p 0 [])
         ∧ ∀ i, i < 5 → t.dev.std.alertValues.getD i 0
             = if bitAt valid.toNat i then values.getD i (d.std.alertValues.getD i 0) else d.std.alertValues.getD i 0)
       ∧ (∀ v : BitVec 64, exec (.setTimestamp p v) s = .next (s.after
           (({ d with std := { d.std with timestamp := v.toNat, timestampClock := d.lifeClock } } : Dev).stdReply p 0 [])))
       ∧ (∀ v : BitVec 32, exec (.setEventInterruptPolicy p v) s = .next (s.after
           ((d.onPort p fun x => { x with policy := v }).stdReply p 0 [])))
       ∧ (∀ l g, d.std.logs[l]? = some g → ∃ t, exec (.clearEventRecords p l true []) s = .next t
           ∧ t = s.after (({ d with std := { d.std with logs := t.dev.std.logs } } : Dev).stdReply p 0 [])
           ∧ (∃ o, t.dev.std.logs[l]? = some { g with records := [], overflow := o }
               ∧ (g.records ≠ [] → o = 0) ∧ (g.records = [] → o = g.overflow))
           ∧ ∀ m, m ≠ l → t.dev.std.logs[m]? = d.std.logs[m]?)
       ∧ (∀ l all hs, d.std.logs[l]? = none →
           exec (.clearEventRecords p l all hs) s = .next (s.after (d.stdReply p 2 [])))
       ∧ (∀ l g hs h, d.std.logs[l]? = some g → h ∈ hs → (∀ r, r ∈ g.records → r.handle ≠ h) →
           exec (.clearEventRecords p l false hs) s = .next (s.after (d.stdReply p 0xE [])))
       ∧ (∀ l g hs, d.std.logs[l]? = some g → (∀ h, h ∈ hs → ∃ r, r ∈ g.records ∧ r.handle = h) →
           ∃ t, exec (.clearEventRecords p l false hs) s = .next t
             ∧ t = s.after (({ d with std := { d.std with logs := t.dev.std.logs } } : Dev).stdReply p 0 [])
             ∧ t.dev.std.logs[l]? = some { g with
                 records := g.records.filter (fun r => !hs.contains r.handle)
                 overflow := if hs = [] then g.overflow else 0 }
             ∧ ∀ m, m ≠ l → t.dev.std.logs[m]? = d.std.logs[m]?))

/-- Of two Set Timestamp commands, or of two Set Alert Configuration commands that enable the same thresholds, at any two
linked ports, the one completed later wins: each is completed whole before the next one is applied. -/
def Obligations.LaterSetWins : Prop :=
  ∀ (s : State) (p q : Nat), p < s.dev.sliceCount → q < s.dev.sliceCount → s.dev.reached .host p = true →
    s.dev.reached .host q = true →
    (∀ v w : BitVec 64, ∃ t u, exec (.setTimestamp p v) s = .next t ∧ exec (.setTimestamp q w) t = .next u
      ∧ t.dev.std.timestamp = v.toNat ∧ u.dev.std.timestamp = w.toNat
      ∧ u.dev.std.timestampClock = s.dev.lifeClock)
    ∧ (∀ (m n : BitVec 5) (v w : List Int), v.length = 5 → w.length = 5 →
        ∃ t u, exec (.setAlertConfiguration p m v) s = .next t ∧ exec (.setAlertConfiguration q n w) t = .next u
          ∧ t.dev.std.alertValid = m ∧ u.dev.std.alertValid = n
          ∧ (∀ i, i < 5 → bitAt m.toNat i = true → t.dev.std.alertValues.getD i 0 = v.getD i 0)
          ∧ ∀ i, i < 5 → bitAt n.toNat i = true → u.dev.std.alertValues.getD i 0 = w.getD i 0)

/-! ### Host ports (R296, R300, R313–R318) -/

/-- A decoder is committed when its checks hold and left with Error Not Committed when they do not; it is uncommitted unless
it is locked or a higher decoder is committed. No other decoder of the port and nothing else changes, and at a port without a
link nothing changes at all. -/
def Obligations.DecodersCommitted : Prop :=
  (∀ (s : State) (p n : Nat), p < s.dev.sliceCount → s.dev.reached .host p = false →
    exec (.hdmDecoderCommit p n) s = .next (s.after s.dev) ∧ exec (.hdmDecoderUncommit p n) s = .next (s.after s.dev))
  ∧ ∀ (s : State) (p n : Nat), p < s.dev.sliceCount → s.dev.reached .host p = true →
    let d := s.dev
    let h := (d.port p).decoders.getD n {}
    (h.committed = false →
      exec (.hdmDecoderCommit p n) s = .next (s.after (d.onPort p fun x => { x with
        decoders := upd x.decoders n fun y =>
          { y with committed := d.commitOk p n, notCommitted := !d.commitOk p n } })))
    ∧ (h.committed = true → exec (.hdmDecoderCommit p n) s = .next (s.after d))
    ∧ (h.lockOnCommit = false → (∀ y, y ∈ (d.port p).decoders.drop (n + 1) → y.committed = false) →
        exec (.hdmDecoderUncommit p n) s = .next (s.after (d.onPort p fun x => { x with
          decoders := upd x.decoders n fun y => { y with committed := false } })))
    ∧ ((h.lockOnCommit = true ∨ ∃ y, y ∈ (d.port p).decoders.drop (n + 1) ∧ y.committed = true) →
        exec (.hdmDecoderUncommit p n) s = .next (s.after d))

/-- HOST_LINK_UP brings the link of a port up, whereupon the host can read its CDAT; LINK_L1_ENTRY and LINK_L1_EXIT let it sleep and
wake, which ends IDLE; elsewhere the three do nothing, and so does every command here where the links are off. A port reset sets the link, the decoders, HDM_POSITION, the event interrupt
policy and the IDE keys of that port back, drops its reads, disables its rings, and touches no other port, title, log,
line cache or map. A recovery of a link is counted on its slice and kept with its lanes; the third within 1,024 rounds
that excludes the same lanes narrows the port. An IDE integrity failure makes its stream insecure and is counted, recorded
and an alarm; a stream without keys has nothing to check, and nothing changes. -/
def Obligations.LinksAndPortReset : Prop :=
  (∀ (s : State) (p : Nat), p < s.dev.sliceCount → p < s.dev.ports.length → s.dev.mode.ticks = true →
     let d := s.dev
     (∀ w v f, (d.port p).link = .down → (d.port p).trains w v f = true →
       exec (.hostLinkUp p w v f) s = .next (s.after (d.onPort p fun x =>
         { x with
           link := .l0, width := w, speed := v, flit256 := f, activeInRound := true
           cdat := some { base := 0, length := s.dev.capacity, readLatency := 2348, writeLatency := 600
                          readBandwidth := 112, writeBandwidth := 88 } })))
     ∧ (∀ w v f, ((d.port p).link ≠ .down ∨ (d.port p).trains w v f = false) →
         exec (.hostLinkUp p w v f) s = .next (s.after d))
     ∧ ((d.port p).link ≠ .l0 → exec (.linkL1Entry p) s = .next (s.after d))
     ∧ ((d.port p).link ≠ .l1 → exec (.linkL1Exit p) s = .next (s.after d))
     ∧ ((d.port p).link = .l0 →
         exec (.linkL1Entry p) s = .next (s.after (d.onPort p fun x => { x with link := .l1 })))
     ∧ ((d.port p).link = .l1 → ∃ t, exec (.linkL1Exit p) s = .next t ∧ (t.dev.port p).link = .l0
         ∧ t = s.after { d.onPort p (fun x => { x with link := .l0, activeInRound := true }) with
             regs := { d.regs with idleExit := d.regs.idleExit || d.mode == .idle } })
     ∧ ∃ t, exec (.portReset p) s = .next t
         ∧ (t.dev.port p).link = .down ∧ (t.dev.port p).decoders = ({} : Port).decoders
         ∧ (t.dev.port p).position = 0 ∧ (t.dev.port p).policy = 0 ∧ (t.dev.port p).ideKeys = []
         ∧ (t.dev.port p).reads = [] ∧ (t.dev.port p).writes = []
         ∧ (∀ r, (d.ring r).hostPort = p → (t.dev.ring r).state = .disabled)
         ∧ (∀ k, k ≠ p → t.dev.port k = d.port k) ∧ t.dev.titles = d.titles ∧ t.dev.std.logs = d.std.logs
         ∧ (∀ i, (t.dev.slice i).cache.lines = (d.slice i).cache.lines ∧ (t.dev.slice i).map = (d.slice i).map))
  ∧ (∀ (s : State) (p : Nat), p < s.dev.sliceCount → s.dev.mode.ticks = false →
       exec (.portReset p) s = .next (s.after s.dev) ∧ exec (.linkL1Entry p) s = .next (s.after s.dev)
       ∧ exec (.linkL1Exit p) s = .next (s.after s.dev) ∧ ∀ w v f, exec (.hostLinkUp p w v f) s = .next (s.after s.dev))
  ∧ (∀ (s : State) (p : Nat), p < s.dev.sliceCount → (s.dev.mode.ticks = false ∨ (s.dev.port p).link = .down) →
       (∀ lanes, exec (.linkRecovery p lanes) s = .next (s.after s.dev))
       ∧ ∀ sel, exec (.ideIntegrityFailure p sel) s = .next (s.after s.dev))
  ∧ (∀ (s : State) (p : Nat), p < s.dev.sliceCount → s.dev.mode.ticks = true → (s.dev.port p).link ≠ .down →
       let d := s.dev
       (∀ lanes : BitVec 16,
         let recent := (d.port p).recoveries.filter fun e => decide (d.lifeClock < e.1 + 1024)
         let counted := (d.count p 111 1).onPort p fun x => { x with recoveries := recent ++ [(d.lifeClock, lanes)] }
         let same := (recent.filter (fun e => e.2 == lanes)).length + 1
         ((lanes = 0 ∨ same < 3) → exec (.linkRecovery p lanes) s = .next (s.after counted))
         ∧ (lanes ≠ 0 → 3 ≤ same → exec (.linkRecovery p lanes) s = .next (s.after (counted.narrowPort p lanes))))
       ∧ (∀ sel : Bool, (∀ k, k ∈ (d.port p).ideKeys → k.selector % 2 ≠ b2n sel) →
           exec (.ideIntegrityFailure p sel) s = .next (s.after d))
       ∧ (∀ sel : Bool, (∃ k, k ∈ (d.port p).ideKeys ∧ k.selector % 2 = b2n sel) →
           exec (.ideIntegrityFailure p sel) s = .next (s.after
             (((((d.onPort p fun x => { x with ideInsecure := upd x.ideInsecure (b2n sel) fun _ => true }).countPkg 13 1).event
               0x0402 p (b2n sel) p []).alarm 2 none 0)))))

/-! ### Register space (R5–R7, R179, R283–R289, R348, R390–R392, R408) -/

/-- A register write of 8 aligned bytes reaches its slot; one of another size or alignment is discarded and reported; in
reserved space it is ignored; an access that does not reach the register space changes nothing. A field of a host's
decoder is written unless the decoder is committed; no other agent writes one. MB_ASSIGN is the secure side's. A reported access: ACCESS_ERROR keeps
the first one and counts the rest, package counter 7 counts every one, AER is raised at the receiving port for a host, and
nothing else changes. A host writes the entries of the MSI-X table of its port, its message control and its mailbox's interrupt enable.
An interrupt sends the message of its vector while that is not masked and its function's message control has MSI-X enabled and unmasked
(where those two bits lie is the family's: a log entry), and sets the vector's pending bit otherwise; a vector whose pending bit is set is
sent when the host unmasks it. A write of another size discards the half that a mailbox channel holds. -/
def Obligations.RegistersWritten : Prop :=
  (∀ (s : State) (a : Agent) (p : Nat), (a = .host → p < s.dev.sliceCount) →
     let touched (off : Nat) : Dev :=
       let c := (off - 0x10000) / 0x1000
       if 0x10000 ≤ off ∧ off < 0x20000 ∧ s.dev.chanReason a p c = none then
         s.dev.onChan c fun x => { x with heldHalf := none }
       else s.dev
     (s.dev.reached a p = true →
       (∀ (off : Nat) (v : BitVec 64), s.dev.mapped off = true →
         (off % 8 = 0 → exec (.registerWrite a p (.bar2 off) 8 v) s
             = .next (s.after (s.dev.writeSlot a p (s.dev.selOf a) off v false)))
         ∧ (off % 4 = 0 → exec (.registerWrite a p (.bar2 off) 4 v) s = .next (s.after ((touched off).report a p off 1)))
         ∧ (∀ n, (n ≠ 8 ∨ off % 8 ≠ 0) → (n ≠ 4 ∨ off % 4 ≠ 0) →
             exec (.registerWrite a p (.bar2 off) n v) s = .next (s.after ((touched off).report a p off 2))))
       ∧ (∀ off n v, s.dev.mapped off = false → exec (.registerWrite a p (.bar2 off) n v) s = .next (s.after s.dev))
       ∧ (∀ k f n v, a = .host → exec (.registerWrite a p (.hdm k f) n v) s = .next (s.after
           (s.dev.onPort p fun x => { x with decoders := upd x.decoders k fun h => h.put f v.toNat })))
       ∧ (∀ k f n v, a ≠ .host → exec (.registerWrite a p (.hdm k f) n v) s = .next (s.after s.dev))
       ∧ (∀ k w n v, a = .host → exec (.registerWrite a p (.msix k w) n v) s
             = .next (s.after (s.dev.writeVector p k w (v.setWidth 32))))
       ∧ (∀ n (v : BitVec 64), a = .host → exec (.registerWrite a p .msixControl n v) s = .next (s.after
           ((s.dev.onPort p fun x => { x with msixControl := v.setWidth 16 &&& 0xC000 }).releaseVectors fun e => e.1 == p)))
       ∧ (∀ n v, a = .host → exec (.registerWrite a p .mailboxControl n v) s = .next (s.after
           (s.dev.onPort p fun x => { x with mailboxIrq := bitAt v.toNat 1 })))
       ∧ (∀ k w n v, a ≠ .host → exec (.registerWrite a p (.msix k w) n v) s = .next (s.after s.dev)
           ∧ exec (.registerWrite a p .msixControl n v) s = .next (s.after s.dev)
           ∧ exec (.registerWrite a p .mailboxControl n v) s = .next (s.after s.dev))
       ∧ (∀ v : Word, a ≠ .host → exec (.mbAssignWrite a p v) s = .next (s.after (s.dev.assign v)))
       ∧ (∀ v : Word, a = .host → exec (.mbAssignWrite a p v) s = .next (s.after (s.dev.report a p 0x30 4))))
     ∧ (s.dev.reached a p = false →
         (∀ x n v, exec (.registerWrite a p x n v) s = .next (s.after s.dev))
         ∧ ∀ v : Word, exec (.mbAssignWrite a p v) s = .next (s.after s.dev)))
  ∧ (∀ (d : Dev) (a : Agent) (p off reason : Nat),
       let t := d.report a p off reason
       (d.regs.accessError.valid = true → t.regs = { d.regs with accessError :=
           { d.regs.accessError with count := min 8191 (d.regs.accessError.count + 1) } })
       ∧ (d.regs.accessError.valid = false → t.regs = { d.regs with accessError :=
           { offset := off % 2 ^ 26, reason := reason, port := if a = .host then p else 0, secure := decide (a ≠ .host)
             valid := true, count := 1 } })
       ∧ (a = .host → t.ports = upd d.ports p fun x => { x with aer := true }) ∧ (a ≠ .host → t.ports = d.ports)
       ∧ t = { (d.countPkg 7 1) with regs := t.regs, ports := t.ports })
  ∧ (∀ (d : Dev) (p v : Nat),
       let e := d.msix.entry (p, v)
       let sent : Output := .msix p v e.address e.data
       let live (c : BitVec 16) : Prop := bitAt c.toNat 15 = true ∧ bitAt c.toNat 14 = false
       ((p, v) ∈ d.msix.enabled ∧ live (d.port p).msixControl → d.signals [(p, v)] = d.emit sent)
       ∧ (¬((p, v) ∈ d.msix.enabled ∧ live (d.port p).msixControl) →
           let t := d.signals [(p, v)]
           (p, v) ∈ t.msix.waiting ∧ t.msix.enabled = d.msix.enabled ∧ t = { d with msix := t.msix })
       ∧ (v < 2048 →
           let t := d.maskVector p v false
           (p, v) ∈ t.msix.enabled ∧ t.msix.entries = d.msix.entries
           ∧ (live (d.port p).msixControl → (p, v) ∉ t.msix.waiting)
           ∧ (live (d.port p).msixControl → d.msix.waiting.filter (fun x => x == (p, v)) = [(p, v)] →
               t = { d.emit sent with msix := t.msix })
           ∧ ((¬live (d.port p).msixControl ∨ (p, v) ∉ d.msix.waiting) → t = { d with msix := t.msix }))
       ∧ (let t := d.maskVector p v true
          (p, v) ∉ t.msix.enabled ∧ t.msix.waiting = d.msix.waiting ∧ t = { d with msix := t.msix })
       ∧ (∀ w : BitVec 32,
           (∀ k, 3 ≤ k → d.writeVector p v k w = d.maskVector p v (bitAt w.toNat 0))
           ∧ ∀ k, k < 3 →
             let t := d.writeVector p v k w
             t = { d with msix := { d.msix with entries := t.msix.entries } }
             ∧ (t.msix.entry (p, v)).address.toNat
                 = (if k = 0 then e.address.toNat / 2 ^ 32 * 2 ^ 32 + w.toNat
                    else if k = 1 then e.address.toNat % 2 ^ 32 + w.toNat * 2 ^ 32 else e.address.toNat)
             ∧ (t.msix.entry (p, v)).data = (if k = 2 then w else e.data)
             ∧ ∀ x, x ≠ (p, v) → t.msix.entry x = d.msix.entry x))

/-- Maintenance and cache commands by register (MAINT_CLEAN, MAINT_INVALIDATE, MAINT_CLEAN_INVALIDATE, SETWAY_CLEAN,
SETWAY_INVALIDATE, SETWAY_CLEAN_INVALIDATE, CACHE_CMD_ENABLE, DRAIN_DISABLE, DISCARD_DISABLE, SWAP_REQUEST, RETRAIN_ALL): MAINT_CMD starts the range operation of MAINT_BASE and MAINT_LINES and clears
the flags it is written 1 in; CACHE_SETWAY and CACHE_CTRL act on the selected slice; without a selected slice the access
is reported. SWAP_REQUEST: a swap requested in ticks 0 to 991, or between the boundary of a round and its first tick, takes
effect at the next round boundary and one requested later at the one after; while a swap is pending the request is refused and reported, and before the tick starts it is
refused. An access that does not reach the register space changes nothing. -/
def Obligations.CommandRegisters : Prop :=
  (∀ (s : State) (a : Agent) (p : Nat) (v : Word), (a = .host → p < s.dev.sliceCount) → s.dev.reached a p = false →
     let same : Host.Outcome State Fault Refusal := .next (s.after s.dev)
     exec (.maintClean a p v) s = same ∧ exec (.maintInvalidate a p v) s = same
     ∧ exec (.maintCleanInvalidate a p v) s = same ∧ exec (.setwayClean a p v) s = same
     ∧ exec (.setwayInvalidate a p v) s = same ∧ exec (.setwayCleanInvalidate a p v) s = same
     ∧ exec (.cacheCmdEnable a p) s = same ∧ exec (.drainDisable a p) s = same ∧ exec (.discardDisable a p) s = same
     ∧ exec (.retrainAll a p v) s = same ∧ exec (.swapRequest a p v) s = same)
  ∧ (∀ (s : State) (a : Agent) (p : Nat) (v : Word), (a = .host → p < s.dev.sliceCount) → s.dev.reached a p = true →
     let sel := s.dev.selOf a
     let sec := secureAgent a
     let flagged := { s.dev with regs := { s.dev.regs with
       maintDone := s.dev.regs.maintDone && wbits v 3 1 == 0
       maintDenied := s.dev.regs.maintDenied && wbits v 4 1 == 0 } }
     let maint (op : Nat) : State :=
       s.after (flagged.startMaint sec op s.dev.regs.maintBase.toNat (s.dev.regs.maintLines.toNat + 1))
     let setway (op : Nat) : State :=
       s.after (s.dev.setway sec sel.slice (wbits v 0 12) (wbits v 12 4) (wbits v 16 1 == 1) op)
     exec (.maintClean a p v) s = .next (maint 1) ∧ exec (.maintInvalidate a p v) s = .next (maint 2)
     ∧ exec (.maintCleanInvalidate a p v) s = .next (maint 3)
     ∧ (sel.slice < s.dev.sliceCount →
         exec (.setwayClean a p v) s = .next (setway 1) ∧ exec (.setwayInvalidate a p v) s = .next (setway 2)
         ∧ exec (.setwayCleanInvalidate a p v) s = .next (setway 3)
         ∧ exec (.cacheCmdEnable a p) s = .next (s.after (s.dev.cacheCommand sec sel.slice 1))
         ∧ exec (.drainDisable a p) s = .next (s.after (s.dev.cacheCommand sec sel.slice 2))
         ∧ exec (.discardDisable a p) s = .next (s.after (s.dev.cacheCommand sec sel.slice 3))
         ∧ exec (.retrainAll a p v) s = .next (s.after (s.dev.onSlice sel.slice fun x =>
             let th := if wbits v 0 8 = 0 then x.dram.oscThreshold else wbits v 0 8
             { x with dram := ({ x.dram with oscThreshold := th } : Dram).makeDue 0xFF })))
     ∧ (s.dev.sliceCount ≤ sel.slice →
         exec (.setwayClean a p v) s = .next (s.after (s.dev.report a p 0x20310 5))
         ∧ exec (.setwayInvalidate a p v) s = .next (s.after (s.dev.report a p 0x20310 5))
         ∧ exec (.setwayCleanInvalidate a p v) s = .next (s.after (s.dev.report a p 0x20310 5))
         ∧ exec (.cacheCmdEnable a p) s = .next (s.after (s.dev.report a p 0x20300 5))
         ∧ exec (.drainDisable a p) s = .next (s.after (s.dev.report a p 0x20300 5))
         ∧ exec (.discardDisable a p) s = .next (s.after (s.dev.report a p 0x20300 5))
         ∧ exec (.retrainAll a p v) s = .next (s.after (s.dev.report a p 0x20608 5))))
  ∧ (∀ (s : State) (a : Agent) (p : Nat) (v : Word), (a = .host → p < s.dev.sliceCount) → s.dev.reached a p = true →
       let swap := { s.dev.swap with refused := s.dev.swap.refused && wbits v 2 1 == 0 }
       (s.dev.swapPending = false → s.dev.clock.on = true →
         exec (.swapRequest a p v) s = .next (s.after { s.dev with swap :=
           { swap with
             pending := some .all
             wait := if s.dev.clock.roundClosed = true ∨ s.dev.clock.tick ≤ 991 then 1 else 2 } }))
       ∧ (s.dev.swapPending = true → exec (.swapRequest a p v) s
           = .next (s.after (({ s.dev with swap := { swap with refused := true } } : Dev).report a p 0x28 3)))
       ∧ (s.dev.swapPending = false → s.dev.clock.on = false → exec (.swapRequest a p v) s
           = .next (s.after { s.dev with swap := { swap with refused := true } })))

/-! ### Mailbox FIFOs and work rings (R402–R408, R415–R418) -/

/-- A word written to a live channel joins the inbound FIFO, or is discarded and reported when the FIFO is full. A read of
the outbound FIFO takes its front word, or reads 0 and sets underrun; a read of the lower half takes the word and holds
its upper bits, which a read of the upper half that follows returns. DROP drops the rest of the message in front of the FIFO that the
writer consumes, the firmware's being the inbound one, and takes the enables and the vector. A write of the firmware to a full FIFO is a
fabric error. An access that the channel's assignment does not allow is reported, or reads 0; one that does not reach the register
space changes nothing. -/
def Obligations.MailboxFifosAccessed : Prop :=
  (∀ (s : State) (a : Agent) (p c : Nat), (a = .host → p < s.dev.sliceCount) → c < 16 → s.dev.reached a p = false →
    (∀ v bad, exec (.mbInWrite a p c v bad) s = .next (s.after s.dev))
    ∧ (∀ half bad, exec (.mbOutRead a p c half bad) s = .next (s.after s.dev))
    ∧ ∀ v, exec (.mailboxDrop a p c v) s = .next (s.after s.dev))
  ∧ ∀ (s : State) (a : Agent) (p c : Nat), (a = .host → p < s.dev.sliceCount) → c < 16 → s.dev.reached a p = true →
    let d := s.dev
    let free := d.onChan c fun ch => { ch with heldHalf := none }
    (d.chanReason a p c = none →
      (∀ (v : Word) (bad : Bool), d.inboundFull c = false →
        exec (.mbInWrite a p c v bad) s = .next (s.after (free.appendInbound c v bad)))
      ∧ (∀ (v : Word) (bad : Bool), d.inboundFull c = true →
        (a ≠ .firmware → exec (.mbInWrite a p c v bad) s
          = .next (s.after ((free.overrunChan c).report a p (0x10000 + 0x1000 * c) 7)))
        ∧ (a = .firmware → exec (.mbInWrite a p c v bad) s = .next (s.after (free.emit (.fabricError a)))))
      ∧ (∀ (w : MbWord) (rest : List MbWord) (bad : Bool), (d.chan c).outb = w :: rest → c < d.chans.length →
        exec (.mbOutRead a p c .full bad) s = .next (s.after
          (((free.onChan c fun ch => { ch with outb := rest, outPoison := ch.outPoison || (w.bad || bad) }).pump c).emit
            (.readData (w.word.setWidth 64) ((w.bad || bad) && a == .host)))))
      ∧ (∀ bad, (d.chan c).outb = [] → c < d.chans.length →
        exec (.mbOutRead a p c .full bad) s = .next (s.after
          ((free.onChan c fun ch => { ch with underrun := true }).emit (.readData 0 false))))
      ∧ (∀ (w : MbWord) (rest : List MbWord) (bad : Bool), (d.chan c).outb = w :: rest → c < d.chans.length →
        exec (.mbOutRead a p c .low bad) s = .next (s.after
          ((((d.onChan c fun ch => { ch with outb := rest, outPoison := ch.outPoison || (w.bad || bad) }).pump c).onChan c
            fun ch => { ch with heldHalf := some (wbits w.word 32 16) }).emit
            (.readData (BitVec.ofNat 64 (wbits w.word 0 32)) ((w.bad || bad) && a == .host)))))
      ∧ (∀ bad, (d.chan c).outb = [] → c < d.chans.length →
        exec (.mbOutRead a p c .low bad) s = .next (s.after
          ((d.onChan c fun ch => { ch with underrun := true, heldHalf := some 0 }).emit (.readData 0 false))))
      ∧ (∀ bad, exec (.mbOutRead a p c .high bad) s = .next (s.after
          (free.emit (.readData (BitVec.ofNat 64 ((d.chan c).heldHalf.getD 0)) false))))
      ∧ (∀ v : Word,
          let set := free.onChan c fun ch =>
            { ch with inEmptyEn := wbits v 1 1 == 1, outReadyEn := wbits v 2 1 == 1, vector := wbits v 3 11 }
          (a ≠ .firmware → exec (.mailboxDrop a p c v) s = .next (s.after (set.dropOut c)))
          ∧ (a = .firmware → exec (.mailboxDrop a p c v) s
              = .next (s.after (set.onChan c fun ch => { ch with inb := nextMessage ch.inb.tail })))))
    ∧ (∀ r, d.chanReason a p c = some r →
        (∀ v bad, exec (.mbInWrite a p c v bad) s = .next (s.after (d.report a p (0x10000 + 0x1000 * c) r)))
        ∧ (∀ half bad, exec (.mbOutRead a p c half bad) s = .next (s.after (d.emit (.readData 0 false))))
        ∧ (∀ v, exec (.mailboxDrop a p c v) s = .next (s.after (d.report a p (0x10000 + 0x1000 * c + 0x18) r))))

/-- Work rings: RING_ENABLE of a DISABLED ring takes its configuration and starts it empty and RUNNING, and of another ring
leaves it as it is; RING_DISABLE of a RUNNING ring aborts the descriptors it has not started, of a DISABLED ring takes the configuration, and of
another leaves it as it is; RING_RESET does so from every state and ends the binding; a change of the fields of a ring that is
not DISABLED is reported and not made. RING_DOORBELL through the ring's own port moves its produced index, and stops the ring when that
runs more than its size ahead; one to a ring that does not run, or through another port, does nothing. RING_CPL_HEAD_WRITE takes
the completion head. A ring at or above the ring count of the part is reserved space, where a command does nothing; nor does one that
does not reach the register space. -/
def Obligations.RingsConfigured : Prop :=
  (∀ (s : State) (a : Agent) (p n : Nat) (v : Word), (a = .host → p < s.dev.sliceCount) →
    (s.dev.ringCount ≤ n ∨ s.dev.reached a p = false) →
    exec (.ringEnable a p n v) s = .next (s.after s.dev) ∧ exec (.ringDisable a p n v) s = .next (s.after s.dev)
    ∧ exec (.ringReset a p n v) s = .next (s.after s.dev) ∧ exec (.ringCplHeadWrite a p n v) s = .next (s.after s.dev)
    ∧ (a = .host → exec (.ringDoorbell p n v) s = .next (s.after s.dev)))
  ∧ ∀ (s : State) (a : Agent) (p n : Nat) (v : Word), (a = .host → p < s.dev.sliceCount) → n < s.dev.ringCount →
    s.dev.reached a p = true →
    let r := s.dev.ring n
    let configured : Ring := { r with
      sizeLog2 := if 6 ≤ wbits v 0 5 ∧ wbits v 0 5 ≤ 16 then wbits v 0 5 else r.sizeLog2
      hostPort := wbits v 6 3, vector := wbits v 9 11, irqEnable := wbits v 20 1 == 1 }
    let alone (t : State) : Prop :=
      t = s.after { s.dev with rings := t.dev.rings } ∧ ∀ k, k ≠ n → t.dev.ring k = s.dev.ring k
    let kept : Dev := if masked v ringFields = masked r.ctrl ringFields then s.dev
      else s.dev.report a p (0x1000000 + 0x40 * n + 0x10) 6
    (r.state ≠ .disabled → exec (.ringEnable a p n v) s = .next (s.after (kept.onRing n fun x => x)))
    ∧ (r.state ≠ .disabled → r.state ≠ .running →
        exec (.ringDisable a p n v) s = .next (s.after (kept.onRing n fun x => x)))
    ∧ (r.state = .disabled → ∃ t, exec (.ringDisable a p n v) s = .next t ∧ alone t ∧ t.dev.ring n = configured)
    ∧ (r.state = .disabled → ∃ t, exec (.ringEnable a p n v) s = .next t ∧ alone t
      ∧ t.dev.ring n = { configured with
          enable := true, state := .running, produced := 0, fetched := 0, consumed := 0, written := 0, stopCode := 0 })
    ∧ (r.state = .disabled → ∃ t, exec (.ringReset a p n v) s = .next t ∧ alone t
        ∧ t.dev.ring n = ({ configured.abort with
            state := .draining, enable := false, binding := none, resetting := true } : Ring).settle)
    ∧ (r.state = .running →
        exec (.ringDisable a p n v) s = .next (s.after (kept.onRing n fun x =>
          ({ x.abort with state := .draining, enable := false } : Ring).settle)))
    ∧ (r.state ≠ .disabled →
        exec (.ringReset a p n v) s = .next (s.after (kept.onRing n fun x =>
          ({ x.abort with state := .draining, enable := false, binding := none, resetting := true } : Ring).settle)))
    ∧ exec (.ringCplHeadWrite a p n v) s
        = .next (s.after (s.dev.onRing n fun x => { x with consumed := BitVec.ofNat 32 (wbits v 0 32) }))
    ∧ (a = .host → r.state = .running → r.hostPort = p →
        let at_ : BitVec 32 := BitVec.ofNat 32 (wbits v 0 32)
        ((at_ - r.fetched).toNat ≤ r.size →
          exec (.ringDoorbell p n v) s = .next (s.after (s.dev.onRing n fun x => { x with produced := at_ })))
        ∧ (r.size < (at_ - r.fetched).toNat →
            exec (.ringDoorbell p n v) s = .next (s.after (s.dev.stopRing n 4))))
    ∧ (a = .host → (r.state ≠ .running ∨ r.hostPort ≠ p) →
        exec (.ringDoorbell p n v) s = .next (s.after s.dev))

/-! ### Descriptors (R415–R422, R472, R474) -/

/-- A RUNNING ring with a posted descriptor and none ahead fetches it into the next slot, counts it, and runs it: it starts,
and one of the checks of R422 ends it with that status before it moves data, an opcode outside 1 to 7 with BAD_OPCODE. A
poisoned fetch stops the ring. Behind a descriptor that may not start yet up to 16 are fetched ahead, and one that waits runs when it
may start. Nothing runs on a ring that
the part does not have, on one that is not RUNNING, on one without a descriptor, and where the word's opcode is
another command's. COPY, INSTALL, HINT, PERSIST, VERIFY, ZERO and TRIM_DESCRIPTOR are opcodes 1 to 7. -/
def Obligations.DescriptorsStarted : Prop :=
  (∀ (s : State) (n : Nat) (raw : BitVec 512) (host : HostData),
    (s.dev.ringCount ≤ n ∨ (s.dev.ring n).state ≠ .running ∨ (s.dev.ring n).descs = [] ∧ (s.dev.ring n).posted = 0) →
    exec (.copy n raw host) s = .next (s.after s.dev) ∧ exec (.install n raw host) s = .next (s.after s.dev)
    ∧ exec (.hint n raw host) s = .next (s.after s.dev) ∧ exec (.persist n raw host) s = .next (s.after s.dev)
    ∧ exec (.verify n raw host) s = .next (s.after s.dev) ∧ exec (.zero n raw host) s = .next (s.after s.dev)
    ∧ exec (.trimDescriptor n raw host) s = .next (s.after s.dev))
  ∧ (∀ (s : State) (n : Nat) (raw : BitVec 512) (host : HostData),
      let op := rawOpcode raw
      1 ≤ op → op ≤ 7 →
      (op ≠ 1 → exec (.copy n raw host) s = .next (s.after s.dev))
      ∧ (op ≠ 2 → exec (.install n raw host) s = .next (s.after s.dev))
      ∧ (op ≠ 3 → exec (.hint n raw host) s = .next (s.after s.dev))
      ∧ (op ≠ 4 → exec (.persist n raw host) s = .next (s.after s.dev))
      ∧ (op ≠ 5 → exec (.verify n raw host) s = .next (s.after s.dev))
      ∧ (op ≠ 6 → exec (.zero n raw host) s = .next (s.after s.dev))
      ∧ (op ≠ 7 → exec (.trimDescriptor n raw host) s = .next (s.after s.dev)))
  ∧ (∀ (s : State) (n k : Nat) (raw : BitVec 512) (host : HostData) (y : Desc), n < s.dev.ringCount →
      let r := s.dev.ring n
      r.state = .running → r.descs.find? (fun z => !z.started) = some y →
      let runs (t : State) : Prop :=
        (rawOpcode raw = 1 → exec (.copy n raw host) s = .next t) ∧ (rawOpcode raw = 2 → exec (.install n raw host) s = .next t)
        ∧ (rawOpcode raw = 3 → exec (.hint n raw host) s = .next t) ∧ (rawOpcode raw = 4 → exec (.persist n raw host) s = .next t)
        ∧ (rawOpcode raw = 5 → exec (.verify n raw host) s = .next t) ∧ (rawOpcode raw = 6 → exec (.zero n raw host) s = .next t)
        ∧ (rawOpcode raw = 7 → exec (.trimDescriptor n raw host) s = .next t)
      k = (r.descs.filter fun z => !z.started).length →
      (y.raw = raw → r.mayStart y = true → runs (s.after (s.dev.runDesc n y host)))
      ∧ (r.mayStart y = false →
          (r.posted = 0 ∨ 16 ≤ k → runs (s.after s.dev))
          ∧ (r.posted ≠ 0 → k < 16 → host.badFetch = true → runs (s.after (s.dev.stopRing n 9)))
          ∧ (r.posted ≠ 0 → k < 16 → host.badFetch = false →
              runs (s.after (((s.dev.fabric 64 r.hostPort (n / 1024)).onRing n fun r => { r with
                fetched := r.fetched + 1
                descs := r.descs ++ [{
                  slot := r.fetched.toNat % r.size, raw := raw, started := false, status := none, pending := 0, moved := 0
                  dropped := 0, poisoned := 0, firstPoison := none, flush := none }] }).count (n / 1024) 112 1)))))
  ∧ ∀ (s : State) (n : Nat) (raw : BitVec 512) (host : HostData), n < s.dev.ringCount →
    (s.dev.ring n).state = .running → (s.dev.ring n).descs = [] → (s.dev.ring n).posted ≠ 0 →
    let r := s.dev.ring n
    let op := rawOpcode raw
    let x : Desc :=
      { slot := r.fetched.toNat % r.size, raw := raw, started := false, status := none, pending := 0, moved := 0
        dropped := 0, poisoned := 0, firstPoison := none, flush := none }
    let d := ((s.dev.fabric 64 r.hostPort (n / 1024)).onRing n fun r =>
      { r with fetched := r.fetched + 1, descs := r.descs ++ [x] }).count (n / 1024) 112 1
    let odd := op = 0 ∨ 7 < op
    (host.badFetch = false →
      let t := s.after (d.runDesc n x host)
      (op = 1 ∨ odd → exec (.copy n raw host) s = .next t) ∧ (op = 2 ∨ odd → exec (.install n raw host) s = .next t)
      ∧ (op = 3 ∨ odd → exec (.hint n raw host) s = .next t) ∧ (op = 4 ∨ odd → exec (.persist n raw host) s = .next t)
      ∧ (op = 5 ∨ odd → exec (.verify n raw host) s = .next t) ∧ (op = 6 ∨ odd → exec (.zero n raw host) s = .next t)
      ∧ (op = 7 ∨ odd → exec (.trimDescriptor n raw host) s = .next t)
      ∧ (∀ st, d.descStatus (d.ring n) x host = some st →
          (t.dev.ring n).descs = [{ x with started := true, status := some st }])
      ∧ (odd → (t.dev.ring n).descs = [{ x with started := true, status := some 2 }]))
    ∧ (host.badFetch = true →
        let t := s.after (s.dev.stopRing n 9)
        (op = 1 ∨ odd → exec (.copy n raw host) s = .next t)
        ∧ (op = 2 ∨ odd → exec (.install n raw host) s = .next t) ∧ (op = 3 ∨ odd → exec (.hint n raw host) s = .next t)
        ∧ (op = 4 ∨ odd → exec (.persist n raw host) s = .next t) ∧ (op = 5 ∨ odd → exec (.verify n raw host) s = .next t)
        ∧ (op = 6 ∨ odd → exec (.zero n raw host) s = .next t) ∧ (op = 7 ∨ odd → exec (.trimDescriptor n raw host) s = .next t))

/-- DESCRIPTOR_COMPLETE: a finished descriptor writes its 16-byte completion entry behind those written, frees its slot and interrupts when asked
to; without room for the entry it is held and counted. DESCRIPTOR_FETCH_TIMEOUT: a fetch that times out stops the ring, a data
access that does ends its descriptor with TIMEOUT. INSTALL_UNIT_LOADED: a unit of an INSTALL goes to its destination decrypted when
its digest is right, and as poison when it is not. Each changes nothing on a ring that the part does not have, and where no
descriptor or fetch is in that state. -/
def Obligations.DescriptorsEnded : Prop :=
  (∀ (s : State) (n : Nat), s.dev.ringCount ≤ n →
    (∀ slot, exec (.descriptorComplete n slot) s = .next (s.after s.dev))
    ∧ (∀ slot, exec (.descriptorFetchTimeout n slot) s = .next (s.after s.dev))
    ∧ ∀ slot unit data, exec (.installUnitLoaded n slot unit data) s = .next (s.after s.dev))
  ∧ ∀ (s : State) (n : Nat), n < s.dev.ringCount →
    let r := s.dev.ring n
    (∀ (slot st : Nat) (x : Desc), r.descs.find? (·.slot == slot) = some x → x.status = some st → x.started = true →
      (r.room = true →
        let w := r.written.toNat
        let entry := leBytes 4 (x.field 4 4) ++ [BitVec.ofNat 8 st, BitVec.ofNat 8 (b2n (w / r.size % 2 == 0))]
          ++ leBytes 2 x.slot ++ leBytes 8 x.result
        let d := (((((s.dev.fabric 16 (n / 1024) r.hostPort).emit
            (.hostWrite r.hostPort (r.cplBase * 4096 + 16 * (w % r.size)) entry)).onRing n fun r =>
          ({ r with written := r.written + 1, descs := r.descs.filter (·.slot != slot) } : Ring).settle).count (n / 1024)
            (statusCounter st) 1).count (n / 1024) 117 (x.moved / 256))
        exec (.descriptorComplete n slot) s
          = .next (s.after (if x.flag 0 && r.irqEnable then d.signals [(r.hostPort, r.vector)] else d)))
      ∧ (r.room = false → exec (.descriptorComplete n slot) s = .next (s.after (s.dev.count (n / 1024) 119 1))))
    ∧ (∀ slot, (∀ x, r.descs.find? (·.slot == slot) = some x → x.started = false ∨ x.status = none) →
        exec (.descriptorComplete n slot) s = .next (s.after s.dev))
    ∧ ((r.state ≠ .running ∨ r.posted = 0) → exec (.descriptorFetchTimeout n none) s = .next (s.after s.dev))
    ∧ (∀ slot, (∀ x, r.descs.find? (·.slot == slot) = some x → x.started = false ∨ x.status ≠ none) →
        exec (.descriptorFetchTimeout n (some slot)) s = .next (s.after s.dev))
    ∧ (∀ slot unit data, (∀ x, r.descs.find? (·.slot == slot) = some x →
          x.field 0 2 ≠ 2 ∨ x.started = false ∨ x.status ≠ none ∨ x.units.contains unit = false) →
        exec (.installUnitLoaded n slot unit data) s = .next (s.after s.dev))
    ∧ (r.state = .running → r.posted ≠ 0 →
        exec (.descriptorFetchTimeout n none) s = .next (s.after (s.dev.stopRing n 0x0C)))
    ∧ (∀ slot x, r.descs.find? (·.slot == slot) = some x → x.started = true → x.status = none →
        exec (.descriptorFetchTimeout n (some slot)) s = .next (s.after (s.dev.descEnd n slot 0x0C)))
    ∧ (∀ (slot unit : Nat) (data : List Byte) (x : Desc), r.descs.find? (·.slot == slot) = some x →
        x.field 0 2 = 2 → x.started = true → x.status = none → x.units.contains unit = true →
        let e := x.field 36 1
        let t := x.field 32 1
        let digest := bytesAt (s.dev.cart.tableOf e) (48 * unit) 48
        let d := s.dev.countPkg 31 (data.length / 256)
        let offsets := ((List.range (x.len / 64)).map fun k => 64 * k).filter fun o => (x.src + o) / unitBytes == unit
        (digest = sha384 data →
          exec (.installUnitLoaded n slot unit data) s = .next (s.after (offsets.foldl (fun d o =>
            (d.descMoved n slot 64).descWrite n x (x.dst + o)
              (some (decryptSector (s.dev.titleKey t) unit data (x.src + o))) (some t)) d)))
        ∧ (digest ≠ sha384 data →
          let d := ((d.countPkg 30 1).event 0x0604 0xFF 2 0xFF ([BitVec.ofNat 8 e, 0, 0, 0] ++ leBytes 4 unit)).onDesc n slot
            fun x => { x with poisoned := x.poisoned + offsets.length }
          exec (.installUnitLoaded n slot unit data) s = .next (s.after (offsets.foldl (fun d o =>
            (d.descMoved n slot 64).descWrite n x (x.dst + o) none (some t)) d))))

/-! ### Host memory accesses (R273–R276, R290–R293, R298, R301, R309, R475) -/

/-- CXL_MEM_READ and CXL_MEM_WRITE: a read or a write of a port that serves, which a decoder of the port claims: a read is taken into the port's reads and
counted, and answered with poison when its position is bad or beyond the capacity, else served in its class, or held at ingress
until the clearing of its slice's cache ends; a write is
taken, discarded with its reason or made, and a position that is bad or beyond the capacity discards it. A request that no
decoder claims, or while the port does not serve or has no room for it, changes nothing. A write that the basin would take and whose
index header fails its tag is refused with a bus error, the failure is handled, and in the boot and recovery column the header is marked. HINT_WRITE: a 64-bit hint record is queued line by line, an access of another size is reported, and one that does not reach
the register space changes nothing. -/
def Obligations.HostMemoryAccessed : Prop :=
  ∀ (s : State) (p : Nat), p < s.dev.sliceCount →
    (∀ (hpa tag : Nat) (env : AccessEnv) (v : Sector) (poison : Bool),
      (s.dev.portServes p = false ∨ (s.dev.port p).decode hpa = none) →
      exec (.cxlMemRead p hpa tag env) s = .next (s.after s.dev)
      ∧ exec (.cxlMemWrite p hpa tag v poison env) s = .next (s.after s.dev))
    ∧ (∀ (hpa tag : Nat) (env : AccessEnv) (v : Sector) (poison : Bool),
      (4096 ≤ (s.dev.port p).reads.length → exec (.cxlMemRead p hpa tag env) s = .next (s.after s.dev))
      ∧ (1024 ≤ (s.dev.port p).writes.length → exec (.cxlMemWrite p hpa tag v poison env) s = .next (s.after s.dev)))
    ∧ (∀ (hpa tag dpa : Nat) (ok : Bool) (env : AccessEnv), s.dev.portServes p = true →
        (s.dev.port p).reads.length < 4096 → (s.dev.port p).decode hpa = some (dpa, ok) →
        let c := s.dev.classOf p dpa
        let d := (s.dev.onPort p fun x => { x with reads := x.reads ++ [tag], activeInRound := true }).count p 104 1
        ((ok = false ∨ s.dev.capacity ≤ dpa) → exec (.cxlMemRead p hpa tag env) s
            = .next (s.after ((d.positionPoison p dpa).answerRead p tag c.cls none)))
        ∧ (ok = true → dpa < s.dev.capacity →
            let e := d.countForward p (s.dev.sliceOf dpa) false
            ((s.dev.slice (s.dev.sliceOf dpa)).cache.state ≠ .invalidating →
              exec (.cxlMemRead p hpa tag env) s = .next (s.after (e.serveRead p tag dpa c env)))
            ∧ ((s.dev.slice (s.dev.sliceOf dpa)).cache.state = .invalidating →
              exec (.cxlMemRead p hpa tag env) s = .next (s.after (e.onSlice (s.dev.sliceOf dpa) fun x =>
                { x with flow := { x.flow with heldReads := x.flow.heldReads ++ [⟨p, tag, dpa, c⟩] } })))))
    ∧ (∀ (hpa tag dpa : Nat) (ok poison : Bool) (v : Sector) (env : AccessEnv), s.dev.portServes p = true →
        (s.dev.port p).writes.length < 1024 → (s.dev.port p).decode hpa = some (dpa, ok) →
        let c := s.dev.classOf p dpa
        let taken := (s.dev.onPort p fun x =>
          { x with writes := x.writes ++ [tag], activeInRound := true, bwWrite := upd x.bwWrite c.cls (· + 64) }).count p 105 1
        let d := if poison then taken.count p 109 1 else taken
        ((ok = false ∨ s.dev.capacity ≤ dpa) → exec (.cxlMemWrite p hpa tag v poison env) s
            = .next (s.after ((d.discardWrite p dpa 6).completeWrite p tag)))
        ∧ (∀ r, ok = true → dpa < s.dev.capacity → s.dev.discardReason c dpa = some r →
            exec (.cxlMemWrite p hpa tag v poison env) s
              = .next (s.after ((d.discardWrite p dpa r).completeWrite p tag)))
        ∧ (ok = true → dpa < s.dev.capacity → s.dev.discardReason c dpa = none →
            let i := s.dev.sliceOf dpa
            let e := d.countForward p i true
            let w : HeldWrite := ⟨p, tag, dpa, if poison then none else some v, c, none, s.dev.now⟩
            let header := (e.slice i).basinHeader c poison (s.dev.frameOf dpa)
            ((env.tagFail = false ∨ header = none ∨ ∃ b, header = some b ∧ (e.slice i).headerMarked b = true) →
              exec (.cxlMemWrite p hpa tag v poison env) s = .next (s.after (e.putWrite w)))
            ∧ (∀ b, env.tagFail = true → header = some b → (e.slice i).headerMarked b = false →
              let f := e.tagFail i 3 (headerAddress b.index)
              let f := if e.serviceColumn i then f
                else f.onSlice i fun x => { x with dram := x.dram.mark (headerAddress b.index) }
              exec (.cxlMemWrite p hpa tag v poison env) s = .next (s.after (f.refuseWrite p tag)))))
    ∧ (∀ v : BitVec 64, s.dev.reached .host p = true →
        exec (.hintWrite p 8 v) s = .next (s.after (s.dev.hintRecord p v.toNat).1)
        ∧ exec (.hintWrite p 4 v) s = .next (s.after (s.dev.report .host p 0x1800000 1))
        ∧ ∀ n, n ≠ 8 → n ≠ 4 → exec (.hintWrite p n v) s = .next (s.after (s.dev.report .host p 0x1800000 2)))
    ∧ (∀ (v : BitVec 64) (n : Nat), s.dev.reached .host p = false →
        exec (.hintWrite p n v) s = .next (s.after s.dev))

/-- GLOBAL_PERSISTENT_FLUSH at a port that serves in the service group drains every slice and starts a flush of that port, which
waits for every frame with a fold in flight, with dirty data in the basin that no fold took, or with an overflow line, and for every
journal entry that is not durable; elsewhere it changes nothing. FLUSH_COMPLETE changes nothing before all of these have their map
steps and durable entries; then it answers the port or ends the descriptor that waits, closes the titles that an accepted token waits
for, and goes on with the title commands that wait; with the last such title debug is unlocked. STREAM_UNIT_LOADED changes nothing
unless a read waits for the unit; a unit whose digest is right enters the stream buffer, from which the oldest unit goes when it holds
128, and every read that waits is served from it; one whose digest is wrong is recorded and every read that waits returns poison. -/
def Obligations.FlushesAndStreams : Prop :=
  ∀ s : State,
    (∀ p, p < s.dev.sliceCount → s.dev.portServes p = true → s.dev.mode.isService = true →
      let r := s.dev.startFlush (some p) none fun _ _ => true
      exec (.globalPersistentFlush p) s
          = .next (s.after ((List.range s.dev.sliceCount).foldl (fun d i => d.count i 46 1) r.2))
      ∧ ∃ f : Flush, r.2.flushes = s.dev.flushes ++ [f] ∧ f.id = s.dev.nextFlush ∧ f.host = some p ∧ f.desc = none
        ∧ ∀ i, i < s.dev.sliceCount →
            let x := r.2.slice i
            (∀ lfn, ((∃ e, e ∈ x.basin.entries ∧ e.lfn = lfn ∧ e.dirty &&& ~~~ e.folding ≠ 0)
                ∨ (∃ l, l ∈ x.basin.overflow ∧ l.frame = lfn)
                ∨ ∃ w, w ∈ x.flow.rewrites ∧ w.fold = true ∧ w.done = false ∧ w.lfn = lfn) → (i, lfn) ∈ f.frames)
            ∧ (x.journal.durable < x.journal.next → (i, x.journal.next - 1) ∈ f.entries))
    ∧ (∀ p, p < s.dev.sliceCount → (s.dev.portServes p = false ∨ s.dev.mode.isService = false) →
        exec (.globalPersistentFlush p) s = .next (s.after s.dev))
    ∧ (∀ n, s.dev.flushes.find? (·.id == n) = none → exec (.flushComplete n) s = .next (s.after s.dev))
    ∧ (∀ f : Flush, s.dev.flushes.find? (·.id == f.id) = some f →
        let mine (w : Waiter) : Bool := match w.what with
          | .flush id _ _ => id == f.id
          | _ => false
        let a := { s.dev with flushes := s.dev.flushes.filter (·.id != f.id) }
        let b := match f.host with
          | some p => a.emit (.flushDone p f.id)
          | none => a
        let c := match f.desc with
          | some (r, n) => b.descPart r n
          | none => b
        let d := c.closedForDebug f.id
        (s.dev.flushReady f = false → exec (.flushComplete f.id) s = .next (s.after s.dev))
        ∧ (s.dev.flushReady f = true →
            exec (.flushComplete f.id) s = .next (s.after ((d.waiters.filter mine).foldl Dev.titleFlushed d)))
        ∧ (∀ scope, s.dev.flushReady f = true → s.dev.dbg.granted = some scope → (∀ x, x ∈ s.dev.dbg.closing → x.1 = f.id) →
            ∃ t, exec (.flushComplete f.id) s = .next t ∧ t.dev.dbg.unlocked = true ∧ t.dev.dbg.scope = scope
              ∧ t.dev.dbg.granted = none ∧ ∀ x, x ∈ s.dev.dbg.closing → (t.dev.title x.2).state ≠ .opened))
    ∧ (∀ (entry unit : Nat) (data : List Byte),
        let mine := s.dev.cart.streamWaits.filter (s.dev.waitsFor entry unit)
        let c := { s.dev.cart with streamWaits := s.dev.cart.streamWaits.filter fun w => !mine.contains w }
        let d := ({ s.dev with cart := c } : Dev).countPkg 31 (data.length / 256)
        (mine = [] → exec (.streamUnitLoaded entry unit data) s = .next (s.after s.dev))
        ∧ (mine ≠ [] → bytesAt (s.dev.cart.tableOf entry) (48 * unit) 48 = sha384 data →
            let kept := if 128 ≤ c.stream.length then c.stream.tail else c.stream
            exec (.streamUnitLoaded entry unit data) s = .next (s.after (mine.foldl
              (Dev.serveStreamed unit (s.dev.cart.contentLength entry) data)
              { d with cart := { c with stream := kept ++ [(entry, unit, data)] } })))
        ∧ (mine ≠ [] → bytesAt (s.dev.cart.tableOf entry) (48 * unit) 48 ≠ sha384 data →
            exec (.streamUnitLoaded entry unit data) s = .next (s.after (mine.foldl
              (fun d w => d.answerRead w.port w.tag (d.waitClass w) none)
              ((d.countPkg 30 1).event 0x0604 0xFF 1 0xFF ([BitVec.ofNat 8 entry, 0, 0, 0] ++ leBytes 4 unit))))))

/-! ### The medium (R45–R47, R60–R65, R74–R76, R142, R247) -/

/-- The medium's completions. PAGE_READ_COMPLETE ends the read in flight that it names: the decoder's class of what the latch held
decides. A page that decodes is good; an uncorrectable one fails the rebuilds that it serves, else waits for its retry while fewer
than three have been made, and else is a failed read; a cleared or a torn position is void. Map steps that are due, the hold for a full
journal buffer and the conditions of PRESERVE follow. PROGRAM_COMPLETE ends the program of the named bank, and
CLEAR_SEGMENT_COMPLETE its clear segment, with the outcome given; DURABLE_WRITE_COMPLETE answers a durable write whose journal entry
is durable once the earlier ones of its frame are answered, and reports one that is late under a durable bound; VERIFY_COMPLETE makes
a closed slot whose pass has ended VERIFIED. A completion of nothing in progress changes nothing. -/
def Obligations.MediaCompletions : Prop :=
  (∀ (s : State) (i n : Nat), i < s.dev.sliceCount →
     ((s.dev.slice i).flow.flights.find? (·.id == n) = none →
       ∀ errors, exec (.pageReadComplete i n errors) s = .next (s.after s.dev))
     ∧ ∀ (f : Flight) (errors : List Nat), (s.dev.slice i).flow.flights.find? (·.id == n) = some f →
       let page := if f.held then sget (s.dev.slice i).flow.latches f.req.bankNumber none else f.latch
       let d := s.dev.onSlice i fun x => { x with flow := { x.flow with
         flights := x.flow.flights.filter (·.id != f.id)
         queue := x.flow.queue.filter fun q => !f.kept.contains q
         tow := x.flow.tow.filter fun q => !f.kept.contains q } }
       let q := f.req
       let ends (e : Dev) : Prop := exec (.pageReadComplete i n errors) s = .next (s.after (e.settleMedium i))
       (∀ p, page = some (.page p) →
         (decodeClass page errors = .clean → ends (d.goodRead i q f.cls p 0))
         ∧ (∀ k, decodeClass page errors = .corrected k → ends (d.goodRead i q f.cls p k)))
       ∧ (decodeClass page errors = .uncorrectable →
           (q.rebuilds = true → ends (d.rebuildParts i q none))
           ∧ (q.rebuilds = false → q.attempt < 3 → ends (d.onSlice i fun x =>
               { x with flow := { x.flow with tow := x.flow.tow ++ [q.retried d.now] } }))
           ∧ (q.rebuilds = false → 3 ≤ q.attempt → ends (d.failedRead i q)))
       ∧ (decodeClass page errors = .cleared → ends (d.voidRead i q 2))
       ∧ (decodeClass page errors = .torn → ends (d.voidRead i q 1)))
  ∧ (∀ (s : State) (i : Nat), i < s.dev.sliceCount →
       (∀ r g b : Nat,
         let here (c : Chamber) : Bool := c.programming && c.reach == r && c.group == g && c.bank == b
         ((s.dev.slice i).flow.chambers.find? here = none →
           ∀ pass, exec (.programComplete i r g b pass) s = .next (s.after s.dev))
         ∧ ∀ c : Chamber, (s.dev.slice i).flow.chambers.find? here = some c →
           let d := s.dev.onSlice i fun x => { x with flow := { x.flow with chambers := x.flow.chambers.erase c } }
           (c.slot < slotCount →
             exec (.programComplete i r g b true) s
               = .next (s.after ((d.onSlice i fun x => x.programPass c).settleMedium i))
             ∧ exec (.programComplete i r g b false) s
               = .next (s.after (((d.onSlice i fun x => x.programFail c).bankFault i (bankNo r g b) true).settleMedium i)))
           ∧ (slotCount ≤ c.slot →
               let e (pass : Bool) := d.onSlice i fun x =>
                 (x.blockProgrammed c.slot c.pos s.dev.round pass).count (if pass then c.kind.counter else 70) 1
               exec (.programComplete i r g b true) s = .next (s.after ((e true).settleMedium i))
               ∧ exec (.programComplete i r g b false) s
                 = .next (s.after (((e false).bankFault i (bankNo r g b) true).settleMedium i))))
       ∧ (∀ r g b : Nat,
         let here (c : Clear) : Bool := c.running && c.reach == r && c.group == g && c.bank == b
         ((s.dev.slice i).flow.clears.find? here = none →
           ∀ pass, exec (.clearSegmentComplete i r g b pass) s = .next (s.after s.dev))
         ∧ ∀ c : Clear, (s.dev.slice i).flow.clears.find? here = some c →
           let d := s.dev.onSlice i fun x => { x with flow := { x.flow with clears := x.flow.clears.erase c } }
           let worn (d : Dev) : Dev :=
             if 500000 ≤ (d.slice i).clearWear c then d.retireBlock i c 1 else d
           let left (d : Dev) : Dev := d.onSlice i fun x => x.leaveRoot c s.dev.round
           let ended (d : Dev) : Dev := (((left d).onSlice i fun x =>
             ((if c.lent = true ∨ c.root.isSome = true then x else x.finishClearing c.slot).adjustPools).releaseDonors).finishReach
               i).settleMedium i
           (2 ≤ c.left → exec (.clearSegmentComplete i r g b true) s = .next (s.after ((left (s.dev.onSlice i fun x =>
             { x with flow := { x.flow with
               clears := updWhere (· == c) (fun (c : Clear) => { c with running := false, left := c.left - 1 })
                 x.flow.clears } })).settleMedium i)))
           ∧ (c.left ≤ 1 → exec (.clearSegmentComplete i r g b true) s = .next (s.after (ended (worn d))))
           ∧ exec (.clearSegmentComplete i r g b false) s = .next (s.after (ended (worn
               (((d.count i 71 1).retireBlock i c 2).bankFault i (bankNo r g b) true)))))
       ∧ (∀ n, (s.dev.slice i).flow.durables.find? (·.id == n) = none →
           exec (.durableWriteComplete i n) s = .next (s.after s.dev))
       ∧ (∀ w : Durable, (s.dev.slice i).flow.durables.find? (·.id == w.id) = some w →
           let d := s.dev.onSlice i fun x => { x with flow := { x.flow with
             durables := x.flow.durables.filter (·.id != w.id) } }
           let bounded (c : Nat) : Bool := s.dev.declaresDurable i c && s.dev.mode.isService
             && s.dev.mode != .preserve && !(s.dev.slice i).inRecovery
           let late := ((s.dev.slice i).lateClasses s.dev.now w).find? bounded
           (((s.dev.slice i).journal.durable ≤ w.entry ∨ (s.dev.slice i).behind w = true) →
             exec (.durableWriteComplete i w.id) s = .next (s.after s.dev))
           ∧ (w.entry < (s.dev.slice i).journal.durable → (s.dev.slice i).behind w = false →
               (late = none → exec (.durableWriteComplete i w.id) s = .next (s.after (d.acks w.acks)))
               ∧ (∀ c, late = some c → exec (.durableWriteComplete i w.id) s
                   = .next (s.after ((d.contractExceeded i 4 c).acks w.acks)))))
       ∧ (∀ k, ((s.dev.slice i).slot k).state = .closed → (s.dev.slice i).upkeep.verifyQ.contains k = true →
           (s.dev.slice i).verifyEnded k = true → (s.dev.slice i).marksCommitted k = true →
           exec (.verifyComplete i k) s = .next (s.after (s.dev.onSlice i fun x =>
             let y := ((x.onSlot k fun e => { e with state := .verified }).log
               (.state k .verified (x.slot k).writePos)).returnParity k s.dev.round
             ({ y with upkeep := { y.upkeep with
                 verifyQ := y.upkeep.verifyQ.filter (· != k)
                 verifyCur := y.upkeep.verifyCur.filter fun e => e.1 / 64 != k
                 marked := y.upkeep.marked.filter (·.1 != k) } } : Slice).applyReports k))
           ∧ ∃ t, exec (.verifyComplete i k) s = .next t ∧ ((t.dev.slice i).slot k).state = .verified)
       ∧ (∀ k, (((s.dev.slice i).slot k).state ≠ .closed ∨ (s.dev.slice i).upkeep.verifyQ.contains k = false
             ∨ (s.dev.slice i).verifyEnded k = false ∨ (s.dev.slice i).marksCommitted k = false) →
           exec (.verifyComplete i k) s = .next (s.after s.dev)))

/-! ### Upkeep (R211, R212, R218, R223, R225, R236, R244) -/

/-- Upkeep. TRIM performs the oldest trim that no started rewrite holds up, and acknowledges it, where a durable region is trimmed only
once its TRIM entry is durable. SOURCE_INVALIDATE takes a source without a valid frame, whose moves are durable, into CLEARING, and
SOURCE_CLEAR_START lets its clears run once that is durable and no read holds the slot. CHECKPOINT_COPY_TAKEN copies the oldest capture
that waits for no rewrite. TAIL_ADVANCE queues a root record for its blocks while none is on its way; once a record has passed, the
slots of the chain before its tail leave it and start clearing. DRY_TIMEOUT after 256 rounds in DRY takes the package into PRESERVE.
Where its condition does not hold, each changes nothing. -/
def Obligations.UpkeepAdvanced : Prop :=
  ∀ (s : State) (i : Nat), i < s.dev.sliceCount →
    let x := s.dev.slice i
    (x.flow.trims.find? (fun t => !x.trimWaits t) = none → exec (.trim i) s = .next (s.after s.dev))
    ∧ (∀ t, x.flow.trims.find? (fun t => !x.trimWaits t) = some t →
        (t.ack = none → exec (.trim i) s = .next (s.after (s.dev.onSlice i fun x => x.trimNow t)))
        ∧ (∀ a, t.ack = some a → s.dev.trimDurable i t = false →
            exec (.trim i) s = .next (s.after ((s.dev.onSlice i fun x => x.trimNow t).ack a)))
        ∧ (∀ a, t.ack = some a → s.dev.trimDurable i t = true →
            exec (.trim i) s = .next (s.after ((s.dev.onSlice i fun x => x.trimNow t).onSlice i fun y =>
              y.owe x.journal.next t.first 6 [a]))))
    ∧ (∀ k, ((x.slot k).state = .closed ∨ (x.slot k).state = .verified) → x.isSource k = true → (x.slot k).valid = 0 →
        x.moving k = false →
        exec (.sourceInvalidate i k) s = .next (s.after (((s.dev.onSlice i fun x =>
          let x := x.startClearing k s.dev.round
          { x with upkeep := { x.upkeep with
            victim := x.upkeep.victim.filter (· != k)
            staticVictim := x.upkeep.staticVictim.filter (· != k)
            refreshQ := x.upkeep.refreshQ.filter (· != k)
            refreshFirst := x.upkeep.refreshFirst.filter (· != k)
            refreshReported := x.upkeep.refreshReported.filter (· != k)
            marked := x.upkeep.marked.filter (·.1 != k) } }).finishReach i).checkPreserve)))
    ∧ (∀ k, ((x.slot k).state ≠ .closed ∧ (x.slot k).state ≠ .verified ∨ x.isSource k = false ∨ (x.slot k).valid ≠ 0
          ∨ x.moving k = true) →
        exec (.sourceInvalidate i k) s = .next (s.after s.dev))
    ∧ (∀ k, (x.slot k).state = .clearing → (x.slot k).clearEntry < x.journal.durable → x.readsHold k = false →
        exec (.sourceClearStart i k) s = .next (s.after (s.dev.onSlice i fun x => { x with flow := { x.flow with
          clears := updWhere (fun (c : Clear) => c.slot == k && !c.lent) (fun c => { c with ready := true })
            x.flow.clears } })))
    ∧ (∀ k, ((x.slot k).state ≠ .clearing ∨ x.journal.durable ≤ (x.slot k).clearEntry ∨ x.readsHold k = true) →
        exec (.sourceClearStart i k) s = .next (s.after s.dev))
    ∧ (∀ segment c, x.checkpoint.capturing.find? (fun e => !x.captureWaits e.1 e.2) = some (segment, c) →
        exec (.checkpointCopyTaken i) s = .next (s.after (s.dev.onSlice i fun x => x.takeCopy segment c)))
    ∧ (x.checkpoint.capturing.find? (fun e => !x.captureWaits e.1 e.2) = none →
        exec (.checkpointCopyTaken i) s = .next (s.after s.dev))
    ∧ (∀ k, x.tailSlot = some k → s.dev.clock.on = true → (x.sys.chain.takeWhile (· != k)) ≠ [] → x.sys.rootWrite = none →
        exec (.tailAdvance i) s = .next (s.after (s.dev.onSlice i fun x =>
          x.writeRoot false (x.sys.chain.takeWhile (· != k)) s.dev.round)))
    ∧ (∀ (w : RootWrite) (round : Nat), x.sys.rootWrite = some w →
        x.rootPassed round = w.drop.foldl (fun y k => y.startClearing k round) { x with sys := { x.sys with
          root := some w.record, rootWrite := none, rootHold := false
          chain := x.sys.chain.filter fun k => !w.drop.contains k
          pages := x.sys.pages.filter fun p => !p.slot.any w.drop.contains } })
    ∧ ((s.dev.clock.on = false ∨ x.sys.rootWrite ≠ none ∨ ∀ k, x.tailSlot = some k → (x.sys.chain.takeWhile (· != k)) = []) →
        exec (.tailAdvance i) s = .next (s.after s.dev))
    ∧ (x.upkeep.watermark = .dry → 256 ≤ x.upkeep.dryRounds →
        exec (.dryTimeout i) s = .next (s.after (s.dev.enterPreserve 1 i)))
    ∧ ((x.upkeep.watermark ≠ .dry ∨ x.upkeep.dryRounds < 256) →
        exec (.dryTimeout i) s = .next (s.after s.dev))

/-! ### The cache and maintenance at their ends (R272, R284, R286–R288) -/

/-- CACHE_CLEARING_DONE turns an INVALIDATING cache ON, serves the reads held for it in their order and tries its held writes again.
CACHE_DRAIN_DONE, once the basin has taken every dirty line of a DRAINING cache, leaves it OFF with every way cleared, records what a
discard dropped, and answers the commands that wait for OFF. MAINT_DONE offers again what a range operation has not cleaned, and once
nothing named is left sets done and answers the commands that wait. Without such work, or before its end, none of them ends it. -/
def Obligations.CacheWorkEnded : Prop :=
  ∀ (s : State),
    (∀ i, i < s.dev.sliceCount → (s.dev.slice i).cache.state = .invalidating →
      exec (.cacheClearingDone i) s = .next (s.after
        (((s.dev.slice i).flow.heldReads.foldl (fun d r => d.serveRead r.port r.tag r.dpa r.cls ⟨false, false⟩)
          (s.dev.onSlice i fun x =>
            { x with cache := { x.cache with state := .on }, flow := { x.flow with heldReads := [] } })).retryWrites i)))
    ∧ (∀ i, i < s.dev.sliceCount → (s.dev.slice i).cache.state ≠ .invalidating →
        exec (.cacheClearingDone i) s = .next (s.after s.dev))
    ∧ (∀ i, i < s.dev.sliceCount → (s.dev.slice i).cache.state = .draining →
        let x := (s.dev.slice i).drain s.dev.fuses.dram4 s.dev.round fun _ => true
        let y : Slice := { x with cache := { x.cache.clear .off with enableAtTick := false, discarding := false } }
        let d := s.dev.onSlice i fun _ => y.count 137 1
        let c := (s.dev.slice i).cache
        (x.cache.lines.all (·.dirty == 0) = true → c.discarding = false →
          exec (.cacheDrainDone i) s = .next (s.after d.answerCacheOff))
        ∧ (x.cache.lines.all (·.dirty == 0) = true → c.discarding = true →
          exec (.cacheDrainDone i) s = .next (s.after (d.event 0x0301 i 0 0xFF (p6 c.discarded)).answerCacheOff))
        ∧ (x.cache.lines.all (·.dirty == 0) = false → exec (.cacheDrainDone i) s = .next (s.after s.dev))
        ∧ (x.cache.lines.all (·.dirty == 0) = true → i < s.dev.slices.length →
            ∃ t, exec (.cacheDrainDone i) s = .next t
              ∧ (t.dev.slice i).cache.state = .off ∧ (t.dev.slice i).cache.lines = []
              ∧ (∀ k, k ≠ i → t.dev.slice k = s.dev.slice k) ∧ t.dev.active = s.dev.active ∧ t.dev.titles = s.dev.titles))
    ∧ (∀ i, i < s.dev.sliceCount → (s.dev.slice i).cache.state ≠ .draining →
        exec (.cacheDrainDone i) s = .next (s.after s.dev))
    ∧ (∀ m, s.dev.regs.maintRun = some m →
        let d := if s.dev.maintLeft m then s.dev.maintainRange m.op m.first m.count else s.dev
        (d.maintLeft m = true → exec .maintDone s = .next (s.after d))
        ∧ (d.maintLeft m = false →
            let e := { d with regs := { d.regs with maintRun := none, maintDone := true } }
            exec .maintDone s = .next (s.after ((e.waiters.filter (·.what == .maint)).foldl (fun d w =>
              { d with waiters := d.waiters.erase w }.respond w.channel w.opcode w.tag 0 0 []) e))))
    ∧ (s.dev.regs.maintRun = none → exec .maintDone s = .next (s.after s.dev))

/-! ### Ticks, rounds, schedules and temperatures (R16, R86, R115, R172, R179, R182, R385, R480, R509, R517, R543, R544) -/

/-- While the tick runs: TICK_BOUNDARY ends the operations of the ending tick, takes the round boundary at the end of tick 1,023 when it
has not been taken, and, where the tick still runs, latches a due snapshot, goes on with the writing of images and firmware, advances
to the next tick, 0 after 1,023, runs every slice, and goes on with a drain under way. ROUND_BOUNDARY at the end of tick 1,023 does so
once: it reports a round over the write budget, counts the round and the life clock, takes a swap that is due, moves the rung, makes
the upkeep decisions of every slice, enters PRESERVE when a condition holds, and takes a transition that waits. SKIPPED_TICK with
ratio N in force counts one period in N as skipped and advances nothing else. While the tick stands still none of them changes
anything. -/
def Obligations.TicksAndRounds : Prop :=
  ∀ s : State,
    (s.dev.clock.on = true → s.dev.mode.ticks = true →
      (∀ env : TickEnv,
        let ended := s.dev.endTicks env
        let closed := if ended.clock.on = true ∧ ended.mode.ticks = true ∧ ended.clock.tick = 1023
            ∧ ended.clock.roundClosed = false then ended.roundBoundary [] else ended
        let begun := (List.range 3).foldl Dev.fwStep closed.latchDue.storeStep
        let next := { begun with clock := { begun.clock with
          tick := (begun.clock.tick + 1) % 1024, roundClosed := false, abs := begun.clock.abs + 1
          periods := begun.clock.periods + 1, skipCount := begun.clock.skipCount + 1 } }
        let swapDue := next.swap.pending.isSome && decide (next.swap.wait ≤ 1)
        exec (.tickBoundary env) s = .next (s.after (if closed.clock.on = true ∧ closed.mode.ticks = true then
          ((List.range next.sliceCount).foldl (fun d i => d.sliceTick env swapDue i) next).transitionTick else closed)))
      ∧ (∀ fails, s.dev.clock.tick = 1023 → s.dev.clock.roundClosed = false →
          exec (.roundBoundary fails) s = .next (s.after ((s.dev.endTicks quietTick).roundBoundary fails)))
      ∧ (∀ fails, (s.dev.clock.tick ≠ 1023 ∨ s.dev.clock.roundClosed = true) →
          exec (.roundBoundary fails) s = .next (s.after s.dev))
      ∧ (s.dev.clock.skipN ≠ 0 → s.dev.clock.skipN ≤ s.dev.clock.skipCount + 1 →
          exec .skippedTick s = .next (s.after { s.dev.onSlices (fun x => x.count 103 1) with
            clock := { s.dev.clock with skipCount := 0, periods := s.dev.clock.periods + 1 } }))
      ∧ ((s.dev.clock.skipN = 0 ∨ s.dev.clock.skipCount + 1 < s.dev.clock.skipN) →
          exec .skippedTick s = .next (s.after s.dev)))
    ∧ ((s.dev.clock.on = false ∨ s.dev.mode.ticks = false) → ∀ env, exec (.tickBoundary env) s = .next (s.after s.dev)
        ∧ exec .skippedTick s = .next (s.after s.dev))
    ∧ (s.dev.clock.on = false → ∀ fails, exec (.roundBoundary fails) s = .next (s.after s.dev))
    ∧ (∀ (d : Dev) (fails : List (Nat × Nat)), d.clock.on = true → d.mode.ticks = true → d.clock.tick = 1023 →
        d.clock.roundClosed = false →
        let a := (List.range d.sliceCount).foldl Dev.writeRate d
        let b := { a with
          clock := { a.clock with round := a.clock.round + 1, roundClosed := true }
          mirror := { a.mirror with
            lifeClock := (a.mirror.lifeClock + 1) % 2 ^ 48
            seconds := (a.mirror.seconds
              + (roundSeconds (a.mirror.lifeClock + 1) - roundSeconds a.mirror.lifeClock)) % 2 ^ 48 } }
        let c := (b.swapBoundary.methodChange d.throttleMethod).levelBoundary
        d.roundBoundary fails
          = ((List.range d.sliceCount).foldl (fun d i => d.upkeepBoundary fails i) c).checkPreserve.transitionRound.idleBoundary)

/-- SNAPSHOT_LATCH copies every counter of the package and of every slice into its snapshot slot when a snapshot is due and the tick
runs, under the next number; no counter changes. BW_WINDOW_END, at a round boundary whose round count the window divides and which no
window has ended yet, hands the sums of every port to the result slots and starts the next window; where another length waits it
discards the sums and starts a window of that length. Elsewhere neither changes
anything. THERMAL_SAMPLE, while the tick runs and once in a sample period of 16,384 tick periods, reads every enabled sensor, raises the events of the thresholds that rise, warns and
watches each group, moves the throttle target, ages every slice, adds to the life used and the history, makes the retraining that a
temperature calls for due, counts, and takes the package to HALT for a critical run. DROWSE_THERMAL_SAMPLE in DROWSE reads TD_A and
TH_A, keeps the highest reading, and takes the package to HALT for a critical run; a sensor's first reading makes none. Elsewhere
neither changes anything. -/
def Obligations.SamplesTaken : Prop :=
  ∀ s : State,
    (s.dev.counters.snapDue = true → s.dev.clock.on = true →
      ∃ t, exec .snapshotLatch s = .next t
        ∧ t = s.after { s.dev.onSlices (fun x => { x with snapshot := x.counters }) with counters := t.dev.counters }
        ∧ t.dev.counters = { s.dev.counters with
            snapshot := s.dev.counters.package, snapDue := false, snapNumber := (s.dev.counters.snapNumber + 1) % 64
            snapStatus := s.dev.clock.following.1 + s.dev.clock.following.2 * 2 ^ 32
              + (s.dev.counters.snapNumber + 1) % 64 * 2 ^ 42 }
        ∧ (∀ i, i < s.dev.slices.length → (t.dev.slice i).snapshot = (s.dev.slice i).counters)
        ∧ ∀ i, (t.dev.slice i).counters = (s.dev.slice i).counters)
    ∧ ((s.dev.counters.snapDue = false ∨ s.dev.clock.on = false) → exec .snapshotLatch s = .next (s.after s.dev))
    ∧ (let c := s.dev.counters
       let r := s.dev.clock.round.toNat
       s.dev.atRoundBoundary = true → r ≠ c.windowLast →
        (c.windowNext = none → r % c.window = 0 →
          exec .bwWindowEnd s = .next (s.after { s.dev with
            counters := { c with windowLast := r, windowStart := s.dev.clock.periods, windowEnd := r
                                 windowSpan := s.dev.clock.periods - c.windowStart }
            ports := s.dev.ports.map fun p => { p with bwReadResult := p.bwRead, bwWriteResult := p.bwWrite
                                                       bwRead := List.replicate 8 0, bwWrite := List.replicate 8 0 } }))
        ∧ (∀ w, c.windowNext = some w → r % w = 0 →
            exec .bwWindowEnd s = .next (s.after { s.dev with
              counters := { c with window := w, windowNext := none, windowLast := r, windowStart := s.dev.clock.periods }
              ports := s.dev.ports.map fun p =>
                { p with bwRead := List.replicate 8 0, bwWrite := List.replicate 8 0 } }))
        ∧ ((c.windowNext = none ∧ r % c.window ≠ 0 ∨ ∃ w, c.windowNext = some w ∧ r % w ≠ 0) →
            exec .bwWindowEnd s = .next (s.after s.dev)))
    ∧ ((s.dev.atRoundBoundary = false ∨ s.dev.clock.round.toNat = s.dev.counters.windowLast) →
        exec .bwWindowEnd s = .next (s.after s.dev))
    ∧ (∀ input, s.dev.clock.on = true → s.dev.thermal.sampled ≠ some (s.dev.clock.periods / 16384) →
        let d := ({ s.dev with thermal := { s.dev.thermal with
          sampled := some (s.dev.clock.periods / 16384) } } : Dev).takeSample (s.dev.inputs input)
        let c := ((List.range 3).foldl Dev.warnGroup (d.riseEvents d.rising)).criticalRuns
        let e := (List.range s.dev.sliceCount).foldl Dev.ageSlice (c.1.moveLevel (!d.rising.isEmpty))
        exec (.thermalSample input) s = .next (s.after
          ((((e.addLife).history).retrainByTemp input.mr4).onSlices (fun x => x.count 148 1) |>.critical c.2)))
    ∧ (∀ input, (s.dev.clock.on = false ∨ s.dev.thermal.sampled = some (s.dev.clock.periods / 16384)) →
        exec (.thermalSample input) s = .next (s.after s.dev))
    ∧ (∀ a h, s.dev.mode = .drowse →
        let n := 4 * s.dev.sliceCount
        let ins := (s.dev.inputs ⟨[], a, none, h, none, []⟩).filter fun (e : Nat × Option Int) => e.1 == n || e.1 == n + 2
        let high := (hottest (ins.filterMap fun (e : Nat × Option Int) => e.2.map fun t => (e.1, t))).map (·.2)
        let d := { s.dev with thermal := { s.dev.thermal with
          sensors := ins.foldl (fun (m : Sparse Sensor) (e : Nat × Option Int) => sset m e.1 ((sget m e.1 {}).sample e.2)) s.dev.thermal.sensors
          drowseSamples := s.dev.thermal.drowseSamples + 1
          drowseHigh := match s.dev.thermal.drowseHigh, high with
            | some x, some y => some (max x y)
            | x, none => x
            | none, y => y } }
        (d.criticalRuns.2 = [] → exec (.drowseThermalSample a h) s = .next (s.after d.criticalRuns.1))
        ∧ (d.criticalRuns.2 ≠ [] → exec (.drowseThermalSample a h) s
            = .next (s.after (d.criticalRuns.1.latchFault 0x1000).halt))
        ∧ (s.dev.thermal.sensors = [] → d.criticalRuns.2 = []))
    ∧ (∀ a h, s.dev.mode ≠ .drowse → exec (.drowseThermalSample a h) s = .next (s.after s.dev))

/-- SHADOW_COPY_DONE ends the copying of a swap: the slot table of every slice is copied into its shadow set, and after a swap of every
group the other groups too. FIRMWARE_VARIANT_CHANGE, with a change due and no swap pending while the tick runs, loads the variants for
the rung that the swap is to bring and requests a swap of the slot tables. IDLE_EXIT leaves IDLE for SERVICE at rung 0 once a port or
the sideband asked for it. ALARM_POLICY_ACTION after the fourth tag alarm of a slice in a round counts, and lets the policy act, once:
nothing, slice recovery, or a latched fault and HALT. Elsewhere each changes nothing. -/
def Obligations.ScheduleUpkeep : Prop :=
  ∀ s : State,
    (∀ k, s.dev.swap.copying = some k →
      exec .shadowCopyDone s = .next (s.after
        { s.dev.onSlices (fun x => { x with shadow := x.active, shadowSource := x.source }) with
          shadow := if k = .all then s.dev.active else s.dev.shadow
          images := { s.dev.images with leaving := none }
          swap := { s.dev.swap with copying := none } }))
    ∧ (s.dev.swap.copying = none → exec .shadowCopyDone s = .next (s.after s.dev))
    ∧ (s.dev.swap.changeDue = true → s.dev.swapPending = false → s.dev.clock.on = true →
        let d := { s.dev with swap := { s.dev.swap with changeDue := false, taking := s.dev.swap.rung, rung := none } }
        let rung := if s.dev.throttleMethod = 1 then (s.dev.swap.rung).getD s.dev.rung else 0
        exec .firmwareVariantChange s = .next (s.after ((d.loadShadows rung true).acceptSwap .tables)))
    ∧ ((s.dev.swap.changeDue = false ∨ s.dev.swapPending = true ∨ s.dev.clock.on = false) →
        exec .firmwareVariantChange s = .next (s.after s.dev))
    ∧ (s.dev.mode = .idle → s.dev.regs.idleExit = true →
        exec .idleExit s = .next (s.after
          { s.dev.dropRung with mode := .service, regs := { s.dev.regs with idleExit := false } })
        ∧ s.dev.dropRung.rung = 0 ∧ s.dev.dropRung.clock.skipN = 0)
    ∧ ((s.dev.mode ≠ .idle ∨ s.dev.regs.idleExit = false) → exec .idleExit s = .next (s.after s.dev))
    ∧ (∀ i, i < s.dev.sliceCount → 4 ≤ (s.dev.slice i).alarmsInRound → (s.dev.slice i).policyActed = false →
        let d := (s.dev.onSlice i fun x => { x with policyActed := true }).countPkg 12 1
        (s.dev.alarms.policy ≠ 1 → s.dev.alarms.policy ≠ 2 → exec (.alarmPolicyAction i) s = .next (s.after d))
        ∧ (s.dev.alarms.policy = 1 → exec (.alarmPolicyAction i) s = .next (s.after (d.sliceRecovery i 2)))
        ∧ (s.dev.alarms.policy = 2 → exec (.alarmPolicyAction i) s = .next (s.after (d.latchFault 0x2000).halt)))
    ∧ (∀ i, i < s.dev.sliceCount → ((s.dev.slice i).alarmsInRound < 4 ∨ (s.dev.slice i).policyActed = true) →
        exec (.alarmPolicyAction i) s = .next (s.after s.dev))

/-! ### The cartridge port (R461–R467, R476) -/

/-- The cartridge port. CART_REFCLK_START, CART_PERST_RELEASE, CART_LINK_UP, CART_SHUTDOWN_DONE, CART_REFCLK_STOP and
CART_PWR_EN_FALL go on with the power sequence step by step: clock, PERST_N release, link, and back down through PERST_N, the clock
and CART_PWR_EN, whose fall answers the command that asked for it; a step out of turn changes nothing. CART_CLKREQ_CHANGE follows the
card's request for the clock; a link trains at 1, 2 or 4 lanes and 2.5, 8 or 16 GT/s. CARD_PRESENT notifies a card that is seated and powers nothing. CARD_REMOVED and CART_FAILURE end a
card's service: no session, manifest, hash table, streamed unit or waiting read stays, a powered port goes on to its power-off
sequence, and every INSTALL in progress ends with TIMEOUT; after a failure the card is still present. CARD_REQUEST outside the window
is refused and recorded; a write into the protected staging areas is dropped and recorded unless a Read of the device is in progress; a
read of the window is answered, and a write into the card's own area changes nothing. -/
def Obligations.CartridgePort : Prop :=
  (∀ s : State,
     let c := s.dev.cart
     let put (x : Cart) : State := s.after { s.dev with cart := x }
     (c.step = 1 → exec .cartRefclkStart s
       = .next (put { c with refclkStarted := true, step := 2, refclk := c.clkreqLow || !c.perstHigh }))
     ∧ (c.step = 2 → exec .cartPerstRelease s
       = .next (put { c with perstHigh := true, step := 3, refclk := c.refclkStarted && c.clkreqLow }))
     ∧ (c.step = 3 → ∀ w v, cartTrains w v = true → exec (.cartLinkUp w v) s
       = .next (put { c with linkUp := true, width := w, speed := v, step := 4 }))
     ∧ (∀ w v, cartTrains w v = true ↔ (w = 1 ∨ w = 2 ∨ w = 4) ∧ (v = 5 ∨ v = 16 ∨ v = 32))
     ∧ (∀ low, (s.dev.mode.ticks = true → exec (.cartClkreqChange low) s
         = .next (put { c with clkreqLow := low, refclk := c.refclkStarted && (low || !c.perstHigh) }))
       ∧ (s.dev.mode.ticks = false → exec (.cartClkreqChange low) s = .next (s.after s.dev)))
     ∧ (c.step = 5 → exec .cartShutdownDone s = .next (put
         { c with perstHigh := false, linkUp := false, queues := false, width := 0, speed := 0, step := 6, refclk := c.refclkStarted }))
     ∧ (c.step = 6 → exec .cartRefclkStop s = .next (put { c with refclkStarted := false, step := 7, refclk := false }))
     ∧ (c.step = 7 → exec .cartPwrEnFall s = .next (s.after ((s.dev.waiters.filter (·.what == .cartOff)).foldl
         (fun d w => { d with waiters := d.waiters.erase w }.respond w.channel w.opcode w.tag 0 0 [])
         { s.dev with cart := { c with pwrEn := false, step := 0 } })))
     ∧ (c.step ≠ 1 → exec .cartRefclkStart s = .next (s.after s.dev))
     ∧ (c.step ≠ 2 → exec .cartPerstRelease s = .next (s.after s.dev))
     ∧ (∀ w v, (c.step ≠ 3 ∨ cartTrains w v = false) → exec (.cartLinkUp w v) s = .next (s.after s.dev))
     ∧ (c.step ≠ 5 → exec .cartShutdownDone s = .next (s.after s.dev))
     ∧ (c.step ≠ 6 → exec .cartRefclkStop s = .next (s.after s.dev))
     ∧ (c.step ≠ 7 → exec .cartPwrEnFall s = .next (s.after s.dev)))
  ∧ (∀ s : State,
       let c := s.dev.cart
       let ended (t : State) (here : Bool) : Prop :=
         t.dev.cart = Cart.cutPower { c with
           auth := 0, session := false, manifest := [], hashTables := [], stream := [], streamWaits := [], present := here }
         ∧ ∀ n, (t.dev.ring n).descs = (s.dev.ring n).descs.map fun x =>
             if x.started && x.status.isNone && x.field 0 2 == 2 then { x with pending := 0, status := some 0x0C } else x
       (s.dev.mode.ticks = true → c.present = false → exec .cardPresent s
         = .next (s.after (({ s.dev with cart := { c with present := true } } : Dev).notifyCart true false)))
       ∧ ((s.dev.mode.ticks = false ∨ c.present = true) → exec .cardPresent s = .next (s.after s.dev))
       ∧ (s.dev.mode.ticks = true → c.present = true →
           exec .cardRemoved s = .next (s.after
             (((s.dev.cartEnd.onCart fun c => ({ c with present := false } : Cart).cutPower).event 0x0601 0xFF
               (b2n s.dev.streaming) 0xFF []).notifyCart false s.dev.streaming))
           ∧ ∃ t, exec .cardRemoved s = .next t ∧ ended t false)
       ∧ ((s.dev.mode.ticks = false ∨ c.present = false) → exec .cardRemoved s = .next (s.after s.dev))
       ∧ (c.linkUp = true → ∀ f,
           let d := (s.dev.cartEnd.onCart Cart.cutPower).event 0x0602 0xFF (cardFaultReason f) 0xFF []
           exec (.cartFailure f) s
               = .next (s.after (if s.dev.streaming then d.notifyCart d.cart.present true else d))
           ∧ ∃ t, exec (.cartFailure f) s = .next t ∧ ended t c.present)
       ∧ (∀ x : Cart, x.pwrEn = true → x.step < 6 →
           x.cutPower.perstHigh = false ∧ x.cutPower.linkUp = false ∧ x.cutPower.step = 6)
       ∧ (c.linkUp = false → ∀ f r, exec (.cartFailure f) s = .next (s.after s.dev)
           ∧ exec (.cardRequest r) s = .next (s.after s.dev))
       ∧ (c.linkUp = true → ∀ r : CardReq,
           let last := r.address + r.bytes
           (0x4000000 < last → (r.write = false ∨ r.address ≠ 0x4000000 ∨ r.bytes ≠ 4) →
             exec (.cardRequest r) s
               = .next (s.after ((s.dev.emit .cardRefused).event 0x0603 0xFF 1 0xFF (leBytes 8 r.address))))
           ∧ (r.write = true → 0x100000 < last → last ≤ 0x4000000 → s.dev.cardReading = false →
               exec (.cardRequest r) s = .next (s.after (s.dev.event 0x0603 0xFF 2 0xFF (leBytes 8 r.address))))
           ∧ (r.write = true → 0x100000 < last → last ≤ 0x4000000 → s.dev.cardReading = true →
               let d := { s.dev with draws := s.dev.draws + 1 }
               (exec (.cardRequest r) s = .next (s.after d)
                 ∨ exec (.cardRequest r) s = .next (s.after (d.event 0x0603 0xFF 2 0xFF (leBytes 8 r.address)))))
           ∧ (r.write = true → r.address = 0x4000000 → r.bytes = 4 → exec (.cardRequest r) s = .next (s.after s.dev))
           ∧ (r.write = true → last ≤ 0x100000 → exec (.cardRequest r) s = .next (s.after s.dev))
           ∧ (r.write = false → last ≤ 0x4000000 → ∃ b : List Byte, b.length = r.bytes
               ∧ exec (.cardRequest r) s
                   = .next (s.after (({ s.dev with draws := s.dev.draws + 1 } : Dev).emit (.cardData b))))))

/-! ### The power sequencer (R477, R478, R482, R484, R488–R504) -/

/-- Going up. ALWAYS_ON_POWER_ON starts the always-on domain from OFF in HELD. START_CONDITION_MET at rest in state 1, and in HALT whose
only halting cause is EXTERNAL, finishes the state, unless RESET_N is low or SEQ_FAULT_N is held. BARRIER_RELEASE enables the next
rail in each of the states 1 to 8, goes on in 9 and 10, and opens the boot in state 11; an unfinished state is not left. RAIL_GOOD
finishes the state of an enabled rail, and RAIL_RAMP_TIMEOUT of one that is not good latches its fault and goes to HALT; a rail whose
turn it is not changes nothing. The sequencers of the slices stand in the same state. -/
def Obligations.RailsRaised : Prop :=
  ∀ s : State,
    let q := s.dev.seq
    (s.dev.mode = .off → exec .alwaysOnPowerOn s
      = .next (s.after (Dev.follow { s.dev with mode := .held, seq := {}, alarms := {}, mirror := {} })))
    ∧ (s.dev.mode ≠ .off → exec .alwaysOnPowerOn s = .next (s.after s.dev))
    ∧ ((s.dev.mode = .held ∨ s.dev.mode = .dormant) → q.state = 1 → (q.mayStart = true ∨ q.wake = true) →
        q.resetHigh = true → q.faultLow = false →
        exec .startConditionMet s = .next (s.after (Dev.follow
          { s.dev with seq := { q with finished := true, vinGood := true, pfailHigh := true } })))
    ∧ (s.dev.mode = .halt → q.state = 15 → q.latch &&& 0xB300 = 0 → q.resetHigh = true → q.faultLow = false →
        exec .startConditionMet s = .next (s.after (Dev.follow { s.dev with
          mode := .held, seq := { q with state := 1, finished := true, vinGood := true, pfailHigh := true } })))
    ∧ ((q.resetHigh = false ∨ q.faultLow = true) → exec .startConditionMet s = .next (s.after s.dev))
    ∧ (q.finished = false → exec .barrierRelease s = .next (s.after s.dev.follow))
    ∧ (∀ n, n < 8 → q.state = n + 1 → q.finished = true →
        exec .barrierRelease s = .next (s.after (Dev.follow { s.dev with
          mode := .held
          seq := { q with
            en := withBit q.en n, state := n + 2, finished := false, wake := false, mayStart := false
            vppDischarge := if n = 6 then false else q.vppDischarge } })))
    ∧ (q.state = 9 → q.finished = true →
        exec .barrierRelease s = .next (s.after (Dev.follow { s.dev with seq := { q with state := 10 } })))
    ∧ (q.state = 10 → q.finished = true →
        exec .barrierRelease s = .next (s.after
          ({ s.dev with seq := { q with state := 11, finished := false } } : Dev).openBoot.follow))
    ∧ (∀ n, n < 8 → q.state = n + 2 → has q.en n = true →
        exec (.railGood n) s = .next (s.after { s.dev with seq := { q with pg := withBit q.pg n, finished := true } }))
    ∧ (∀ n, n < 8 → q.state = n + 2 → q.finished = false →
        exec (.railRampTimeout n) s = .next (s.after (s.dev.latchFault (latchBit n ||| 0x100)).halt))
    ∧ (∀ n, q.state = n + 2 → q.finished = true → exec (.railRampTimeout n) s = .next (s.after s.dev))
    ∧ (∀ n, q.state = n + 2 → has q.en n = false → exec (.railGood n) s = .next (s.after s.dev))
    ∧ (∀ n, q.state ≠ n + 2 → exec (.railGood n) s = .next (s.after s.dev)
        ∧ exec (.railRampTimeout n) s = .next (s.after s.dev))
    ∧ (∀ (d : Dev) (i : Nat), i < d.slices.length → (d.follow.slice i).sequencer = d.seq.state)

/-- Going down. BARRIER_RELEASE takes states 12 and 13 into the descents of the rails 7 to 5 and 4 to 0, and state 14 into rest, in
state 15 for HALT and in state 1 otherwise. RAIL_OFF of a rail whose enable is low lets the next one fall when its fall was awaited.
RAIL_OFF_TIMEOUT of the rail awaited latches its fault, but in a power fail, and lets the next one fall; for VPP it asserts the
discharge instead, which VPP_DISCHARGE_TIMEOUT ends by letting VARR fall and VPP_CLAMP_RELEASE releases once VPP is low. A rail whose
turn it is not, and a discharge that does not run, change nothing. -/
def Obligations.RailsLowered : Prop :=
  ∀ s : State,
    let q := s.dev.seq
    let put (x : Sequencer) : State := s.after { s.dev with seq := x }
    (q.finished = true →
      (q.state = 12 → exec .barrierRelease s = .next (s.after (Dev.follow { s.dev with
          seq := ({ q with state := 13, finished := false, turn := none } : Sequencer).lower [7, 6, 5] })))
      ∧ (q.state = 13 → exec .barrierRelease s = .next (s.after (Dev.follow { s.dev with
          seq := ({ q with state := 14, finished := false, turn := none } : Sequencer).lower [4, 3, 2, 1, 0] })))
      ∧ (q.state = 14 → q.target = .halt → exec .barrierRelease s = .next (s.after (Dev.follow { s.dev with
          seq := { q with state := 15, finished := false, powerFailing := false } })))
      ∧ (q.state = 14 → q.target ≠ .halt → exec .barrierRelease s = .next (s.after (Dev.follow { s.dev with
          seq := { q with state := 1, finished := false, powerFailing := false } }))))
    ∧ (∀ n, has q.en n = false →
        let x := { q with pg := sansBit q.pg n }
        (q.turn = some n → exec (.railOff n) s = .next (put x.nextDown))
        ∧ (q.turn ≠ some n → exec (.railOff n) s = .next (put x)))
    ∧ (∀ n, has q.en n = true → exec (.railOff n) s = .next (s.after s.dev))
    ∧ (∀ n, q.turn = some n → n ≠ 6 →
        let d := if q.powerFailing then s.dev else s.dev.latchFault (latchBit n ||| 0x400)
        exec (.railOffTimeout n) s = .next (s.after { d with seq := d.seq.nextDown }))
    ∧ (q.turn = some 6 →
        let d := if q.powerFailing then s.dev else s.dev.latchFault (latchBit 6 ||| 0x400)
        (q.vppDischarge = false → exec (.railOffTimeout 6) s = .next (s.after
          (({ d with seq := { d.seq with vppDischarge := true } } : Dev).latchFault 0x800)))
        ∧ (q.vppDischarge = true → exec (.railOffTimeout 6) s = .next (s.after d)))
    ∧ (∀ n, q.turn ≠ some n → exec (.railOffTimeout n) s = .next (s.after s.dev))
    ∧ (q.vppDischarge = true → q.turn = some 6 → exec .vppDischargeTimeout s = .next (put q.nextDown))
    ∧ ((q.vppDischarge = false ∨ q.turn ≠ some 6) → exec .vppDischargeTimeout s = .next (s.after s.dev))
    ∧ (has q.pg 6 = false → exec .vppClampRelease s = .next (put { q with vppDischarge := false }))
    ∧ (has q.pg 6 = true → exec .vppClampRelease s = .next (s.after s.dev))

/-- Faults of the sequencer; each of these four commands completes in every state. RAIL_FAILURE of a good rail leaves the rail low: it
latches the rail with POWER_UP before state 11 or RUN in it and the package that is up is in HALT, or on the way down the rail with
POWER_DOWN, and the mode stays. RAIL_SHORT_DROP adds one to the short-drop count. BARRIER_TIMEOUT in a finished barrier state latches
BARRIER, and EXTERNAL_FAULT with rails up EXTERNAL, and the package is in HALT. In full: RAIL_FAILURE of a good rail latches its cause (power-up before state 11, running in it, power-down after)
and takes a package that is up to HALT; with VARR, VPP falls too and is discharged; in a power fail a drop on the way down is
expected. RAIL_SHORT_DROP is only counted, and recorded while the firmware runs. BARRIER_TIMEOUT in a finished barrier state, and
EXTERNAL_FAULT with rails up, latch their causes and go to HALT. Each latched cause joins the latch, the first one with its state; a
package in HALT, or OFF, goes nowhere for it. Elsewhere none of them changes anything. -/
def Obligations.SequencerFaults : Prop :=
  ∀ s : State,
    let q := s.dev.seq
    let halted : Mode := if s.dev.mode = .off then .off else .halt
    (∀ n, has q.en n = true → has q.pg n = true →
      let clamp : BitVec 16 := if n = 5 ∧ has q.en 6 = true then 0x800 else 0
      (q.state < 12 → ∃ t, exec (.railFailure n) s = .next t
        ∧ t.dev.seq.latch = q.latch ||| latchBit n ||| (if q.state = 11 then 0x200 else 0x100) ||| clamp
        ∧ t.dev.mode = halted ∧ t.pending = s.pending)
      ∧ (12 ≤ q.state → ∃ t, exec (.railFailure n) s = .next t
        ∧ t.dev.seq.latch = q.latch ||| (if q.powerFailing then 0 else latchBit n ||| 0x400) ||| clamp
        ∧ t.dev.seq.pg = sansBit q.pg n ∧ t = s.after { s.dev with seq := t.dev.seq })
      ∧ (∃ t, exec (.railShortDrop n) s = .next t ∧ t.dev.seq = { q with shortDrops := q.shortDrops + 1 }))
    ∧ (q.finished = true → (2 ≤ q.state ∧ q.state ≤ 10 ∨ 12 ≤ q.state ∧ q.state ≤ 14) →
        ∃ t, exec .barrierTimeout s = .next t ∧ t.dev.seq.latch = q.latch ||| 0x8000 ∧ t.dev.mode = halted)
    ∧ (2 ≤ q.state → q.state ≤ 11 → q.en ≠ 0 →
        ∃ t, exec .externalFault s = .next t ∧ t.dev.seq.latch = q.latch ||| 0x4000 ∧ t.dev.mode = halted)
    ∧ (∀ n, has q.en n = true → has q.pg n = true →
      let d := { s.dev with seq := { q with pg := sansBit q.pg n } }
      let clamped (e : Dev) : Dev :=
        ({ e with seq := { e.seq with en := sansBit e.seq.en 6, vppDischarge := true } } : Dev).latchFault 0x800
      let alone := n ≠ 5 ∨ has q.en 6 = false
      (q.state = 11 → alone →
        exec (.railFailure n) s = .next (s.after (d.latchFault (latchBit n ||| 0x200)).halt))
      ∧ (q.state < 11 → alone →
        exec (.railFailure n) s = .next (s.after (d.latchFault (latchBit n ||| 0x100)).halt))
      ∧ (12 ≤ q.state → alone → q.powerFailing = true → exec (.railFailure n) s = .next (s.after d))
      ∧ (12 ≤ q.state → alone → q.powerFailing = false →
        exec (.railFailure n) s = .next (s.after (d.latchFault (latchBit n ||| 0x400))))
      ∧ (¬alone →
          (q.state = 11 → exec (.railFailure n) s
            = .next (s.after (clamped (d.latchFault (latchBit 5 ||| 0x200))).halt))
          ∧ (q.state < 11 → exec (.railFailure n) s
            = .next (s.after (clamped (d.latchFault (latchBit 5 ||| 0x100))).halt))
          ∧ (12 ≤ q.state → q.powerFailing = true → exec (.railFailure n) s = .next (s.after (clamped d)))
          ∧ (12 ≤ q.state → q.powerFailing = false → exec (.railFailure n) s
            = .next (s.after ((clamped d).latchFault (latchBit 5 ||| 0x400)))))
      ∧ (let e := ({ s.dev with seq := { q with shortDrops := q.shortDrops + 1 } } : Dev).countPkg 23 1
         (s.dev.mode.ticks = true → exec (.railShortDrop n) s = .next (s.after (e.packageEvent 0x0501 n)))
         ∧ (s.dev.mode.ticks = false → exec (.railShortDrop n) s = .next (s.after e))))
    ∧ (∀ n, (has q.en n = false ∨ has q.pg n = false) → exec (.railFailure n) s = .next (s.after s.dev)
        ∧ exec (.railShortDrop n) s = .next (s.after s.dev))
    ∧ (q.finished = true → (2 ≤ q.state ∧ q.state ≤ 10 ∨ 12 ≤ q.state ∧ q.state ≤ 14) →
        exec .barrierTimeout s = .next (s.after (s.dev.latchFault 0x8000).halt))
    ∧ ((q.finished = false ∨ q.state < 2 ∨ q.state = 11 ∨ 14 < q.state) →
        exec .barrierTimeout s = .next (s.after s.dev))
    ∧ (2 ≤ q.state → q.state ≤ 11 → q.en ≠ 0 →
        exec .externalFault s = .next (s.after (s.dev.latchFault 0x4000).halt))
    ∧ ((q.en = 0 ∨ q.state < 2 ∨ 11 < q.state) → exec .externalFault s = .next (s.after s.dev))
    ∧ (∀ c : BitVec 16, (s.dev.latchFault c).seq.latch = q.latch ||| c
        ∧ (s.dev.latchFault c).seq.stateAtFault = (if q.latch = 0 then q.state else q.stateAtFault)
        ∧ (s.dev.latchFault c).halt.mode = (if s.dev.mode = .off then .off else .halt)
        ∧ ((s.dev.mode = .halt ∨ s.dev.mode = .off) → (s.dev.latchFault c).halt = s.dev.latchFault c))

/-- Losses of power. POWER_FAIL and RESET_N_LOW with the rails up take the package down in state 12 into HELD, with no ring, no waiting
command, no link, no open title, no local key and no configuration left; where state 11 was reached in a mode whose firmware runs, the
last-gasp record of the trigger is written first (POWER_FAIL by VIN_AON alone writes it only while the parameter store is idle). On
the way down they only change the target to HELD, and at rest in state 1 they let the next start come without a wake. In OFF and HALT
they change the pin alone; RESET_N low widens every narrowed port. RESET_N_HIGH from HALT at rest begins a latched start, and elsewhere
changes the pin alone. AON_POWER_OFF is OFF at once with the always-on state gone. -/
def Obligations.PowerDropped : Prop :=
  ∀ (s : State) (cut : List CutGroup),
    let q := s.dev.seq
    let low := { s.dev with ports := s.dev.ports.map Port.widen, seq := { q with resetHigh := false } }
    let fail (pfail : Bool) : Dev :=
      { s.dev with seq := if pfail then { q with pfailHigh := false } else { q with vinGood := false } }
    let lost (t : State) : Prop :=
      t.dev.mode = .held ∧ t.dev.seq.state = 12 ∧ t.dev.seq.target = .held ∧ t.dev.seq.powerFailing = true
        ∧ t.dev.rings = [] ∧ t.dev.waiters = [] ∧ (∀ p, (t.dev.port p).link = .down)
        ∧ (∀ k, (t.dev.title k).state ≠ .opened) ∧ t.dev.keys = {} ∧ t.dev.active = {}
        ∧ (∀ i, (t.dev.slice i).dram.key = none ∧ (t.dev.slice i).engine = {})
    (s.dev.mode ≠ .off → s.dev.mode ≠ .halt → 2 ≤ q.state → q.state ≤ 11 →
      (∃ t, exec (.resetNLow cut) s = .next t ∧ lost t ∧ t.dev.seq.resetHigh = false)
      ∧ (∃ t, exec (.powerFail true cut) s = .next t ∧ lost t ∧ t.dev.seq.pfailHigh = false)
      ∧ (∃ t, exec (.powerFail false cut) s = .next t ∧ lost t ∧ t.dev.seq.vinGood = false)
      ∧ (q.state ≤ 10 → exec (.resetNLow cut) s = .next (s.after (low.descend .held true))
          ∧ ∀ b, exec (.powerFail b cut) s = .next (s.after ((fail b).descend .held true)))
      ∧ (q.state = 11 →
          exec (.resetNLow cut) s = .next (s.after (((low.abandonSwap 2).lastGasp 3).descend .held true))
          ∧ exec (.powerFail true cut) s = .next (s.after ((((fail true).abandonSwap 3).lastGasp 1).descend .held true))
          ∧ ((q.pfailHigh = false ∨ s.dev.pstore.writing = none) → exec (.powerFail false cut) s
              = .next (s.after ((((fail false).abandonSwap 3).lastGasp 2).descend .held true)))
          ∧ (q.pfailHigh = true → s.dev.pstore.writing ≠ none →
              let d := (fail false).abandonSwap 3
              exec (.powerFail false cut) s
                = .next (s.after (({ d with pstore := d.pstore.cutPage cut } : Dev).descend .held true)))))
    ∧ (s.dev.mode ≠ .off → s.dev.mode ≠ .halt → q.state = 1 →
        let rest (d : Dev) : State := s.after
          { d with mode := .held, seq := { d.seq with mayStart := true, wake := false, finished := false } }
        exec (.resetNLow cut) s = .next (rest low) ∧ ∀ b, exec (.powerFail b cut) s = .next (rest (fail b)))
    ∧ (s.dev.mode ≠ .off → s.dev.mode ≠ .halt → 12 ≤ q.state →
        let down (d : Dev) : State := s.after
          { d with mode := .held, seq := { d.seq with target := .held, mayStart := true, powerFailing := true } }
        exec (.resetNLow cut) s = .next (down low) ∧ ∀ b, exec (.powerFail b cut) s = .next (down (fail b)))
    ∧ ((s.dev.mode = .off ∨ s.dev.mode = .halt) →
        exec (.resetNLow cut) s = .next (s.after low) ∧ ∀ b, exec (.powerFail b cut) s = .next (s.after (fail b)))
    ∧ (s.dev.mode = .halt → q.state = 15 → q.resetHigh = false →
        exec .resetNHigh s = .next (s.after (Dev.follow { s.dev with
          mode := .held
          seq := { q with
            resetHigh := true, state := 1, target := .held, finished := false, mayStart := true, wake := false
            latchedStart := q.latch &&& 0xB300 != 0, faultLow := false } })))
    ∧ ((s.dev.mode ≠ .halt ∨ q.state ≠ 15 ∨ q.resetHigh = true) →
        exec .resetNHigh s = .next (s.after { s.dev with seq := { q with resetHigh := true } }))
    ∧ (∃ t, exec .aonPowerOff s = .next t
        ∧ t = s.after (Dev.follow
            (let d := ({ s.dev with pstore := s.dev.pstore.cutPage [] } : Dev).losePower
             { d with
               mode := .off, ports := d.ports.map Port.widen
               seq := { ({} : Sequencer) with state := 0, mayStart := false }, alarms := {}, mirror := {} }))
        ∧ t.dev.mode = .off ∧ t.dev.seq.state = 0 ∧ t.dev.seq.en = 0
        ∧ t.dev.rings = [] ∧ t.dev.mirror = {} ∧ t.dev.alarms = {} ∧ (∀ p, (t.dev.port p).link = .down)
        ∧ (∀ k, (t.dev.title k).state ≠ .opened) ∧ t.dev.fuses = s.dev.fuses)

/-! ### Starts, shutdowns and warm resets (R187, R225, R346, R477–R479, R483, R484) -/

/-- In BOOT before the tick: DRAM_TRAINING_DONE leaves its slice trained, with results and oscillator readings of every channel that are
free values, and retires each channel that failed three times in a row; a density mismatch is recorded and puts the slice in slice
recovery. TICK_START, with every slice trained and filled and no firmware that failed its check, starts the tick at tick 0 of round 0
with the boot image and the selected variants; a start after a loss of the maps rebuilds them and validates the newest image.
BOOT_COMPLETE, once the tick runs and no swap is pending, saves the mirrors and ends BOOT in RECOVERY when the package must stay there
and in the service group otherwise. Elsewhere none of them changes anything. The check of the firmware (R29): a start loads the newest
copies of both processors' firmware, a resume keeps what ran; only in MACE does one that fails hold the package back, and no mailbox
request is served then. -/
def Obligations.StartsRun : Prop :=
  (∀ s : State, s.dev.mode = .boot →
    let d := s.dev
    (d.clock.on = false → ∀ i, i < d.sliceCount → (d.slice i).dram.trained = false →
      ∃ results readings : List Nat, results.length = 8 ∧ readings.length = 8
        ∧ (let trained (good : Bool) : Dev := ({ d with draws := d.draws + 16 } : Dev).onSlice i fun x => { x with
              dram := { (if x.dram.selfRefresh then x.dram.refreshAll else x.dram) with
                size4 := d.fuses.dram4
                trained := true, selfRefresh := false, guardBand := 0xFF, due := 0, fails := List.replicate 8 0
                settings := results, captured := readings
                tempAt := List.replicate 8 (d.reading (sensorTdA d.sliceCount))
                mr4At := List.replicate 8 x.dram.mr4
                lastRetrain := List.replicate 8 d.lifeClock, retrainTick := List.replicate 8 d.clock.tick
                mismatch := !good } }
           let retired (failures : List (Nat × Nat)) (good : Bool) : Dev :=
             (failures.filter fun f => decide (3 ≤ f.2)).foldl (fun d f => d.retireChannel i f.1) (trained good)
           ∀ failures, exec (.dramTrainingDone i failures true) s = .next (s.after (retired failures true))
             ∧ exec (.dramTrainingDone i failures false) s
               = .next (s.after (((retired failures false).event 0x0206 i 1 0xFF []).sliceRecovery i 4))))
    ∧ (d.clock.on = false → d.notStarted = none → d.slices.all (fun x => x.dram.trained && x.dram.filled) = true →
        let cold := d.slices.any (·.cold)
        let shadowed := ((d.loadTarget 2).loadBootImage).loadShadows 0 (!cold)
        let started := ((shadowed.startTick).restoreMaps cold).onSlices Slice.closeData
        ∀ l b,
          let e := (List.range started.sliceCount).foldl (fun d i => d.estimate i (l.getD i [])) started
          let f := (if e.formatDue then e.format b else e).startRoots
          exec (.tickStart l b) s = .next (s.after (if cold then f.startImage.repairCopies else f).firstTick)
          ∧ shadowed.startTick.clock = { shadowed.clock.stop with on := true, abs := shadowed.clock.abs + 1 })
    ∧ ((d.clock.on = true ∨ d.notStarted.isSome = true
          ∨ d.slices.all (fun x => x.dram.trained && x.dram.filled) = false) →
        ∀ l b, exec (.tickStart l b) s = .next (s.after d))
    ∧ (d.clock.on = true → d.swap.pending = none →
        let m := d.saveMirrors false
        (m.staysInRecovery = true ∨ d.seq.latchedStart = true →
          exec .bootComplete s = .next (s.after { m.dropRung with mode := .recovery }))
        ∧ (m.staysInRecovery = false → d.seq.latchedStart = false →
            exec .bootComplete s = .next (s.after m.enterService)))
    ∧ ((d.clock.on = false ∨ d.swap.pending.isSome = true) → exec .bootComplete s = .next (s.after d)))
  ∧ (∀ s : State,
       (∀ i, i < s.dev.sliceCount → (s.dev.mode ≠ .boot ∨ s.dev.clock.on = true ∨ (s.dev.slice i).dram.trained = true) →
         ∀ failed good, exec (.dramTrainingDone i failed good) s = .next (s.after s.dev))
       ∧ (s.dev.mode ≠ .boot → (∀ l b, exec (.tickStart l b) s = .next (s.after s.dev))
           ∧ exec .bootComplete s = .next (s.after s.dev)))
  ∧ ∀ (d : Dev) (resume : Bool),
      let l := if resume then d else (List.range 2).foldl Dev.loadTarget d
      ((d.verifyFirmware resume).notStarted = none
        ↔ (l.fuses.lifecycle ≠ .mace ∨ ∀ t, t < 2 → l.unverified resume t = false))
      ∧ ((d.verifyFirmware resume).notStarted ≠ none → ∀ c, (d.verifyFirmware resume).serving c = false)

/-- WAKE_EVENT resumes DROWSE, is kept while the package rests in HELD or DORMANT, is on its way there or to DROWSE, or goes down to
anything but HALT, and has no effect elsewhere. ORDERLY_SHUTDOWN on the way to HELD or DORMANT shuts a drained slice down, once; the
round boundary after the last one lets the package go (R181). Without such a transition nothing happens. WATCHDOG_EXPIRY while the
tick's modes last makes a warm reset without a drain: BOOT with the tick still, with the fuses, the medium's map and every title's key
kept, no title open and no ring left. -/
def Obligations.ModesLeft : Prop :=
  ∀ s : State,
    (s.dev.mode = .drowse → exec .wakeEvent s = .next (s.after s.dev.drowseResume))
    ∧ (s.dev.mode ≠ .drowse →
        ((∃ t, s.dev.transition = some t ∧ (t.target = .drowse ∨ t.target = .dormant))
          ∨ (12 ≤ s.dev.seq.state ∧ s.dev.seq.state ≤ 14 ∧ s.dev.seq.target ≠ .halt)
          ∨ (s.dev.mode = .held ∨ s.dev.mode = .dormant) ∧ s.dev.seq.state = 1) →
        exec .wakeEvent s = .next (s.after { s.dev with seq := { s.dev.seq with wake := true } }))
    ∧ (s.dev.mode ≠ .drowse → (∀ t, s.dev.transition = some t → t.target ≠ .drowse ∧ t.target ≠ .dormant) →
        (s.dev.seq.state < 12 ∨ 14 < s.dev.seq.state ∨ s.dev.seq.target = .halt) →
        (s.dev.mode ≠ .held ∧ s.dev.mode ≠ .dormant ∨ s.dev.seq.state ≠ 1) → exec .wakeEvent s = .next (s.after s.dev))
    ∧ (∀ i t, i < s.dev.sliceCount → s.dev.transition = some t → (t.target = .held ∨ t.target = .dormant) →
        (s.dev.slice i).shutdown.ending = false → (s.dev.slice i).shutdown.done = false → s.dev.drained i = true →
        exec (.orderlyShutdown i) s
          = .next (s.after (s.dev.onSlice i fun x => x.orderlyShutdown (s.dev.tableOf i .shutdown) s.dev.round)))
    ∧ (∀ t, s.dev.transition = some t → (t.target = .held ∨ t.target = .dormant) → s.dev.swapPending = false →
        (s.dev.slices.all (·.shutdown.done) = true →
          s.dev.transitionRound = (s.dev.saveMirrors true).descend t.target false)
        ∧ (s.dev.slices.all (·.shutdown.done) = false → s.dev.transitionRound = s.dev))
    ∧ (∀ i, i < s.dev.sliceCount → (s.dev.slice i).shutdown.ending = true ∨ (s.dev.slice i).shutdown.done = true
          ∨ s.dev.drained i = false ∨ (∀ t, s.dev.transition = some t → t.target ≠ .held ∧ t.target ≠ .dormant) →
        exec (.orderlyShutdown i) s = .next (s.after s.dev))
    ∧ (s.dev.mode.ticks = true →
        ∃ t, exec .watchdogExpiry s = .next t ∧ t = s.after (s.dev.warmReset true)
          ∧ t.dev.mode = .boot ∧ t.dev.clock.on = false ∧ t.dev.rings = [] ∧ t.dev.fuses = s.dev.fuses
          ∧ (∀ k, (t.dev.title k).state ≠ .opened ∧ (t.dev.title k).key = (s.dev.title k).key)
          ∧ (∀ i, i < s.dev.slices.length → (t.dev.slice i).map = (s.dev.slice i).map))
    ∧ (s.dev.mode.ticks = false → exec .watchdogExpiry s = .next (s.after s.dev))

/-! ### Local DRAM (R345, R368–R371) -/

/-- PROTECTED_SPACE_FILL_DONE follows training, once, and leaves no line marked. DRAM_REFRESH is a refresh interval of a bank of a
channel that works outside self-refresh: with no request for the bank queued the bank takes its refresh and those that it is behind,
which closes its row; else it falls one interval behind, and at eight it is refreshed by force, and counts. FORCED_REFRESH does so only
to a bank eight intervals behind. REKEY_SWEEP_END ends the sweep only at the tag base: the previous key goes, or a version at 0xF0_0000
or above starts a new sweep under a new key at once, and the writes that waited are made. Elsewhere none of them changes anything. -/
def Obligations.DramUpkeep : Prop :=
  ∀ (s : State) (i : Nat), i < s.dev.sliceCount →
    let x := s.dev.slice i
    let m := x.dram
    (m.trained = true → m.filled = false → exec (.protectedSpaceFillDone i) s
      = .next (s.after (s.dev.onSlice i fun x => { x with dram := { x.dram with filled := true, fillMap := [], marked := [] } })))
    ∧ ((m.trained = false ∨ m.filled = true) → exec (.protectedSpaceFillDone i) s = .next (s.after s.dev))
    ∧ (∀ c b, b < 16 → s.dev.mode.ticks = true → m.selfRefresh = false → has m.healthy c = true →
        let k := 16 * c + b
        let behind := sget m.debt k 0
        let queued := ∃ r, r ∈ m.requests ∧ dramChannel s.dev.keys.seed m.healthy r.address = c
          ∧ dramBank s.dev.keys.seed m.healthy r.address = b
        let refreshed (x : Slice) (n debt : Nat) : Slice := { x with dram := { x.dram with
          refreshes := sset x.dram.refreshes k (sget x.dram.refreshes k 0 + n)
          debt := if debt = 0 then sdel x.dram.debt k else sset x.dram.debt k debt
          openRows := sdel x.dram.openRows k } }
        (¬queued → exec (.dramRefresh i c b) s
          = .next (s.after (s.dev.onSlice i fun x => refreshed x (behind + 1) 0)))
        ∧ (queued → behind < 8 → exec (.dramRefresh i c b) s
          = .next (s.after (s.dev.onSlice i fun x => { x with dram := { x.dram with
              debt := sset x.dram.debt k (behind + 1) } })))
        ∧ (queued → 8 ≤ behind → exec (.dramRefresh i c b) s
          = .next (s.after (s.dev.onSlice i fun x => (refreshed x 1 8).count 91 1)))
        ∧ (8 ≤ behind → exec (.forcedRefresh i c b) s
          = .next (s.after (s.dev.onSlice i fun x => (refreshed x 1 (behind - 1)).count 91 1)))
        ∧ (behind < 8 → exec (.forcedRefresh i c b) s = .next (s.after s.dev)))
    ∧ (∀ c b, (16 ≤ b ∨ s.dev.mode.ticks = false ∨ m.selfRefresh = true ∨ has m.healthy c = false) →
        exec (.dramRefresh i c b) s = .next (s.after s.dev) ∧ exec (.forcedRefresh i c b) s = .next (s.after s.dev))
    ∧ (m.sweep = none → exec (.rekeySweepEnd i) s = .next (s.after s.dev))
    ∧ (∀ w, m.sweep = some w → w.pointer < tagBase s.dev.fuses.dram4 m.healthy →
        exec (.rekeySweepEnd i) s = .next (s.after s.dev))
    ∧ (∀ w, m.sweep = some w → tagBase s.dev.fuses.dram4 m.healthy ≤ w.pointer →
        let again := m.versions.any fun e => decide (0xF00000 ≤ e.2)
        exec (.rekeySweepEnd i) s = .next (s.after (s.dev.onSlice i fun x =>
          x.dram.waitingWrites.foldl Slice.restoreLine { x with dram := { x.dram with
            sweep := if again then some ⟨0, []⟩ else none
            previous := if again then x.dram.key else none
            key := if again then some (dramKeyOf (Config.dramKey x.dram.keyBase (x.dram.keyDraws + 1))) else x.dram.key
            keyDraws := x.dram.keyDraws + b2n again
            waitingWrites := [] } })))
end

