-- ==== Sys2Proof/Laws/Shape.lean ====
section
/-!
SUPPORT. What no command ever changes: the part, the fuses but for LIFECYCLE_ADVANCE, and how many slices, ports,
channels, title slots and firmware targets there are. One lemma per operation over the package.
-/
namespace Sys2Proof.Machine

open Sys2Proof

theorem Dev.shape_upd (d : Dev) (mode) (clock) (swap) (active) (shadow) (regs) (chans) (i3c) (rings) (ports) (msix) (std) (dbg) (alarms) (keys) (titles) (pstore) (mirror) (recorder) (images) (firmware) (waiters) (cart) (seq) (thermal) (boot) (pins) (slices) (flushes) (nextFlush) (counters) (transition) (preserve) (rung) (notStarted) (working) (draws) (out)
    (hs : slices.length = d.slices.length) (hp : ports.length = d.ports.length) (hc : chans.length = d.chans.length)
    (ht : titles.length = d.titles.length) (hf : firmware.length = d.firmware.length) :
    (Dev.mk d.part d.fuses mode clock swap active shadow regs chans i3c rings ports msix std dbg alarms keys titles pstore mirror recorder images firmware waiters cart seq thermal boot pins slices flushes nextFlush counters transition preserve rung notStarted working draws out).shape = d.shape := by simp only [Dev.shape, hs, hp, hc, ht, hf]

@[simp] theorem upd_length {α : Type} (l : List α) (i : Nat) (f : α → α) : (upd l i f).length = l.length := by
  simp [upd]

@[simp] theorem ite_shape (c : Prop) [Decidable c] (a b : Dev) :
    (if c then a else b).shape = if c then a.shape else b.shape := by split <;> rfl

theorem slices_of_shape {d e : Dev} (h : d.shape = e.shape) : d.slices.length = e.slices.length := by
  simp only [Dev.shape, Prod.mk.injEq] at h
  exact h.2.2.1

theorem foldl_fst_shape {α β : Type} (f : Dev × β → α → Dev × β) (hf : ∀ d a, (f d a).1.shape = d.1.shape) (l : List α)
    (d : Dev × β) : (l.foldl f d).1.shape = d.1.shape := by
  induction l generalizing d with
  | nil => rfl
  | cons a l ih => simp [ih, hf]

theorem shape_of_fst {α : Type} {e : Dev × α} {d : Dev} {a : α} (h : e = (d, a)) : d.shape = e.1.shape := by rw [h]

theorem shape_of_snd {α : Type} {e : α × Dev} {d : Dev} {a : α} (h : e = (a, d)) : d.shape = e.2.shape := by rw [h]

@[simp] theorem foldl_shape {α : Type} (f : Dev → α → Dev) (hf : ∀ d a, (f d a).shape = d.shape) (l : List α)
    (d : Dev) : (l.foldl f d).shape = d.shape := by
  induction l generalizing d with
  | nil => rfl
  | cons a l ih => simp [ih, hf]

@[simp] theorem Dev.onSlice_shape (d : Dev) (i : Nat) (f : Slice → Slice) :
    (Dev.onSlice d i f).shape = d.shape := by
  simp [Dev.onSlice, Dev.shape_upd]

@[simp] theorem Dev.onSlices_shape (d : Dev) (f : Slice → Slice) :
    (Dev.onSlices d f).shape = d.shape := by
  simp [Dev.onSlices, Dev.shape_upd]

@[simp] theorem Dev.onPort_shape (d : Dev) (p : Nat) (f : Port → Port) :
    (Dev.onPort d p f).shape = d.shape := by
  simp [Dev.onPort, Dev.shape_upd]

@[simp] theorem Dev.onChan_shape (d : Dev) (c : Nat) (f : Chan → Chan) :
    (Dev.onChan d c f).shape = d.shape := by
  simp [Dev.onChan, Dev.shape_upd]

@[simp] theorem Dev.onRing_shape (d : Dev) (r : Nat) (f : Ring → Ring) :
    (Dev.onRing d r f).shape = d.shape := by
  simp [Dev.onRing, Dev.shape_upd]

@[simp] theorem Dev.onTitle_shape (d : Dev) (t : Nat) (f : Title → Title) :
    (Dev.onTitle d t f).shape = d.shape := by
  simp [Dev.onTitle, Dev.shape_upd]

@[simp] theorem Dev.emit_shape (d : Dev) (o : Output) :
    (Dev.emit d o).shape = d.shape := by
  simp [Dev.emit, Dev.shape_upd]

@[simp] theorem Dev.count_shape (d : Dev) (s : Nat) (i : Nat) (n : Nat) :
    (Dev.count d s i n).shape = d.shape := by
  simp [Dev.count]

@[simp] theorem Dev.countPkg_shape (d : Dev) (i : Nat) (n : Nat) :
    (Dev.countPkg d i n).shape = d.shape := by
  simp [Dev.countPkg, Dev.shape_upd]

@[simp] theorem Dev.draw_shape (d : Dev) (m : Nat) :
    (Dev.draw d m).2.shape = d.shape := by
  simp [Dev.draw, Dev.shape_upd]

@[simp] theorem Dev.random_shape (d : Dev) :
    (Dev.random d).2.shape = d.shape := by
  simp [Dev.random, Dev.shape_upd]

@[simp] theorem Dev.signals_shape (d : Dev) (vs : List (Nat × Nat)) :
    (Dev.signals d vs).shape = d.shape := by
  simp [Dev.signals, Dev.shape_upd]

@[simp] theorem Dev.releaseVectors_shape (d : Dev) (which : Nat × Nat → Bool) :
    (Dev.releaseVectors d which).shape = d.shape := by
  simp [Dev.releaseVectors, Dev.shape_upd]

@[simp] theorem Dev.chanIrq_shape (d : Dev) (c : Nat) (data : Nat) :
    (Dev.chanIrq d c data).shape = d.shape := by
  simp [Dev.chanIrq]

@[simp] theorem Dev.causeInEmpty_shape (d : Dev) (c : Nat) :
    (Dev.causeInEmpty d c).shape = d.shape := by
  simp [Dev.causeInEmpty]

@[simp] theorem Dev.causeOutReady_shape (d : Dev) (c : Nat) :
    (Dev.causeOutReady d c).shape = d.shape := by
  simp [Dev.causeOutReady]

@[simp] theorem Dev.pushMessage_shape (d : Dev) (c : Nat) (ws : List Word) :
    (Dev.pushMessage d c ws).shape = d.shape := by
  simp [Dev.pushMessage]

@[simp] theorem Dev.drainOut_shape (d : Dev) (c : Nat) (x1 : Nat) :
    (Dev.drainOut d c x1).shape = d.shape := by
  induction x1 generalizing d with
  | zero => rfl
  | succ n ih =>
    unfold Dev.drainOut
    dsimp only
    repeat' split
    all_goals simp [ih, Dev.shape_upd]

@[simp] theorem Dev.pump_shape (d : Dev) (c : Nat) :
    (Dev.pump d c).shape = d.shape := by
  simp [Dev.pump]

@[simp] theorem Dev.respond_shape (d : Dev) (c : Nat) (opcode : Nat) (tag : Nat) (flags : Nat) (status : Nat) (payload : List Word) :
    (Dev.respond d c opcode tag flags status payload).shape = d.shape := by
  simp [Dev.respond]

@[simp] theorem Dev.notifyOn_shape (d : Dev) (c : Nat) (code : Nat) (payload : List Word) :
    (Dev.notifyOn d c code payload).shape = d.shape := by
  simp [Dev.notifyOn]

@[simp] theorem Dev.notify_shape (d : Dev) (i : Nat) (code : Nat) (payload : List Word) :
    (Dev.notify d i code payload).shape = d.shape := by
  simp [Dev.notify]

@[simp] theorem Dev.notifySecure_shape (d : Dev) (code : Nat) (payload : List Word) :
    (Dev.notifySecure d code payload).shape = d.shape := by
  simp [Dev.notifySecure]

@[simp] theorem Dev.store_shape (d : Dev) (a : Nat) (b : List Byte) :
    (Dev.store d a b).shape = d.shape := by
  simp [Dev.store, Dev.shape_upd]

@[simp] theorem Dev.storeControl_shape (d : Dev) :
    (Dev.storeControl d).shape = d.shape := by
  simp [Dev.storeControl]

@[simp] theorem Dev.dropEvent_shape (d : Dev) :
    (Dev.dropEvent d).shape = d.shape := by
  simp [Dev.dropEvent, Dev.shape_upd]

@[simp] theorem Dev.failRecorder_shape (d : Dev) :
    (Dev.failRecorder d).shape = d.shape := by
  simp [Dev.failRecorder, Dev.shape_upd]

@[simp] theorem Dev.storeRepeats_shape (d : Dev) :
    (Dev.storeRepeats d).shape = d.shape := by
  simp [Dev.storeRepeats, Dev.shape_upd]

@[simp] theorem Dev.appendRecord_shape (d : Dev) (e : Event) :
    (Dev.appendRecord d e).shape = d.shape := by
  simp [Dev.appendRecord, Dev.shape_upd]

@[simp] theorem Dev.recordEvent_shape (d : Dev) (e : Event) :
    (Dev.recordEvent d e).shape = d.shape := by
  unfold Dev.recordEvent
  (repeat' split) <;> simp [Dev.shape_upd]

@[simp] theorem Dev.eventInterrupts_shape (d : Dev) (l : Nat) :
    (Dev.eventInterrupts d l).shape = d.shape := by
  simp [Dev.eventInterrupts, Dev.shape_upd]

@[simp] theorem Dev.logEvent_shape (d : Dev) (e : Event) :
    (Dev.logEvent d e).shape = d.shape := by
  simp [Dev.logEvent, Dev.shape_upd]

@[simp] theorem Dev.event_shape (d : Dev) (code : Nat) (slice : Nat) (reason : Nat) (cls : Nat) (params : List Byte) :
    (Dev.event d code slice reason cls params).shape = d.shape := by
  simp [Dev.event]

@[simp] theorem Dev.packageEvent_shape (d : Dev) (code : Nat) (reason : Nat) :
    (Dev.packageEvent d code reason).shape = d.shape := by
  simp [Dev.packageEvent]

@[simp] theorem Dev.alarm_shape (d : Dev) (cause : Nat) (slice : Option Nat) (counter : Nat) :
    (Dev.alarm d cause slice counter).shape = d.shape := by
  unfold Dev.alarm
  (repeat' split) <;> simp [Dev.shape_upd]

@[simp] theorem Dev.contractExceeded_shape (d : Dev) (s : Nat) (reason : Nat) (cls : Nat) :
    (Dev.contractExceeded d s reason cls).shape = d.shape := by
  simp [Dev.contractExceeded]

@[simp] theorem Dev.abandonSwap_shape (d : Dev) (reason : Nat) :
    (Dev.abandonSwap d reason).shape = d.shape := by
  unfold Dev.abandonSwap
  split <;> simp [Dev.shape_upd]

@[simp] theorem settle_shape (d : Dev) :
    (settle d).shape = d.shape := by
  simp [settle, Dev.shape_upd]

@[simp] theorem Dev.maintainRange_shape (d : Dev) (op : Nat) (base : Nat) (count : Nat) :
    (Dev.maintainRange d op base count).shape = d.shape := by
  simp [Dev.maintainRange]

@[simp] theorem Dev.startMaint_shape (d : Dev) (secure : Bool) (op : Nat) (base : Nat) (count : Nat) :
    (Dev.startMaint d secure op base count).shape = d.shape := by
  simp [Dev.startMaint, Dev.shape_upd]

@[simp] theorem Dev.setway_shape (d : Dev) (secure : Bool) (i : Nat) (set : Nat) (way : Nat) (allWays : Bool) (op : Nat) :
    (Dev.setway d secure i set way allWays op).shape = d.shape := by
  simp [Dev.setway]

@[simp] theorem Dev.cacheCommand_shape (d : Dev) (secure : Bool) (i : Nat) (cmd : Nat) :
    (Dev.cacheCommand d secure i cmd).shape = d.shape := by
  simp [Dev.cacheCommand]

@[simp] theorem Dev.answerCacheOff_shape (d : Dev) :
    (Dev.answerCacheOff d).shape = d.shape := by
  unfold Dev.answerCacheOff
  apply foldl_shape
  intro d a
  try dsimp only
  repeat' split
  all_goals simp [Dev.shape_upd]

@[simp] theorem Dev.loadShadows_shape (d : Dev) (rung : Nat) (events : Bool) :
    (Dev.loadShadows d rung events).shape = d.shape := by
  unfold Dev.loadShadows
  apply foldl_shape
  intro d a
  try dsimp only
  repeat' split
  all_goals simp [Dev.shape_upd]

@[simp] theorem Dev.loadImage_shape (d : Dev) (b : List Byte) (events : Bool) :
    (Dev.loadImage d b events).shape = d.shape := by
  simp [Dev.loadImage, Dev.shape_upd]

@[simp] theorem Dev.acceptSwap_shape (d : Dev) (k : SwapKind) :
    (Dev.acceptSwap d k).shape = d.shape := by
  simp [Dev.acceptSwap, Dev.shape_upd]

@[simp] theorem Dev.fallbacks_shape (d : Dev) :
    (Dev.fallbacks d).shape = d.shape := by
  unfold Dev.fallbacks
  apply foldl_shape
  intro d i
  split <;> simp

@[simp] theorem Dev.takeSwap_shape (d : Dev) (k : SwapKind) :
    (Dev.takeSwap d k).shape = d.shape := by
  unfold Dev.takeSwap
  split <;> simp [Dev.shape_upd]

@[simp] theorem Dev.answerSwap_shape (d : Dev) :
    (Dev.answerSwap d).shape = d.shape := by
  simp [Dev.answerSwap, Dev.shape_upd]

@[simp] theorem Dev.swapBoundary_shape (d : Dev) :
    (Dev.swapBoundary d).shape = d.shape := by
  unfold Dev.swapBoundary
  split <;> simp [Dev.shape_upd]

@[simp] theorem Dev.bringRung_shape (d : Dev) :
    (Dev.bringRung d).shape = d.shape := by
  simp [Dev.bringRung, Dev.shape_upd]

@[simp] theorem Dev.recountFormable_shape (d : Dev) (i : Nat) :
    (Dev.recountFormable d i).shape = d.shape := by
  simp [Dev.recountFormable, Dev.shape_upd]

@[simp] theorem Dev.retireBlock_shape (d : Dev) (i : Nat) (c : Clear) (reason : Nat) :
    (Dev.retireBlock d i c reason).shape = d.shape := by
  unfold Dev.retireBlock
  (repeat' split) <;> simp [Dev.shape_upd]

@[simp] theorem Dev.owePreserve_shape (d : Dev) (cause : Nat) (i : Nat) :
    (Dev.owePreserve d cause i).shape = d.shape := by
  simp [Dev.owePreserve, Dev.shape_upd]

@[simp] theorem Dev.retireReach_shape (d : Dev) (i : Nat) (r : Nat) (reason : Nat) :
    (Dev.retireReach d i r reason).shape = d.shape := by
  simp [Dev.retireReach, Dev.shape_upd]

@[simp] theorem Dev.retireBank_shape (d : Dev) (i : Nat) (bank : Nat) (reason : Nat) :
    (Dev.retireBank d i bank reason).shape = d.shape := by
  simp [Dev.retireBank]

@[simp] theorem Dev.bankFault_shape (d : Dev) (i : Nat) (bank : Nat) (program : Bool) :
    (Dev.bankFault d i bank program).shape = d.shape := by
  simp [Dev.bankFault]

@[simp] theorem Dev.hopBytes_shape (d : Dev) (n : Nat) (hop : Nat × Bool) :
    (Dev.hopBytes d n hop).shape = d.shape := by
  simp [Dev.hopBytes]

@[simp] theorem Dev.fabric_shape (d : Dev) (bytes : Nat) (src : Nat) (dst : Nat) :
    (Dev.fabric d bytes src dst).shape = d.shape := by
  simp [Dev.fabric]

@[simp] theorem Dev.countForward_shape (d : Dev) (p : Nat) (i : Nat) (write : Bool) :
    (Dev.countForward d p i write).shape = d.shape := by
  simp [Dev.countForward]

@[simp] theorem Dev.endWrite_shape (d : Dev) (port : Nat) (tag : Nat) (o : Output) :
    (Dev.endWrite d port tag o).shape = d.shape := by
  simp [Dev.endWrite]

@[simp] theorem Dev.completeWrite_shape (d : Dev) (port : Nat) (tag : Nat) :
    (Dev.completeWrite d port tag).shape = d.shape := by
  simp [Dev.completeWrite]

@[simp] theorem Dev.refuseWrite_shape (d : Dev) (port : Nat) (tag : Nat) :
    (Dev.refuseWrite d port tag).shape = d.shape := by
  simp [Dev.refuseWrite]

@[simp] theorem Dev.onDesc_shape (d : Dev) (ring : Nat) (slot : Nat) (f : Desc → Desc) :
    (Dev.onDesc d ring slot f).shape = d.shape := by
  simp [Dev.onDesc]

@[simp] theorem Dev.descPart_shape (d : Dev) (ring : Nat) (slot : Nat) :
    (Dev.descPart d ring slot).shape = d.shape := by
  simp [Dev.descPart]

@[simp] theorem Dev.titleTrimmed_shape (d : Dev) (t : Nat) :
    (Dev.titleTrimmed d t).shape = d.shape := by
  unfold Dev.titleTrimmed
  (repeat' split) <;> simp [Dev.shape_upd]

@[simp] theorem Dev.ack_shape (d : Dev) (a : Ack) :
    (Dev.ack d a).shape = d.shape := by
  unfold Dev.ack
  split <;> simp

@[simp] theorem Dev.acks_shape (d : Dev) (l : List Ack) :
    (Dev.acks d l).shape = d.shape := by
  simp [Dev.acks]

@[simp] theorem Dev.answerRead_shape (d : Dev) (port : Nat) (tag : Nat) (cls : Nat) (v : Option Sector) :
    (Dev.answerRead d port tag cls v).shape = d.shape := by
  simp [Dev.answerRead]

@[simp] theorem Dev.mediaPoison_shape (d : Dev) (slice : Nat) (reason : Nat) (reach : Nat) (dpa : Nat) :
    (Dev.mediaPoison d slice reason reach dpa).shape = d.shape := by
  simp [Dev.mediaPoison]

@[simp] theorem Dev.positionPoison_shape (d : Dev) (port : Nat) (dpa : Nat) :
    (Dev.positionPoison d port dpa).shape = d.shape := by
  simp [Dev.positionPoison]

@[simp] theorem Dev.discardWrite_shape (d : Dev) (port : Nat) (dpa : Nat) (reason : Nat) :
    (Dev.discardWrite d port dpa reason).shape = d.shape := by
  simp [Dev.discardWrite, Dev.shape_upd]

@[simp] theorem Dev.frameLost_shape (d : Dev) (i : Nat) (reason : Nat) (reach : Nat) (lfn : Nat) (m : BitVec 64) :
    (Dev.frameLost d i reason reach lfn m).shape = d.shape := by
  simp [Dev.frameLost]

@[simp] theorem Dev.tagFail_shape (d : Dev) (i : Nat) (access : Nat) (address : Nat) :
    (Dev.tagFail d i access address).shape = d.shape := by
  simp [Dev.tagFail]

@[simp] theorem Dev.poisonDone_shape (d : Dev) (i : Nat) (lfn : Nat) (entry : Nat) (durable : Bool) (own : Ack) :
    (Dev.poisonDone d i lfn entry durable own).shape = d.shape := by
  simp [Dev.poisonDone]

@[simp] theorem Dev.writeRefused_shape (d : Dev) (w : HeldWrite) :
    (Dev.writeRefused d w).shape = d.shape := by
  unfold Dev.writeRefused
  (repeat' split) <;> simp [Dev.shape_upd]

theorem Dev.tryWrite_shape (d : Dev) (w : HeldWrite) (e : Dev) (h : d.tryWrite w = some e) : e.shape = d.shape := by
  unfold Dev.tryWrite at h
  split at h
  · cases h
  · dsimp only at h
    split at h
    · cases h
      simp
    · split at h
      · cases h
        simp
      · rw [Option.map_eq_some_iff] at h
        obtain ⟨s, -, rfl⟩ := h
        split <;> simp

@[simp] theorem Dev.putWrite_shape (d : Dev) (w : HeldWrite) :
    (Dev.putWrite d w).shape = d.shape := by
  unfold Dev.putWrite
  dsimp only
  split
  · simp
  · split
    · exact Dev.tryWrite_shape _ _ _ ‹_›
    · simp

@[simp] theorem Dev.retryWrites_shape (d : Dev) (i : Nat) :
    (Dev.retryWrites d i).shape = d.shape := by
  unfold Dev.retryWrites
  dsimp only
  refine (foldl_shape _ (fun d w => ?_) _ _).trans (Dev.onSlice_shape _ _ _)
  split
  · simp
  · split <;> simp

@[simp] theorem Dev.tagRefuses_shape (d : Dev) (i : Nat) (a : Nat) (port : Nat) (tag : Nat) :
    (Dev.tagRefuses d i a port tag).shape = d.shape := by
  simp [Dev.tagRefuses]

@[simp] theorem Dev.queueRead_shape (d : Dev) (i : Nat) (lfn : Nat) (sub : Nat) (cls : Nat) (who : Who) (alloc : Bool) (covered : Bool) :
    (Dev.queueRead d i lfn sub cls who alloc covered).shape = d.shape := by
  simp [Dev.queueRead]

@[simp] theorem Dev.serveStreamed_shape (unit : Nat) (length : Nat) (data : List Byte) (d : Dev) (w : StreamWait) :
    (Dev.serveStreamed unit length data d w).shape = d.shape := by
  simp [Dev.serveStreamed]

@[simp] theorem Dev.issue_shape (d : Dev) (l : List CardCommand) :
    (Dev.issue d l).shape = d.shape := by
  simp [Dev.issue, Dev.shape_upd]

@[simp] theorem Dev.readUnit_shape (d : Dev) (e : Nat) (u : Nat) :
    (Dev.readUnit d e u).shape = d.shape := by
  simp [Dev.readUnit]

@[simp] theorem Dev.streamRead_shape (d : Dev) (port : Nat) (tag : Nat) (dpa : Nat) (c : Class) :
    (Dev.streamRead d port tag dpa c).shape = d.shape := by
  unfold Dev.streamRead
  dsimp only
  (repeat' split) <;> simp [Dev.shape_upd]

@[simp] theorem Dev.serveRead_shape (d : Dev) (port : Nat) (tag : Nat) (dpa : Nat) (c : Class) (env : AccessEnv) :
    (Dev.serveRead d port tag dpa c env).shape = d.shape := by
  unfold Dev.serveRead
  dsimp only
  (repeat' split) <;> simp

@[simp] theorem Dev.takeRead_shape (d : Dev) (port : Nat) (tag : Nat) (dpa : Nat) (c : Class) (env : AccessEnv) :
    (Dev.takeRead d port tag dpa c env).shape = d.shape := by
  simp [Dev.takeRead]

@[simp] theorem Dev.streamLoaded_shape (digest : List Byte → List Byte) (d : Dev) (entry : Nat) (unit : Nat) (data : List Byte) :
    (Dev.streamLoaded digest d entry unit data).shape = d.shape := by
  simp [Dev.streamLoaded, Dev.shape_upd]

@[simp] theorem Dev.startFlush_shape (d : Dev) (host : Option Nat) (desc : Option (Nat × Nat)) (p : Nat → Nat → Bool) :
    (Dev.startFlush d host desc p).2.shape = d.shape := by
  unfold Dev.startFlush
  have h := foldl_fst_shape (fun (acc : Dev × List (Nat × Nat) × List (Nat × Nat)) i =>
      let (d, fs, es) := acc
      let (s, f, e) := (d.slice i).cover d.fuses.dram4 d.round i (p i)
      (d.onSlice i fun _ => s, fs ++ f, es ++ e)) (fun acc i => by simp) (List.range d.sliceCount) (d, [], [])
  rcases hf : (List.range d.sliceCount).foldl (fun (acc : Dev × List (Nat × Nat) × List (Nat × Nat)) i =>
      let (d, fs, es) := acc
      let (s, f, e) := (d.slice i).cover d.fuses.dram4 d.round i (p i)
      (d.onSlice i fun _ => s, fs ++ f, es ++ e)) (d, [], []) with ⟨e, fs, es⟩
  rw [hf] at h
  simpa [Dev.shape_upd] using h

@[simp] theorem Dev.flushStep_shape (d : Dev) (i : Nat) (lfn : Nat) (n : Nat) :
    (Dev.flushStep d i lfn n).shape = d.shape := by
  simp [Dev.flushStep, Dev.shape_upd]

@[simp] theorem Dev.hintLine_shape (d : Dev) (port : Nat) (n : Nat) :
    (Dev.hintLine d port n).1.shape = d.shape := by
  unfold Dev.hintLine
  dsimp only
  repeat' split
  all_goals simp

@[simp] theorem Dev.hintRecord_shape (d : Dev) (port : Nat) (record : Nat) :
    (Dev.hintRecord d port record).1.shape = d.shape := by
  unfold Dev.hintRecord
  dsimp only
  split
  · simp
  · apply foldl_fst_shape
    intro acc n
    rcases h : acc.1.hintLine port n with ⟨e, k⟩
    have he := shape_of_fst h
    simp only [Dev.hintLine_shape] at he
    simp [he]

@[simp] theorem Dev.queueTrims_shape (d : Dev) (base : Nat) (size : Nat) (ack : Option Ack) :
    (Dev.queueTrims d base size ack).1.shape = d.shape := by
  unfold Dev.queueTrims
  apply foldl_fst_shape
  intro acc i
  dsimp only
  split <;> simp

@[simp] theorem Dev.loadFrameKey_shape (d : Dev) (t : Nat) :
    (Dev.loadFrameKey d t).shape = d.shape := by
  simp [Dev.loadFrameKey]

@[simp] theorem Dev.unloadFrameKey_shape (d : Dev) (t : Nat) :
    (Dev.unloadFrameKey d t).shape = d.shape := by
  simp [Dev.unloadFrameKey]

@[simp] theorem Dev.shutTitle_shape (d : Dev) (t : Nat) :
    (Dev.shutTitle d t).shape = d.shape := by
  simp [Dev.shutTitle]

@[simp] theorem Dev.trimTitle_shape (d : Dev) (t : Nat) :
    (Dev.trimTitle d t).1.shape = d.shape := by
  unfold Dev.trimTitle
  apply foldl_fst_shape
  intro acc r
  rcases h : acc.1.queueTrims r.1 r.2 (some (.title t)) with ⟨e, k⟩
  have he := shape_of_fst h
  simp only [Dev.queueTrims_shape] at he
  simp [he]

@[simp] theorem Dev.titleFlushed_shape (d : Dev) (w : Waiter) :
    (Dev.titleFlushed d w).shape = d.shape := by
  unfold Dev.titleFlushed
  split <;> simp [Dev.shape_upd]

@[simp] theorem Dev.closedForDebug_shape (d : Dev) (flush : Nat) :
    (Dev.closedForDebug d flush).shape = d.shape := by
  unfold Dev.closedForDebug
  dsimp only
  (repeat' split) <;> simp [Dev.shape_upd]

@[simp] theorem Dev.stopRing_shape (d : Dev) (ring : Nat) (code : Nat) :
    (Dev.stopRing d ring code).shape = d.shape := by
  simp [Dev.stopRing]

@[simp] theorem Dev.doorbell_shape (d : Dev) (port : Nat) (ring : Nat) (value : Nat) :
    (Dev.doorbell d port ring value).shape = d.shape := by
  simp [Dev.doorbell]

@[simp] theorem Dev.descWrite_shape (d : Dev) (ring : Nat) (x : Desc) (dpa : Nat) (v : Option Sector) (sealTo : Option Nat) :
    (Dev.descWrite d ring x dpa v sealTo).shape = d.shape := by
  unfold Dev.descWrite
  dsimp only
  (repeat' split) <;> simp

@[simp] theorem Dev.descMoved_shape (d : Dev) (ring : Nat) (slot : Nat) (n : Nat) :
    (Dev.descMoved d ring slot n).shape = d.shape := by
  simp [Dev.descMoved]

@[simp] theorem Dev.descSector_shape (d : Dev) (ring : Nat) (slot : Nat) (idx : Nat) (v : Option Sector) :
    (Dev.descSector d ring slot idx v).shape = d.shape := by
  unfold Dev.descSector
  split <;> simp

@[simp] theorem Dev.descRead_shape (d : Dev) (ring : Nat) (x : Desc) (idx : Nat) (dpa : Nat) :
    (Dev.descRead d ring x idx dpa).shape = d.shape := by
  unfold Dev.descRead
  extract_lets i lfn k c found e looked who
  have he : e.shape = d.shape := by simp [e]
  have hl : looked.shape = d.shape := by dsimp only [looked]; split <;> simp [he]
  clear_value found i lfn k c e looked who
  by_cases hc : (c.access == 2 || !e.keyLoaded c.sealedSlot) = true
  · rw [if_pos hc]
    exact (Dev.descSector_shape _ _ _ _ _).trans he
  · rw [if_neg hc]
    rcases found with ⟨v, b⟩ | ⟨v, a⟩ | _ | _ | _ | _
    · exact (Dev.descSector_shape _ _ _ _ _).trans hl
    · exact (Dev.descSector_shape _ _ _ _ _).trans hl
    · exact (Dev.descSector_shape _ _ _ _ _).trans hl
    · exact (Dev.descSector_shape _ _ _ _ _).trans hl
    · exact (Dev.descSector_shape _ _ _ _ _).trans hl
    · dsimp only
      rcases h : (looked.slice i).flow.queue.getLast? with _ | q
      · exact (Dev.queueRead_shape _ _ _ _ _ _ _ _).trans hl
      · by_cases hq : (q.line == lineOf lfn (k / 4) && q.cls == 6 && q.arrival == looked.now) = true
        · exact (congrArg Dev.shape (if_pos hq)).trans ((Dev.onSlice_shape _ _ _).trans hl)
        · exact (congrArg Dev.shape (if_neg hq)).trans ((Dev.queueRead_shape _ _ _ _ _ _ _ _).trans hl)

@[simp] theorem Dev.descOwes_shape (d : Dev) (ring : Nat) (slot : Nat) (n : Nat) :
    (Dev.descOwes d ring slot n).shape = d.shape := by
  simp [Dev.descOwes]

@[simp] theorem Dev.loadTable_shape (d : Dev) (e : Nat) (bytes : List Byte) :
    (Dev.loadTable d e bytes).1.shape = d.shape := by
  unfold Dev.loadTable
  dsimp only
  (repeat' split) <;> simp [Dev.shape_upd]

@[simp] theorem Dev.endDescs_shape (d : Dev) (st : Nat) (p : Desc → Bool) :
    (Dev.endDescs d st p).shape = d.shape := by
  simp [Dev.endDescs, Dev.shape_upd]

@[simp] theorem Dev.descEnd_shape (d : Dev) (ring : Nat) (slot : Nat) (st : Nat) :
    (Dev.descEnd d ring slot st).shape = d.shape := by
  simp [Dev.descEnd]

@[simp] theorem Dev.runDesc_shape (d : Dev) (ring : Nat) (x : Desc) (host : HostData) :
    (Dev.runDesc d ring x host).shape = d.shape := by
  unfold Dev.runDesc
  dsimp only
  (repeat' split) <;> simp

@[simp] theorem Dev.descriptor_shape (d : Dev) (opcode : Nat) (ring : Nat) (raw : BitVec 512) (host : HostData) :
    (Dev.descriptor d opcode ring raw host).shape = d.shape := by
  unfold Dev.descriptor
  dsimp only
  (repeat' split) <;> simp

@[simp] theorem Dev.drainAll_shape (d : Dev) :
    (Dev.drainAll d).shape = d.shape := by
  simp [Dev.drainAll]

@[simp] theorem Dev.saveMirrors_shape (d : Dev) (closed : Bool) :
    (Dev.saveMirrors d closed).shape = d.shape := by
  simp [Dev.saveMirrors, Dev.shape_upd]

@[simp] theorem Dev.dropRung_shape (d : Dev) :
    (Dev.dropRung d).shape = d.shape := by
  simp [Dev.dropRung, Dev.shape_upd]

@[simp] theorem Dev.takePreserve_shape (d : Dev) :
    (Dev.takePreserve d).shape = d.shape := by
  simp [Dev.takePreserve, Dev.shape_upd]

@[simp] theorem Dev.enterPreserve_shape (d : Dev) (cause : Nat) (i : Nat) :
    (Dev.enterPreserve d cause i).shape = d.shape := by
  simp [Dev.enterPreserve, Dev.shape_upd]

@[simp] theorem Dev.checkPreserve_shape (d : Dev) :
    (Dev.checkPreserve d).shape = d.shape := by
  simp [Dev.checkPreserve, Dev.shape_upd]

@[simp] theorem Dev.poisonWriteOut_shape (d : Dev) (i : Nat) :
    (Dev.poisonWriteOut d i).shape = d.shape := by
  simp [Dev.poisonWriteOut]

@[simp] theorem Dev.countLost_shape (d : Dev) (i : Nat) (r : Rewrite) :
    (Dev.countLost d i r).shape = d.shape := by
  unfold Dev.countLost
  split <;> simp

@[simp] theorem Dev.stepOne_shape (d : Dev) (i : Nat) (r : Rewrite) :
    (Dev.stepOne d i r).shape = d.shape := by
  simp [Dev.stepOne]

@[simp] theorem Dev.journalHold_shape (d : Dev) (i : Nat) :
    (Dev.journalHold d i).shape = d.shape := by
  simp [Dev.journalHold]

@[simp] theorem Dev.stepSingle_shape (d : Dev) (i : Nat) (id : Nat) :
    (Dev.stepSingle d i id).shape = d.shape := by
  unfold Dev.stepSingle
  split <;> simp

@[simp] theorem Dev.stepBarge_shape (d : Dev) (i : Nat) (b : Barge) :
    (Dev.stepBarge d i b).shape = d.shape := by
  simp [Dev.stepBarge]

@[simp] theorem Dev.stepRewrites_shape (d : Dev) (i : Nat) :
    (Dev.stepRewrites d i).shape = d.shape := by
  simp [Dev.stepRewrites]

@[simp] theorem Dev.endProgram_shape (d : Dev) (i : Nat) (c : Chamber) (pass : Bool) :
    (Dev.endProgram d i c pass).shape = d.shape := by
  simp [Dev.endProgram]

@[simp] theorem Dev.settleMedium_shape (d : Dev) (i : Nat) :
    (Dev.settleMedium d i).shape = d.shape := by
  simp [Dev.settleMedium]

@[simp] theorem Dev.finishReach_shape (d : Dev) (i : Nat) :
    (Dev.finishReach d i).shape = d.shape := by
  unfold Dev.finishReach
  dsimp only
  (repeat' split) <;> simp [Dev.shape_upd]

@[simp] theorem Dev.endSegment_shape (d : Dev) (i : Nat) (c : Clear) (pass : Bool) :
    (Dev.endSegment d i c pass).shape = d.shape := by
  simp [Dev.endSegment]

@[simp] theorem Dev.deliver_shape (d : Dev) (i : Nat) (q : ReadReq) (p : Page) (rebuilt : Bool) (bits : Nat) (w : Who) :
    (Dev.deliver d i q p rebuilt bits w).shape = d.shape := by
  unfold Dev.deliver
  split <;> simp

@[simp] theorem Dev.fillFrom_shape (d : Dev) (i : Nat) (q : ReadReq) (p : Page) :
    (Dev.fillFrom d i q p).shape = d.shape := by
  simp [Dev.fillFrom]

@[simp] theorem Dev.deliverAll_shape (d : Dev) (i : Nat) (q : ReadReq) (p : Page) (rebuilt : Bool) (bits : Nat) :
    (Dev.deliverAll d i q p rebuilt bits).shape = d.shape := by
  simp [Dev.deliverAll]

@[simp] theorem Dev.deliverPoison_shape (d : Dev) (i : Nat) (q : ReadReq) (fresh : Bool) (w : Who) :
    (Dev.deliverPoison d i q fresh w).shape = d.shape := by
  unfold Dev.deliverPoison
  (repeat' split) <;> simp

@[simp] theorem Dev.poisonAll_shape (d : Dev) (i : Nat) (q : ReadReq) (fresh : Bool) :
    (Dev.poisonAll d i q fresh).shape = d.shape := by
  simp [Dev.poisonAll]

@[simp] theorem Dev.losePage_shape (d : Dev) (i : Nat) (q : ReadReq) (reason : Nat) :
    (Dev.losePage d i q reason).shape = d.shape := by
  simp [Dev.losePage]

@[simp] theorem Dev.recoverPage_shape (d : Dev) (i : Nat) (q : ReadReq) :
    (Dev.recoverPage d i q).shape = d.shape := by
  unfold Dev.recoverPage
  split <;> simp

@[simp] theorem Dev.failedRead_shape (d : Dev) (i : Nat) (q : ReadReq) :
    (Dev.failedRead d i q).shape = d.shape := by
  simp [Dev.failedRead]

@[simp] theorem Dev.rebuildPart_shape (d : Dev) (i : Nat) (id : Nat) (q : ReadReq) (p : Option Page) :
    (Dev.rebuildPart d i id q p).shape = d.shape := by
  unfold Dev.rebuildPart
  dsimp only
  (repeat' split) <;> simp

@[simp] theorem Dev.rebuildParts_shape (d : Dev) (i : Nat) (q : ReadReq) (p : Option Page) :
    (Dev.rebuildParts d i q p).shape = d.shape := by
  simp [Dev.rebuildParts]

@[simp] theorem Dev.goodRead_shape (d : Dev) (i : Nat) (q : ReadReq) (used : Nat) (p : Page) (bits : Nat) :
    (Dev.goodRead d i q used p bits).shape = d.shape := by
  simp [Dev.goodRead]

@[simp] theorem Dev.voidRead_shape (d : Dev) (i : Nat) (q : ReadReq) (reason : Nat) :
    (Dev.voidRead d i q reason).shape = d.shape := by
  simp [Dev.voidRead]

@[simp] theorem Dev.badRead_shape (d : Dev) (i : Nat) (q : ReadReq) :
    (Dev.badRead d i q).shape = d.shape := by
  simp [Dev.badRead]

@[simp] theorem Dev.endRead_shape (d : Dev) (i : Nat) (f : Flight) (errors : List Nat) :
    (Dev.endRead d i f errors).shape = d.shape := by
  unfold Dev.endRead
  dsimp only
  (repeat' split) <;> simp [Dev.shape_upd]

@[simp] theorem Dev.endTick_shape (env : TickEnv) (d : Dev) (i : Nat) :
    (Dev.endTick env d i).shape = d.shape := by
  simp [Dev.endTick]

@[simp] theorem Dev.deadReads_shape (d : Dev) (i : Nat) :
    (Dev.deadReads d i).shape = d.shape := by
  simp [Dev.deadReads]

@[simp] theorem Dev.loseReach_shape (d : Dev) (i : Nat) (r : Nat) :
    (Dev.loseReach d i r).shape = d.shape := by
  simp [Dev.loseReach]

@[simp] theorem Dev.watermarkBoundary_shape (d : Dev) (i : Nat) :
    (Dev.watermarkBoundary d i).shape = d.shape := by
  simp [Dev.watermarkBoundary]

@[simp] theorem Dev.freshWatermark_shape (d : Dev) (i : Nat) :
    (Dev.freshWatermark d i).shape = d.shape := by
  simp [Dev.freshWatermark]

@[simp] theorem Dev.selfCheck_shape (d : Dev) (i : Nat) (r : Nat) (failed : Bool) :
    (Dev.selfCheck d i r failed).shape = d.shape := by
  simp [Dev.selfCheck]

@[simp] theorem Dev.evacuationBoundary_shape (d : Dev) (i : Nat) :
    (Dev.evacuationBoundary d i).shape = d.shape := by
  simp [Dev.evacuationBoundary]

@[simp] theorem Dev.sliceRecovery_shape (d : Dev) (i : Nat) (reason : Nat) :
    (Dev.sliceRecovery d i reason).shape = d.shape := by
  simp [Dev.sliceRecovery]

@[simp] theorem Dev.dirtyShutdown_shape (d : Dev) (reason : Nat) :
    (Dev.dirtyShutdown d reason).shape = d.shape := by
  simp [Dev.dirtyShutdown, Dev.shape_upd]

@[simp] theorem Dev.retireChannel_shape (d : Dev) (i : Nat) (c : Nat) :
    (Dev.retireChannel d i c).shape = d.shape := by
  simp [Dev.retireChannel]

@[simp] theorem Dev.retrain_shape (d : Dev) (i : Nat) (c : Nat) (failed : Bool) (oscillator : Option Nat) :
    (Dev.retrain d i c failed oscillator).shape = d.shape := by
  simp [Dev.retrain]

@[simp] theorem Dev.retrainPause_shape (d : Dev) (i : Nat) (env : TickEnv) :
    (Dev.retrainPause d i env).shape = d.shape := by
  simp [Dev.retrainPause]

@[simp] theorem Dev.drawList_shape (d : Dev) (x1 : Nat) :
    (Dev.drawList d x1).2.shape = d.shape := by
  induction x1 generalizing d with
  | zero => rfl
  | succ n ih =>
    unfold Dev.drawList
    simp [ih]

@[simp] theorem Dev.sweepTick_shape (d : Dev) (i : Nat) (tick : Nat) :
    (Dev.sweepTick d i tick).shape = d.shape := by
  unfold Dev.sweepTick
  split <;> simp

@[simp] theorem Dev.loseLine_shape (d : Dev) (i : Nat) (a : Nat) (abort : Bool) :
    (Dev.loseLine d i a abort).shape = d.shape := by
  unfold Dev.loseLine
  dsimp only
  (repeat' split) <;> simp

@[simp] theorem Dev.internalTagFail_shape (d : Dev) (i : Nat) (a : Nat) (lo : Nat) (hi : Nat) :
    (Dev.internalTagFail d i a lo hi).shape = d.shape := by
  simp [Dev.internalTagFail]

@[simp] theorem Dev.internalPartialFail_shape (d : Dev) (i : Nat) (a : Nat) :
    (Dev.internalPartialFail d i a).shape = d.shape := by
  simp [Dev.internalPartialFail]

@[simp] theorem Dev.tagTick_shape (d : Dev) (i : Nat) (tick : Nat) (env : TickEnv) :
    (Dev.tagTick d i tick env).shape = d.shape := by
  simp [Dev.tagTick]

@[simp] theorem Dev.setRollback_shape (d : Dev) (n : Nat) (v : Nat) :
    (Dev.setRollback d n v).shape = d.shape := by
  simp [Dev.setRollback]

@[simp] theorem Dev.advanceRollback_shape (d : Dev) (n : Nat) (v : Nat) :
    (Dev.advanceRollback d n v).shape = d.shape := by
  simp [Dev.advanceRollback]

@[simp] theorem Dev.checkCounters_shape (d : Dev) :
    (Dev.checkCounters d).shape = d.shape := by
  unfold Dev.checkCounters
  apply foldl_shape
  intro d a
  try dsimp only
  repeat' split
  all_goals simp [Dev.shape_upd]

@[simp] theorem Dev.loadTarget_shape (d : Dev) (t : Nat) :
    (Dev.loadTarget d t).shape = d.shape := by
  unfold Dev.loadTarget
  split <;> simp [Dev.shape_upd]

@[simp] theorem Dev.verifyFirmware_shape (d : Dev) (resume : Bool) :
    (Dev.verifyFirmware d resume).shape = d.shape := by
  unfold Dev.verifyFirmware
  dsimp only
  (repeat' split) <;> simp [Dev.shape_upd]

@[simp] theorem Dev.loadMediaKeys_shape (d : Dev) :
    (Dev.loadMediaKeys d).shape = d.shape := by
  simp [Dev.loadMediaKeys, Dev.shape_upd]

@[simp] theorem Dev.drawKeys_shape (d : Dev) :
    (Dev.drawKeys d).shape = d.shape := by
  simp [Dev.drawKeys, Dev.shape_upd]

@[simp] theorem Dev.parkKeys_shape (d : Dev) :
    (Dev.parkKeys d).shape = d.shape := by
  simp [Dev.parkKeys, Dev.shape_upd]

@[simp] theorem Dev.unparkKeys_shape (d : Dev) :
    (Dev.unparkKeys d).shape = d.shape := by
  unfold Dev.unparkKeys
  (repeat' split) <;> simp [Dev.shape_upd]

@[simp] theorem Dev.clearCommon_shape (keepHdm : Bool) (d : Dev) :
    (Dev.clearCommon keepHdm d).shape = d.shape := by
  simp [Dev.clearCommon, Dev.shape_upd]

@[simp] theorem Dev.closeTitles_shape (d : Dev) :
    (Dev.closeTitles d).shape = d.shape := by
  simp [Dev.closeTitles, Dev.shape_upd]

@[simp] theorem Dev.losePower_shape (d : Dev) :
    (Dev.losePower d).shape = d.shape := by
  simp [Dev.losePower, Dev.shape_upd]

@[simp] theorem Dev.lastGasp_shape (d : Dev) (trigger : Nat) :
    (Dev.lastGasp d trigger).shape = d.shape := by
  simp [Dev.lastGasp, Dev.shape_upd]

@[simp] theorem Dev.consumeGasp_shape (d : Dev) :
    (Dev.consumeGasp d).shape = d.shape := by
  unfold Dev.consumeGasp
  split <;> simp

@[simp] theorem Dev.openRecorder_shape (d : Dev) :
    (Dev.openRecorder d).shape = d.shape := by
  unfold Dev.openRecorder
  (repeat' split) <;> simp [Dev.shape_upd]

@[simp] theorem Dev.restoreMirrors_shape (d : Dev) :
    (Dev.restoreMirrors d).1.shape = d.shape := by
  simp [Dev.restoreMirrors, Dev.shape_upd]

@[simp] theorem Dev.loadTiming_shape (d : Dev) :
    (Dev.loadTiming d).shape = d.shape := by
  unfold Dev.loadTiming
  split <;> simp [Dev.shape_upd]

@[simp] theorem Dev.completeLifecycle_shape (d : Dev) :
    (Dev.completeLifecycle d).shape = d.shape := by
  unfold Dev.completeLifecycle
  dsimp only
  (repeat' split) <;> simp

@[simp] theorem Dev.recordFault_shape (d : Dev) :
    (Dev.recordFault d).shape = d.shape := by
  simp [Dev.recordFault, Dev.shape_upd]

@[simp] theorem Dev.recordWatchdog_shape (d : Dev) :
    (Dev.recordWatchdog d).shape = d.shape := by
  unfold Dev.recordWatchdog
  split <;> simp [Dev.shape_upd]

@[simp] theorem Dev.expireWatchdog_shape (d : Dev) :
    (Dev.expireWatchdog d).shape = d.shape := rfl

@[simp] theorem Dev.startRecords_shape (d : Dev) :
    (Dev.startRecords d).shape = d.shape := by
  simp [Dev.startRecords]

@[simp] theorem Dev.openBoot_shape (d : Dev) :
    (Dev.openBoot d).shape = d.shape := by
  simp [Dev.openBoot, Dev.shape_upd]

@[simp] theorem Dev.warmReset_shape (d : Dev) (watchdog : Bool) :
    (Dev.warmReset d watchdog).shape = d.shape := by
  simp [Dev.warmReset, Dev.shape_upd]

@[simp] theorem Dev.latchFault_shape (d : Dev) (causes : BitVec 16) :
    (Dev.latchFault d causes).shape = d.shape := by
  simp [Dev.latchFault, Dev.shape_upd]

@[simp] theorem Dev.follow_shape (d : Dev) :
    (Dev.follow d).shape = d.shape := by
  simp [Dev.follow]

@[simp] theorem Dev.descend_shape (d : Dev) (target : Mode) (powerFail : Bool) :
    (Dev.descend d target powerFail).shape = d.shape := by
  simp [Dev.descend, Dev.shape_upd]

@[simp] theorem Dev.halt_shape (d : Dev) :
    (Dev.halt d).shape = d.shape := by
  simp [Dev.halt, Dev.shape_upd]

@[simp] theorem Dev.powerDrop_shape (d : Dev) (trigger : Nat) (swapReason : Nat) (record : Bool) (cut : List CutGroup) :
    (Dev.powerDrop d trigger swapReason record cut).shape = d.shape := by
  simp [Dev.powerDrop, Dev.shape_upd]

@[simp] theorem Dev.powerOff_shape (d : Dev) :
    (Dev.powerOff d).shape = d.shape := by
  simp [Dev.powerOff, Dev.shape_upd]

@[simp] theorem Dev.clampVpp_shape (d : Dev) (rail : Nat) :
    (Dev.clampVpp d rail).shape = d.shape := by
  simp [Dev.clampVpp, Dev.shape_upd]

@[simp] theorem Dev.takeSample_shape (d : Dev) (ins : List (Nat × Option Int)) :
    (Dev.takeSample d ins).shape = d.shape := by
  simp [Dev.takeSample, Dev.shape_upd]

@[simp] theorem Dev.notifyThermal_shape (d : Dev) (kind : Nat) (k : Nat) :
    (Dev.notifyThermal d kind k).shape = d.shape := by
  simp [Dev.notifyThermal]

@[simp] theorem Dev.riseEvents_shape (d : Dev) (ks : List Nat) :
    (Dev.riseEvents d ks).shape = d.shape := by
  simp [Dev.riseEvents, Dev.shape_upd]

@[simp] theorem Dev.warnGroup_shape (d : Dev) (g : Nat) :
    (Dev.warnGroup d g).shape = d.shape := by
  simp [Dev.warnGroup, Dev.shape_upd]

@[simp] theorem Dev.criticalRuns_shape (d : Dev) :
    (Dev.criticalRuns d).1.shape = d.shape := by
  simp [Dev.criticalRuns, Dev.shape_upd]

@[simp] theorem Dev.setLevel_shape (d : Dev) (l : Nat) :
    (Dev.setLevel d l).shape = d.shape := by
  simp [Dev.setLevel, Dev.shape_upd]

@[simp] theorem Dev.moveLevel_shape (d : Dev) (risen : Bool) :
    (Dev.moveLevel d risen).shape = d.shape := by
  simp [Dev.moveLevel, Dev.shape_upd]

@[simp] theorem Dev.levelBoundary_shape (d : Dev) :
    (Dev.levelBoundary d).shape = d.shape := by
  unfold Dev.levelBoundary
  split <;> simp [Dev.shape_upd]

@[simp] theorem Dev.ageSlice_shape (d : Dev) (i : Nat) :
    (Dev.ageSlice d i).shape = d.shape := by
  unfold Dev.ageSlice
  split <;> simp

@[simp] theorem Dev.addLife_shape (d : Dev) :
    (Dev.addLife d).shape = d.shape := by
  unfold Dev.addLife
  split <;> simp [Dev.shape_upd]

@[simp] theorem Dev.history_shape (d : Dev) :
    (Dev.history d).shape = d.shape := by
  unfold Dev.history
  apply foldl_shape
  intro d a
  try dsimp only
  repeat' split
  all_goals simp [Dev.shape_upd]

@[simp] theorem Dev.retrainByTemp_shape (d : Dev) (mr4 : List Nat) :
    (Dev.retrainByTemp d mr4).shape = d.shape := by
  simp [Dev.retrainByTemp]

@[simp] theorem Dev.critical_shape (d : Dev) (hot : List (Nat × Int)) :
    (Dev.critical d hot).shape = d.shape := by
  unfold Dev.critical
  split <;> simp

@[simp] theorem Dev.dramTick_shape (d : Dev) (env : TickEnv) (i : Nat) :
    (Dev.dramTick d env i).shape = d.shape := by
  simp [Dev.dramTick]

@[simp] theorem Dev.afterTick_shape (d : Dev) (i : Nat) :
    (Dev.afterTick d i).shape = d.shape := by
  simp [Dev.afterTick]

@[simp] theorem Dev.takeEnv_shape (d : Dev) (env : TickEnv) (i : Nat) :
    (Dev.takeEnv d env i).shape = d.shape := by
  simp [Dev.takeEnv]

@[simp] theorem Dev.sliceTick_shape (d : Dev) (env : TickEnv) (swapDue : Bool) (i : Nat) :
    (Dev.sliceTick d env swapDue i).shape = d.shape := by
  unfold Dev.sliceTick
  dsimp only
  (repeat' split) <;> simp

@[simp] theorem Dev.startTick_shape (d : Dev) :
    (Dev.startTick d).shape = d.shape := by
  simp [Dev.startTick, Dev.shape_upd]

@[simp] theorem Dev.firstTick_shape (d : Dev) :
    (Dev.firstTick d).shape = d.shape := by
  simp [Dev.firstTick]

@[simp] theorem Dev.loadBootImage_shape (d : Dev) :
    (Dev.loadBootImage d).shape = d.shape := by
  simp [Dev.loadBootImage, Dev.shape_upd]

@[simp] theorem Dev.format_shape (d : Dev) (interrupted : Bool) :
    (Dev.format d interrupted).shape = d.shape := by
  simp [Dev.format]

@[simp] theorem Dev.estimate_shape (d : Dev) (i : Nat) (measured : List (Option Nat)) :
    (Dev.estimate d i measured).shape = d.shape := by
  simp [Dev.estimate]

@[simp] theorem Dev.tellSize_shape (d : Dev) (image : List Byte) : (Dev.tellSize d image).shape = d.shape := by
  unfold Dev.tellSize
  split <;> simp

@[simp] theorem Dev.startImage_shape (d : Dev) :
    (Dev.startImage d).shape = d.shape := by
  unfold Dev.startImage
  dsimp only
  (repeat' split) <;> simp [Dev.shape_upd]

@[simp] theorem Dev.tellRebuilt_shape (d : Dev) (i : Nat) (r : Rebuilt) :
    (Dev.tellRebuilt d i r).shape = d.shape := by
  simp [Dev.tellRebuilt]

@[simp] theorem Dev.rebuildSlice_shape (d : Dev) (i : Nat) :
    (Dev.rebuildSlice d i).shape = d.shape := by
  simp [Dev.rebuildSlice]

@[simp] theorem Dev.restoreMaps_shape (d : Dev) (cold : Bool) :
    (Dev.restoreMaps d cold).shape = d.shape := by
  simp [Dev.restoreMaps]

@[simp] theorem Dev.startRoots_shape (d : Dev) :
    (Dev.startRoots d).shape = d.shape := by
  simp [Dev.startRoots]

@[simp] theorem Dev.repairCopies_shape (d : Dev) :
    (Dev.repairCopies d).shape = d.shape := by
  simp [Dev.repairCopies, Dev.shape_upd]

@[simp] theorem Dev.enterService_shape (d : Dev) :
    (Dev.enterService d).shape = d.shape := by
  simp [Dev.enterService, Dev.shape_upd]

@[simp] theorem Dev.drowseResume_shape (d : Dev) :
    (Dev.drowseResume d).shape = d.shape := by
  simp [Dev.drowseResume, Dev.shape_upd]

@[simp] theorem Dev.drowseEntry_shape (d : Dev) :
    (Dev.drowseEntry d).shape = d.shape := by
  unfold Dev.drowseEntry
  extract_lets clean slices e std c f
  have hc : clean.shape = d.shape := by simp [clean]
  split
  · exact hc
  · have he : e.shape = d.shape :=
      (Dev.lastGasp_shape _ _).trans (Dev.shape_upd d _ _ _ _ _ _ _ _ _ _ _ _ _ _ _ _ _ _ _ _ _ _ _ _ _ _ _ _ _ _ _ _ _ _ _ _ _ _ (by simp [slices, clean, Dev.onSlices]) rfl rfl rfl rfl)
    have hk : c.shape = d.shape := ((Dev.clearCommon_shape _ _).trans (Dev.parkKeys_shape _)).trans he
    have hf : f.shape = d.shape := (Dev.shape_upd c _ _ _ _ _ _ _ _ _ _ _ _ _ _ _ _ _ _ _ _ _ _ _ _ _ _ _ _ _ _ _ _ _ _ _ _ _ _ (by simp) rfl rfl rfl rfl).trans hk
    split
    · exact (Dev.drowseResume_shape _).trans hf
    · exact hf

@[simp] theorem Dev.finishShutdown_shape (d : Dev) (target : Mode) :
    (Dev.finishShutdown d target).shape = d.shape := by
  simp [Dev.finishShutdown]

@[simp] theorem Dev.testEntry_shape (d : Dev) :
    (Dev.testEntry d).shape = d.shape := by
  simp [Dev.testEntry, Dev.shape_upd]

@[simp] theorem Dev.transitionRound_shape (d : Dev) :
    (Dev.transitionRound d).shape = d.shape := by
  unfold Dev.transitionRound
  (repeat' split) <;> simp [Dev.shape_upd]

@[simp] theorem Dev.transitionTick_shape (d : Dev) :
    (Dev.transitionTick d).shape = d.shape := by
  unfold Dev.transitionTick
  split <;> simp

@[simp] theorem Dev.writeRate_shape (d : Dev) (i : Nat) :
    (Dev.writeRate d i).shape = d.shape := by
  simp [Dev.writeRate]

@[simp] theorem Dev.advanceRound_shape (d : Dev) :
    (Dev.advanceRound d).shape = d.shape := by
  simp [Dev.advanceRound, Dev.shape_upd]

@[simp] theorem Dev.remapSlice_shape (d : Dev) (i : Nat) :
    (Dev.remapSlice d i).shape = d.shape := by
  simp [Dev.remapSlice]

@[simp] theorem Dev.upkeepBoundary_shape (d : Dev) (fails : List (Nat × Nat)) (i : Nat) :
    (Dev.upkeepBoundary d fails i).shape = d.shape := by
  simp [Dev.upkeepBoundary]

@[simp] theorem Dev.idleBoundary_shape (d : Dev) :
    (Dev.idleBoundary d).shape = d.shape := by
  simp [Dev.idleBoundary, Dev.shape_upd]

@[simp] theorem Dev.methodChange_shape (d : Dev) (method : Nat) :
    (Dev.methodChange d method).shape = d.shape := by
  simp [Dev.methodChange, Dev.shape_upd]

@[simp] theorem Dev.endTicks_shape (d : Dev) (env : TickEnv) :
    (Dev.endTicks d env).shape = d.shape := by
  simp [Dev.endTicks]

@[simp] theorem Dev.roundBoundary_shape (d : Dev) (fails : List (Nat × Nat)) :
    (Dev.roundBoundary d fails).shape = d.shape := by
  simp [Dev.roundBoundary]

@[simp] theorem Dev.storeStep_shape (d : Dev) :
    (Dev.storeStep d).shape = d.shape := by
  unfold Dev.storeStep
  split <;> simp [Dev.shape_upd]

@[simp] theorem Dev.fwStep_shape (d : Dev) (t : Nat) :
    (Dev.fwStep d t).shape = d.shape := by
  unfold Dev.fwStep
  dsimp only
  (repeat' split) <;> simp [Dev.shape_upd]

@[simp] theorem Dev.latchCounters_shape (d : Dev) (round : Nat) (tick : Nat) :
    (Dev.latchCounters d round tick).shape = d.shape := by
  simp [Dev.latchCounters, Dev.shape_upd]

@[simp] theorem Dev.latchDue_shape (d : Dev) :
    (Dev.latchDue d).shape = d.shape := by
  simp [Dev.latchDue]

@[simp] theorem Dev.onSel_shape (d : Dev) (a : Agent) (f : Sel → Sel) :
    (Dev.onSel d a f).shape = d.shape := by
  unfold Dev.onSel
  split <;> simp [Dev.shape_upd]

@[simp] theorem Dev.report_shape (d : Dev) (a : Agent) (port : Nat) (off : Nat) (reason : Nat) :
    (Dev.report d a port off reason).shape = d.shape := by
  simp [Dev.report, Dev.shape_upd]

@[simp] theorem Dev.writeSwap_shape (d : Dev) (a : Agent) (port : Nat) (v : Word) :
    (Dev.writeSwap d a port v).shape = d.shape := by
  simp [Dev.writeSwap, Dev.shape_upd]

@[simp] theorem Dev.emptyChan_shape (d : Dev) (c : Nat) :
    (Dev.emptyChan d c).shape = d.shape := by
  simp [Dev.emptyChan, Dev.shape_upd]

@[simp] theorem Dev.assign_shape (d : Dev) (v : Word) :
    (Dev.assign d v).shape = d.shape := by
  simp [Dev.assign, Dev.shape_upd]

@[simp] theorem Dev.writeShadow_shape (d : Dev) (a : Agent) (port : Nat) (off : Nat) (f : Groups → Groups) :
    (Dev.writeShadow d a port off f).shape = d.shape := by
  simp [Dev.writeShadow, Dev.shape_upd]

@[simp] theorem Dev.writeRegion_shape (d : Dev) (a : Agent) (port : Nat) (off : Nat) (n : Nat) (attr : Bool) (v : Word) :
    (Dev.writeRegion d a port off n attr v).shape = d.shape := by
  simp [Dev.writeRegion]

@[simp] theorem Dev.writeGlobal_shape (d : Dev) (a : Agent) (port : Nat) (off : Nat) (v : Word) :
    (Dev.writeGlobal d a port off v).shape = d.shape := by
  simp [Dev.writeGlobal, Dev.shape_upd]

@[simp] theorem Dev.writeSetway_shape (d : Dev) (secure : Bool) (i : Nat) (v : Word) :
    (Dev.writeSetway d secure i v).shape = d.shape := by
  simp [Dev.writeSetway]

@[simp] theorem Dev.writeSlice_shape (d : Dev) (a : Agent) (i : Nat) (off : Nat) (v : Word) :
    (Dev.writeSlice d a i off v).shape = d.shape := by
  simp [Dev.writeSlice]

@[simp] theorem Dev.writeReach_shape (d : Dev) (i : Nat) (r : Nat) (off : Nat) (v : Word) :
    (Dev.writeReach d i r off v).shape = d.shape := by
  simp [Dev.writeReach]

@[simp] theorem Dev.overrunChan_shape (d : Dev) (c : Nat) :
    (Dev.overrunChan d c).shape = d.shape := by
  simp [Dev.overrunChan]

@[simp] theorem Dev.appendInbound_shape (d : Dev) (c : Nat) (v : Word) (bad : Bool) :
    (Dev.appendInbound d c v bad).shape = d.shape := by
  simp [Dev.appendInbound, Dev.shape_upd]

@[simp] theorem Dev.pushInbound_shape (d : Dev) (a : Agent) (port : Nat) (c : Nat) (v : Word) (bad : Bool) :
    (Dev.pushInbound d a port c v bad).shape = d.shape := by
  simp [Dev.pushInbound]

@[simp] theorem Dev.popOutbound_shape (d : Dev) (c : Nat) (parityFail : Bool) :
    (Dev.popOutbound d c parityFail).2.shape = d.shape := by
  unfold Dev.popOutbound
  split <;> simp

@[simp] theorem Dev.dropOut_shape (d : Dev) (c : Nat) :
    (Dev.dropOut d c).shape = d.shape := by
  simp [Dev.dropOut]

@[simp] theorem Dev.dropIn_shape (d : Dev) (c : Nat) :
    (Dev.dropIn d c).shape = d.shape := by
  simp [Dev.dropIn]

@[simp] theorem Dev.dropFor_shape (d : Dev) (a : Agent) (c : Nat) :
    (Dev.dropFor d a c).shape = d.shape := by
  simp [Dev.dropFor]

@[simp] theorem Dev.writeChan_shape (d : Dev) (a : Agent) (port : Nat) (c : Nat) (off : Nat) (v : Word) (bad : Bool) :
    (Dev.writeChan d a port c off v bad).shape = d.shape := by
  unfold Dev.writeChan
  split <;> simp

@[simp] theorem Dev.readChan_shape (d : Dev) (a : Agent) (port : Nat) (c : Nat) (off : Nat) (parityFail : Bool) :
    (Dev.readChan d a port c off parityFail).2.shape = d.shape := by
  unfold Dev.readChan
  (repeat' split) <;> simp

@[simp] theorem Dev.readOut_shape (d : Dev) (a : Agent) (port : Nat) (c : Nat) (half : OutHalf) (parityFail : Bool) :
    (Dev.readOut d a port c half parityFail).2.shape = d.shape := by
  unfold Dev.readOut
  dsimp only
  (repeat' split) <;> simp

@[simp] theorem Dev.writeRingCtrl_shape (d : Dev) (a : Agent) (port : Nat) (off : Nat) (ring : Nat) (v : Word) :
    (Dev.writeRingCtrl d a port off ring v).shape = d.shape := by
  simp [Dev.writeRingCtrl]

@[simp] theorem Dev.writeRing_shape (d : Dev) (a : Agent) (port : Nat) (off : Nat) (ring : Nat) (v : Word) :
    (Dev.writeRing d a port off ring v).shape = d.shape := by
  unfold Dev.writeRing
  split <;> simp

@[simp] theorem Dev.writeSlot_shape (d : Dev) (a : Agent) (port : Nat) (sel : Sel) (off : Nat) (v : BitVec 64) (bad : Bool) :
    (Dev.writeSlot d a port sel off v bad).shape = d.shape := by
  simp [Dev.writeSlot]

@[simp] theorem Dev.readSlot_shape (d : Dev) (a : Agent) (port : Nat) (sel : Sel) (off : Nat) (parityFail : Bool) :
    (Dev.readSlot d a port sel off parityFail).2.shape = d.shape := by
  unfold Dev.readSlot
  (repeat' split) <;> simp

@[simp] theorem Dev.touchChan_shape (d : Dev) (a : Agent) (port : Nat) (off : Nat) :
    (Dev.touchChan d a port off).shape = d.shape := by
  simp [Dev.touchChan]

@[simp] theorem Dev.writeAccess_shape (d : Dev) (a : Agent) (port : Nat) (off : Nat) (size : Nat) (v : BitVec 64) :
    (Dev.writeAccess d a port off size v).shape = d.shape := by
  simp [Dev.writeAccess]

@[simp] theorem Dev.readAccess_shape (d : Dev) (a : Agent) (port : Nat) (sel : Sel) (off : Nat) (size : Nat) (parityFail : Bool) :
    (Dev.readAccess d a port sel off size parityFail).2.shape = d.shape := by
  unfold Dev.readAccess
  dsimp only
  (repeat' split) <;> simp [Dev.shape_upd]

@[simp] theorem Dev.maskVector_shape (d : Dev) (port : Nat) (vector : Nat) (masked : Bool) :
    (Dev.maskVector d port vector masked).shape = d.shape := by
  simp [Dev.maskVector, Dev.shape_upd]

@[simp] theorem Dev.writeVector_shape (d : Dev) (port : Nat) (vector : Nat) (part : Nat) (v : BitVec 32) :
    (Dev.writeVector d port vector part v).shape = d.shape := by
  unfold Dev.writeVector
  (repeat' split) <;> simp [Dev.shape_upd]

@[simp] theorem Dev.writeMsixControl_shape (d : Dev) (port : Nat) (v : BitVec 16) :
    (Dev.writeMsixControl d port v).shape = d.shape := by
  simp [Dev.writeMsixControl]

@[simp] theorem Dev.await_shape (d : Dev) (q : Req) (what : WaitFor) :
    (Dev.await d q what).shape = d.shape := by
  simp [Dev.await, Dev.shape_upd]

@[simp] theorem Dev.writeBuffer_shape (d : Dev) (c : Nat) (b : List Byte) :
    (Dev.writeBuffer d c b).shape = d.shape := by
  simp [Dev.writeBuffer, Dev.shape_upd]

@[simp] theorem Dev.resync_shape (d : Dev) (c : Nat) :
    (Dev.resync d c).shape = d.shape := by
  unfold Dev.resync
  dsimp only
  (repeat' split) <;> simp

@[simp] theorem Dev.takeRequest_shape (d : Dev) (c : Nat) (rest : List MbWord) :
    (Dev.takeRequest d c rest).shape = d.shape := by
  simp [Dev.takeRequest]

@[simp] theorem Dev.answer_shape (d : Dev) (q : Req) (x1 : Reply) :
    (Dev.answer d q x1).shape = d.shape := by
  unfold Dev.answer
  split <;> simp

@[simp] theorem Dev.serve_shape (d : Dev) (c : Nat) (op : Nat) (early : Dev → Req → Option Nat) (body : Dev → Req → Dev × Reply) (hbody : ∀ d q, (body d q).1.shape = d.shape) :
    (Dev.serve d c op early body).shape = d.shape := by
  unfold Dev.serve
  dsimp only
  (repeat' split) <;> simp_all

@[simp] theorem Dev.onImages_shape (d : Dev) (f : Images → Images) :
    (Dev.onImages d f).shape = d.shape := by
  simp [Dev.onImages, Dev.shape_upd]

@[simp] theorem Dev.imageRejected_shape (d : Dev) (f : VFail) :
    (Dev.imageRejected d f).1.shape = d.shape := by
  simp [Dev.imageRejected]

@[simp] theorem Dev.finishLoad_shape (d : Dev) (b : List Byte) :
    (Dev.finishLoad d b).1.shape = d.shape := by
  unfold Dev.finishLoad
  split <;> simp

@[simp] theorem Dev.imagePart_shape (d : Dev) (q : Req) (host : List Byte) :
    (Dev.imagePart d q host).1.shape = d.shape := by
  unfold Dev.imagePart
  dsimp only
  (repeat' split) <;> simp

@[simp] theorem Dev.storeImage_shape (d : Dev) (b : List Byte) :
    (Dev.storeImage d b).shape = d.shape := by
  simp [Dev.storeImage]

@[simp] theorem Dev.sequenceBytes_shape (d : Dev) (q : List Nat) :
    (Dev.sequenceBytes d q).2.shape = d.shape := by
  unfold Dev.sequenceBytes
  split <;> simp [Dev.shape_upd]

@[simp] theorem Dev.flushWord_shape (d : Dev) (i : Nat) :
    (Dev.flushWord d i).2.shape = d.shape := by
  unfold Dev.flushWord
  split
  · rfl
  · split
    · rfl
    · rcases h : d.draw (2 ^ 32) with ⟨m, e⟩
      exact (shape_of_snd h).trans (Dev.draw_shape _ _)

@[simp] theorem Dev.onShadow_shape (d : Dev) (f : Groups → Groups) :
    (Dev.onShadow d f).shape = d.shape := by
  simp [Dev.onShadow, Dev.shape_upd]

@[simp] theorem Dev.badRecord_shape (d : Dev) :
    (Dev.badRecord d).1.shape = d.shape := by
  simp [Dev.badRecord]

@[simp] theorem Dev.closeFlush_shape (d : Dev) (t : Nat) :
    (Dev.closeFlush d t).2.shape = d.shape := by
  simp [Dev.closeFlush]

@[simp] theorem Dev.fit_shape (d : Dev) (n : Nat) (w : Nat) :
    (Dev.fit d n w).2.shape = d.shape := by
  unfold Dev.fit
  split <;> simp

@[simp] theorem Dev.overProvisioning_shape (d : Dev) (i : Nat) :
    (Dev.overProvisioning d i).2.shape = d.shape := by
  unfold Dev.overProvisioning
  dsimp only
  (repeat' split) <;> simp

@[simp] theorem Dev.peakByte_shape (d : Dev) (g : Nat) :
    (Dev.peakByte d g).2.shape = d.shape := by
  unfold Dev.peakByte
  split <;> simp

@[simp] theorem Dev.readRecords_shape (d : Dev) (q : Req) :
    (Dev.readRecords d q).1.shape = d.shape := by
  unfold Dev.readRecords
  dsimp only
  (repeat' split) <;> simp

@[simp] theorem Dev.openGroup_shape (d : Dev) (g : Nat) :
    (Dev.openGroup d g).shape = d.shape := by
  simp [Dev.openGroup, Dev.shape_upd]

@[simp] theorem Dev.beginTransition_shape (d : Dev) (target : Mode) :
    (Dev.beginTransition d target).shape = d.shape := by
  simp [Dev.beginTransition, Dev.shape_upd]

@[simp] theorem Dev.thermalByte_shape (d : Dev) (k : Nat) (enabled : Bool) :
    (Dev.thermalByte d k enabled).2.shape = d.shape := by
  unfold Dev.thermalByte
  dsimp only
  (repeat' split) <;> simp

@[simp] theorem Dev.thermalBytes_shape (d : Dev) (x1 : List (Nat × Bool)) :
    (Dev.thermalBytes d x1).2.shape = d.shape := by
  induction x1 generalizing d with
  | nil => rfl
  | cons e l ih =>
    unfold Dev.thermalBytes
    rcases h : d.thermalByte e.1 e.2 with ⟨b, e'⟩
    have he := shape_of_snd h
    simp only [Dev.thermalByte_shape] at he
    simp [h, ih, he]

@[simp] theorem Dev.onCart_shape (d : Dev) (f : Cart → Cart) :
    (Dev.onCart d f).shape = d.shape := by
  simp [Dev.onCart, Dev.shape_upd]

@[simp] theorem Dev.notifyCart_shape (d : Dev) (present : Bool) (streaming : Bool) :
    (Dev.notifyCart d present streaming).shape = d.shape := by
  simp [Dev.notifyCart]

@[simp] theorem Dev.cartEnd_shape (d : Dev) :
    (Dev.cartEnd d).shape = d.shape := by
  simp [Dev.cartEnd]

@[simp] theorem Dev.notifyShutdown_shape (d : Dev) (queues : Bool) :
    (Dev.notifyShutdown d queues).shape = d.shape := by
  unfold Dev.notifyShutdown
  dsimp only
  split <;> rfl

@[simp] theorem Dev.askTitleKey_shape (d : Dev) (e : Nat) :
    (Dev.askTitleKey d e).shape = d.shape := by
  simp [Dev.askTitleKey]

@[simp] theorem Dev.authTalk_shape (d : Dev) (card : CardInfo) (k : Nat) :
    (Dev.authTalk d card k).shape = d.shape := by
  unfold Dev.authTalk
  dsimp only
  (repeat' split) <;> simp

@[simp] theorem Dev.authFailed_shape (d : Dev) (step : Nat) (status : Nat) :
    (Dev.authFailed d step status).1.shape = d.shape := by
  simp [Dev.authFailed]

@[simp] theorem Dev.mapStream_shape (d : Dev) (n : Nat) (e : Nat) (t : Nat) :
    (Dev.mapStream d n e t).shape = d.shape := by
  unfold Dev.mapStream
  simp

@[simp] theorem Dev.onFirmware_shape (d : Dev) (t : Nat) (f : FwTarget → FwTarget) :
    (Dev.onFirmware d t f).shape = d.shape := by
  simp [Dev.onFirmware, Dev.shape_upd]

@[simp] theorem Dev.fwRejected_shape (d : Dev) (t : Nat) (code : Nat) :
    (Dev.fwRejected d t code).1.shape = d.shape := by
  simp [Dev.fwRejected]

@[simp] theorem Dev.fwFinish_shape (d : Dev) (t : Nat) (b : List Byte) :
    (Dev.fwFinish d t b).1.shape = d.shape := by
  unfold Dev.fwFinish
  dsimp only
  (repeat' split) <;> simp

@[simp] theorem Dev.fwPart_shape (d : Dev) (q : Req) (host : List Byte) :
    (Dev.fwPart d q host).1.shape = d.shape := by
  unfold Dev.fwPart
  dsimp only
  (repeat' split) <;> simp

@[simp] theorem Dev.fwStore_shape (d : Dev) (t : Nat) (b : List Byte) :
    (Dev.fwStore d t b).shape = d.shape := by
  simp [Dev.fwStore]

@[simp] theorem Dev.recordLifecycle_shape (d : Dev) (next : Lifecycle) :
    (Dev.recordLifecycle d next).shape = d.shape := by
  unfold Dev.recordLifecycle
  dsimp only
  rw [Dev.store_shape]
  split
  · rw [foldl_shape _ (fun _ _ => Dev.store_shape _ _ _)]
    exact (Dev.shape_upd (d.onSlices _) _ _ _ _ _ _ _ _ _ _ _ _ _ _ _ _ _ _ _ _ _ _ _ _ _ _ _ _ _ _ _ _ _ _ _ _ _ _ rfl rfl rfl (by simp [Dev.onSlices]) rfl).trans (Dev.onSlices_shape _ _)
  · rfl

@[simp] theorem Dev.internalError_shape (d : Dev) :
    (Dev.internalError d).1.shape = d.shape := by
  simp [Dev.internalError]

@[simp] theorem Dev.answerAccess_shape (d : Dev) (a : PAccess) (status : Nat) (payload : List Word) :
    (Dev.answerAccess d a status payload).shape = d.shape := by
  unfold Dev.answerAccess
  split <;> simp

@[simp] theorem Dev.performRead_shape (d : Dev) (a : PAccess) :
    (Dev.performRead d a).shape = d.shape := by
  unfold Dev.performRead
  split <;> simp [Dev.shape_upd]

@[simp] theorem Dev.performRegister_shape (d : Dev) (r : RegAccess) :
    (Dev.performRegister d r).shape = d.shape := by
  unfold Dev.performRegister
  (repeat' split) <;> simp [Dev.shape_upd]

@[simp] theorem Dev.serveStore_shape (d : Dev) (x1 : Nat) :
    (Dev.serveStore d x1).shape = d.shape := by
  induction x1 generalizing d with
  | zero => rfl
  | succ n ih =>
    unfold Dev.serveStore
    dsimp only
    split
    · rfl
    · rename_i a rest _
      split
      · rw [ih]
        cases a.register <;> simp [Dev.shape_upd]
      · (repeat' split) <;> simp [ih, Dev.shape_upd]

@[simp] theorem Dev.addAccess_shape (d : Dev) (a : PAccess) :
    (Dev.addAccess d a).shape = d.shape := by
  simp [Dev.addAccess, Dev.shape_upd]

@[simp] theorem Dev.mailboxInterrupt_shape (d : Dev) (port : Nat) :
    (Dev.mailboxInterrupt d port).shape = d.shape := by
  simp [Dev.mailboxInterrupt]

@[simp] theorem Dev.stdReply_shape (d : Dev) (port : Nat) (code : Nat) (fields : List Nat) :
    (Dev.stdReply d port code fields).shape = d.shape := by
  simp [Dev.stdReply]

@[simp] theorem Dev.forgetPort_shape (d : Dev) (port : Nat) (rings : List Nat) :
    (Dev.forgetPort d port rings).shape = d.shape := by
  unfold Dev.forgetPort
  exact (Dev.shape_upd (d.onPort port _) _ _ _ _ _ _ _ _ _ _ _ _ _ _ _ _ _ _ _ _ _ _ _ _ _ _ _ _ _ _ _ _ _ _ _ _ _ _ (by simp [Dev.onPort]) rfl rfl rfl rfl).trans (Dev.onPort_shape _ _ _)

@[simp] theorem Dev.narrowPort_shape (d : Dev) (port : Nat) (excluded : BitVec 16) :
    (Dev.narrowPort d port excluded).shape = d.shape := by
  simp [Dev.narrowPort]

@[simp] theorem Dev.onBoot_shape (d : Dev) (f : BootPort → BootPort) :
    (Dev.onBoot d f).shape = d.shape := by
  simp [Dev.onBoot, Dev.shape_upd]

@[simp] theorem Dev.onI3c_shape (d : Dev) (f : I3c → I3c) :
    (Dev.onI3c d f).shape = d.shape := by
  simp [Dev.onI3c, Dev.shape_upd]

@[simp] theorem Dev.takeWords_shape (d : Dev) (c : Nat) (bad : List Nat) (x1 : Nat) (x2 : Nat) (x3 : List Byte) :
    (Dev.takeWords d c bad x1 x2 x3).shape = d.shape := by
  induction x1 generalizing d x2 x3 with
  | zero => rfl
  | succ n ih =>
    unfold Dev.takeWords
    repeat' split
    all_goals simp [ih, Dev.shape_upd]

@[simp] theorem Dev.acceptRegister_shape (d : Dev) (r : RegAccess) :
    (Dev.acceptRegister d r).shape = d.shape := by
  simp [Dev.acceptRegister, Dev.shape_upd]

@[simp] theorem Dev.withOffset_shape (d : Dev) (offset : BitVec 32) (f : Dev → Dev) (hf : ∀ d, (f d).shape = d.shape) :
    (Dev.withOffset d offset f).shape = d.shape := by
  unfold Dev.withOffset
  (repeat' split) <;> simp_all

@[simp] theorem Dev.readSlots_shape (d : Dev) (bad : List Nat) (x1 : Nat) (x2 : Nat) (x3 : Nat) :
    (Dev.readSlots d bad x1 x2 x3).2.shape = d.shape := by
  induction x1 generalizing d x2 x3 with
  | zero => rfl
  | succ n ih =>
    unfold Dev.readSlots
    by_cases hx : x3 < 0x4000000 <;> simp [hx, ih]

@[simp] theorem Dev.onDebug_shape (d : Dev) (f : Debug → Debug) :
    (Dev.onDebug d f).shape = d.shape := by
  simp [Dev.onDebug, Dev.shape_upd]

@[simp] theorem Dev.bypass_shape (d : Dev) :
    (Dev.bypass d).shape = d.shape := by
  simp [Dev.bypass]

@[simp] theorem Dev.boundaryScan_shape (d : Dev) (scan : List Bool) :
    (Dev.boundaryScan d scan).shape = d.shape := by
  simp [Dev.boundaryScan]

@[simp] theorem Dev.closeForDebug_shape (d : Dev) (t : Nat) :
    (Dev.closeForDebug d t).shape = d.shape := by
  simp [Dev.closeForDebug]

@[simp] theorem Dev.unlock_shape (d : Dev) (scope : Nat) :
    (Dev.unlock d scope).shape = d.shape := by
  simp [Dev.unlock]

@[simp] theorem Dev.tokenFailed_shape (d : Dev) :
    (Dev.tokenFailed d).shape = d.shape := by
  simp [Dev.tokenFailed]

@[simp] theorem Dev.debugDenied_shape (d : Dev) :
    (Dev.debugDenied d).shape = d.shape := by
  simp [Dev.debugDenied]

@[simp] theorem Dev.debugRegister_shape (d : Dev) (write : Bool) (address : Nat) (value : BitVec 64) :
    (Dev.debugRegister d write address value).shape = d.shape := by
  simp [Dev.debugRegister, Dev.shape_upd]

@[simp] theorem Dev.debugData_shape (d : Dev) (dpa : Nat) :
    (Dev.debugData d dpa).2.shape = d.shape := by
  unfold Dev.debugData
  split <;> simp

@[simp] theorem Dev.debugDpa_shape (d : Dev) (write : Bool) (address : Nat) (value : BitVec 64) :
    (Dev.debugDpa d write address value).shape = d.shape := by
  simp [Dev.debugDpa]

@[simp] theorem Dev.debugOpaque_shape (d : Dev) (write : Bool) :
    (Dev.debugOpaque d write).shape = d.shape := by
  simp [Dev.debugOpaque]

@[simp] theorem Dev.withScope_shape (d : Dev) (letter : Nat) (f : Dev → Dev) (hf : ∀ d, (f d).shape = d.shape) :
    (Dev.withScope d letter f).shape = d.shape := by
  unfold Dev.withScope
  (repeat' split) <;> simp_all

@[simp] theorem Dev.debugWorking_shape (d : Dev) (write : Bool) (address : Nat) (value : BitVec 64) :
    (Dev.debugWorking d write address value).shape = d.shape := by
  simp [Dev.debugWorking, Dev.shape_upd]

@[simp] theorem Dev.debugDram_shape (d : Dev) (write : Bool) (memory : Nat) (slice : Nat) (address : Nat) (value : BitVec 64) :
    (Dev.debugDram d write memory slice address value).shape = d.shape := by
  simp [Dev.debugDram]

@[simp] theorem Dev.debugProcessor_shape (d : Dev) (action : Nat) :
    (Dev.debugProcessor d action).shape = d.shape := by
  simp [Dev.debugProcessor, Dev.shape_upd]

@[simp] theorem Dev.debugTest_shape (d : Dev) :
    (Dev.debugTest d).shape = d.shape := by
  simp [Dev.debugTest]

end Sys2Proof.Machine
end

