-- ==== Sys2Proof/Laws/Memory.lean ====
section
/-!
SUPPORT. Cell memories: reading back what was stored, and the canonical form, which every memory operation keeps.
-/
namespace Sys2Proof.Machine

open Sys2Proof

/-- A canonical memory from a higher address on is one from a lower address on. -/
theorem memFrom_mono {m : List Host.Cell} {lo hi : Nat} (h : memFrom hi m = true) (hl : lo ≤ hi) :
    memFrom lo m = true := by
  cases m with
  | nil => rfl
  | cons e m =>
    obtain ⟨a, v⟩ := e
    simp only [memFrom, Bool.and_eq_true, decide_eq_true_eq] at h ⊢
    exact ⟨⟨by omega, h.1.2⟩, h.2⟩

/-- An address below a canonical memory reads 0. -/
theorem memByte_below {m : List Host.Cell} {lo a : Nat} (h : memFrom lo m = true) (ha : a < lo) : memByte m a = 0 := by
  induction m generalizing lo with
  | nil => rfl
  | cons e m ih =>
    obtain ⟨b, v⟩ := e
    simp only [memFrom, Bool.and_eq_true, decide_eq_true_eq] at h
    have hb : b ≠ a := by omega
    simp only [memByte, hb, if_false]
    exact ih h.2 (by omega)

/-- Storing a byte keeps the canonical form. -/
theorem memFrom_memSet {m : List Host.Cell} {lo : Nat} (h : memFrom lo m = true) (a : Nat) (v : Byte) (ha : lo ≤ a) :
    memFrom lo (memSet m a v) = true := by
  induction m generalizing lo with
  | nil =>
    by_cases hv : v = 0#8
    · simp [memSet, hv, memFrom]
    · simp [memSet, hv, memFrom, ha]
  | cons e m ih =>
    obtain ⟨b, w⟩ := e
    have h' := h
    simp only [memFrom, Bool.and_eq_true, decide_eq_true_eq] at h'
    obtain ⟨⟨h1, h2⟩, h3⟩ := h'
    unfold memSet
    by_cases hab : a < b
    · by_cases hv : v = 0#8
      · simpa [hab, hv] using h
      · rw [if_pos hab, if_neg (show ¬v = 0 from hv)]
        simp only [memFrom, Bool.and_eq_true, decide_eq_true_eq]
        exact ⟨⟨ha, hv⟩, ⟨⟨by omega, h2⟩, h3⟩⟩
    · by_cases hba : a = b
      · subst hba
        by_cases hv : v = 0#8
        · simpa [hv] using memFrom_mono h3 (by omega)
        · simp [hv, memFrom, h1, h3]
      · simp only [hab, hba, if_false, memFrom, Bool.and_eq_true, decide_eq_true_eq]
        exact ⟨⟨h1, h2⟩, ih h3 (by omega)⟩

@[simp] theorem memSet_wf {m : List Host.Cell} (h : Memory.wf m = true) (a : Nat) (v : Byte) :
    Memory.wf (memSet m a v) = true := memFrom_memSet h a v (Nat.zero_le a)

@[simp] theorem memWrite_wf {m : List Host.Cell} (h : Memory.wf m = true) (a : Nat) (b : List Byte) :
    Memory.wf (memWrite m a b) = true := by
  induction b generalizing m a with
  | nil => exact h
  | cons v b ih => exact ih (memSet_wf h a v) (a + 1)

/-- A byte stored reads back, and every other byte stays. -/
theorem memByte_memSet {m : List Host.Cell} {lo : Nat} (h : memFrom lo m = true) (a c : Nat) (v : Byte) :
    memByte (memSet m a v) c = if c = a then v else memByte m c := by
  induction m generalizing lo with
  | nil =>
    by_cases hv : v = 0#8
    · simp [memSet, hv, memByte]
    · by_cases hc : c = a
      · simp [memSet, hv, memByte, hc]
      · simp [memSet, hv, memByte, hc, Ne.symm hc]
  | cons e m ih =>
    obtain ⟨b, w⟩ := e
    simp only [memFrom, Bool.and_eq_true, decide_eq_true_eq] at h
    obtain ⟨⟨h1, h2⟩, h3⟩ := h
    unfold memSet
    by_cases hab : a < b
    · by_cases hv : v = 0#8
      · by_cases hc : c = a
        · have : b ≠ a := by omega
          simp [hab, hv, hc, memByte, this, memByte_below h3 (show a < b + 1 by omega)]
        · simp [hab, hv, hc]
      · by_cases hc : c = a
        · simp [hab, hv, hc, memByte]
        · simp [hab, hv, hc, memByte, Ne.symm hc]
    · by_cases hba : a = b
      · subst hba
        by_cases hv : v = 0#8
        · by_cases hc : c = a
          · simp [hv, hc, memByte_below h3 (show a < a + 1 by omega)]
          · simp [hv, hc, memByte, Ne.symm hc]
        · by_cases hc : c = a
          · simp [hv, hc, memByte]
          · simp [hv, hc, memByte, Ne.symm hc]
      · by_cases hc : c = a
        · have : b ≠ a := fun e => hba e.symm
          have hs := ih h3
          simp only [hc, if_true] at hs
          simp [hab, hba, hc, memByte, this, hs]
        · have hs := ih h3
          simp only [hc, if_false] at hs
          simp [hab, hba, hc, memByte, hs]

/-- Every byte outside a write stays. -/
theorem memByte_memWrite_outside {m : List Host.Cell} (h : Memory.wf m = true) (a : Nat) (b : List Byte) (c : Nat)
    (hc : c < a ∨ a + b.length ≤ c) : memByte (memWrite m a b) c = memByte m c := by
  induction b generalizing m a with
  | nil => rfl
  | cons v b ih =>
    simp only [List.length_cons] at hc
    have hs := memByte_memSet (lo := 0) h a c v
    have hne : c ≠ a := by omega
    rw [if_neg hne] at hs
    exact (ih (memSet_wf h a v) (a + 1) (by omega)).trans hs

/-- Every byte of a write reads back. -/
theorem memByte_memWrite_inside {m : List Host.Cell} (h : Memory.wf m = true) (a : Nat) (b : List Byte) (k : Nat)
    (hk : k < b.length) : memByte (memWrite m a b) (a + k) = b.getD k 0 := by
  induction b generalizing m a k with
  | nil => simp at hk
  | cons v b ih =>
    cases k with
    | zero =>
      have hs := memByte_memSet (lo := 0) h a a v
      rw [if_pos rfl] at hs
      exact (memByte_memWrite_outside (memSet_wf h a v) (a + 1) b a (by omega)).trans hs
    | succ k =>
      have e : a + (k + 1) = a + 1 + k := by omega
      rw [e]
      exact ih (memSet_wf h a v) (a + 1) k (by simpa using hk)

/-- Writing the parameter store keeps the canonical form. -/
@[simp] theorem PStore.write_wf {p : PStore} (h : Memory.wf p.mem = true) (a : Nat) (b : List Byte) :
    Memory.wf (p.write a b).mem = true := by
  unfold PStore.write
  split
  · exact memWrite_wf h a b
  · exact h

/-- The parameter store as it leaves the factory is canonical (R572). -/
theorem factoryStore_wf : Memory.wf factoryStore = true := by decide

end Sys2Proof.Machine
end

