-- ==== Sys2Proof/Laws/Stored.lean ====
section
/-!
SUPPORT. The parameter store and the secure buffer window keep their canonical form: one lemma per operation over the
package.
-/
namespace Sys2Proof.Machine

open Sys2Proof

@[simp] theorem Dev.stored_pstore {d : Dev} (h : d.Stored) : Memory.wf d.pstore.mem = true := h.1

@[simp] theorem Dev.stored_window {d : Dev} (h : d.Stored) : Memory.wf d.i3c.window = true := h.2

@[simp] theorem Dev.stored_mk (part fuses mode clock swap active shadow regs chans i3c rings ports msix std dbg alarms keys titles pstore mirror recorder images firmware waiters cart seq thermal boot pins slices flushes nextFlush counters transition preserve rung notStarted working draws out) :
    (Dev.mk part fuses mode clock swap active shadow regs chans i3c rings ports msix std dbg alarms keys titles pstore mirror recorder images firmware waiters cart seq thermal boot pins slices flushes nextFlush counters transition preserve rung notStarted working draws out).Stored ↔ Memory.wf pstore.mem = true ∧ Memory.wf i3c.window = true := Iff.rfl

@[simp] theorem ite_stored (c : Prop) [Decidable c] (a b : Dev) :
    (if c then a else b).Stored ↔ if c then a.Stored else b.Stored := by split <;> rfl

@[simp] theorem foldl_stored {α : Type} (f : Dev → α → Dev) (hf : ∀ (d : Dev) a, d.Stored → (f d a).Stored) (l : List α)
    (d : Dev) (hd : d.Stored) : (l.foldl f d).Stored := by
  induction l generalizing d with
  | nil => exact hd
  | cons a l ih => exact ih _ (hf d a hd)

theorem foldl_fst_stored {α β : Type} (f : Dev × β → α → Dev × β) (hf : ∀ d a, d.1.Stored → (f d a).1.Stored)
    (l : List α) (d : Dev × β) (hd : d.1.Stored) : (l.foldl f d).1.Stored := by
  induction l generalizing d with
  | nil => exact hd
  | cons a l ih => exact ih _ (hf d a hd)

theorem stored_of_fst {α : Type} {e : Dev × α} {d : Dev} {a : α} (h : e = (d, a)) (he : e.1.Stored) : d.Stored := by
  rw [h] at he
  exact he

theorem stored_of_snd {α : Type} {e : α × Dev} {d : Dev} {a : α} (h : e = (a, d)) (he : e.2.Stored) : d.Stored := by
  rw [h] at he
  exact he

@[simp] theorem Dev.onSlice_stored (d : Dev) (i : Nat) (f : Slice → Slice) (hd : d.Stored) :
    (Dev.onSlice d i f).Stored := by
  simp (maxDischargeDepth := 60) [Dev.onSlice, hd]

@[simp] theorem Dev.onSlices_stored (d : Dev) (f : Slice → Slice) (hd : d.Stored) :
    (Dev.onSlices d f).Stored := by
  simp (maxDischargeDepth := 60) [Dev.onSlices, hd]

@[simp] theorem Dev.onPort_stored (d : Dev) (p : Nat) (f : Port → Port) (hd : d.Stored) :
    (Dev.onPort d p f).Stored := by
  simp (maxDischargeDepth := 60) [Dev.onPort, hd]

@[simp] theorem Dev.onChan_stored (d : Dev) (c : Nat) (f : Chan → Chan) (hd : d.Stored) :
    (Dev.onChan d c f).Stored := by
  simp (maxDischargeDepth := 60) [Dev.onChan, hd]

@[simp] theorem Dev.onRing_stored (d : Dev) (r : Nat) (f : Ring → Ring) (hd : d.Stored) :
    (Dev.onRing d r f).Stored := by
  simp (maxDischargeDepth := 60) [Dev.onRing, hd]

@[simp] theorem Dev.onTitle_stored (d : Dev) (t : Nat) (f : Title → Title) (hd : d.Stored) :
    (Dev.onTitle d t f).Stored := by
  simp (maxDischargeDepth := 60) [Dev.onTitle, hd]

@[simp] theorem Dev.emit_stored (d : Dev) (o : Output) (hd : d.Stored) :
    (Dev.emit d o).Stored := by
  simp (maxDischargeDepth := 60) [Dev.emit, hd]

@[simp] theorem Dev.count_stored (d : Dev) (s : Nat) (i : Nat) (n : Nat) (hd : d.Stored) :
    (Dev.count d s i n).Stored := by
  simp (maxDischargeDepth := 60) [Dev.count, hd]

@[simp] theorem Dev.countPkg_stored (d : Dev) (i : Nat) (n : Nat) (hd : d.Stored) :
    (Dev.countPkg d i n).Stored := by
  simp (maxDischargeDepth := 60) [Dev.countPkg, hd]

@[simp] theorem Dev.draw_stored (d : Dev) (m : Nat) (hd : d.Stored) :
    (Dev.draw d m).2.Stored := by
  simp (maxDischargeDepth := 60) [Dev.draw, hd]

@[simp] theorem Dev.random_stored (d : Dev) (hd : d.Stored) :
    (Dev.random d).2.Stored := by
  simp (maxDischargeDepth := 60) [Dev.random, hd]

@[simp] theorem Dev.signals_stored (d : Dev) (vs : List (Nat × Nat)) (hd : d.Stored) :
    (Dev.signals d vs).Stored := by
  simp (maxDischargeDepth := 60) [Dev.signals, hd]

@[simp] theorem Dev.releaseVectors_stored (d : Dev) (which : Nat × Nat → Bool) (hd : d.Stored) :
    (Dev.releaseVectors d which).Stored := by
  simp (maxDischargeDepth := 60) [Dev.releaseVectors, hd]

@[simp] theorem Dev.chanIrq_stored (d : Dev) (c : Nat) (data : Nat) (hd : d.Stored) :
    (Dev.chanIrq d c data).Stored := by
  simp (maxDischargeDepth := 60) [Dev.chanIrq, hd]

@[simp] theorem Dev.causeInEmpty_stored (d : Dev) (c : Nat) (hd : d.Stored) :
    (Dev.causeInEmpty d c).Stored := by
  simp (maxDischargeDepth := 60) [Dev.causeInEmpty, hd]

@[simp] theorem Dev.causeOutReady_stored (d : Dev) (c : Nat) (hd : d.Stored) :
    (Dev.causeOutReady d c).Stored := by
  simp (maxDischargeDepth := 60) [Dev.causeOutReady, hd]

@[simp] theorem Dev.pushMessage_stored (d : Dev) (c : Nat) (ws : List Word) (hd : d.Stored) :
    (Dev.pushMessage d c ws).Stored := by
  simp (maxDischargeDepth := 60) [Dev.pushMessage, hd]

@[simp] theorem Dev.drainOut_stored (d : Dev) (c : Nat) (x1 : Nat) (hd : d.Stored) :
    (Dev.drainOut d c x1).Stored := by
  induction x1 generalizing d with
  | zero => exact hd
  | succ n ih =>
    unfold Dev.drainOut
    dsimp only
    (repeat' split) <;> first | exact hd | (exact ih _ (by simp (maxDischargeDepth := 60) [hd]))

@[simp] theorem Dev.pump_stored (d : Dev) (c : Nat) (hd : d.Stored) :
    (Dev.pump d c).Stored := by
  simp (maxDischargeDepth := 60) [Dev.pump, hd]

@[simp] theorem Dev.respond_stored (d : Dev) (c : Nat) (opcode : Nat) (tag : Nat) (flags : Nat) (status : Nat) (payload : List Word) (hd : d.Stored) :
    (Dev.respond d c opcode tag flags status payload).Stored := by
  simp (maxDischargeDepth := 60) [Dev.respond, hd]

@[simp] theorem Dev.notifyOn_stored (d : Dev) (c : Nat) (code : Nat) (payload : List Word) (hd : d.Stored) :
    (Dev.notifyOn d c code payload).Stored := by
  simp (maxDischargeDepth := 60) [Dev.notifyOn, hd]

@[simp] theorem Dev.notify_stored (d : Dev) (i : Nat) (code : Nat) (payload : List Word) (hd : d.Stored) :
    (Dev.notify d i code payload).Stored := by
  unfold Dev.notify
  split
  · refine foldl_stored _ (fun d c hd => ?_) _ _ hd
    split <;> simp [hd]
  · exact hd

@[simp] theorem Dev.notifySecure_stored (d : Dev) (code : Nat) (payload : List Word) (hd : d.Stored) :
    (Dev.notifySecure d code payload).Stored := by
  unfold Dev.notifySecure
  split
  · exact foldl_stored _ (fun d c hd => by simp [hd]) _ _ hd
  · exact hd

@[simp] theorem Dev.store_stored (d : Dev) (a : Nat) (b : List Byte) (hd : d.Stored) :
    (Dev.store d a b).Stored := by
  simp (maxDischargeDepth := 60) [Dev.store, hd]

@[simp] theorem Dev.storeControl_stored (d : Dev) (hd : d.Stored) :
    (Dev.storeControl d).Stored := by
  simp (maxDischargeDepth := 60) [Dev.storeControl, hd]

@[simp] theorem Dev.dropEvent_stored (d : Dev) (hd : d.Stored) :
    (Dev.dropEvent d).Stored := by
  simp (maxDischargeDepth := 60) [Dev.dropEvent, hd]

@[simp] theorem Dev.failRecorder_stored (d : Dev) (hd : d.Stored) :
    (Dev.failRecorder d).Stored := by
  simp (maxDischargeDepth := 60) [Dev.failRecorder, hd]

@[simp] theorem Dev.storeRepeats_stored (d : Dev) (hd : d.Stored) :
    (Dev.storeRepeats d).Stored := by
  simp (maxDischargeDepth := 60) [Dev.storeRepeats, hd]

@[simp] theorem Dev.appendRecord_stored (d : Dev) (e : Event) (hd : d.Stored) :
    (Dev.appendRecord d e).Stored := by
  simp (maxDischargeDepth := 60) [Dev.appendRecord, hd]

@[simp] theorem Dev.recordEvent_stored (d : Dev) (e : Event) (hd : d.Stored) :
    (Dev.recordEvent d e).Stored := by
  unfold Dev.recordEvent
  (repeat' split) <;> simp (maxDischargeDepth := 60) [hd]

@[simp] theorem Dev.eventInterrupts_stored (d : Dev) (l : Nat) (hd : d.Stored) :
    (Dev.eventInterrupts d l).Stored := by
  simp (maxDischargeDepth := 60) [Dev.eventInterrupts, hd]

@[simp] theorem Dev.logEvent_stored (d : Dev) (e : Event) (hd : d.Stored) :
    (Dev.logEvent d e).Stored := by
  simp (maxDischargeDepth := 60) [Dev.logEvent, hd]

@[simp] theorem Dev.event_stored (d : Dev) (code : Nat) (slice : Nat) (reason : Nat) (cls : Nat) (params : List Byte) (hd : d.Stored) :
    (Dev.event d code slice reason cls params).Stored := by
  simp (maxDischargeDepth := 60) [Dev.event, hd]

@[simp] theorem Dev.packageEvent_stored (d : Dev) (code : Nat) (reason : Nat) (hd : d.Stored) :
    (Dev.packageEvent d code reason).Stored := by
  simp (maxDischargeDepth := 60) [Dev.packageEvent, hd]

@[simp] theorem Dev.alarm_stored (d : Dev) (cause : Nat) (slice : Option Nat) (counter : Nat) (hd : d.Stored) :
    (Dev.alarm d cause slice counter).Stored := by
  unfold Dev.alarm
  (repeat' split) <;> simp (maxDischargeDepth := 60) [hd]

@[simp] theorem Dev.contractExceeded_stored (d : Dev) (s : Nat) (reason : Nat) (cls : Nat) (hd : d.Stored) :
    (Dev.contractExceeded d s reason cls).Stored := by
  simp (maxDischargeDepth := 60) [Dev.contractExceeded, hd]

@[simp] theorem Dev.abandonSwap_stored (d : Dev) (reason : Nat) (hd : d.Stored) :
    (Dev.abandonSwap d reason).Stored := by
  unfold Dev.abandonSwap
  split <;> simp (maxDischargeDepth := 60) [hd]

@[simp] theorem settle_stored (d : Dev) (hd : d.Stored) :
    (settle d).Stored := by
  simp (maxDischargeDepth := 60) [settle, hd]

@[simp] theorem Dev.maintainRange_stored (d : Dev) (op : Nat) (base : Nat) (count : Nat) (hd : d.Stored) :
    (Dev.maintainRange d op base count).Stored := by
  unfold Dev.maintainRange
  refine foldl_stored _ (fun d a hd => ?_) _ _ hd
  (repeat' split) <;> simp (maxDischargeDepth := 60) [hd]

@[simp] theorem Dev.startMaint_stored (d : Dev) (secure : Bool) (op : Nat) (base : Nat) (count : Nat) (hd : d.Stored) :
    (Dev.startMaint d secure op base count).Stored := by
  simp (maxDischargeDepth := 60) [Dev.startMaint, hd]

@[simp] theorem Dev.setway_stored (d : Dev) (secure : Bool) (i : Nat) (set : Nat) (way : Nat) (allWays : Bool) (op : Nat) (hd : d.Stored) :
    (Dev.setway d secure i set way allWays op).Stored := by
  simp (maxDischargeDepth := 60) [Dev.setway, hd]

@[simp] theorem Dev.cacheCommand_stored (d : Dev) (secure : Bool) (i : Nat) (cmd : Nat) (hd : d.Stored) :
    (Dev.cacheCommand d secure i cmd).Stored := by
  simp (maxDischargeDepth := 60) [Dev.cacheCommand, hd]

@[simp] theorem Dev.answerCacheOff_stored (d : Dev) (hd : d.Stored) :
    (Dev.answerCacheOff d).Stored := by
  unfold Dev.answerCacheOff
  refine foldl_stored _ (fun d a hd => ?_) _ _ hd
  dsimp only
  (repeat' split) <;> simp (maxDischargeDepth := 60) [hd]

@[simp] theorem Dev.loadShadows_stored (d : Dev) (rung : Nat) (events : Bool) (hd : d.Stored) :
    (Dev.loadShadows d rung events).Stored := by
  unfold Dev.loadShadows
  refine foldl_stored _ (fun d a hd => ?_) _ _ hd
  dsimp only
  (repeat' split) <;> simp (maxDischargeDepth := 60) [hd]

@[simp] theorem Dev.loadImage_stored (d : Dev) (b : List Byte) (events : Bool) (hd : d.Stored) :
    (Dev.loadImage d b events).Stored := by
  simp (maxDischargeDepth := 60) [Dev.loadImage, hd]

@[simp] theorem Dev.acceptSwap_stored (d : Dev) (k : SwapKind) (hd : d.Stored) :
    (Dev.acceptSwap d k).Stored := by
  simp (maxDischargeDepth := 60) [Dev.acceptSwap, hd]

@[simp] theorem Dev.fallbacks_stored (d : Dev) (hd : d.Stored) :
    (Dev.fallbacks d).Stored := by
  unfold Dev.fallbacks
  refine foldl_stored _ (fun d a hd => ?_) _ _ hd
  (repeat' split) <;> simp (maxDischargeDepth := 60) [hd]

@[simp] theorem Dev.takeSwap_stored (d : Dev) (k : SwapKind) (hd : d.Stored) :
    (Dev.takeSwap d k).Stored := by
  unfold Dev.takeSwap
  dsimp only
  (repeat' split) <;> simp_all (maxDischargeDepth := 60)

@[simp] theorem Dev.answerSwap_stored (d : Dev) (hd : d.Stored) :
    (Dev.answerSwap d).Stored := by
  unfold Dev.answerSwap
  refine foldl_stored _ (fun d a hd => ?_) _ _ hd
  (repeat' split) <;> simp (maxDischargeDepth := 60) [hd]

@[simp] theorem Dev.swapBoundary_stored (d : Dev) (hd : d.Stored) :
    (Dev.swapBoundary d).Stored := by
  unfold Dev.swapBoundary
  split <;> simp (maxDischargeDepth := 60) [hd]

@[simp] theorem Dev.bringRung_stored (d : Dev) (hd : d.Stored) :
    (Dev.bringRung d).Stored := by
  simp (maxDischargeDepth := 60) [Dev.bringRung, hd]

@[simp] theorem Dev.recountFormable_stored (d : Dev) (i : Nat) (hd : d.Stored) :
    (Dev.recountFormable d i).Stored := by
  simp (maxDischargeDepth := 60) [Dev.recountFormable, hd]

@[simp] theorem Dev.retireBlock_stored (d : Dev) (i : Nat) (c : Clear) (reason : Nat) (hd : d.Stored) :
    (Dev.retireBlock d i c reason).Stored := by
  unfold Dev.retireBlock
  (repeat' split) <;> simp (maxDischargeDepth := 60) [hd]

@[simp] theorem Dev.owePreserve_stored (d : Dev) (cause : Nat) (i : Nat) (hd : d.Stored) :
    (Dev.owePreserve d cause i).Stored := by
  simp (maxDischargeDepth := 60) [Dev.owePreserve, hd]

@[simp] theorem Dev.retireReach_stored (d : Dev) (i : Nat) (r : Nat) (reason : Nat) (hd : d.Stored) :
    (Dev.retireReach d i r reason).Stored := by
  simp (maxDischargeDepth := 60) [Dev.retireReach, hd]

@[simp] theorem Dev.retireBank_stored (d : Dev) (i : Nat) (bank : Nat) (reason : Nat) (hd : d.Stored) :
    (Dev.retireBank d i bank reason).Stored := by
  unfold Dev.retireBank
  dsimp only
  (repeat' split) <;> simp_all (maxDischargeDepth := 60)

@[simp] theorem Dev.bankFault_stored (d : Dev) (i : Nat) (bank : Nat) (program : Bool) (hd : d.Stored) :
    (Dev.bankFault d i bank program).Stored := by
  simp (maxDischargeDepth := 60) [Dev.bankFault, hd]

@[simp] theorem Dev.hopBytes_stored (d : Dev) (n : Nat) (hop : Nat × Bool) (hd : d.Stored) :
    (Dev.hopBytes d n hop).Stored := by
  simp (maxDischargeDepth := 60) [Dev.hopBytes, hd]

@[simp] theorem Dev.fabric_stored (d : Dev) (bytes : Nat) (src : Nat) (dst : Nat) (hd : d.Stored) :
    (Dev.fabric d bytes src dst).Stored := by
  unfold Dev.fabric
  exact foldl_stored _ (fun d hop hd => Dev.hopBytes_stored d _ hop hd) _ _ hd

@[simp] theorem Dev.countForward_stored (d : Dev) (p : Nat) (i : Nat) (write : Bool) (hd : d.Stored) :
    (Dev.countForward d p i write).Stored := by
  simp (maxDischargeDepth := 60) [Dev.countForward, hd]

@[simp] theorem Dev.endWrite_stored (d : Dev) (port : Nat) (tag : Nat) (o : Output) (hd : d.Stored) :
    (Dev.endWrite d port tag o).Stored := by
  simp (maxDischargeDepth := 60) [Dev.endWrite, hd]

@[simp] theorem Dev.completeWrite_stored (d : Dev) (port : Nat) (tag : Nat) (hd : d.Stored) :
    (Dev.completeWrite d port tag).Stored := by
  simp (maxDischargeDepth := 60) [Dev.completeWrite, hd]

@[simp] theorem Dev.refuseWrite_stored (d : Dev) (port : Nat) (tag : Nat) (hd : d.Stored) :
    (Dev.refuseWrite d port tag).Stored := by
  simp (maxDischargeDepth := 60) [Dev.refuseWrite, hd]

@[simp] theorem Dev.onDesc_stored (d : Dev) (ring : Nat) (slot : Nat) (f : Desc → Desc) (hd : d.Stored) :
    (Dev.onDesc d ring slot f).Stored := by
  simp (maxDischargeDepth := 60) [Dev.onDesc, hd]

@[simp] theorem Dev.descPart_stored (d : Dev) (ring : Nat) (slot : Nat) (hd : d.Stored) :
    (Dev.descPart d ring slot).Stored := by
  simp (maxDischargeDepth := 60) [Dev.descPart, hd]

@[simp] theorem Dev.titleTrimmed_stored (d : Dev) (t : Nat) (hd : d.Stored) :
    (Dev.titleTrimmed d t).Stored := by
  unfold Dev.titleTrimmed
  (repeat' split) <;> simp (maxDischargeDepth := 60) [hd]

@[simp] theorem Dev.ack_stored (d : Dev) (a : Ack) (hd : d.Stored) :
    (Dev.ack d a).Stored := by
  unfold Dev.ack
  split <;> simp (maxDischargeDepth := 60) [hd]

@[simp] theorem Dev.acks_stored (d : Dev) (l : List Ack) (hd : d.Stored) :
    (Dev.acks d l).Stored := by
  unfold Dev.acks
  refine foldl_stored _ (fun d a hd => ?_) _ _ hd
  (repeat' split) <;> simp (maxDischargeDepth := 60) [hd]

@[simp] theorem Dev.answerRead_stored (d : Dev) (port : Nat) (tag : Nat) (cls : Nat) (v : Option Sector) (hd : d.Stored) :
    (Dev.answerRead d port tag cls v).Stored := by
  simp (maxDischargeDepth := 60) [Dev.answerRead, hd]

@[simp] theorem Dev.mediaPoison_stored (d : Dev) (slice : Nat) (reason : Nat) (reach : Nat) (dpa : Nat) (hd : d.Stored) :
    (Dev.mediaPoison d slice reason reach dpa).Stored := by
  simp (maxDischargeDepth := 60) [Dev.mediaPoison, hd]

@[simp] theorem Dev.positionPoison_stored (d : Dev) (port : Nat) (dpa : Nat) (hd : d.Stored) :
    (Dev.positionPoison d port dpa).Stored := by
  simp (maxDischargeDepth := 60) [Dev.positionPoison, hd]

@[simp] theorem Dev.discardWrite_stored (d : Dev) (port : Nat) (dpa : Nat) (reason : Nat) (hd : d.Stored) :
    (Dev.discardWrite d port dpa reason).Stored := by
  simp (maxDischargeDepth := 60) [Dev.discardWrite, hd]

@[simp] theorem Dev.frameLost_stored (d : Dev) (i : Nat) (reason : Nat) (reach : Nat) (lfn : Nat) (m : BitVec 64) (hd : d.Stored) :
    (Dev.frameLost d i reason reach lfn m).Stored := by
  simp (maxDischargeDepth := 60) [Dev.frameLost, hd]

@[simp] theorem Dev.tagFail_stored (d : Dev) (i : Nat) (access : Nat) (address : Nat) (hd : d.Stored) :
    (Dev.tagFail d i access address).Stored := by
  simp (maxDischargeDepth := 60) [Dev.tagFail, hd]

@[simp] theorem Dev.poisonDone_stored (d : Dev) (i : Nat) (lfn : Nat) (entry : Nat) (durable : Bool) (own : Ack) (hd : d.Stored) :
    (Dev.poisonDone d i lfn entry durable own).Stored := by
  simp (maxDischargeDepth := 60) [Dev.poisonDone, hd]

@[simp] theorem Dev.writeRefused_stored (d : Dev) (w : HeldWrite) (hd : d.Stored) :
    (Dev.writeRefused d w).Stored := by
  unfold Dev.writeRefused
  (repeat' split) <;> simp (maxDischargeDepth := 60) [hd]

theorem Dev.tryWrite_stored (d : Dev) (w : HeldWrite) (e : Dev) (h : d.tryWrite w = some e) (hd : d.Stored) :
    e.Stored := by
  unfold Dev.tryWrite at h
  split at h
  · cases h
  · dsimp only at h
    split at h
    · cases h
      simp [hd]
    · split at h
      · cases h
        simp [hd]
      · rw [Option.map_eq_some_iff] at h
        obtain ⟨s, -, rfl⟩ := h
        split <;> simp [hd]

@[simp] theorem Dev.putWrite_stored (d : Dev) (w : HeldWrite) (hd : d.Stored) :
    (Dev.putWrite d w).Stored := by
  unfold Dev.putWrite
  dsimp only
  split
  · simp [hd]
  · split
    · exact Dev.tryWrite_stored _ _ _ ‹_› hd
    · simp [hd]

@[simp] theorem Dev.retryWrites_stored (d : Dev) (i : Nat) (hd : d.Stored) :
    (Dev.retryWrites d i).Stored := by
  unfold Dev.retryWrites
  refine foldl_stored _ (fun d a hd => ?_) _ _ hd
  dsimp only
  (repeat' split) <;> simp (maxDischargeDepth := 60) [hd]

@[simp] theorem Dev.tagRefuses_stored (d : Dev) (i : Nat) (a : Nat) (port : Nat) (tag : Nat) (hd : d.Stored) :
    (Dev.tagRefuses d i a port tag).Stored := by
  simp (maxDischargeDepth := 60) [Dev.tagRefuses, hd]

@[simp] theorem Dev.queueRead_stored (d : Dev) (i : Nat) (lfn : Nat) (sub : Nat) (cls : Nat) (who : Who) (alloc : Bool) (covered : Bool) (hd : d.Stored) :
    (Dev.queueRead d i lfn sub cls who alloc covered).Stored := by
  simp (maxDischargeDepth := 60) [Dev.queueRead, hd]

@[simp] theorem Dev.serveStreamed_stored (unit : Nat) (length : Nat) (data : List Byte) (d : Dev) (w : StreamWait) (hd : d.Stored) :
    (Dev.serveStreamed unit length data d w).Stored := by
  unfold Dev.serveStreamed
  dsimp only
  (repeat' split) <;> simp_all (maxDischargeDepth := 60)

@[simp] theorem Dev.issue_stored (d : Dev) (l : List CardCommand) (hd : d.Stored) :
    (Dev.issue d l).Stored := hd

@[simp] theorem Dev.readUnit_stored (d : Dev) (e : Nat) (u : Nat) (hd : d.Stored) :
    (Dev.readUnit d e u).Stored := hd

@[simp] theorem Dev.streamRead_stored (d : Dev) (port : Nat) (tag : Nat) (dpa : Nat) (c : Class) (hd : d.Stored) :
    (Dev.streamRead d port tag dpa c).Stored := by
  unfold Dev.streamRead
  dsimp only
  (repeat' split) <;> simp (maxDischargeDepth := 60) [hd]

@[simp] theorem Dev.serveRead_stored (d : Dev) (port : Nat) (tag : Nat) (dpa : Nat) (c : Class) (env : AccessEnv) (hd : d.Stored) :
    (Dev.serveRead d port tag dpa c env).Stored := by
  unfold Dev.serveRead
  dsimp only
  (repeat' split) <;> simp (maxDischargeDepth := 60) [hd]

@[simp] theorem Dev.takeRead_stored (d : Dev) (port : Nat) (tag : Nat) (dpa : Nat) (c : Class) (env : AccessEnv) (hd : d.Stored) :
    (Dev.takeRead d port tag dpa c env).Stored := by
  simp (maxDischargeDepth := 60) [Dev.takeRead, hd]

@[simp] theorem Dev.streamLoaded_stored (digest : List Byte → List Byte) (d : Dev) (entry : Nat) (unit : Nat) (data : List Byte) (hd : d.Stored) :
    (Dev.streamLoaded digest d entry unit data).Stored := by
  unfold Dev.streamLoaded
  dsimp only
  (repeat' split) <;> simp_all (maxDischargeDepth := 60)

@[simp] theorem Dev.startFlush_stored (d : Dev) (host : Option Nat) (desc : Option (Nat × Nat)) (p : Nat → Nat → Bool) (hd : d.Stored) :
    (Dev.startFlush d host desc p).2.Stored := by
  unfold Dev.startFlush
  have h := foldl_fst_stored (fun (acc : Dev × List (Nat × Nat) × List (Nat × Nat)) i =>
      let (d, fs, es) := acc
      let (s, f, e) := (d.slice i).cover d.fuses.dram4 d.round i (p i)
      (d.onSlice i fun _ => s, fs ++ f, es ++ e)) (fun acc i ha => by simp [ha]) (List.range d.sliceCount) (d, [], []) hd
  rcases hf : (List.range d.sliceCount).foldl (fun (acc : Dev × List (Nat × Nat) × List (Nat × Nat)) i =>
      let (d, fs, es) := acc
      let (s, f, e) := (d.slice i).cover d.fuses.dram4 d.round i (p i)
      (d.onSlice i fun _ => s, fs ++ f, es ++ e)) (d, [], []) with ⟨e, fs, es⟩
  rw [hf] at h
  exact h

@[simp] theorem Dev.flushStep_stored (d : Dev) (i : Nat) (lfn : Nat) (n : Nat) (hd : d.Stored) :
    (Dev.flushStep d i lfn n).Stored := by
  simp (maxDischargeDepth := 60) [Dev.flushStep, hd]

@[simp] theorem Dev.hintLine_stored (d : Dev) (port : Nat) (n : Nat) (hd : d.Stored) :
    (Dev.hintLine d port n).1.Stored := by
  unfold Dev.hintLine
  dsimp only
  (repeat' split) <;> simp (maxDischargeDepth := 60) [hd]

@[simp] theorem Dev.hintRecord_stored (d : Dev) (port : Nat) (record : Nat) (hd : d.Stored) :
    (Dev.hintRecord d port record).1.Stored := by
  unfold Dev.hintRecord
  dsimp only
  split
  · exact foldl_stored _ (fun d n hd => by simp [hd]) _ _ hd
  · refine foldl_fst_stored _ (fun acc n ha => ?_) _ _ hd
    rcases h : acc.1.hintLine port n with ⟨e, k⟩
    have he : e.Stored := stored_of_fst h (Dev.hintLine_stored _ _ _ ha)
    simpa [h] using he

@[simp] theorem Dev.queueTrims_stored (d : Dev) (base : Nat) (size : Nat) (ack : Option Ack) (hd : d.Stored) :
    (Dev.queueTrims d base size ack).1.Stored := by
  unfold Dev.queueTrims
  refine foldl_fst_stored _ (fun acc i ha => ?_) _ _ hd
  dsimp only
  split
  · simp [ha]
  · exact ha

@[simp] theorem Dev.loadFrameKey_stored (d : Dev) (t : Nat) (hd : d.Stored) :
    (Dev.loadFrameKey d t).Stored := by
  simp (maxDischargeDepth := 60) [Dev.loadFrameKey, hd]

@[simp] theorem Dev.unloadFrameKey_stored (d : Dev) (t : Nat) (hd : d.Stored) :
    (Dev.unloadFrameKey d t).Stored := by
  simp (maxDischargeDepth := 60) [Dev.unloadFrameKey, hd]

@[simp] theorem Dev.shutTitle_stored (d : Dev) (t : Nat) (hd : d.Stored) :
    (Dev.shutTitle d t).Stored := by
  unfold Dev.shutTitle
  dsimp only
  (repeat' split) <;> simp_all (maxDischargeDepth := 60)

@[simp] theorem Dev.trimTitle_stored (d : Dev) (t : Nat) (hd : d.Stored) :
    (Dev.trimTitle d t).1.Stored := by
  unfold Dev.trimTitle
  refine foldl_fst_stored _ (fun acc r ha => ?_) _ _ hd
  rcases h : acc.1.queueTrims r.1 r.2 (some (.title t)) with ⟨e, k⟩
  have he : e.Stored := stored_of_fst h (Dev.queueTrims_stored _ _ _ _ ha)
  simpa [h] using he

@[simp] theorem Dev.titleFlushed_stored (d : Dev) (w : Waiter) (hd : d.Stored) :
    (Dev.titleFlushed d w).Stored := by
  unfold Dev.titleFlushed
  split <;> simp (maxDischargeDepth := 60) [hd]

@[simp] theorem Dev.closedForDebug_stored (d : Dev) (flush : Nat) (hd : d.Stored) :
    (Dev.closedForDebug d flush).Stored := by
  unfold Dev.closedForDebug
  have h := foldl_stored (fun (d : Dev) (e : Nat × Nat) => d.shutTitle e.2) (fun d e hd => by simp [hd])
    (d.dbg.closing.partition (·.1 == flush)).1 d hd
  dsimp only
  repeat' split
  · exact Dev.countPkg_stored _ _ _ h
  · exact h
  · exact h

@[simp] theorem Dev.stopRing_stored (d : Dev) (ring : Nat) (code : Nat) (hd : d.Stored) :
    (Dev.stopRing d ring code).Stored := by
  simp (maxDischargeDepth := 60) [Dev.stopRing, hd]

@[simp] theorem Dev.doorbell_stored (d : Dev) (port : Nat) (ring : Nat) (value : Nat) (hd : d.Stored) :
    (Dev.doorbell d port ring value).Stored := by
  simp (maxDischargeDepth := 60) [Dev.doorbell, hd]

@[simp] theorem Dev.descWrite_stored (d : Dev) (ring : Nat) (x : Desc) (dpa : Nat) (v : Option Sector) (sealTo : Option Nat) (hd : d.Stored) :
    (Dev.descWrite d ring x dpa v sealTo).Stored := by
  unfold Dev.descWrite
  dsimp only
  (repeat' split) <;> simp (maxDischargeDepth := 60) [hd]

@[simp] theorem Dev.descMoved_stored (d : Dev) (ring : Nat) (slot : Nat) (n : Nat) (hd : d.Stored) :
    (Dev.descMoved d ring slot n).Stored := by
  simp (maxDischargeDepth := 60) [Dev.descMoved, hd]

@[simp] theorem Dev.descSector_stored (d : Dev) (ring : Nat) (slot : Nat) (idx : Nat) (v : Option Sector) (hd : d.Stored) :
    (Dev.descSector d ring slot idx v).Stored := by
  unfold Dev.descSector
  split <;> simp (maxDischargeDepth := 60) [hd]

@[simp] theorem Dev.descRead_stored (d : Dev) (ring : Nat) (x : Desc) (idx : Nat) (dpa : Nat) (hd : d.Stored) :
    (Dev.descRead d ring x idx dpa).Stored := by
  unfold Dev.descRead
  extract_lets i lfn k c found e looked who
  have he : e.Stored := by simp [e, hd]
  have hl : looked.Stored := by dsimp only [looked]; split <;> simp [he]
  clear_value found i lfn k c e looked who
  by_cases hc : (c.access == 2 || !e.keyLoaded c.sealedSlot) = true
  · rw [if_pos hc]
    exact Dev.descSector_stored _ _ _ _ _ he
  · rw [if_neg hc]
    rcases found with ⟨v, b⟩ | ⟨v, a⟩ | _ | _ | _ | _
    · exact Dev.descSector_stored _ _ _ _ _ hl
    · exact Dev.descSector_stored _ _ _ _ _ hl
    · exact Dev.descSector_stored _ _ _ _ _ hl
    · exact Dev.descSector_stored _ _ _ _ _ hl
    · exact Dev.descSector_stored _ _ _ _ _ hl
    · dsimp only
      rcases h : (looked.slice i).flow.queue.getLast? with _ | q
      · exact Dev.queueRead_stored _ _ _ _ _ _ _ _ hl
      · by_cases hq : (q.line == lineOf lfn (k / 4) && q.cls == 6 && q.arrival == looked.now) = true
        · exact (congrArg Dev.Stored (if_pos hq)).mpr (Dev.onSlice_stored _ _ _ hl)
        · exact (congrArg Dev.Stored (if_neg hq)).mpr (Dev.queueRead_stored _ _ _ _ _ _ _ _ hl)

@[simp] theorem Dev.descOwes_stored (d : Dev) (ring : Nat) (slot : Nat) (n : Nat) (hd : d.Stored) :
    (Dev.descOwes d ring slot n).Stored := by
  simp (maxDischargeDepth := 60) [Dev.descOwes, hd]

@[simp] theorem Dev.loadTable_stored (d : Dev) (e : Nat) (bytes : List Byte) (hd : d.Stored) :
    (Dev.loadTable d e bytes).1.Stored := by
  unfold Dev.loadTable
  dsimp only
  (repeat' split) <;> simp (maxDischargeDepth := 60) [hd]

@[simp] theorem Dev.endDescs_stored (d : Dev) (st : Nat) (p : Desc → Bool) (hd : d.Stored) :
    (Dev.endDescs d st p).Stored := by
  simp (maxDischargeDepth := 60) [Dev.endDescs, hd]

@[simp] theorem Dev.descEnd_stored (d : Dev) (ring : Nat) (slot : Nat) (st : Nat) (hd : d.Stored) :
    (Dev.descEnd d ring slot st).Stored := by
  simp (maxDischargeDepth := 60) [Dev.descEnd, hd]

@[simp] theorem Dev.runDesc_stored (d : Dev) (ring : Nat) (x : Desc) (host : HostData) (hd : d.Stored) :
    (Dev.runDesc d ring x host).Stored := by
  unfold Dev.runDesc
  dsimp only
  (repeat' split) <;> simp +contextual (maxDischargeDepth := 60) [hd]

@[simp] theorem Dev.descriptor_stored (d : Dev) (opcode : Nat) (ring : Nat) (raw : BitVec 512) (host : HostData) (hd : d.Stored) :
    (Dev.descriptor d opcode ring raw host).Stored := by
  unfold Dev.descriptor
  dsimp only
  (repeat' split) <;> simp (maxDischargeDepth := 60) [hd]

@[simp] theorem Dev.drainAll_stored (d : Dev) (hd : d.Stored) :
    (Dev.drainAll d).Stored := by
  simp (maxDischargeDepth := 60) [Dev.drainAll, hd]

@[simp] theorem Dev.saveMirrors_stored (d : Dev) (closed : Bool) (hd : d.Stored) :
    (Dev.saveMirrors d closed).Stored := by
  simp (maxDischargeDepth := 60) [Dev.saveMirrors, hd]

@[simp] theorem Dev.dropRung_stored (d : Dev) (hd : d.Stored) :
    (Dev.dropRung d).Stored := by
  simp (maxDischargeDepth := 60) [Dev.dropRung, hd]

@[simp] theorem Dev.takePreserve_stored (d : Dev) (hd : d.Stored) :
    (Dev.takePreserve d).Stored := by
  simp (maxDischargeDepth := 60) [Dev.takePreserve, hd]

@[simp] theorem Dev.enterPreserve_stored (d : Dev) (cause : Nat) (i : Nat) (hd : d.Stored) :
    (Dev.enterPreserve d cause i).Stored := by
  simp (maxDischargeDepth := 60) [Dev.enterPreserve, hd]

@[simp] theorem Dev.checkPreserve_stored (d : Dev) (hd : d.Stored) :
    (Dev.checkPreserve d).Stored := by
  unfold Dev.checkPreserve
  dsimp only
  (repeat' split) <;> simp_all (maxDischargeDepth := 60)

@[simp] theorem Dev.poisonWriteOut_stored (d : Dev) (i : Nat) (hd : d.Stored) :
    (Dev.poisonWriteOut d i).Stored := by
  simp (maxDischargeDepth := 60) [Dev.poisonWriteOut, hd]

@[simp] theorem Dev.countLost_stored (d : Dev) (i : Nat) (r : Rewrite) (hd : d.Stored) :
    (Dev.countLost d i r).Stored := by
  unfold Dev.countLost
  split <;> simp (maxDischargeDepth := 60) [hd]

@[simp] theorem Dev.stepOne_stored (d : Dev) (i : Nat) (r : Rewrite) (hd : d.Stored) :
    (Dev.stepOne d i r).Stored := by
  simp (maxDischargeDepth := 60) [Dev.stepOne, hd]

@[simp] theorem Dev.journalHold_stored (d : Dev) (i : Nat) (hd : d.Stored) :
    (Dev.journalHold d i).Stored := by
  simp (maxDischargeDepth := 60) [Dev.journalHold, hd]

@[simp] theorem Dev.stepSingle_stored (d : Dev) (i : Nat) (id : Nat) (hd : d.Stored) :
    (Dev.stepSingle d i id).Stored := by
  unfold Dev.stepSingle
  split <;> simp (maxDischargeDepth := 60) [hd]

@[simp] theorem Dev.stepBarge_stored (d : Dev) (i : Nat) (b : Barge) (hd : d.Stored) :
    (Dev.stepBarge d i b).Stored := by
  unfold Dev.stepBarge
  dsimp only
  (repeat' split) <;> simp_all (maxDischargeDepth := 60)

@[simp] theorem Dev.stepRewrites_stored (d : Dev) (i : Nat) (hd : d.Stored) :
    (Dev.stepRewrites d i).Stored := by
  unfold Dev.stepRewrites
  dsimp only
  (repeat' split) <;> simp_all (maxDischargeDepth := 60)

@[simp] theorem Dev.endProgram_stored (d : Dev) (i : Nat) (c : Chamber) (pass : Bool) (hd : d.Stored) :
    (Dev.endProgram d i c pass).Stored := by
  simp (maxDischargeDepth := 60) [Dev.endProgram, hd]

@[simp] theorem Dev.settleMedium_stored (d : Dev) (i : Nat) (hd : d.Stored) :
    (Dev.settleMedium d i).Stored := by
  simp (maxDischargeDepth := 60) [Dev.settleMedium, hd]

@[simp] theorem Dev.finishReach_stored (d : Dev) (i : Nat) (hd : d.Stored) :
    (Dev.finishReach d i).Stored := by
  unfold Dev.finishReach
  dsimp only
  (repeat' split) <;> simp (maxDischargeDepth := 60) [hd]

@[simp] theorem Dev.endSegment_stored (d : Dev) (i : Nat) (c : Clear) (pass : Bool) (hd : d.Stored) :
    (Dev.endSegment d i c pass).Stored := by
  simp (maxDischargeDepth := 60) [Dev.endSegment, hd]

@[simp] theorem Dev.deliver_stored (d : Dev) (i : Nat) (q : ReadReq) (p : Page) (rebuilt : Bool) (bits : Nat) (w : Who) (hd : d.Stored) :
    (Dev.deliver d i q p rebuilt bits w).Stored := by
  unfold Dev.deliver
  split <;> simp (maxDischargeDepth := 60) [hd]

@[simp] theorem Dev.fillFrom_stored (d : Dev) (i : Nat) (q : ReadReq) (p : Page) (hd : d.Stored) :
    (Dev.fillFrom d i q p).Stored := by
  simp (maxDischargeDepth := 60) [Dev.fillFrom, hd]

@[simp] theorem Dev.deliverAll_stored (d : Dev) (i : Nat) (q : ReadReq) (p : Page) (rebuilt : Bool) (bits : Nat) (hd : d.Stored) :
    (Dev.deliverAll d i q p rebuilt bits).Stored := by
  unfold Dev.deliverAll
  exact Dev.fillFrom_stored _ _ _ _ (foldl_stored _ (fun d w hd => by simp [hd]) _ _ hd)

@[simp] theorem Dev.deliverPoison_stored (d : Dev) (i : Nat) (q : ReadReq) (fresh : Bool) (w : Who) (hd : d.Stored) :
    (Dev.deliverPoison d i q fresh w).Stored := by
  unfold Dev.deliverPoison
  (repeat' split) <;> simp (maxDischargeDepth := 60) [hd]

@[simp] theorem Dev.poisonAll_stored (d : Dev) (i : Nat) (q : ReadReq) (fresh : Bool) (hd : d.Stored) :
    (Dev.poisonAll d i q fresh).Stored := by
  unfold Dev.poisonAll
  dsimp only
  (repeat' split) <;> simp_all (maxDischargeDepth := 60)

@[simp] theorem Dev.losePage_stored (d : Dev) (i : Nat) (q : ReadReq) (reason : Nat) (hd : d.Stored) :
    (Dev.losePage d i q reason).Stored := by
  unfold Dev.losePage
  dsimp only
  (repeat' split) <;> simp_all (maxDischargeDepth := 60)

@[simp] theorem Dev.recoverPage_stored (d : Dev) (i : Nat) (q : ReadReq) (hd : d.Stored) :
    (Dev.recoverPage d i q).Stored := by
  unfold Dev.recoverPage
  split <;> simp (maxDischargeDepth := 60) [hd]

@[simp] theorem Dev.failedRead_stored (d : Dev) (i : Nat) (q : ReadReq) (hd : d.Stored) :
    (Dev.failedRead d i q).Stored := by
  simp (maxDischargeDepth := 60) [Dev.failedRead, hd]

@[simp] theorem Dev.rebuildPart_stored (d : Dev) (i : Nat) (id : Nat) (q : ReadReq) (p : Option Page) (hd : d.Stored) :
    (Dev.rebuildPart d i id q p).Stored := by
  unfold Dev.rebuildPart
  dsimp only
  (repeat' split) <;> simp (maxDischargeDepth := 60) [hd]

@[simp] theorem Dev.rebuildParts_stored (d : Dev) (i : Nat) (q : ReadReq) (p : Option Page) (hd : d.Stored) :
    (Dev.rebuildParts d i q p).Stored := by
  unfold Dev.rebuildParts
  refine foldl_stored _ (fun d a hd => ?_) _ _ hd
  (repeat' split) <;> simp (maxDischargeDepth := 60) [hd]

@[simp] theorem Dev.goodRead_stored (d : Dev) (i : Nat) (q : ReadReq) (used : Nat) (p : Page) (bits : Nat) (hd : d.Stored) :
    (Dev.goodRead d i q used p bits).Stored := by
  unfold Dev.goodRead
  dsimp only
  (repeat' split) <;> simp_all (maxDischargeDepth := 60)

@[simp] theorem Dev.voidRead_stored (d : Dev) (i : Nat) (q : ReadReq) (reason : Nat) (hd : d.Stored) :
    (Dev.voidRead d i q reason).Stored := by
  simp (maxDischargeDepth := 60) [Dev.voidRead, hd]

@[simp] theorem Dev.badRead_stored (d : Dev) (i : Nat) (q : ReadReq) (hd : d.Stored) :
    (Dev.badRead d i q).Stored := by
  simp (maxDischargeDepth := 60) [Dev.badRead, hd]

@[simp] theorem Dev.endRead_stored (d : Dev) (i : Nat) (f : Flight) (errors : List Nat) (hd : d.Stored) :
    (Dev.endRead d i f errors).Stored := by
  unfold Dev.endRead
  dsimp only
  (repeat' split) <;> simp (maxDischargeDepth := 60) [hd]

@[simp] theorem Dev.endTick_stored (env : TickEnv) (d : Dev) (i : Nat) (hd : d.Stored) :
    (Dev.endTick env d i).Stored := by
  unfold Dev.endTick
  dsimp only
  (repeat' split) <;> simp_all (maxDischargeDepth := 60)

@[simp] theorem Dev.deadReads_stored (d : Dev) (i : Nat) (hd : d.Stored) :
    (Dev.deadReads d i).Stored := by
  unfold Dev.deadReads
  dsimp only
  (repeat' split) <;> simp_all (maxDischargeDepth := 60)

@[simp] theorem Dev.loseReach_stored (d : Dev) (i : Nat) (r : Nat) (hd : d.Stored) :
    (Dev.loseReach d i r).Stored := by
  unfold Dev.loseReach
  dsimp only
  (repeat' split) <;> simp_all (maxDischargeDepth := 60)

@[simp] theorem Dev.watermarkBoundary_stored (d : Dev) (i : Nat) (hd : d.Stored) :
    (Dev.watermarkBoundary d i).Stored := by
  simp (maxDischargeDepth := 60) [Dev.watermarkBoundary, hd]

@[simp] theorem Dev.freshWatermark_stored (d : Dev) (i : Nat) (hd : d.Stored) :
    (Dev.freshWatermark d i).Stored := by
  simp (maxDischargeDepth := 60) [Dev.freshWatermark, hd]

@[simp] theorem Dev.selfCheck_stored (d : Dev) (i : Nat) (r : Nat) (failed : Bool) (hd : d.Stored) :
    (Dev.selfCheck d i r failed).Stored := by
  simp (maxDischargeDepth := 60) [Dev.selfCheck, hd]

@[simp] theorem Dev.evacuationBoundary_stored (d : Dev) (i : Nat) (hd : d.Stored) :
    (Dev.evacuationBoundary d i).Stored := by
  simp (maxDischargeDepth := 60) [Dev.evacuationBoundary, hd]

@[simp] theorem Dev.sliceRecovery_stored (d : Dev) (i : Nat) (reason : Nat) (hd : d.Stored) :
    (Dev.sliceRecovery d i reason).Stored := by
  simp (maxDischargeDepth := 60) [Dev.sliceRecovery, hd]

@[simp] theorem Dev.dirtyShutdown_stored (d : Dev) (reason : Nat) (hd : d.Stored) :
    (Dev.dirtyShutdown d reason).Stored := by
  simp (maxDischargeDepth := 60) [Dev.dirtyShutdown, hd]

@[simp] theorem Dev.retireChannel_stored (d : Dev) (i : Nat) (c : Nat) (hd : d.Stored) :
    (Dev.retireChannel d i c).Stored := by
  simp (maxDischargeDepth := 60) [Dev.retireChannel, hd]

@[simp] theorem Dev.retrain_stored (d : Dev) (i : Nat) (c : Nat) (failed : Bool) (oscillator : Option Nat) (hd : d.Stored) :
    (Dev.retrain d i c failed oscillator).Stored := by
  simp (maxDischargeDepth := 60) [Dev.retrain, hd]

@[simp] theorem Dev.retrainPause_stored (d : Dev) (i : Nat) (env : TickEnv) (hd : d.Stored) :
    (Dev.retrainPause d i env).Stored := by
  unfold Dev.retrainPause
  dsimp only
  (repeat' split) <;> simp_all (maxDischargeDepth := 60)

@[simp] theorem Dev.drawList_stored (d : Dev) (x1 : Nat) (hd : d.Stored) :
    (Dev.drawList d x1).2.Stored := by
  induction x1 generalizing d with
  | zero => exact hd
  | succ n ih =>
    unfold Dev.drawList
    simp [ih, hd]

@[simp] theorem Dev.sweepTick_stored (d : Dev) (i : Nat) (tick : Nat) (hd : d.Stored) :
    (Dev.sweepTick d i tick).Stored := by
  unfold Dev.sweepTick
  split <;> simp (maxDischargeDepth := 60) [hd]

@[simp] theorem Dev.loseLine_stored (d : Dev) (i : Nat) (a : Nat) (abort : Bool) (hd : d.Stored) :
    (Dev.loseLine d i a abort).Stored := by
  unfold Dev.loseLine
  dsimp only
  (repeat' split) <;> simp (maxDischargeDepth := 60) [hd]

@[simp] theorem Dev.internalTagFail_stored (d : Dev) (i : Nat) (a : Nat) (lo : Nat) (hi : Nat) (hd : d.Stored) :
    (Dev.internalTagFail d i a lo hi).Stored := by
  simp (maxDischargeDepth := 60) [Dev.internalTagFail, hd]

@[simp] theorem Dev.internalPartialFail_stored (d : Dev) (i : Nat) (a : Nat) (hd : d.Stored) :
    (Dev.internalPartialFail d i a).Stored := by
  simp (maxDischargeDepth := 60) [Dev.internalPartialFail, hd]

@[simp] theorem Dev.tagTick_stored (d : Dev) (i : Nat) (tick : Nat) (env : TickEnv) (hd : d.Stored) :
    (Dev.tagTick d i tick env).Stored := by
  unfold Dev.tagTick
  dsimp only
  (repeat' split) <;> simp_all (maxDischargeDepth := 60)

@[simp] theorem Dev.setRollback_stored (d : Dev) (n : Nat) (v : Nat) (hd : d.Stored) :
    (Dev.setRollback d n v).Stored := by
  simp (maxDischargeDepth := 60) [Dev.setRollback, hd]

@[simp] theorem Dev.advanceRollback_stored (d : Dev) (n : Nat) (v : Nat) (hd : d.Stored) :
    (Dev.advanceRollback d n v).Stored := by
  simp (maxDischargeDepth := 60) [Dev.advanceRollback, hd]

@[simp] theorem Dev.checkCounters_stored (d : Dev) (hd : d.Stored) :
    (Dev.checkCounters d).Stored := by
  unfold Dev.checkCounters
  refine foldl_stored _ (fun d a hd => ?_) _ _ hd
  (repeat' split) <;> simp (maxDischargeDepth := 60) [hd]

@[simp] theorem Dev.loadTarget_stored (d : Dev) (t : Nat) (hd : d.Stored) :
    (Dev.loadTarget d t).Stored := by
  unfold Dev.loadTarget
  split <;> simp (maxDischargeDepth := 60) [hd]

@[simp] theorem Dev.verifyFirmware_stored (d : Dev) (resume : Bool) (hd : d.Stored) :
    (Dev.verifyFirmware d resume).Stored := by
  unfold Dev.verifyFirmware
  dsimp only
  (repeat' split) <;> simp_all (maxDischargeDepth := 60)

@[simp] theorem Dev.loadMediaKeys_stored (d : Dev) (hd : d.Stored) :
    (Dev.loadMediaKeys d).Stored := by
  simp (maxDischargeDepth := 60) [Dev.loadMediaKeys, hd]

@[simp] theorem Dev.drawKeys_stored (d : Dev) (hd : d.Stored) :
    (Dev.drawKeys d).Stored := by
  simp (maxDischargeDepth := 60) [Dev.drawKeys, hd]

@[simp] theorem Dev.parkKeys_stored (d : Dev) (hd : d.Stored) :
    (Dev.parkKeys d).Stored := by
  simp (maxDischargeDepth := 60) [Dev.parkKeys, hd]

@[simp] theorem Dev.unparkKeys_stored (d : Dev) (hd : d.Stored) :
    (Dev.unparkKeys d).Stored := by
  unfold Dev.unparkKeys
  (repeat' split) <;> simp (maxDischargeDepth := 60) [hd]

@[simp] theorem Dev.clearCommon_stored (keepHdm : Bool) (d : Dev) (hd : d.Stored) :
    (Dev.clearCommon keepHdm d).Stored := by
  unfold Dev.clearCommon
  exact ⟨hd.1, rfl⟩

@[simp] theorem Dev.closeTitles_stored (d : Dev) (hd : d.Stored) :
    (Dev.closeTitles d).Stored := by
  simp (maxDischargeDepth := 60) [Dev.closeTitles, hd]

@[simp] theorem Dev.losePower_stored (d : Dev) (hd : d.Stored) :
    (Dev.losePower d).Stored := by
  simp (maxDischargeDepth := 60) [Dev.losePower, hd]

@[simp] theorem PStore.finishPage_wf {p : PStore} (h : Memory.wf p.mem = true) : Memory.wf p.finishPage.mem = true := by
  unfold PStore.finishPage
  split
  · exact PStore.write_wf h _ _
  · exact h

theorem PStore.foldl_wf {α : Type} (f : PStore → α → PStore)
    (hf : ∀ (p : PStore) a, Memory.wf p.mem = true → Memory.wf (f p a).mem = true) (l : List α) (p : PStore)
    (hp : Memory.wf p.mem = true) : Memory.wf (l.foldl f p).mem = true := by
  induction l generalizing p with
  | nil => exact hp
  | cons a l ih => exact ih _ (hf p a hp)

@[simp] theorem PStore.cutPage_wf {p : PStore} (h : Memory.wf p.mem = true) (cut : List CutGroup) :
    Memory.wf (p.cutPage cut).mem = true := by
  unfold PStore.cutPage
  split
  · exact h
  · refine PStore.foldl_wf _ (fun p i hp => ?_) _ _ h
    dsimp only
    split
    · exact hp
    · exact memWrite_wf hp _ _
    · exact hp

@[simp] theorem Dev.lastGasp_stored (d : Dev) (trigger : Nat) (hd : d.Stored) :
    (Dev.lastGasp d trigger).Stored := by
  unfold Dev.lastGasp
  split
  · exact ⟨PStore.write_wf (PStore.finishPage_wf hd.1) _ _, hd.2⟩
  · exact hd

@[simp] theorem Dev.consumeGasp_stored (d : Dev) (hd : d.Stored) :
    (Dev.consumeGasp d).Stored := by
  unfold Dev.consumeGasp
  split <;> simp (maxDischargeDepth := 60) [hd]

@[simp] theorem Dev.openRecorder_stored (d : Dev) (hd : d.Stored) :
    (Dev.openRecorder d).Stored := by
  unfold Dev.openRecorder
  (repeat' split) <;> simp (maxDischargeDepth := 60) [hd]

@[simp] theorem Dev.restoreMirrors_stored (d : Dev) (hd : d.Stored) :
    (Dev.restoreMirrors d).1.Stored := by
  simp (maxDischargeDepth := 60) [Dev.restoreMirrors, hd]

@[simp] theorem Dev.loadTiming_stored (d : Dev) (hd : d.Stored) :
    (Dev.loadTiming d).Stored := by
  unfold Dev.loadTiming
  split <;> simp (maxDischargeDepth := 60) [hd]

@[simp] theorem Dev.completeLifecycle_stored (d : Dev) (hd : d.Stored) :
    (Dev.completeLifecycle d).Stored := by
  unfold Dev.completeLifecycle
  dsimp only
  (repeat' split) <;> simp (maxDischargeDepth := 60) [hd]

@[simp] theorem Dev.recordFault_stored (d : Dev) (hd : d.Stored) :
    (Dev.recordFault d).Stored := by
  simp (maxDischargeDepth := 60) [Dev.recordFault, hd]

@[simp] theorem Dev.recordWatchdog_stored (d : Dev) (hd : d.Stored) :
    (Dev.recordWatchdog d).Stored := by
  unfold Dev.recordWatchdog
  split <;> simp (maxDischargeDepth := 60) [hd]

@[simp] theorem Dev.expireWatchdog_stored (d : Dev) (hd : d.Stored) :
    (Dev.expireWatchdog d).Stored := hd

@[simp] theorem Dev.startRecords_stored (d : Dev) (hd : d.Stored) :
    (Dev.startRecords d).Stored := by
  simp (maxDischargeDepth := 60) [Dev.startRecords, hd]

@[simp] theorem Dev.openBoot_stored (d : Dev) (hd : d.Stored) :
    (Dev.openBoot d).Stored := by
  simp (maxDischargeDepth := 60) [Dev.openBoot, hd]

@[simp] theorem Dev.warmReset_stored (d : Dev) (watchdog : Bool) (hd : d.Stored) :
    (Dev.warmReset d watchdog).Stored := by
  unfold Dev.warmReset
  dsimp only
  (repeat' split) <;> simp (maxDischargeDepth := 60) [hd]

@[simp] theorem Dev.latchFault_stored (d : Dev) (causes : BitVec 16) (hd : d.Stored) :
    (Dev.latchFault d causes).Stored := by
  simp (maxDischargeDepth := 60) [Dev.latchFault, hd]

@[simp] theorem Dev.follow_stored (d : Dev) (hd : d.Stored) :
    (Dev.follow d).Stored := by
  simp (maxDischargeDepth := 60) [Dev.follow, hd]

@[simp] theorem Dev.descend_stored (d : Dev) (target : Mode) (powerFail : Bool) (hd : d.Stored) :
    (Dev.descend d target powerFail).Stored := by
  simp (maxDischargeDepth := 60) [Dev.descend, hd]

@[simp] theorem Dev.halt_stored (d : Dev) (hd : d.Stored) :
    (Dev.halt d).Stored := by
  simp (maxDischargeDepth := 60) [Dev.halt, hd]

@[simp] theorem Dev.powerDrop_stored (d : Dev) (trigger : Nat) (swapReason : Nat) (record : Bool) (cut : List CutGroup) (hd : d.Stored) :
    (Dev.powerDrop d trigger swapReason record cut).Stored := by
  have hc : ∀ (e : Dev), e.Stored → ({ e with pstore := e.pstore.cutPage cut } : Dev).Stored :=
    fun e he => ⟨PStore.cutPage_wf he.1 _, he.2⟩
  unfold Dev.powerDrop
  dsimp only
  (repeat' split) <;> simp (maxDischargeDepth := 60) [hd]

@[simp] theorem Dev.powerOff_stored (d : Dev) (hd : d.Stored) :
    (Dev.powerOff d).Stored := by
  simp (maxDischargeDepth := 60) [Dev.powerOff, hd]

@[simp] theorem Dev.clampVpp_stored (d : Dev) (rail : Nat) (hd : d.Stored) :
    (Dev.clampVpp d rail).Stored := by
  simp (maxDischargeDepth := 60) [Dev.clampVpp, hd]

@[simp] theorem Dev.takeSample_stored (d : Dev) (ins : List (Nat × Option Int)) (hd : d.Stored) :
    (Dev.takeSample d ins).Stored := by
  unfold Dev.takeSample
  dsimp only
  (repeat' split) <;> simp_all (maxDischargeDepth := 60)

@[simp] theorem Dev.notifyThermal_stored (d : Dev) (kind : Nat) (k : Nat) (hd : d.Stored) :
    (Dev.notifyThermal d kind k).Stored := by
  simp (maxDischargeDepth := 60) [Dev.notifyThermal, hd]

@[simp] theorem Dev.riseEvents_stored (d : Dev) (ks : List Nat) (hd : d.Stored) :
    (Dev.riseEvents d ks).Stored := by
  unfold Dev.riseEvents
  dsimp only
  (repeat' split) <;> simp_all (maxDischargeDepth := 60)

@[simp] theorem Dev.warnGroup_stored (d : Dev) (g : Nat) (hd : d.Stored) :
    (Dev.warnGroup d g).Stored := by
  simp (maxDischargeDepth := 60) [Dev.warnGroup, hd]

@[simp] theorem Dev.criticalRuns_stored (d : Dev) (hd : d.Stored) :
    (Dev.criticalRuns d).1.Stored := by
  simp (maxDischargeDepth := 60) [Dev.criticalRuns, hd]

@[simp] theorem Dev.setLevel_stored (d : Dev) (l : Nat) (hd : d.Stored) :
    (Dev.setLevel d l).Stored := by
  simp (maxDischargeDepth := 60) [Dev.setLevel, hd]

@[simp] theorem Dev.moveLevel_stored (d : Dev) (risen : Bool) (hd : d.Stored) :
    (Dev.moveLevel d risen).Stored := by
  simp (maxDischargeDepth := 60) [Dev.moveLevel, hd]

@[simp] theorem Dev.levelBoundary_stored (d : Dev) (hd : d.Stored) :
    (Dev.levelBoundary d).Stored := by
  unfold Dev.levelBoundary
  split <;> simp (maxDischargeDepth := 60) [hd]

@[simp] theorem Dev.ageSlice_stored (d : Dev) (i : Nat) (hd : d.Stored) :
    (Dev.ageSlice d i).Stored := by
  unfold Dev.ageSlice
  split <;> simp (maxDischargeDepth := 60) [hd]

@[simp] theorem Dev.addLife_stored (d : Dev) (hd : d.Stored) :
    (Dev.addLife d).Stored := by
  unfold Dev.addLife
  split <;> simp (maxDischargeDepth := 60) [hd]

@[simp] theorem Dev.history_stored (d : Dev) (hd : d.Stored) :
    (Dev.history d).Stored := by
  unfold Dev.history
  dsimp only
  (repeat' split) <;> simp_all (maxDischargeDepth := 60)

@[simp] theorem Dev.retrainByTemp_stored (d : Dev) (mr4 : List Nat) (hd : d.Stored) :
    (Dev.retrainByTemp d mr4).Stored := by
  unfold Dev.retrainByTemp
  dsimp only
  (repeat' split) <;> simp_all (maxDischargeDepth := 60)

@[simp] theorem Dev.critical_stored (d : Dev) (hot : List (Nat × Int)) (hd : d.Stored) :
    (Dev.critical d hot).Stored := by
  unfold Dev.critical
  split <;> simp (maxDischargeDepth := 60) [hd]

@[simp] theorem Dev.dramTick_stored (d : Dev) (env : TickEnv) (i : Nat) (hd : d.Stored) :
    (Dev.dramTick d env i).Stored := by
  simp (maxDischargeDepth := 60) [Dev.dramTick, hd]

@[simp] theorem Dev.afterTick_stored (d : Dev) (i : Nat) (hd : d.Stored) :
    (Dev.afterTick d i).Stored := by
  simp (maxDischargeDepth := 60) [Dev.afterTick, hd]

@[simp] theorem Dev.takeEnv_stored (d : Dev) (env : TickEnv) (i : Nat) (hd : d.Stored) :
    (Dev.takeEnv d env i).Stored := by
  unfold Dev.takeEnv
  dsimp only
  (repeat' split) <;> simp_all (maxDischargeDepth := 60)

@[simp] theorem Dev.sliceTick_stored (d : Dev) (env : TickEnv) (swapDue : Bool) (i : Nat) (hd : d.Stored) :
    (Dev.sliceTick d env swapDue i).Stored := by
  unfold Dev.sliceTick
  dsimp only
  (repeat' split) <;> simp (maxDischargeDepth := 60) [hd]

@[simp] theorem Dev.startTick_stored (d : Dev) (hd : d.Stored) :
    (Dev.startTick d).Stored := by
  simp (maxDischargeDepth := 60) [Dev.startTick, hd]

@[simp] theorem Dev.firstTick_stored (d : Dev) (hd : d.Stored) :
    (Dev.firstTick d).Stored := by
  unfold Dev.firstTick
  dsimp only
  (repeat' split) <;> simp_all (maxDischargeDepth := 60)

@[simp] theorem Dev.loadBootImage_stored (d : Dev) (hd : d.Stored) :
    (Dev.loadBootImage d).Stored := by
  simp (maxDischargeDepth := 60) [Dev.loadBootImage, hd]

@[simp] theorem Dev.format_stored (d : Dev) (interrupted : Bool) (hd : d.Stored) :
    (Dev.format d interrupted).Stored := by
  simp (maxDischargeDepth := 60) [Dev.format, hd]

@[simp] theorem Dev.estimate_stored (d : Dev) (i : Nat) (measured : List (Option Nat)) (hd : d.Stored) :
    (Dev.estimate d i measured).Stored := by
  simp (maxDischargeDepth := 60) [Dev.estimate, hd]

@[simp] theorem Dev.tellSize_stored (d : Dev) (image : List Byte) (hd : d.Stored) : (Dev.tellSize d image).Stored := by
  unfold Dev.tellSize
  generalize (byteAt image 0x0D == if d.fuses.dram4 = true then 4 else 2) = c
  cases c
  · exact foldl_stored _ (fun d i h => by simp [h]) _ _ hd
  · exact hd

@[simp] theorem Dev.startImage_stored (d : Dev) (hd : d.Stored) :
    (Dev.startImage d).Stored := by
  unfold Dev.startImage
  dsimp only
  (repeat' split) <;> simp (maxDischargeDepth := 60) [hd]

@[simp] theorem Dev.tellRebuilt_stored (d : Dev) (i : Nat) (r : Rebuilt) (hd : d.Stored) :
    (Dev.tellRebuilt d i r).Stored := by
  unfold Dev.tellRebuilt
  dsimp only
  (repeat' split) <;> simp_all (maxDischargeDepth := 60)

@[simp] theorem Dev.rebuildSlice_stored (d : Dev) (i : Nat) (hd : d.Stored) :
    (Dev.rebuildSlice d i).Stored := by
  unfold Dev.rebuildSlice
  dsimp only
  (repeat' split) <;> simp_all (maxDischargeDepth := 60)

@[simp] theorem Dev.restoreMaps_stored (d : Dev) (cold : Bool) (hd : d.Stored) :
    (Dev.restoreMaps d cold).Stored := by
  unfold Dev.restoreMaps
  split
  · simp [hd]
  · split
    · exact foldl_stored _ (fun d i hd => Dev.rebuildSlice_stored _ _ hd) _ _ hd
    · exact hd

@[simp] theorem Dev.startRoots_stored (d : Dev) (hd : d.Stored) :
    (Dev.startRoots d).Stored := by
  simp (maxDischargeDepth := 60) [Dev.startRoots, hd]

@[simp] theorem Dev.repairCopies_stored (d : Dev) (hd : d.Stored) :
    (Dev.repairCopies d).Stored := by
  simp (maxDischargeDepth := 60) [Dev.repairCopies, hd]

@[simp] theorem Dev.enterService_stored (d : Dev) (hd : d.Stored) :
    (Dev.enterService d).Stored := by
  simp (maxDischargeDepth := 60) [Dev.enterService, hd]

@[simp] theorem Dev.drowseResume_stored (d : Dev) (hd : d.Stored) :
    (Dev.drowseResume d).Stored := by
  simp (maxDischargeDepth := 60) [Dev.drowseResume, hd]

@[simp] theorem Dev.drowseEntry_stored (d : Dev) (hd : d.Stored) :
    (Dev.drowseEntry d).Stored := by
  simp (maxDischargeDepth := 60) [Dev.drowseEntry, hd]

@[simp] theorem Dev.finishShutdown_stored (d : Dev) (target : Mode) (hd : d.Stored) :
    (Dev.finishShutdown d target).Stored := by
  simp (maxDischargeDepth := 60) [Dev.finishShutdown, hd]

@[simp] theorem Dev.testEntry_stored (d : Dev) (hd : d.Stored) :
    (Dev.testEntry d).Stored := by
  simp (maxDischargeDepth := 60) [Dev.testEntry, hd]

@[simp] theorem Dev.transitionRound_stored (d : Dev) (hd : d.Stored) :
    (Dev.transitionRound d).Stored := by
  unfold Dev.transitionRound
  (repeat' split) <;> simp (maxDischargeDepth := 60) [hd]

@[simp] theorem Dev.transitionTick_stored (d : Dev) (hd : d.Stored) :
    (Dev.transitionTick d).Stored := by
  unfold Dev.transitionTick
  split <;> simp (maxDischargeDepth := 60) [hd]

@[simp] theorem Dev.writeRate_stored (d : Dev) (i : Nat) (hd : d.Stored) :
    (Dev.writeRate d i).Stored := by
  simp (maxDischargeDepth := 60) [Dev.writeRate, hd]

@[simp] theorem Dev.advanceRound_stored (d : Dev) (hd : d.Stored) :
    (Dev.advanceRound d).Stored := by
  simp (maxDischargeDepth := 60) [Dev.advanceRound, hd]

@[simp] theorem Dev.remapSlice_stored (d : Dev) (i : Nat) (hd : d.Stored) :
    (Dev.remapSlice d i).Stored := by
  simp (maxDischargeDepth := 60) [Dev.remapSlice, hd]

@[simp] theorem Dev.upkeepBoundary_stored (d : Dev) (fails : List (Nat × Nat)) (i : Nat) (hd : d.Stored) :
    (Dev.upkeepBoundary d fails i).Stored := by
  unfold Dev.upkeepBoundary
  dsimp only
  (repeat' split) <;> simp_all (maxDischargeDepth := 60)

@[simp] theorem Dev.idleBoundary_stored (d : Dev) (hd : d.Stored) :
    (Dev.idleBoundary d).Stored := by
  simp (maxDischargeDepth := 60) [Dev.idleBoundary, hd]

@[simp] theorem Dev.methodChange_stored (d : Dev) (method : Nat) (hd : d.Stored) :
    (Dev.methodChange d method).Stored := by
  simp (maxDischargeDepth := 60) [Dev.methodChange, hd]

@[simp] theorem Dev.endTicks_stored (d : Dev) (env : TickEnv) (hd : d.Stored) :
    (Dev.endTicks d env).Stored := by
  unfold Dev.endTicks
  refine foldl_stored _ (fun d a hd => ?_) _ _ hd
  (repeat' split) <;> simp (maxDischargeDepth := 60) [hd]

@[simp] theorem Dev.roundBoundary_stored (d : Dev) (fails : List (Nat × Nat)) (hd : d.Stored) :
    (Dev.roundBoundary d fails).Stored := by
  unfold Dev.roundBoundary
  dsimp only
  (repeat' split) <;> simp_all (maxDischargeDepth := 60)

@[simp] theorem Dev.storeStep_stored (d : Dev) (hd : d.Stored) :
    (Dev.storeStep d).Stored := by
  unfold Dev.storeStep
  split <;> simp (maxDischargeDepth := 60) [hd]

@[simp] theorem Dev.fwStep_stored (d : Dev) (t : Nat) (hd : d.Stored) :
    (Dev.fwStep d t).Stored := by
  unfold Dev.fwStep
  dsimp only
  (repeat' split) <;> simp_all (maxDischargeDepth := 60)

@[simp] theorem Dev.latchCounters_stored (d : Dev) (round : Nat) (tick : Nat) (hd : d.Stored) :
    (Dev.latchCounters d round tick).Stored := by
  simp (maxDischargeDepth := 60) [Dev.latchCounters, hd]

@[simp] theorem Dev.latchDue_stored (d : Dev) (hd : d.Stored) :
    (Dev.latchDue d).Stored := by
  simp (maxDischargeDepth := 60) [Dev.latchDue, hd]

@[simp] theorem Dev.onSel_stored (d : Dev) (a : Agent) (f : Sel → Sel) (hd : d.Stored) :
    (Dev.onSel d a f).Stored := by
  unfold Dev.onSel
  split <;> simp (maxDischargeDepth := 60) [hd]

@[simp] theorem Dev.report_stored (d : Dev) (a : Agent) (port : Nat) (off : Nat) (reason : Nat) (hd : d.Stored) :
    (Dev.report d a port off reason).Stored := by
  simp (maxDischargeDepth := 60) [Dev.report, hd]

@[simp] theorem Dev.writeSwap_stored (d : Dev) (a : Agent) (port : Nat) (v : Word) (hd : d.Stored) :
    (Dev.writeSwap d a port v).Stored := by
  simp (maxDischargeDepth := 60) [Dev.writeSwap, hd]

@[simp] theorem Dev.emptyChan_stored (d : Dev) (c : Nat) (hd : d.Stored) :
    (Dev.emptyChan d c).Stored := by
  simp (maxDischargeDepth := 60) [Dev.emptyChan, hd]

@[simp] theorem Dev.assign_stored (d : Dev) (v : Word) (hd : d.Stored) :
    (Dev.assign d v).Stored := by
  unfold Dev.assign
  dsimp only
  (repeat' split) <;> simp_all (maxDischargeDepth := 60)

@[simp] theorem Dev.writeShadow_stored (d : Dev) (a : Agent) (port : Nat) (off : Nat) (f : Groups → Groups) (hd : d.Stored) :
    (Dev.writeShadow d a port off f).Stored := by
  simp (maxDischargeDepth := 60) [Dev.writeShadow, hd]

@[simp] theorem Dev.writeRegion_stored (d : Dev) (a : Agent) (port : Nat) (off : Nat) (n : Nat) (attr : Bool) (v : Word) (hd : d.Stored) :
    (Dev.writeRegion d a port off n attr v).Stored := by
  simp (maxDischargeDepth := 60) [Dev.writeRegion, hd]

@[simp] theorem Dev.writeGlobal_stored (d : Dev) (a : Agent) (port : Nat) (off : Nat) (v : Word) (hd : d.Stored) :
    (Dev.writeGlobal d a port off v).Stored := by
  simp (maxDischargeDepth := 60) [Dev.writeGlobal, hd]

@[simp] theorem Dev.writeSetway_stored (d : Dev) (secure : Bool) (i : Nat) (v : Word) (hd : d.Stored) :
    (Dev.writeSetway d secure i v).Stored := by
  simp (maxDischargeDepth := 60) [Dev.writeSetway, hd]

@[simp] theorem Dev.writeSlice_stored (d : Dev) (a : Agent) (i : Nat) (off : Nat) (v : Word) (hd : d.Stored) :
    (Dev.writeSlice d a i off v).Stored := by
  simp (maxDischargeDepth := 60) [Dev.writeSlice, hd]

@[simp] theorem Dev.writeReach_stored (d : Dev) (i : Nat) (r : Nat) (off : Nat) (v : Word) (hd : d.Stored) :
    (Dev.writeReach d i r off v).Stored := by
  simp (maxDischargeDepth := 60) [Dev.writeReach, hd]

@[simp] theorem Dev.overrunChan_stored (d : Dev) (c : Nat) (hd : d.Stored) :
    (Dev.overrunChan d c).Stored := by
  simp (maxDischargeDepth := 60) [Dev.overrunChan, hd]

@[simp] theorem Dev.appendInbound_stored (d : Dev) (c : Nat) (v : Word) (bad : Bool) (hd : d.Stored) :
    (Dev.appendInbound d c v bad).Stored := by
  simp (maxDischargeDepth := 60) [Dev.appendInbound, hd]

@[simp] theorem Dev.pushInbound_stored (d : Dev) (a : Agent) (port : Nat) (c : Nat) (v : Word) (bad : Bool) (hd : d.Stored) :
    (Dev.pushInbound d a port c v bad).Stored := by
  simp (maxDischargeDepth := 60) [Dev.pushInbound, hd]

@[simp] theorem Dev.popOutbound_stored (d : Dev) (c : Nat) (parityFail : Bool) (hd : d.Stored) :
    (Dev.popOutbound d c parityFail).2.Stored := by
  unfold Dev.popOutbound
  split <;> simp (maxDischargeDepth := 60) [hd]

@[simp] theorem Dev.dropOut_stored (d : Dev) (c : Nat) (hd : d.Stored) :
    (Dev.dropOut d c).Stored := by
  simp (maxDischargeDepth := 60) [Dev.dropOut, hd]

@[simp] theorem Dev.dropIn_stored (d : Dev) (c : Nat) (hd : d.Stored) :
    (Dev.dropIn d c).Stored := by
  simp (maxDischargeDepth := 60) [Dev.dropIn, hd]

@[simp] theorem Dev.dropFor_stored (d : Dev) (a : Agent) (c : Nat) (hd : d.Stored) :
    (Dev.dropFor d a c).Stored := by
  simp (maxDischargeDepth := 60) [Dev.dropFor, hd]

@[simp] theorem Dev.writeChan_stored (d : Dev) (a : Agent) (port : Nat) (c : Nat) (off : Nat) (v : Word) (bad : Bool) (hd : d.Stored) :
    (Dev.writeChan d a port c off v bad).Stored := by
  unfold Dev.writeChan
  split <;> simp (maxDischargeDepth := 60) [hd]

@[simp] theorem Dev.readChan_stored (d : Dev) (a : Agent) (port : Nat) (c : Nat) (off : Nat) (parityFail : Bool) (hd : d.Stored) :
    (Dev.readChan d a port c off parityFail).2.Stored := by
  unfold Dev.readChan
  (repeat' split) <;> simp (maxDischargeDepth := 60) [hd]

@[simp] theorem Dev.readOut_stored (d : Dev) (a : Agent) (port : Nat) (c : Nat) (half : OutHalf) (parityFail : Bool) (hd : d.Stored) :
    (Dev.readOut d a port c half parityFail).2.Stored := by
  unfold Dev.readOut
  dsimp only
  (repeat' split) <;> simp (maxDischargeDepth := 60) [hd]

@[simp] theorem Dev.writeRingCtrl_stored (d : Dev) (a : Agent) (port : Nat) (off : Nat) (ring : Nat) (v : Word) (hd : d.Stored) :
    (Dev.writeRingCtrl d a port off ring v).Stored := by
  simp (maxDischargeDepth := 60) [Dev.writeRingCtrl, hd]

@[simp] theorem Dev.writeRing_stored (d : Dev) (a : Agent) (port : Nat) (off : Nat) (ring : Nat) (v : Word) (hd : d.Stored) :
    (Dev.writeRing d a port off ring v).Stored := by
  unfold Dev.writeRing
  split <;> simp (maxDischargeDepth := 60) [hd]

@[simp] theorem Dev.writeSlot_stored (d : Dev) (a : Agent) (port : Nat) (sel : Sel) (off : Nat) (v : BitVec 64) (bad : Bool) (hd : d.Stored) :
    (Dev.writeSlot d a port sel off v bad).Stored := by
  simp (maxDischargeDepth := 60) [Dev.writeSlot, hd]

@[simp] theorem Dev.readSlot_stored (d : Dev) (a : Agent) (port : Nat) (sel : Sel) (off : Nat) (parityFail : Bool) (hd : d.Stored) :
    (Dev.readSlot d a port sel off parityFail).2.Stored := by
  unfold Dev.readSlot
  (repeat' split) <;> simp (maxDischargeDepth := 60) [hd]

@[simp] theorem Dev.touchChan_stored (d : Dev) (a : Agent) (port : Nat) (off : Nat) (hd : d.Stored) :
    (Dev.touchChan d a port off).Stored := by
  simp (maxDischargeDepth := 60) [Dev.touchChan, hd]

@[simp] theorem Dev.writeAccess_stored (d : Dev) (a : Agent) (port : Nat) (off : Nat) (size : Nat) (v : BitVec 64) (hd : d.Stored) :
    (Dev.writeAccess d a port off size v).Stored := by
  simp (maxDischargeDepth := 60) [Dev.writeAccess, hd]

@[simp] theorem Dev.readAccess_stored (d : Dev) (a : Agent) (port : Nat) (sel : Sel) (off : Nat) (size : Nat) (parityFail : Bool) (hd : d.Stored) :
    (Dev.readAccess d a port sel off size parityFail).2.Stored := by
  unfold Dev.readAccess
  dsimp only
  (repeat' split) <;> simp (maxDischargeDepth := 60) [hd]

@[simp] theorem Dev.maskVector_stored (d : Dev) (port : Nat) (vector : Nat) (masked : Bool) (hd : d.Stored) :
    (Dev.maskVector d port vector masked).Stored := by
  simp (maxDischargeDepth := 60) [Dev.maskVector, hd]

@[simp] theorem Dev.writeVector_stored (d : Dev) (port : Nat) (vector : Nat) (part : Nat) (v : BitVec 32) (hd : d.Stored) :
    (Dev.writeVector d port vector part v).Stored := by
  unfold Dev.writeVector
  (repeat' split) <;> simp (maxDischargeDepth := 60) [hd]

@[simp] theorem Dev.writeMsixControl_stored (d : Dev) (port : Nat) (v : BitVec 16) (hd : d.Stored) :
    (Dev.writeMsixControl d port v).Stored := by
  simp (maxDischargeDepth := 60) [Dev.writeMsixControl, hd]

@[simp] theorem Dev.await_stored (d : Dev) (q : Req) (what : WaitFor) (hd : d.Stored) :
    (Dev.await d q what).Stored := by
  simp (maxDischargeDepth := 60) [Dev.await, hd]

@[simp] theorem Dev.writeBuffer_stored (d : Dev) (c : Nat) (b : List Byte) (hd : d.Stored) :
    (Dev.writeBuffer d c b).Stored := by
  simp (maxDischargeDepth := 60) [Dev.writeBuffer, hd]

@[simp] theorem Dev.resync_stored (d : Dev) (c : Nat) (hd : d.Stored) :
    (Dev.resync d c).Stored := by
  unfold Dev.resync
  dsimp only
  (repeat' split) <;> simp (maxDischargeDepth := 60) [hd]

@[simp] theorem Dev.takeRequest_stored (d : Dev) (c : Nat) (rest : List MbWord) (hd : d.Stored) :
    (Dev.takeRequest d c rest).Stored := by
  simp (maxDischargeDepth := 60) [Dev.takeRequest, hd]

@[simp] theorem Dev.answer_stored (d : Dev) (q : Req) (x1 : Reply) (hd : d.Stored) :
    (Dev.answer d q x1).Stored := by
  unfold Dev.answer
  split <;> simp (maxDischargeDepth := 60) [hd]

@[simp] theorem Dev.serve_stored (d : Dev) (c : Nat) (op : Nat) (early : Dev → Req → Option Nat) (body : Dev → Req → Dev × Reply) (hbody : ∀ (d : Dev) q, d.Stored → (body d q).1.Stored) (hd : d.Stored) :
    (Dev.serve d c op early body).Stored := by
  unfold Dev.serve
  dsimp only
  (repeat' split) <;> simp_all (maxDischargeDepth := 60)

@[simp] theorem Dev.onImages_stored (d : Dev) (f : Images → Images) (hd : d.Stored) :
    (Dev.onImages d f).Stored := by
  simp (maxDischargeDepth := 60) [Dev.onImages, hd]

@[simp] theorem Dev.imageRejected_stored (d : Dev) (f : VFail) (hd : d.Stored) :
    (Dev.imageRejected d f).1.Stored := by
  simp (maxDischargeDepth := 60) [Dev.imageRejected, hd]

@[simp] theorem Dev.finishLoad_stored (d : Dev) (b : List Byte) (hd : d.Stored) :
    (Dev.finishLoad d b).1.Stored := by
  unfold Dev.finishLoad
  split <;> simp (maxDischargeDepth := 60) [hd]

@[simp] theorem Dev.imagePart_stored (d : Dev) (q : Req) (host : List Byte) (hd : d.Stored) :
    (Dev.imagePart d q host).1.Stored := by
  unfold Dev.imagePart
  dsimp only
  (repeat' split) <;> simp (maxDischargeDepth := 60) [hd]

@[simp] theorem Dev.storeImage_stored (d : Dev) (b : List Byte) (hd : d.Stored) :
    (Dev.storeImage d b).Stored := by
  simp (maxDischargeDepth := 60) [Dev.storeImage, hd]

@[simp] theorem Dev.sequenceBytes_stored (d : Dev) (q : List Nat) (hd : d.Stored) :
    (Dev.sequenceBytes d q).2.Stored := by
  unfold Dev.sequenceBytes
  split <;> simp (maxDischargeDepth := 60) [hd]

@[simp] theorem Dev.flushWord_stored (d : Dev) (i : Nat) (hd : d.Stored) :
    (Dev.flushWord d i).2.Stored := by
  unfold Dev.flushWord
  dsimp only
  (repeat' split) <;> simp (maxDischargeDepth := 60) [hd]

@[simp] theorem Dev.onShadow_stored (d : Dev) (f : Groups → Groups) (hd : d.Stored) :
    (Dev.onShadow d f).Stored := by
  simp (maxDischargeDepth := 60) [Dev.onShadow, hd]

@[simp] theorem Dev.badRecord_stored (d : Dev) (hd : d.Stored) :
    (Dev.badRecord d).1.Stored := by
  simp (maxDischargeDepth := 60) [Dev.badRecord, hd]

@[simp] theorem Dev.closeFlush_stored (d : Dev) (t : Nat) (hd : d.Stored) :
    (Dev.closeFlush d t).2.Stored := by
  unfold Dev.closeFlush
  dsimp only
  (repeat' split) <;> simp_all (maxDischargeDepth := 60)

@[simp] theorem Dev.fit_stored (d : Dev) (n : Nat) (w : Nat) (hd : d.Stored) :
    (Dev.fit d n w).2.Stored := by
  unfold Dev.fit
  split <;> simp (maxDischargeDepth := 60) [hd]

@[simp] theorem Dev.overProvisioning_stored (d : Dev) (i : Nat) (hd : d.Stored) :
    (Dev.overProvisioning d i).2.Stored := by
  unfold Dev.overProvisioning
  dsimp only
  (repeat' split) <;> simp (maxDischargeDepth := 60) [hd]

@[simp] theorem Dev.peakByte_stored (d : Dev) (g : Nat) (hd : d.Stored) :
    (Dev.peakByte d g).2.Stored := by
  unfold Dev.peakByte
  split <;> simp (maxDischargeDepth := 60) [hd]

@[simp] theorem Dev.readRecords_stored (d : Dev) (q : Req) (hd : d.Stored) :
    (Dev.readRecords d q).1.Stored := by
  unfold Dev.readRecords
  dsimp only
  (repeat' split) <;> simp (maxDischargeDepth := 60) [hd]

@[simp] theorem Dev.openGroup_stored (d : Dev) (g : Nat) (hd : d.Stored) :
    (Dev.openGroup d g).Stored := by
  simp (maxDischargeDepth := 60) [Dev.openGroup, hd]

@[simp] theorem Dev.beginTransition_stored (d : Dev) (target : Mode) (hd : d.Stored) :
    (Dev.beginTransition d target).Stored := by
  simp (maxDischargeDepth := 60) [Dev.beginTransition, hd]

@[simp] theorem Dev.thermalByte_stored (d : Dev) (k : Nat) (enabled : Bool) (hd : d.Stored) :
    (Dev.thermalByte d k enabled).2.Stored := by
  unfold Dev.thermalByte
  dsimp only
  (repeat' split) <;> simp (maxDischargeDepth := 60) [hd]

@[simp] theorem Dev.thermalBytes_stored (d : Dev) (x1 : List (Nat × Bool)) (hd : d.Stored) :
    (Dev.thermalBytes d x1).2.Stored := by
  induction x1 generalizing d with
  | nil => exact hd
  | cons e l ih =>
    unfold Dev.thermalBytes
    rcases h : d.thermalByte e.1 e.2 with ⟨b, e'⟩
    have he : e'.Stored := stored_of_snd h (Dev.thermalByte_stored _ _ _ hd)
    simp [h, ih _ he]

@[simp] theorem Dev.onCart_stored (d : Dev) (f : Cart → Cart) (hd : d.Stored) :
    (Dev.onCart d f).Stored := by
  simp (maxDischargeDepth := 60) [Dev.onCart, hd]

@[simp] theorem Dev.notifyCart_stored (d : Dev) (present : Bool) (streaming : Bool) (hd : d.Stored) :
    (Dev.notifyCart d present streaming).Stored := by
  simp (maxDischargeDepth := 60) [Dev.notifyCart, hd]

@[simp] theorem Dev.cartEnd_stored (d : Dev) (hd : d.Stored) :
    (Dev.cartEnd d).Stored := by
  unfold Dev.cartEnd
  dsimp only
  (repeat' split) <;> simp_all (maxDischargeDepth := 60)

@[simp] theorem Dev.notifyShutdown_stored (d : Dev) (queues : Bool) (hd : d.Stored) :
    (Dev.notifyShutdown d queues).Stored := by
  unfold Dev.notifyShutdown
  dsimp only
  split <;> exact hd

@[simp] theorem Dev.askTitleKey_stored (d : Dev) (e : Nat) (hd : d.Stored) :
    (Dev.askTitleKey d e).Stored := hd

@[simp] theorem Dev.authTalk_stored (d : Dev) (card : CardInfo) (k : Nat) (hd : d.Stored) :
    (Dev.authTalk d card k).Stored := by
  unfold Dev.authTalk
  dsimp only
  (repeat' split) <;> simp (maxDischargeDepth := 60) [hd]

@[simp] theorem Dev.authFailed_stored (d : Dev) (step : Nat) (status : Nat) (hd : d.Stored) :
    (Dev.authFailed d step status).1.Stored := by
  simp (maxDischargeDepth := 60) [Dev.authFailed, hd]

@[simp] theorem Dev.mapStream_stored (d : Dev) (n : Nat) (e : Nat) (t : Nat) (hd : d.Stored) :
    (Dev.mapStream d n e t).Stored := by
  simp (maxDischargeDepth := 60) [Dev.mapStream, hd]

@[simp] theorem Dev.onFirmware_stored (d : Dev) (t : Nat) (f : FwTarget → FwTarget) (hd : d.Stored) :
    (Dev.onFirmware d t f).Stored := by
  simp (maxDischargeDepth := 60) [Dev.onFirmware, hd]

@[simp] theorem Dev.fwRejected_stored (d : Dev) (t : Nat) (code : Nat) (hd : d.Stored) :
    (Dev.fwRejected d t code).1.Stored := by
  simp (maxDischargeDepth := 60) [Dev.fwRejected, hd]

@[simp] theorem Dev.fwFinish_stored (d : Dev) (t : Nat) (b : List Byte) (hd : d.Stored) :
    (Dev.fwFinish d t b).1.Stored := by
  unfold Dev.fwFinish
  dsimp only
  (repeat' split) <;> simp (maxDischargeDepth := 60) [hd]

@[simp] theorem Dev.fwPart_stored (d : Dev) (q : Req) (host : List Byte) (hd : d.Stored) :
    (Dev.fwPart d q host).1.Stored := by
  unfold Dev.fwPart
  dsimp only
  (repeat' split) <;> simp (maxDischargeDepth := 60) [hd]

@[simp] theorem Dev.fwStore_stored (d : Dev) (t : Nat) (b : List Byte) (hd : d.Stored) :
    (Dev.fwStore d t b).Stored := by
  simp (maxDischargeDepth := 60) [Dev.fwStore, hd]

@[simp] theorem Dev.fuseRoot_stored (d : Dev) (errors : BitVec 288) (hd : d.Stored) :
    (Dev.fuseRoot d errors).2.Stored := by
  unfold Dev.fuseRoot
  dsimp only
  (repeat' split) <;> simp (maxDischargeDepth := 60) [hd]

@[simp] theorem Dev.fuseLifecycle_stored (d : Dev) (next : Lifecycle) (hd : d.Stored) :
    (Dev.fuseLifecycle d next).Stored := by
  simp (maxDischargeDepth := 60) [Dev.fuseLifecycle, hd]

@[simp] theorem Dev.recordLifecycle_stored (d : Dev) (next : Lifecycle) (hd : d.Stored) :
    (Dev.recordLifecycle d next).Stored := by
  unfold Dev.recordLifecycle
  dsimp only
  (repeat' split) <;> simp_all (maxDischargeDepth := 60)

@[simp] theorem Dev.internalError_stored (d : Dev) (hd : d.Stored) :
    (Dev.internalError d).1.Stored := by
  simp (maxDischargeDepth := 60) [Dev.internalError, hd]

@[simp] theorem Dev.advance_stored (d : Dev) (next : Lifecycle) (fuseErrors : BitVec 288) (cut : FuseCut) (hd : d.Stored) :
    (Dev.advance d next fuseErrors cut).1.Stored := by
  unfold Dev.advance
  dsimp only
  (repeat' split) <;> simp (maxDischargeDepth := 60) [hd]

@[simp] theorem Dev.answerAccess_stored (d : Dev) (a : PAccess) (status : Nat) (payload : List Word) (hd : d.Stored) :
    (Dev.answerAccess d a status payload).Stored := by
  unfold Dev.answerAccess
  split <;> simp (maxDischargeDepth := 60) [hd]

@[simp] theorem Dev.performRead_stored (d : Dev) (a : PAccess) (hd : d.Stored) :
    (Dev.performRead d a).Stored := by
  unfold Dev.performRead
  split <;> simp (maxDischargeDepth := 60) [hd]

@[simp] theorem Dev.performRegister_stored (d : Dev) (r : RegAccess) (hd : d.Stored) :
    (Dev.performRegister d r).Stored := by
  unfold Dev.performRegister
  (repeat' split) <;> simp (maxDischargeDepth := 60) [hd]

@[simp] theorem Dev.serveStore_stored (d : Dev) (x1 : Nat) (hd : d.Stored) :
    (Dev.serveStore d x1).Stored := by
  induction x1 generalizing d with
  | zero => exact hd
  | succ n ih =>
    unfold Dev.serveStore
    dsimp only
    split
    · exact hd
    · rename_i a rest _
      split
      · refine ih _ ?_
        cases a.register <;> simp (maxDischargeDepth := 60) [hd]
      · (repeat' split) <;> first | exact hd | (exact ih _ (by simp (maxDischargeDepth := 60) [hd]))

@[simp] theorem Dev.addAccess_stored (d : Dev) (a : PAccess) (hd : d.Stored) :
    (Dev.addAccess d a).Stored := by
  simp (maxDischargeDepth := 60) [Dev.addAccess, hd]

@[simp] theorem Dev.mailboxInterrupt_stored (d : Dev) (port : Nat) (hd : d.Stored) :
    (Dev.mailboxInterrupt d port).Stored := by
  simp (maxDischargeDepth := 60) [Dev.mailboxInterrupt, hd]

@[simp] theorem Dev.stdReply_stored (d : Dev) (port : Nat) (code : Nat) (fields : List Nat) (hd : d.Stored) :
    (Dev.stdReply d port code fields).Stored := by
  simp (maxDischargeDepth := 60) [Dev.stdReply, hd]

@[simp] theorem Dev.forgetPort_stored (d : Dev) (port : Nat) (rings : List Nat) (hd : d.Stored) :
    (Dev.forgetPort d port rings).Stored := by
  simp (maxDischargeDepth := 60) [Dev.forgetPort, hd]

@[simp] theorem Dev.narrowPort_stored (d : Dev) (port : Nat) (excluded : BitVec 16) (hd : d.Stored) :
    (Dev.narrowPort d port excluded).Stored := by
  simp (maxDischargeDepth := 60) [Dev.narrowPort, hd]

@[simp] theorem Dev.onBoot_stored (d : Dev) (f : BootPort → BootPort) (hd : d.Stored) :
    (Dev.onBoot d f).Stored := by
  simp (maxDischargeDepth := 60) [Dev.onBoot, hd]

@[simp] theorem Dev.onI3c_stored (d : Dev) (f : I3c → I3c) (hf : ∀ i, Memory.wf i.window = true → Memory.wf (f i).window = true) (hd : d.Stored) :
    (Dev.onI3c d f).Stored := by
  unfold Dev.onI3c
  exact ⟨hd.1, hf _ hd.2⟩

@[simp] theorem Dev.takeWords_stored (d : Dev) (c : Nat) (bad : List Nat) (x1 : Nat) (x2 : Nat) (x3 : List Byte) (hd : d.Stored) :
    (Dev.takeWords d c bad x1 x2 x3).Stored := by
  induction x1 generalizing d x2 x3 with
  | zero => exact hd
  | succ n ih =>
    unfold Dev.takeWords
    (repeat' split) <;> first | exact hd | (exact ih _ _ _ (by simp (maxDischargeDepth := 60) [hd]))

@[simp] theorem Dev.acceptRegister_stored (d : Dev) (r : RegAccess) (hd : d.Stored) :
    (Dev.acceptRegister d r).Stored := by
  simp (maxDischargeDepth := 60) [Dev.acceptRegister, hd]

@[simp] theorem Dev.withOffset_stored (d : Dev) (offset : BitVec 32) (f : Dev → Dev) (hf : ∀ d : Dev, d.Stored → (f d).Stored) (hd : d.Stored) :
    (Dev.withOffset d offset f).Stored := by
  unfold Dev.withOffset
  split
  · exact hf _ hd
  · simp [hd]

@[simp] theorem Dev.readSlots_stored (d : Dev) (bad : List Nat) (x1 : Nat) (x2 : Nat) (x3 : Nat) (hd : d.Stored) :
    (Dev.readSlots d bad x1 x2 x3).2.Stored := by
  induction x1 generalizing d x2 x3 with
  | zero => exact hd
  | succ n ih =>
    unfold Dev.readSlots
    by_cases hx : x3 < 0x4000000
    · rcases h : d.readAccess .secure 0 d.regs.selSecure x3 8 (bad.contains x2) with ⟨r, e⟩
      have he : e.Stored := stored_of_snd h (Dev.readAccess_stored _ _ _ _ _ _ _ hd)
      simp [hx, h, ih _ _ _ he]
    · simp [hx, ih _ _ _ hd]

@[simp] theorem Dev.onDebug_stored (d : Dev) (f : Debug → Debug) (hd : d.Stored) :
    (Dev.onDebug d f).Stored := by
  simp (maxDischargeDepth := 60) [Dev.onDebug, hd]

@[simp] theorem Dev.bypass_stored (d : Dev) (hd : d.Stored) :
    (Dev.bypass d).Stored := by
  simp (maxDischargeDepth := 60) [Dev.bypass, hd]

@[simp] theorem Dev.boundaryScan_stored (d : Dev) (scan : List Bool) (hd : d.Stored) :
    (Dev.boundaryScan d scan).Stored := by
  simp (maxDischargeDepth := 60) [Dev.boundaryScan, hd]

@[simp] theorem Dev.closeForDebug_stored (d : Dev) (t : Nat) (hd : d.Stored) :
    (Dev.closeForDebug d t).Stored := by
  simp (maxDischargeDepth := 60) [Dev.closeForDebug, hd]

@[simp] theorem Dev.unlock_stored (d : Dev) (scope : Nat) (hd : d.Stored) :
    (Dev.unlock d scope).Stored := by
  unfold Dev.unlock
  split
  · exact foldl_stored _ (fun d t hd => Dev.closeForDebug_stored _ _ hd) _ _ hd
  · simp [hd]

@[simp] theorem Dev.tokenFailed_stored (d : Dev) (hd : d.Stored) :
    (Dev.tokenFailed d).Stored := by
  simp (maxDischargeDepth := 60) [Dev.tokenFailed, hd]

@[simp] theorem Dev.debugDenied_stored (d : Dev) (hd : d.Stored) :
    (Dev.debugDenied d).Stored := by
  simp (maxDischargeDepth := 60) [Dev.debugDenied, hd]

@[simp] theorem Dev.debugRegister_stored (d : Dev) (write : Bool) (address : Nat) (value : BitVec 64) (hd : d.Stored) :
    (Dev.debugRegister d write address value).Stored := by
  simp (maxDischargeDepth := 60) [Dev.debugRegister, hd]

@[simp] theorem Dev.debugData_stored (d : Dev) (dpa : Nat) (hd : d.Stored) :
    (Dev.debugData d dpa).2.Stored := by
  unfold Dev.debugData
  split <;> simp (maxDischargeDepth := 60) [hd]

@[simp] theorem Dev.debugDpa_stored (d : Dev) (write : Bool) (address : Nat) (value : BitVec 64) (hd : d.Stored) :
    (Dev.debugDpa d write address value).Stored := by
  simp (maxDischargeDepth := 60) [Dev.debugDpa, hd]

@[simp] theorem Dev.debugOpaque_stored (d : Dev) (write : Bool) (hd : d.Stored) :
    (Dev.debugOpaque d write).Stored := by
  simp (maxDischargeDepth := 60) [Dev.debugOpaque, hd]

@[simp] theorem Dev.withScope_stored (d : Dev) (letter : Nat) (f : Dev → Dev) (hf : ∀ d : Dev, d.Stored → (f d).Stored) (hd : d.Stored) :
    (Dev.withScope d letter f).Stored := by
  unfold Dev.withScope
  split
  · exact hf _ hd
  · simp [hd]

@[simp] theorem Dev.debugWorking_stored (d : Dev) (write : Bool) (address : Nat) (value : BitVec 64) (hd : d.Stored) :
    (Dev.debugWorking d write address value).Stored := by
  simp (maxDischargeDepth := 60) [Dev.debugWorking, hd]

@[simp] theorem Dev.debugDram_stored (d : Dev) (write : Bool) (memory : Nat) (slice : Nat) (address : Nat) (value : BitVec 64) (hd : d.Stored) :
    (Dev.debugDram d write memory slice address value).Stored := by
  unfold Dev.debugDram
  dsimp only
  (repeat' split) <;> simp_all (maxDischargeDepth := 60)

@[simp] theorem Dev.debugProcessor_stored (d : Dev) (action : Nat) (hd : d.Stored) :
    (Dev.debugProcessor d action).Stored := by
  simp (maxDischargeDepth := 60) [Dev.debugProcessor, hd]

@[simp] theorem Dev.debugTest_stored (d : Dev) (hd : d.Stored) :
    (Dev.debugTest d).Stored := by
  simp (maxDischargeDepth := 60) [Dev.debugTest, hd]

end Sys2Proof.Machine
end

