-- ==== Sys2Proof/Laws/Frame.lean ====
section
/-!
SUPPORT. The frames in which commands run, each said once: when a frame answers a next state, and which.
-/
namespace Sys2Proof.Machine

open Sys2Proof

/-! ### Settling -/

@[simp] theorem settle_levels (d : Dev) : (settle d).levels = d.levels := rfl

theorem settle_pins (d : Dev) : (settle d).pins = d.levels := rfl

/-- The tick stands in the modes without one. -/
theorem settle_clock (d : Dev) (h : d.mode.ticks = false) :
    (settle d).clock.on = false ∧ (settle d).clock.tick = 0 ∧ (settle d).clock.round = 0 := by
  simp [settle, h, Clock.stop]

theorem settle_clock_runs (d : Dev) (h : d.mode.ticks = true) : (settle d).clock = d.clock := by
  simp [settle, h]

@[simp] theorem settle_mode (d : Dev) : (settle d).mode = d.mode := rfl

/-! ### Guards -/

theorem guardIf_next {c : Bool} {f : Fault} {o : Host.Outcome State Fault Refusal} {t : State}
    (h : guardIf c f o = .next t) : c = true ∧ o = .next t := by
  cases c
  · cases h
  · exact ⟨rfl, h⟩

@[simp] theorem guardIf_true (f : Fault) (o : Host.Outcome State Fault Refusal) : guardIf true f o = o := rfl

/-! ### What a frame answers -/

theorem run_eq (s : State) (f : Dev → Dev) : run s f = .next { s with dev := settle (f s.dev) } := rfl

theorem runPort_eq {p : Nat} {s : State} (h : p < s.dev.sliceCount) (f : Dev → Dev) :
    runPort p s f = .next { s with dev := settle (f s.dev) } := by simp [runPort, h, run_eq]

theorem runSlice_eq {i : Nat} {s : State} (h : i < s.dev.sliceCount) (f : Dev → Dev) :
    runSlice i s f = .next { s with dev := settle (f s.dev) } := by simp [runSlice, h, run_eq]

theorem runChan_eq {c : Nat} {s : State} (h : c < 16) (f : Dev → Dev) :
    runChan c s f = .next { s with dev := settle (f s.dev) } := by simp [runChan, h, run_eq]

theorem runRing_eq {r : Nat} {s : State} (h : r < s.dev.ringCount) (f : Dev → Dev) :
    runRing r s f = .next { s with dev := settle (f s.dev) } := by simp [runRing, h, run_eq]

/-- A register access that reaches register space has its effect. -/
theorem runReg_eq {a : Agent} {p : Nat} {s : State} (hp : a = .host → p < s.dev.sliceCount)
    (hr : s.dev.reached a p = true) (f : Dev → Dev) : runReg a p s f = .next { s with dev := settle (f s.dev) } := by
  cases a
  · simp [runReg, run_eq, hp rfl, hr]
  · simp only [runReg, run_eq, hr, if_true]
    rfl
  · simp only [runReg, run_eq, hr, if_true]
    rfl

/-- A standard command at a linked port answers through it. -/
theorem runStd_eq {p : Nat} {s : State} (hp : p < s.dev.sliceCount) (hr : s.dev.reached .host p = true)
    (f : Dev → Dev × Nat × List Nat) :
    runStd p s f = .next { s with dev := settle ((f s.dev).1.stdReply p (f s.dev).2.1 (f s.dev).2.2) } := by
  simp [runStd, runPort_eq hp, hr]

/-- A boot port command of the protocol in force runs while BOOT_READY is high. -/
theorem runXspi_eq {m : Option XspiMode} {s : State} (hr : s.dev.bootReady = true)
    (hm : m.all (· == s.dev.boot.proto) = true) (f : Dev → Dev) :
    runXspi m s f = .next { s with dev := settle (f s.dev) } := by simp [runXspi, run_eq, hr, hm]

/-- A transfer to a target that answers has its effect. -/
theorem runTarget_eq {k : Nat} {s : State} (h : s.dev.targetUp k = true) (f : Dev → Dev) :
    runTarget k s f = .next { s with dev := settle (f s.dev) } := by simp [runTarget, run_eq, h]

/-- A transfer to the control target has its effect while no register access of it waits. -/
theorem runControl_eq {s : State} (h : s.dev.targetUp 0 = true) (hw : s.dev.registerWaits = false) (f : Dev → Dev) :
    runControl s f = .next { s with dev := settle (f s.dev) } := by simp [runControl, runTarget_eq h, hw]

/-- A transfer to the target of a secure channel that answers has its effect. -/
theorem runChannelTarget_eq {c : Nat} {s : State} (hc : 8 ≤ c) (hc' : c < 16) (h : s.dev.targetUp (c - 7) = true)
    (f : Dev → Dev) : runChannelTarget c s f = .next { s with dev := settle (f s.dev) } := by
  simp [runChannelTarget, run_eq, hc, hc', h]

/-- A JTAG instruction runs in every mode but OFF, and stays selected. -/
theorem runJtag_eq {code : Nat} {s : State} (h : s.dev.mode ≠ .off) (f : Dev → Dev) :
    runJtag code s f
      = .next { s with dev := settle (f (s.dev.onDebug fun g => { g with selected := BitVec.ofNat 8 code })) } := by
  simp [runJtag, run_eq, h]

/-! ### What a next state of a frame is -/

theorem run_next {s t : State} {f : Dev → Dev} (h : run s f = .next t) : t = { s with dev := settle (f s.dev) } := by
  cases h
  rfl

theorem runPort_next {p : Nat} {s t : State} {f : Dev → Dev} (h : runPort p s f = .next t) :
    t = { s with dev := settle (f s.dev) } := run_next (guardIf_next h).2

theorem runSlice_next {i : Nat} {s t : State} {f : Dev → Dev} (h : runSlice i s f = .next t) :
    t = { s with dev := settle (f s.dev) } := run_next (guardIf_next h).2

theorem runChan_next {c : Nat} {s t : State} {f : Dev → Dev} (h : runChan c s f = .next t) :
    t = { s with dev := settle (f s.dev) } := run_next (guardIf_next h).2

theorem runRing_next {r : Nat} {s t : State} {f : Dev → Dev} (h : runRing r s f = .next t) :
    t = { s with dev := settle (if r < s.dev.ringCount then f s.dev else s.dev) } := run_next h

theorem runReg_next {a : Agent} {p : Nat} {s t : State} {f : Dev → Dev} (h : runReg a p s f = .next t) :
    t = { s with dev := settle (if s.dev.reached a p then f s.dev else s.dev) } := run_next (guardIf_next h).2

theorem runChannelTarget_next {c : Nat} {s t : State} {f : Dev → Dev} (h : runChannelTarget c s f = .next t) :
    t = { s with dev := settle (if decide (8 ≤ c) && s.dev.targetUp (c - 7) then f s.dev else s.dev.emit .i3cNack) } :=
  run_next (guardIf_next h).2

end Sys2Proof.Machine
end

