-- ==== Sys2Proof/Laws/State.lean ====
section
/-!
SUPPORT. What each update of the state leaves as it was: one lemma per update and field.
-/
namespace Sys2Proof.Machine

open Sys2Proof

/-! ### Dev.emit -/

@[simp] theorem Dev.emit_part (d : Dev) (o : Output) : (d.emit o).part = d.part := rfl
@[simp] theorem Dev.emit_fuses (d : Dev) (o : Output) : (d.emit o).fuses = d.fuses := rfl
@[simp] theorem Dev.emit_mode (d : Dev) (o : Output) : (d.emit o).mode = d.mode := rfl
@[simp] theorem Dev.emit_clock (d : Dev) (o : Output) : (d.emit o).clock = d.clock := rfl
@[simp] theorem Dev.emit_swap (d : Dev) (o : Output) : (d.emit o).swap = d.swap := rfl
@[simp] theorem Dev.emit_active (d : Dev) (o : Output) : (d.emit o).active = d.active := rfl
@[simp] theorem Dev.emit_shadow (d : Dev) (o : Output) : (d.emit o).shadow = d.shadow := rfl
@[simp] theorem Dev.emit_regs (d : Dev) (o : Output) : (d.emit o).regs = d.regs := rfl
@[simp] theorem Dev.emit_chans (d : Dev) (o : Output) : (d.emit o).chans = d.chans := rfl
@[simp] theorem Dev.emit_i3c (d : Dev) (o : Output) : (d.emit o).i3c = d.i3c := rfl
@[simp] theorem Dev.emit_rings (d : Dev) (o : Output) : (d.emit o).rings = d.rings := rfl
@[simp] theorem Dev.emit_ports (d : Dev) (o : Output) : (d.emit o).ports = d.ports := rfl
@[simp] theorem Dev.emit_std (d : Dev) (o : Output) : (d.emit o).std = d.std := rfl
@[simp] theorem Dev.emit_msix (d : Dev) (o : Output) : (d.emit o).msix = d.msix := rfl
@[simp] theorem Dev.emit_dbg (d : Dev) (o : Output) : (d.emit o).dbg = d.dbg := rfl
@[simp] theorem Dev.emit_alarms (d : Dev) (o : Output) : (d.emit o).alarms = d.alarms := rfl
@[simp] theorem Dev.emit_keys (d : Dev) (o : Output) : (d.emit o).keys = d.keys := rfl
@[simp] theorem Dev.emit_titles (d : Dev) (o : Output) : (d.emit o).titles = d.titles := rfl
@[simp] theorem Dev.emit_pstore (d : Dev) (o : Output) : (d.emit o).pstore = d.pstore := rfl
@[simp] theorem Dev.emit_mirror (d : Dev) (o : Output) : (d.emit o).mirror = d.mirror := rfl
@[simp] theorem Dev.emit_recorder (d : Dev) (o : Output) : (d.emit o).recorder = d.recorder := rfl
@[simp] theorem Dev.emit_images (d : Dev) (o : Output) : (d.emit o).images = d.images := rfl
@[simp] theorem Dev.emit_firmware (d : Dev) (o : Output) : (d.emit o).firmware = d.firmware := rfl
@[simp] theorem Dev.emit_waiters (d : Dev) (o : Output) : (d.emit o).waiters = d.waiters := rfl
@[simp] theorem Dev.emit_cart (d : Dev) (o : Output) : (d.emit o).cart = d.cart := rfl
@[simp] theorem Dev.emit_seq (d : Dev) (o : Output) : (d.emit o).seq = d.seq := rfl
@[simp] theorem Dev.emit_thermal (d : Dev) (o : Output) : (d.emit o).thermal = d.thermal := rfl
@[simp] theorem Dev.emit_boot (d : Dev) (o : Output) : (d.emit o).boot = d.boot := rfl
@[simp] theorem Dev.emit_pins (d : Dev) (o : Output) : (d.emit o).pins = d.pins := rfl
@[simp] theorem Dev.emit_slices (d : Dev) (o : Output) : (d.emit o).slices = d.slices := rfl
@[simp] theorem Dev.emit_flushes (d : Dev) (o : Output) : (d.emit o).flushes = d.flushes := rfl
@[simp] theorem Dev.emit_nextFlush (d : Dev) (o : Output) : (d.emit o).nextFlush = d.nextFlush := rfl
@[simp] theorem Dev.emit_counters (d : Dev) (o : Output) : (d.emit o).counters = d.counters := rfl
@[simp] theorem Dev.emit_transition (d : Dev) (o : Output) : (d.emit o).transition = d.transition := rfl
@[simp] theorem Dev.emit_preserve (d : Dev) (o : Output) : (d.emit o).preserve = d.preserve := rfl
@[simp] theorem Dev.emit_rung (d : Dev) (o : Output) : (d.emit o).rung = d.rung := rfl
@[simp] theorem Dev.emit_notStarted (d : Dev) (o : Output) : (d.emit o).notStarted = d.notStarted := rfl
@[simp] theorem Dev.emit_working (d : Dev) (o : Output) : (d.emit o).working = d.working := rfl
@[simp] theorem Dev.emit_draws (d : Dev) (o : Output) : (d.emit o).draws = d.draws := rfl

/-! ### Dev.signals -/

@[simp] theorem Dev.signals_part (d : Dev) (vs : List (Nat × Nat)) : (d.signals vs).part = d.part := rfl
@[simp] theorem Dev.signals_fuses (d : Dev) (vs : List (Nat × Nat)) : (d.signals vs).fuses = d.fuses := rfl
@[simp] theorem Dev.signals_mode (d : Dev) (vs : List (Nat × Nat)) : (d.signals vs).mode = d.mode := rfl
@[simp] theorem Dev.signals_clock (d : Dev) (vs : List (Nat × Nat)) : (d.signals vs).clock = d.clock := rfl
@[simp] theorem Dev.signals_swap (d : Dev) (vs : List (Nat × Nat)) : (d.signals vs).swap = d.swap := rfl
@[simp] theorem Dev.signals_active (d : Dev) (vs : List (Nat × Nat)) : (d.signals vs).active = d.active := rfl
@[simp] theorem Dev.signals_shadow (d : Dev) (vs : List (Nat × Nat)) : (d.signals vs).shadow = d.shadow := rfl
@[simp] theorem Dev.signals_regs (d : Dev) (vs : List (Nat × Nat)) : (d.signals vs).regs = d.regs := rfl
@[simp] theorem Dev.signals_chans (d : Dev) (vs : List (Nat × Nat)) : (d.signals vs).chans = d.chans := rfl
@[simp] theorem Dev.signals_i3c (d : Dev) (vs : List (Nat × Nat)) : (d.signals vs).i3c = d.i3c := rfl
@[simp] theorem Dev.signals_rings (d : Dev) (vs : List (Nat × Nat)) : (d.signals vs).rings = d.rings := rfl
@[simp] theorem Dev.signals_ports (d : Dev) (vs : List (Nat × Nat)) : (d.signals vs).ports = d.ports := rfl
@[simp] theorem Dev.signals_std (d : Dev) (vs : List (Nat × Nat)) : (d.signals vs).std = d.std := rfl
@[simp] theorem Dev.signals_dbg (d : Dev) (vs : List (Nat × Nat)) : (d.signals vs).dbg = d.dbg := rfl
@[simp] theorem Dev.signals_alarms (d : Dev) (vs : List (Nat × Nat)) : (d.signals vs).alarms = d.alarms := rfl
@[simp] theorem Dev.signals_keys (d : Dev) (vs : List (Nat × Nat)) : (d.signals vs).keys = d.keys := rfl
@[simp] theorem Dev.signals_titles (d : Dev) (vs : List (Nat × Nat)) : (d.signals vs).titles = d.titles := rfl
@[simp] theorem Dev.signals_pstore (d : Dev) (vs : List (Nat × Nat)) : (d.signals vs).pstore = d.pstore := rfl
@[simp] theorem Dev.signals_mirror (d : Dev) (vs : List (Nat × Nat)) : (d.signals vs).mirror = d.mirror := rfl
@[simp] theorem Dev.signals_recorder (d : Dev) (vs : List (Nat × Nat)) : (d.signals vs).recorder = d.recorder := rfl
@[simp] theorem Dev.signals_images (d : Dev) (vs : List (Nat × Nat)) : (d.signals vs).images = d.images := rfl
@[simp] theorem Dev.signals_firmware (d : Dev) (vs : List (Nat × Nat)) : (d.signals vs).firmware = d.firmware := rfl
@[simp] theorem Dev.signals_waiters (d : Dev) (vs : List (Nat × Nat)) : (d.signals vs).waiters = d.waiters := rfl
@[simp] theorem Dev.signals_cart (d : Dev) (vs : List (Nat × Nat)) : (d.signals vs).cart = d.cart := rfl
@[simp] theorem Dev.signals_seq (d : Dev) (vs : List (Nat × Nat)) : (d.signals vs).seq = d.seq := rfl
@[simp] theorem Dev.signals_thermal (d : Dev) (vs : List (Nat × Nat)) : (d.signals vs).thermal = d.thermal := rfl
@[simp] theorem Dev.signals_boot (d : Dev) (vs : List (Nat × Nat)) : (d.signals vs).boot = d.boot := rfl
@[simp] theorem Dev.signals_pins (d : Dev) (vs : List (Nat × Nat)) : (d.signals vs).pins = d.pins := rfl
@[simp] theorem Dev.signals_slices (d : Dev) (vs : List (Nat × Nat)) : (d.signals vs).slices = d.slices := rfl
@[simp] theorem Dev.signals_flushes (d : Dev) (vs : List (Nat × Nat)) : (d.signals vs).flushes = d.flushes := rfl
@[simp] theorem Dev.signals_nextFlush (d : Dev) (vs : List (Nat × Nat)) : (d.signals vs).nextFlush = d.nextFlush := rfl
@[simp] theorem Dev.signals_counters (d : Dev) (vs : List (Nat × Nat)) : (d.signals vs).counters = d.counters := rfl
@[simp] theorem Dev.signals_transition (d : Dev) (vs : List (Nat × Nat)) : (d.signals vs).transition = d.transition := rfl
@[simp] theorem Dev.signals_preserve (d : Dev) (vs : List (Nat × Nat)) : (d.signals vs).preserve = d.preserve := rfl
@[simp] theorem Dev.signals_rung (d : Dev) (vs : List (Nat × Nat)) : (d.signals vs).rung = d.rung := rfl
@[simp] theorem Dev.signals_notStarted (d : Dev) (vs : List (Nat × Nat)) : (d.signals vs).notStarted = d.notStarted := rfl
@[simp] theorem Dev.signals_working (d : Dev) (vs : List (Nat × Nat)) : (d.signals vs).working = d.working := rfl
@[simp] theorem Dev.signals_draws (d : Dev) (vs : List (Nat × Nat)) : (d.signals vs).draws = d.draws := rfl

/-! ### Dev.onSlice -/

@[simp] theorem Dev.onSlice_part (d : Dev) (i : Nat) (f : Slice → Slice) : (d.onSlice i f).part = d.part := rfl
@[simp] theorem Dev.onSlice_fuses (d : Dev) (i : Nat) (f : Slice → Slice) : (d.onSlice i f).fuses = d.fuses := rfl
@[simp] theorem Dev.onSlice_mode (d : Dev) (i : Nat) (f : Slice → Slice) : (d.onSlice i f).mode = d.mode := rfl
@[simp] theorem Dev.onSlice_clock (d : Dev) (i : Nat) (f : Slice → Slice) : (d.onSlice i f).clock = d.clock := rfl
@[simp] theorem Dev.onSlice_swap (d : Dev) (i : Nat) (f : Slice → Slice) : (d.onSlice i f).swap = d.swap := rfl
@[simp] theorem Dev.onSlice_active (d : Dev) (i : Nat) (f : Slice → Slice) : (d.onSlice i f).active = d.active := rfl
@[simp] theorem Dev.onSlice_shadow (d : Dev) (i : Nat) (f : Slice → Slice) : (d.onSlice i f).shadow = d.shadow := rfl
@[simp] theorem Dev.onSlice_regs (d : Dev) (i : Nat) (f : Slice → Slice) : (d.onSlice i f).regs = d.regs := rfl
@[simp] theorem Dev.onSlice_chans (d : Dev) (i : Nat) (f : Slice → Slice) : (d.onSlice i f).chans = d.chans := rfl
@[simp] theorem Dev.onSlice_i3c (d : Dev) (i : Nat) (f : Slice → Slice) : (d.onSlice i f).i3c = d.i3c := rfl
@[simp] theorem Dev.onSlice_rings (d : Dev) (i : Nat) (f : Slice → Slice) : (d.onSlice i f).rings = d.rings := rfl
@[simp] theorem Dev.onSlice_ports (d : Dev) (i : Nat) (f : Slice → Slice) : (d.onSlice i f).ports = d.ports := rfl
@[simp] theorem Dev.onSlice_std (d : Dev) (i : Nat) (f : Slice → Slice) : (d.onSlice i f).std = d.std := rfl
@[simp] theorem Dev.onSlice_msix (d : Dev) (i : Nat) (f : Slice → Slice) : (d.onSlice i f).msix = d.msix := rfl
@[simp] theorem Dev.onSlice_dbg (d : Dev) (i : Nat) (f : Slice → Slice) : (d.onSlice i f).dbg = d.dbg := rfl
@[simp] theorem Dev.onSlice_alarms (d : Dev) (i : Nat) (f : Slice → Slice) : (d.onSlice i f).alarms = d.alarms := rfl
@[simp] theorem Dev.onSlice_keys (d : Dev) (i : Nat) (f : Slice → Slice) : (d.onSlice i f).keys = d.keys := rfl
@[simp] theorem Dev.onSlice_titles (d : Dev) (i : Nat) (f : Slice → Slice) : (d.onSlice i f).titles = d.titles := rfl
@[simp] theorem Dev.onSlice_pstore (d : Dev) (i : Nat) (f : Slice → Slice) : (d.onSlice i f).pstore = d.pstore := rfl
@[simp] theorem Dev.onSlice_mirror (d : Dev) (i : Nat) (f : Slice → Slice) : (d.onSlice i f).mirror = d.mirror := rfl
@[simp] theorem Dev.onSlice_recorder (d : Dev) (i : Nat) (f : Slice → Slice) : (d.onSlice i f).recorder = d.recorder := rfl
@[simp] theorem Dev.onSlice_images (d : Dev) (i : Nat) (f : Slice → Slice) : (d.onSlice i f).images = d.images := rfl
@[simp] theorem Dev.onSlice_firmware (d : Dev) (i : Nat) (f : Slice → Slice) : (d.onSlice i f).firmware = d.firmware := rfl
@[simp] theorem Dev.onSlice_waiters (d : Dev) (i : Nat) (f : Slice → Slice) : (d.onSlice i f).waiters = d.waiters := rfl
@[simp] theorem Dev.onSlice_cart (d : Dev) (i : Nat) (f : Slice → Slice) : (d.onSlice i f).cart = d.cart := rfl
@[simp] theorem Dev.onSlice_seq (d : Dev) (i : Nat) (f : Slice → Slice) : (d.onSlice i f).seq = d.seq := rfl
@[simp] theorem Dev.onSlice_thermal (d : Dev) (i : Nat) (f : Slice → Slice) : (d.onSlice i f).thermal = d.thermal := rfl
@[simp] theorem Dev.onSlice_boot (d : Dev) (i : Nat) (f : Slice → Slice) : (d.onSlice i f).boot = d.boot := rfl
@[simp] theorem Dev.onSlice_pins (d : Dev) (i : Nat) (f : Slice → Slice) : (d.onSlice i f).pins = d.pins := rfl
@[simp] theorem Dev.onSlice_flushes (d : Dev) (i : Nat) (f : Slice → Slice) : (d.onSlice i f).flushes = d.flushes := rfl
@[simp] theorem Dev.onSlice_nextFlush (d : Dev) (i : Nat) (f : Slice → Slice) : (d.onSlice i f).nextFlush = d.nextFlush := rfl
@[simp] theorem Dev.onSlice_counters (d : Dev) (i : Nat) (f : Slice → Slice) : (d.onSlice i f).counters = d.counters := rfl
@[simp] theorem Dev.onSlice_transition (d : Dev) (i : Nat) (f : Slice → Slice) : (d.onSlice i f).transition = d.transition := rfl
@[simp] theorem Dev.onSlice_preserve (d : Dev) (i : Nat) (f : Slice → Slice) : (d.onSlice i f).preserve = d.preserve := rfl
@[simp] theorem Dev.onSlice_rung (d : Dev) (i : Nat) (f : Slice → Slice) : (d.onSlice i f).rung = d.rung := rfl
@[simp] theorem Dev.onSlice_notStarted (d : Dev) (i : Nat) (f : Slice → Slice) : (d.onSlice i f).notStarted = d.notStarted := rfl
@[simp] theorem Dev.onSlice_working (d : Dev) (i : Nat) (f : Slice → Slice) : (d.onSlice i f).working = d.working := rfl
@[simp] theorem Dev.onSlice_draws (d : Dev) (i : Nat) (f : Slice → Slice) : (d.onSlice i f).draws = d.draws := rfl
@[simp] theorem Dev.onSlice_out (d : Dev) (i : Nat) (f : Slice → Slice) : (d.onSlice i f).out = d.out := rfl

/-! ### Dev.onSlices -/

@[simp] theorem Dev.onSlices_part (d : Dev) (f : Slice → Slice) : (d.onSlices f).part = d.part := rfl
@[simp] theorem Dev.onSlices_fuses (d : Dev) (f : Slice → Slice) : (d.onSlices f).fuses = d.fuses := rfl
@[simp] theorem Dev.onSlices_mode (d : Dev) (f : Slice → Slice) : (d.onSlices f).mode = d.mode := rfl
@[simp] theorem Dev.onSlices_clock (d : Dev) (f : Slice → Slice) : (d.onSlices f).clock = d.clock := rfl
@[simp] theorem Dev.onSlices_swap (d : Dev) (f : Slice → Slice) : (d.onSlices f).swap = d.swap := rfl
@[simp] theorem Dev.onSlices_active (d : Dev) (f : Slice → Slice) : (d.onSlices f).active = d.active := rfl
@[simp] theorem Dev.onSlices_shadow (d : Dev) (f : Slice → Slice) : (d.onSlices f).shadow = d.shadow := rfl
@[simp] theorem Dev.onSlices_regs (d : Dev) (f : Slice → Slice) : (d.onSlices f).regs = d.regs := rfl
@[simp] theorem Dev.onSlices_chans (d : Dev) (f : Slice → Slice) : (d.onSlices f).chans = d.chans := rfl
@[simp] theorem Dev.onSlices_i3c (d : Dev) (f : Slice → Slice) : (d.onSlices f).i3c = d.i3c := rfl
@[simp] theorem Dev.onSlices_rings (d : Dev) (f : Slice → Slice) : (d.onSlices f).rings = d.rings := rfl
@[simp] theorem Dev.onSlices_ports (d : Dev) (f : Slice → Slice) : (d.onSlices f).ports = d.ports := rfl
@[simp] theorem Dev.onSlices_std (d : Dev) (f : Slice → Slice) : (d.onSlices f).std = d.std := rfl
@[simp] theorem Dev.onSlices_msix (d : Dev) (f : Slice → Slice) : (d.onSlices f).msix = d.msix := rfl
@[simp] theorem Dev.onSlices_dbg (d : Dev) (f : Slice → Slice) : (d.onSlices f).dbg = d.dbg := rfl
@[simp] theorem Dev.onSlices_alarms (d : Dev) (f : Slice → Slice) : (d.onSlices f).alarms = d.alarms := rfl
@[simp] theorem Dev.onSlices_keys (d : Dev) (f : Slice → Slice) : (d.onSlices f).keys = d.keys := rfl
@[simp] theorem Dev.onSlices_titles (d : Dev) (f : Slice → Slice) : (d.onSlices f).titles = d.titles := rfl
@[simp] theorem Dev.onSlices_pstore (d : Dev) (f : Slice → Slice) : (d.onSlices f).pstore = d.pstore := rfl
@[simp] theorem Dev.onSlices_mirror (d : Dev) (f : Slice → Slice) : (d.onSlices f).mirror = d.mirror := rfl
@[simp] theorem Dev.onSlices_recorder (d : Dev) (f : Slice → Slice) : (d.onSlices f).recorder = d.recorder := rfl
@[simp] theorem Dev.onSlices_images (d : Dev) (f : Slice → Slice) : (d.onSlices f).images = d.images := rfl
@[simp] theorem Dev.onSlices_firmware (d : Dev) (f : Slice → Slice) : (d.onSlices f).firmware = d.firmware := rfl
@[simp] theorem Dev.onSlices_waiters (d : Dev) (f : Slice → Slice) : (d.onSlices f).waiters = d.waiters := rfl
@[simp] theorem Dev.onSlices_cart (d : Dev) (f : Slice → Slice) : (d.onSlices f).cart = d.cart := rfl
@[simp] theorem Dev.onSlices_seq (d : Dev) (f : Slice → Slice) : (d.onSlices f).seq = d.seq := rfl
@[simp] theorem Dev.onSlices_thermal (d : Dev) (f : Slice → Slice) : (d.onSlices f).thermal = d.thermal := rfl
@[simp] theorem Dev.onSlices_boot (d : Dev) (f : Slice → Slice) : (d.onSlices f).boot = d.boot := rfl
@[simp] theorem Dev.onSlices_pins (d : Dev) (f : Slice → Slice) : (d.onSlices f).pins = d.pins := rfl
@[simp] theorem Dev.onSlices_flushes (d : Dev) (f : Slice → Slice) : (d.onSlices f).flushes = d.flushes := rfl
@[simp] theorem Dev.onSlices_nextFlush (d : Dev) (f : Slice → Slice) : (d.onSlices f).nextFlush = d.nextFlush := rfl
@[simp] theorem Dev.onSlices_counters (d : Dev) (f : Slice → Slice) : (d.onSlices f).counters = d.counters := rfl
@[simp] theorem Dev.onSlices_transition (d : Dev) (f : Slice → Slice) : (d.onSlices f).transition = d.transition := rfl
@[simp] theorem Dev.onSlices_preserve (d : Dev) (f : Slice → Slice) : (d.onSlices f).preserve = d.preserve := rfl
@[simp] theorem Dev.onSlices_rung (d : Dev) (f : Slice → Slice) : (d.onSlices f).rung = d.rung := rfl
@[simp] theorem Dev.onSlices_notStarted (d : Dev) (f : Slice → Slice) : (d.onSlices f).notStarted = d.notStarted := rfl
@[simp] theorem Dev.onSlices_working (d : Dev) (f : Slice → Slice) : (d.onSlices f).working = d.working := rfl
@[simp] theorem Dev.onSlices_draws (d : Dev) (f : Slice → Slice) : (d.onSlices f).draws = d.draws := rfl
@[simp] theorem Dev.onSlices_out (d : Dev) (f : Slice → Slice) : (d.onSlices f).out = d.out := rfl

/-! ### Dev.onPort -/

@[simp] theorem Dev.onPort_part (d : Dev) (p : Nat) (f : Port → Port) : (d.onPort p f).part = d.part := rfl
@[simp] theorem Dev.onPort_fuses (d : Dev) (p : Nat) (f : Port → Port) : (d.onPort p f).fuses = d.fuses := rfl
@[simp] theorem Dev.onPort_mode (d : Dev) (p : Nat) (f : Port → Port) : (d.onPort p f).mode = d.mode := rfl
@[simp] theorem Dev.onPort_clock (d : Dev) (p : Nat) (f : Port → Port) : (d.onPort p f).clock = d.clock := rfl
@[simp] theorem Dev.onPort_swap (d : Dev) (p : Nat) (f : Port → Port) : (d.onPort p f).swap = d.swap := rfl
@[simp] theorem Dev.onPort_active (d : Dev) (p : Nat) (f : Port → Port) : (d.onPort p f).active = d.active := rfl
@[simp] theorem Dev.onPort_shadow (d : Dev) (p : Nat) (f : Port → Port) : (d.onPort p f).shadow = d.shadow := rfl
@[simp] theorem Dev.onPort_regs (d : Dev) (p : Nat) (f : Port → Port) : (d.onPort p f).regs = d.regs := rfl
@[simp] theorem Dev.onPort_chans (d : Dev) (p : Nat) (f : Port → Port) : (d.onPort p f).chans = d.chans := rfl
@[simp] theorem Dev.onPort_i3c (d : Dev) (p : Nat) (f : Port → Port) : (d.onPort p f).i3c = d.i3c := rfl
@[simp] theorem Dev.onPort_rings (d : Dev) (p : Nat) (f : Port → Port) : (d.onPort p f).rings = d.rings := rfl
@[simp] theorem Dev.onPort_std (d : Dev) (p : Nat) (f : Port → Port) : (d.onPort p f).std = d.std := rfl
@[simp] theorem Dev.onPort_msix (d : Dev) (p : Nat) (f : Port → Port) : (d.onPort p f).msix = d.msix := rfl
@[simp] theorem Dev.onPort_dbg (d : Dev) (p : Nat) (f : Port → Port) : (d.onPort p f).dbg = d.dbg := rfl
@[simp] theorem Dev.onPort_alarms (d : Dev) (p : Nat) (f : Port → Port) : (d.onPort p f).alarms = d.alarms := rfl
@[simp] theorem Dev.onPort_keys (d : Dev) (p : Nat) (f : Port → Port) : (d.onPort p f).keys = d.keys := rfl
@[simp] theorem Dev.onPort_titles (d : Dev) (p : Nat) (f : Port → Port) : (d.onPort p f).titles = d.titles := rfl
@[simp] theorem Dev.onPort_pstore (d : Dev) (p : Nat) (f : Port → Port) : (d.onPort p f).pstore = d.pstore := rfl
@[simp] theorem Dev.onPort_mirror (d : Dev) (p : Nat) (f : Port → Port) : (d.onPort p f).mirror = d.mirror := rfl
@[simp] theorem Dev.onPort_recorder (d : Dev) (p : Nat) (f : Port → Port) : (d.onPort p f).recorder = d.recorder := rfl
@[simp] theorem Dev.onPort_images (d : Dev) (p : Nat) (f : Port → Port) : (d.onPort p f).images = d.images := rfl
@[simp] theorem Dev.onPort_firmware (d : Dev) (p : Nat) (f : Port → Port) : (d.onPort p f).firmware = d.firmware := rfl
@[simp] theorem Dev.onPort_waiters (d : Dev) (p : Nat) (f : Port → Port) : (d.onPort p f).waiters = d.waiters := rfl
@[simp] theorem Dev.onPort_cart (d : Dev) (p : Nat) (f : Port → Port) : (d.onPort p f).cart = d.cart := rfl
@[simp] theorem Dev.onPort_seq (d : Dev) (p : Nat) (f : Port → Port) : (d.onPort p f).seq = d.seq := rfl
@[simp] theorem Dev.onPort_thermal (d : Dev) (p : Nat) (f : Port → Port) : (d.onPort p f).thermal = d.thermal := rfl
@[simp] theorem Dev.onPort_boot (d : Dev) (p : Nat) (f : Port → Port) : (d.onPort p f).boot = d.boot := rfl
@[simp] theorem Dev.onPort_pins (d : Dev) (p : Nat) (f : Port → Port) : (d.onPort p f).pins = d.pins := rfl
@[simp] theorem Dev.onPort_slices (d : Dev) (p : Nat) (f : Port → Port) : (d.onPort p f).slices = d.slices := rfl
@[simp] theorem Dev.onPort_flushes (d : Dev) (p : Nat) (f : Port → Port) : (d.onPort p f).flushes = d.flushes := rfl
@[simp] theorem Dev.onPort_nextFlush (d : Dev) (p : Nat) (f : Port → Port) : (d.onPort p f).nextFlush = d.nextFlush := rfl
@[simp] theorem Dev.onPort_counters (d : Dev) (p : Nat) (f : Port → Port) : (d.onPort p f).counters = d.counters := rfl
@[simp] theorem Dev.onPort_transition (d : Dev) (p : Nat) (f : Port → Port) : (d.onPort p f).transition = d.transition := rfl
@[simp] theorem Dev.onPort_preserve (d : Dev) (p : Nat) (f : Port → Port) : (d.onPort p f).preserve = d.preserve := rfl
@[simp] theorem Dev.onPort_rung (d : Dev) (p : Nat) (f : Port → Port) : (d.onPort p f).rung = d.rung := rfl
@[simp] theorem Dev.onPort_notStarted (d : Dev) (p : Nat) (f : Port → Port) : (d.onPort p f).notStarted = d.notStarted := rfl
@[simp] theorem Dev.onPort_working (d : Dev) (p : Nat) (f : Port → Port) : (d.onPort p f).working = d.working := rfl
@[simp] theorem Dev.onPort_draws (d : Dev) (p : Nat) (f : Port → Port) : (d.onPort p f).draws = d.draws := rfl
@[simp] theorem Dev.onPort_out (d : Dev) (p : Nat) (f : Port → Port) : (d.onPort p f).out = d.out := rfl

/-! ### Dev.onChan -/

@[simp] theorem Dev.onChan_part (d : Dev) (c : Nat) (f : Chan → Chan) : (d.onChan c f).part = d.part := rfl
@[simp] theorem Dev.onChan_fuses (d : Dev) (c : Nat) (f : Chan → Chan) : (d.onChan c f).fuses = d.fuses := rfl
@[simp] theorem Dev.onChan_mode (d : Dev) (c : Nat) (f : Chan → Chan) : (d.onChan c f).mode = d.mode := rfl
@[simp] theorem Dev.onChan_clock (d : Dev) (c : Nat) (f : Chan → Chan) : (d.onChan c f).clock = d.clock := rfl
@[simp] theorem Dev.onChan_swap (d : Dev) (c : Nat) (f : Chan → Chan) : (d.onChan c f).swap = d.swap := rfl
@[simp] theorem Dev.onChan_active (d : Dev) (c : Nat) (f : Chan → Chan) : (d.onChan c f).active = d.active := rfl
@[simp] theorem Dev.onChan_shadow (d : Dev) (c : Nat) (f : Chan → Chan) : (d.onChan c f).shadow = d.shadow := rfl
@[simp] theorem Dev.onChan_regs (d : Dev) (c : Nat) (f : Chan → Chan) : (d.onChan c f).regs = d.regs := rfl
@[simp] theorem Dev.onChan_i3c (d : Dev) (c : Nat) (f : Chan → Chan) : (d.onChan c f).i3c = d.i3c := rfl
@[simp] theorem Dev.onChan_rings (d : Dev) (c : Nat) (f : Chan → Chan) : (d.onChan c f).rings = d.rings := rfl
@[simp] theorem Dev.onChan_ports (d : Dev) (c : Nat) (f : Chan → Chan) : (d.onChan c f).ports = d.ports := rfl
@[simp] theorem Dev.onChan_std (d : Dev) (c : Nat) (f : Chan → Chan) : (d.onChan c f).std = d.std := rfl
@[simp] theorem Dev.onChan_msix (d : Dev) (c : Nat) (f : Chan → Chan) : (d.onChan c f).msix = d.msix := rfl
@[simp] theorem Dev.onChan_dbg (d : Dev) (c : Nat) (f : Chan → Chan) : (d.onChan c f).dbg = d.dbg := rfl
@[simp] theorem Dev.onChan_alarms (d : Dev) (c : Nat) (f : Chan → Chan) : (d.onChan c f).alarms = d.alarms := rfl
@[simp] theorem Dev.onChan_keys (d : Dev) (c : Nat) (f : Chan → Chan) : (d.onChan c f).keys = d.keys := rfl
@[simp] theorem Dev.onChan_titles (d : Dev) (c : Nat) (f : Chan → Chan) : (d.onChan c f).titles = d.titles := rfl
@[simp] theorem Dev.onChan_pstore (d : Dev) (c : Nat) (f : Chan → Chan) : (d.onChan c f).pstore = d.pstore := rfl
@[simp] theorem Dev.onChan_mirror (d : Dev) (c : Nat) (f : Chan → Chan) : (d.onChan c f).mirror = d.mirror := rfl
@[simp] theorem Dev.onChan_recorder (d : Dev) (c : Nat) (f : Chan → Chan) : (d.onChan c f).recorder = d.recorder := rfl
@[simp] theorem Dev.onChan_images (d : Dev) (c : Nat) (f : Chan → Chan) : (d.onChan c f).images = d.images := rfl
@[simp] theorem Dev.onChan_firmware (d : Dev) (c : Nat) (f : Chan → Chan) : (d.onChan c f).firmware = d.firmware := rfl
@[simp] theorem Dev.onChan_waiters (d : Dev) (c : Nat) (f : Chan → Chan) : (d.onChan c f).waiters = d.waiters := rfl
@[simp] theorem Dev.onChan_cart (d : Dev) (c : Nat) (f : Chan → Chan) : (d.onChan c f).cart = d.cart := rfl
@[simp] theorem Dev.onChan_seq (d : Dev) (c : Nat) (f : Chan → Chan) : (d.onChan c f).seq = d.seq := rfl
@[simp] theorem Dev.onChan_thermal (d : Dev) (c : Nat) (f : Chan → Chan) : (d.onChan c f).thermal = d.thermal := rfl
@[simp] theorem Dev.onChan_boot (d : Dev) (c : Nat) (f : Chan → Chan) : (d.onChan c f).boot = d.boot := rfl
@[simp] theorem Dev.onChan_pins (d : Dev) (c : Nat) (f : Chan → Chan) : (d.onChan c f).pins = d.pins := rfl
@[simp] theorem Dev.onChan_slices (d : Dev) (c : Nat) (f : Chan → Chan) : (d.onChan c f).slices = d.slices := rfl
@[simp] theorem Dev.onChan_flushes (d : Dev) (c : Nat) (f : Chan → Chan) : (d.onChan c f).flushes = d.flushes := rfl
@[simp] theorem Dev.onChan_nextFlush (d : Dev) (c : Nat) (f : Chan → Chan) : (d.onChan c f).nextFlush = d.nextFlush := rfl
@[simp] theorem Dev.onChan_counters (d : Dev) (c : Nat) (f : Chan → Chan) : (d.onChan c f).counters = d.counters := rfl
@[simp] theorem Dev.onChan_transition (d : Dev) (c : Nat) (f : Chan → Chan) : (d.onChan c f).transition = d.transition := rfl
@[simp] theorem Dev.onChan_preserve (d : Dev) (c : Nat) (f : Chan → Chan) : (d.onChan c f).preserve = d.preserve := rfl
@[simp] theorem Dev.onChan_rung (d : Dev) (c : Nat) (f : Chan → Chan) : (d.onChan c f).rung = d.rung := rfl
@[simp] theorem Dev.onChan_notStarted (d : Dev) (c : Nat) (f : Chan → Chan) : (d.onChan c f).notStarted = d.notStarted := rfl
@[simp] theorem Dev.onChan_working (d : Dev) (c : Nat) (f : Chan → Chan) : (d.onChan c f).working = d.working := rfl
@[simp] theorem Dev.onChan_draws (d : Dev) (c : Nat) (f : Chan → Chan) : (d.onChan c f).draws = d.draws := rfl
@[simp] theorem Dev.onChan_out (d : Dev) (c : Nat) (f : Chan → Chan) : (d.onChan c f).out = d.out := rfl

/-! ### Dev.onRing -/

@[simp] theorem Dev.onRing_part (d : Dev) (r : Nat) (f : Ring → Ring) : (d.onRing r f).part = d.part := rfl
@[simp] theorem Dev.onRing_fuses (d : Dev) (r : Nat) (f : Ring → Ring) : (d.onRing r f).fuses = d.fuses := rfl
@[simp] theorem Dev.onRing_mode (d : Dev) (r : Nat) (f : Ring → Ring) : (d.onRing r f).mode = d.mode := rfl
@[simp] theorem Dev.onRing_clock (d : Dev) (r : Nat) (f : Ring → Ring) : (d.onRing r f).clock = d.clock := rfl
@[simp] theorem Dev.onRing_swap (d : Dev) (r : Nat) (f : Ring → Ring) : (d.onRing r f).swap = d.swap := rfl
@[simp] theorem Dev.onRing_active (d : Dev) (r : Nat) (f : Ring → Ring) : (d.onRing r f).active = d.active := rfl
@[simp] theorem Dev.onRing_shadow (d : Dev) (r : Nat) (f : Ring → Ring) : (d.onRing r f).shadow = d.shadow := rfl
@[simp] theorem Dev.onRing_regs (d : Dev) (r : Nat) (f : Ring → Ring) : (d.onRing r f).regs = d.regs := rfl
@[simp] theorem Dev.onRing_chans (d : Dev) (r : Nat) (f : Ring → Ring) : (d.onRing r f).chans = d.chans := rfl
@[simp] theorem Dev.onRing_i3c (d : Dev) (r : Nat) (f : Ring → Ring) : (d.onRing r f).i3c = d.i3c := rfl
@[simp] theorem Dev.onRing_ports (d : Dev) (r : Nat) (f : Ring → Ring) : (d.onRing r f).ports = d.ports := rfl
@[simp] theorem Dev.onRing_std (d : Dev) (r : Nat) (f : Ring → Ring) : (d.onRing r f).std = d.std := rfl
@[simp] theorem Dev.onRing_msix (d : Dev) (r : Nat) (f : Ring → Ring) : (d.onRing r f).msix = d.msix := rfl
@[simp] theorem Dev.onRing_dbg (d : Dev) (r : Nat) (f : Ring → Ring) : (d.onRing r f).dbg = d.dbg := rfl
@[simp] theorem Dev.onRing_alarms (d : Dev) (r : Nat) (f : Ring → Ring) : (d.onRing r f).alarms = d.alarms := rfl
@[simp] theorem Dev.onRing_keys (d : Dev) (r : Nat) (f : Ring → Ring) : (d.onRing r f).keys = d.keys := rfl
@[simp] theorem Dev.onRing_titles (d : Dev) (r : Nat) (f : Ring → Ring) : (d.onRing r f).titles = d.titles := rfl
@[simp] theorem Dev.onRing_pstore (d : Dev) (r : Nat) (f : Ring → Ring) : (d.onRing r f).pstore = d.pstore := rfl
@[simp] theorem Dev.onRing_mirror (d : Dev) (r : Nat) (f : Ring → Ring) : (d.onRing r f).mirror = d.mirror := rfl
@[simp] theorem Dev.onRing_recorder (d : Dev) (r : Nat) (f : Ring → Ring) : (d.onRing r f).recorder = d.recorder := rfl
@[simp] theorem Dev.onRing_images (d : Dev) (r : Nat) (f : Ring → Ring) : (d.onRing r f).images = d.images := rfl
@[simp] theorem Dev.onRing_firmware (d : Dev) (r : Nat) (f : Ring → Ring) : (d.onRing r f).firmware = d.firmware := rfl
@[simp] theorem Dev.onRing_waiters (d : Dev) (r : Nat) (f : Ring → Ring) : (d.onRing r f).waiters = d.waiters := rfl
@[simp] theorem Dev.onRing_cart (d : Dev) (r : Nat) (f : Ring → Ring) : (d.onRing r f).cart = d.cart := rfl
@[simp] theorem Dev.onRing_seq (d : Dev) (r : Nat) (f : Ring → Ring) : (d.onRing r f).seq = d.seq := rfl
@[simp] theorem Dev.onRing_thermal (d : Dev) (r : Nat) (f : Ring → Ring) : (d.onRing r f).thermal = d.thermal := rfl
@[simp] theorem Dev.onRing_boot (d : Dev) (r : Nat) (f : Ring → Ring) : (d.onRing r f).boot = d.boot := rfl
@[simp] theorem Dev.onRing_pins (d : Dev) (r : Nat) (f : Ring → Ring) : (d.onRing r f).pins = d.pins := rfl
@[simp] theorem Dev.onRing_slices (d : Dev) (r : Nat) (f : Ring → Ring) : (d.onRing r f).slices = d.slices := rfl
@[simp] theorem Dev.onRing_flushes (d : Dev) (r : Nat) (f : Ring → Ring) : (d.onRing r f).flushes = d.flushes := rfl
@[simp] theorem Dev.onRing_nextFlush (d : Dev) (r : Nat) (f : Ring → Ring) : (d.onRing r f).nextFlush = d.nextFlush := rfl
@[simp] theorem Dev.onRing_counters (d : Dev) (r : Nat) (f : Ring → Ring) : (d.onRing r f).counters = d.counters := rfl
@[simp] theorem Dev.onRing_transition (d : Dev) (r : Nat) (f : Ring → Ring) : (d.onRing r f).transition = d.transition := rfl
@[simp] theorem Dev.onRing_preserve (d : Dev) (r : Nat) (f : Ring → Ring) : (d.onRing r f).preserve = d.preserve := rfl
@[simp] theorem Dev.onRing_rung (d : Dev) (r : Nat) (f : Ring → Ring) : (d.onRing r f).rung = d.rung := rfl
@[simp] theorem Dev.onRing_notStarted (d : Dev) (r : Nat) (f : Ring → Ring) : (d.onRing r f).notStarted = d.notStarted := rfl
@[simp] theorem Dev.onRing_working (d : Dev) (r : Nat) (f : Ring → Ring) : (d.onRing r f).working = d.working := rfl
@[simp] theorem Dev.onRing_draws (d : Dev) (r : Nat) (f : Ring → Ring) : (d.onRing r f).draws = d.draws := rfl
@[simp] theorem Dev.onRing_out (d : Dev) (r : Nat) (f : Ring → Ring) : (d.onRing r f).out = d.out := rfl

/-! ### Dev.onTitle -/

@[simp] theorem Dev.onTitle_part (d : Dev) (t : Nat) (f : Title → Title) : (d.onTitle t f).part = d.part := rfl
@[simp] theorem Dev.onTitle_fuses (d : Dev) (t : Nat) (f : Title → Title) : (d.onTitle t f).fuses = d.fuses := rfl
@[simp] theorem Dev.onTitle_mode (d : Dev) (t : Nat) (f : Title → Title) : (d.onTitle t f).mode = d.mode := rfl
@[simp] theorem Dev.onTitle_clock (d : Dev) (t : Nat) (f : Title → Title) : (d.onTitle t f).clock = d.clock := rfl
@[simp] theorem Dev.onTitle_swap (d : Dev) (t : Nat) (f : Title → Title) : (d.onTitle t f).swap = d.swap := rfl
@[simp] theorem Dev.onTitle_active (d : Dev) (t : Nat) (f : Title → Title) : (d.onTitle t f).active = d.active := rfl
@[simp] theorem Dev.onTitle_shadow (d : Dev) (t : Nat) (f : Title → Title) : (d.onTitle t f).shadow = d.shadow := rfl
@[simp] theorem Dev.onTitle_regs (d : Dev) (t : Nat) (f : Title → Title) : (d.onTitle t f).regs = d.regs := rfl
@[simp] theorem Dev.onTitle_chans (d : Dev) (t : Nat) (f : Title → Title) : (d.onTitle t f).chans = d.chans := rfl
@[simp] theorem Dev.onTitle_i3c (d : Dev) (t : Nat) (f : Title → Title) : (d.onTitle t f).i3c = d.i3c := rfl
@[simp] theorem Dev.onTitle_rings (d : Dev) (t : Nat) (f : Title → Title) : (d.onTitle t f).rings = d.rings := rfl
@[simp] theorem Dev.onTitle_ports (d : Dev) (t : Nat) (f : Title → Title) : (d.onTitle t f).ports = d.ports := rfl
@[simp] theorem Dev.onTitle_std (d : Dev) (t : Nat) (f : Title → Title) : (d.onTitle t f).std = d.std := rfl
@[simp] theorem Dev.onTitle_msix (d : Dev) (t : Nat) (f : Title → Title) : (d.onTitle t f).msix = d.msix := rfl
@[simp] theorem Dev.onTitle_dbg (d : Dev) (t : Nat) (f : Title → Title) : (d.onTitle t f).dbg = d.dbg := rfl
@[simp] theorem Dev.onTitle_alarms (d : Dev) (t : Nat) (f : Title → Title) : (d.onTitle t f).alarms = d.alarms := rfl
@[simp] theorem Dev.onTitle_keys (d : Dev) (t : Nat) (f : Title → Title) : (d.onTitle t f).keys = d.keys := rfl
@[simp] theorem Dev.onTitle_pstore (d : Dev) (t : Nat) (f : Title → Title) : (d.onTitle t f).pstore = d.pstore := rfl
@[simp] theorem Dev.onTitle_mirror (d : Dev) (t : Nat) (f : Title → Title) : (d.onTitle t f).mirror = d.mirror := rfl
@[simp] theorem Dev.onTitle_recorder (d : Dev) (t : Nat) (f : Title → Title) : (d.onTitle t f).recorder = d.recorder := rfl
@[simp] theorem Dev.onTitle_images (d : Dev) (t : Nat) (f : Title → Title) : (d.onTitle t f).images = d.images := rfl
@[simp] theorem Dev.onTitle_firmware (d : Dev) (t : Nat) (f : Title → Title) : (d.onTitle t f).firmware = d.firmware := rfl
@[simp] theorem Dev.onTitle_waiters (d : Dev) (t : Nat) (f : Title → Title) : (d.onTitle t f).waiters = d.waiters := rfl
@[simp] theorem Dev.onTitle_cart (d : Dev) (t : Nat) (f : Title → Title) : (d.onTitle t f).cart = d.cart := rfl
@[simp] theorem Dev.onTitle_seq (d : Dev) (t : Nat) (f : Title → Title) : (d.onTitle t f).seq = d.seq := rfl
@[simp] theorem Dev.onTitle_thermal (d : Dev) (t : Nat) (f : Title → Title) : (d.onTitle t f).thermal = d.thermal := rfl
@[simp] theorem Dev.onTitle_boot (d : Dev) (t : Nat) (f : Title → Title) : (d.onTitle t f).boot = d.boot := rfl
@[simp] theorem Dev.onTitle_pins (d : Dev) (t : Nat) (f : Title → Title) : (d.onTitle t f).pins = d.pins := rfl
@[simp] theorem Dev.onTitle_slices (d : Dev) (t : Nat) (f : Title → Title) : (d.onTitle t f).slices = d.slices := rfl
@[simp] theorem Dev.onTitle_flushes (d : Dev) (t : Nat) (f : Title → Title) : (d.onTitle t f).flushes = d.flushes := rfl
@[simp] theorem Dev.onTitle_nextFlush (d : Dev) (t : Nat) (f : Title → Title) : (d.onTitle t f).nextFlush = d.nextFlush := rfl
@[simp] theorem Dev.onTitle_counters (d : Dev) (t : Nat) (f : Title → Title) : (d.onTitle t f).counters = d.counters := rfl
@[simp] theorem Dev.onTitle_transition (d : Dev) (t : Nat) (f : Title → Title) : (d.onTitle t f).transition = d.transition := rfl
@[simp] theorem Dev.onTitle_preserve (d : Dev) (t : Nat) (f : Title → Title) : (d.onTitle t f).preserve = d.preserve := rfl
@[simp] theorem Dev.onTitle_rung (d : Dev) (t : Nat) (f : Title → Title) : (d.onTitle t f).rung = d.rung := rfl
@[simp] theorem Dev.onTitle_notStarted (d : Dev) (t : Nat) (f : Title → Title) : (d.onTitle t f).notStarted = d.notStarted := rfl
@[simp] theorem Dev.onTitle_working (d : Dev) (t : Nat) (f : Title → Title) : (d.onTitle t f).working = d.working := rfl
@[simp] theorem Dev.onTitle_draws (d : Dev) (t : Nat) (f : Title → Title) : (d.onTitle t f).draws = d.draws := rfl
@[simp] theorem Dev.onTitle_out (d : Dev) (t : Nat) (f : Title → Title) : (d.onTitle t f).out = d.out := rfl

/-! ### Dev.onBoot -/

@[simp] theorem Dev.onBoot_part (d : Dev) (f : BootPort → BootPort) : (d.onBoot f).part = d.part := rfl
@[simp] theorem Dev.onBoot_fuses (d : Dev) (f : BootPort → BootPort) : (d.onBoot f).fuses = d.fuses := rfl
@[simp] theorem Dev.onBoot_mode (d : Dev) (f : BootPort → BootPort) : (d.onBoot f).mode = d.mode := rfl
@[simp] theorem Dev.onBoot_clock (d : Dev) (f : BootPort → BootPort) : (d.onBoot f).clock = d.clock := rfl
@[simp] theorem Dev.onBoot_swap (d : Dev) (f : BootPort → BootPort) : (d.onBoot f).swap = d.swap := rfl
@[simp] theorem Dev.onBoot_active (d : Dev) (f : BootPort → BootPort) : (d.onBoot f).active = d.active := rfl
@[simp] theorem Dev.onBoot_shadow (d : Dev) (f : BootPort → BootPort) : (d.onBoot f).shadow = d.shadow := rfl
@[simp] theorem Dev.onBoot_regs (d : Dev) (f : BootPort → BootPort) : (d.onBoot f).regs = d.regs := rfl
@[simp] theorem Dev.onBoot_chans (d : Dev) (f : BootPort → BootPort) : (d.onBoot f).chans = d.chans := rfl
@[simp] theorem Dev.onBoot_i3c (d : Dev) (f : BootPort → BootPort) : (d.onBoot f).i3c = d.i3c := rfl
@[simp] theorem Dev.onBoot_rings (d : Dev) (f : BootPort → BootPort) : (d.onBoot f).rings = d.rings := rfl
@[simp] theorem Dev.onBoot_ports (d : Dev) (f : BootPort → BootPort) : (d.onBoot f).ports = d.ports := rfl
@[simp] theorem Dev.onBoot_std (d : Dev) (f : BootPort → BootPort) : (d.onBoot f).std = d.std := rfl
@[simp] theorem Dev.onBoot_msix (d : Dev) (f : BootPort → BootPort) : (d.onBoot f).msix = d.msix := rfl
@[simp] theorem Dev.onBoot_dbg (d : Dev) (f : BootPort → BootPort) : (d.onBoot f).dbg = d.dbg := rfl
@[simp] theorem Dev.onBoot_alarms (d : Dev) (f : BootPort → BootPort) : (d.onBoot f).alarms = d.alarms := rfl
@[simp] theorem Dev.onBoot_keys (d : Dev) (f : BootPort → BootPort) : (d.onBoot f).keys = d.keys := rfl
@[simp] theorem Dev.onBoot_titles (d : Dev) (f : BootPort → BootPort) : (d.onBoot f).titles = d.titles := rfl
@[simp] theorem Dev.onBoot_pstore (d : Dev) (f : BootPort → BootPort) : (d.onBoot f).pstore = d.pstore := rfl
@[simp] theorem Dev.onBoot_mirror (d : Dev) (f : BootPort → BootPort) : (d.onBoot f).mirror = d.mirror := rfl
@[simp] theorem Dev.onBoot_recorder (d : Dev) (f : BootPort → BootPort) : (d.onBoot f).recorder = d.recorder := rfl
@[simp] theorem Dev.onBoot_images (d : Dev) (f : BootPort → BootPort) : (d.onBoot f).images = d.images := rfl
@[simp] theorem Dev.onBoot_firmware (d : Dev) (f : BootPort → BootPort) : (d.onBoot f).firmware = d.firmware := rfl
@[simp] theorem Dev.onBoot_waiters (d : Dev) (f : BootPort → BootPort) : (d.onBoot f).waiters = d.waiters := rfl
@[simp] theorem Dev.onBoot_cart (d : Dev) (f : BootPort → BootPort) : (d.onBoot f).cart = d.cart := rfl
@[simp] theorem Dev.onBoot_seq (d : Dev) (f : BootPort → BootPort) : (d.onBoot f).seq = d.seq := rfl
@[simp] theorem Dev.onBoot_thermal (d : Dev) (f : BootPort → BootPort) : (d.onBoot f).thermal = d.thermal := rfl
@[simp] theorem Dev.onBoot_pins (d : Dev) (f : BootPort → BootPort) : (d.onBoot f).pins = d.pins := rfl
@[simp] theorem Dev.onBoot_slices (d : Dev) (f : BootPort → BootPort) : (d.onBoot f).slices = d.slices := rfl
@[simp] theorem Dev.onBoot_flushes (d : Dev) (f : BootPort → BootPort) : (d.onBoot f).flushes = d.flushes := rfl
@[simp] theorem Dev.onBoot_nextFlush (d : Dev) (f : BootPort → BootPort) : (d.onBoot f).nextFlush = d.nextFlush := rfl
@[simp] theorem Dev.onBoot_counters (d : Dev) (f : BootPort → BootPort) : (d.onBoot f).counters = d.counters := rfl
@[simp] theorem Dev.onBoot_transition (d : Dev) (f : BootPort → BootPort) : (d.onBoot f).transition = d.transition := rfl
@[simp] theorem Dev.onBoot_preserve (d : Dev) (f : BootPort → BootPort) : (d.onBoot f).preserve = d.preserve := rfl
@[simp] theorem Dev.onBoot_rung (d : Dev) (f : BootPort → BootPort) : (d.onBoot f).rung = d.rung := rfl
@[simp] theorem Dev.onBoot_notStarted (d : Dev) (f : BootPort → BootPort) : (d.onBoot f).notStarted = d.notStarted := rfl
@[simp] theorem Dev.onBoot_working (d : Dev) (f : BootPort → BootPort) : (d.onBoot f).working = d.working := rfl
@[simp] theorem Dev.onBoot_draws (d : Dev) (f : BootPort → BootPort) : (d.onBoot f).draws = d.draws := rfl
@[simp] theorem Dev.onBoot_out (d : Dev) (f : BootPort → BootPort) : (d.onBoot f).out = d.out := rfl

/-! ### Dev.onI3c -/

@[simp] theorem Dev.onI3c_part (d : Dev) (f : I3c → I3c) : (d.onI3c f).part = d.part := rfl
@[simp] theorem Dev.onI3c_fuses (d : Dev) (f : I3c → I3c) : (d.onI3c f).fuses = d.fuses := rfl
@[simp] theorem Dev.onI3c_mode (d : Dev) (f : I3c → I3c) : (d.onI3c f).mode = d.mode := rfl
@[simp] theorem Dev.onI3c_clock (d : Dev) (f : I3c → I3c) : (d.onI3c f).clock = d.clock := rfl
@[simp] theorem Dev.onI3c_swap (d : Dev) (f : I3c → I3c) : (d.onI3c f).swap = d.swap := rfl
@[simp] theorem Dev.onI3c_active (d : Dev) (f : I3c → I3c) : (d.onI3c f).active = d.active := rfl
@[simp] theorem Dev.onI3c_shadow (d : Dev) (f : I3c → I3c) : (d.onI3c f).shadow = d.shadow := rfl
@[simp] theorem Dev.onI3c_regs (d : Dev) (f : I3c → I3c) : (d.onI3c f).regs = d.regs := rfl
@[simp] theorem Dev.onI3c_chans (d : Dev) (f : I3c → I3c) : (d.onI3c f).chans = d.chans := rfl
@[simp] theorem Dev.onI3c_rings (d : Dev) (f : I3c → I3c) : (d.onI3c f).rings = d.rings := rfl
@[simp] theorem Dev.onI3c_ports (d : Dev) (f : I3c → I3c) : (d.onI3c f).ports = d.ports := rfl
@[simp] theorem Dev.onI3c_std (d : Dev) (f : I3c → I3c) : (d.onI3c f).std = d.std := rfl
@[simp] theorem Dev.onI3c_msix (d : Dev) (f : I3c → I3c) : (d.onI3c f).msix = d.msix := rfl
@[simp] theorem Dev.onI3c_dbg (d : Dev) (f : I3c → I3c) : (d.onI3c f).dbg = d.dbg := rfl
@[simp] theorem Dev.onI3c_alarms (d : Dev) (f : I3c → I3c) : (d.onI3c f).alarms = d.alarms := rfl
@[simp] theorem Dev.onI3c_keys (d : Dev) (f : I3c → I3c) : (d.onI3c f).keys = d.keys := rfl
@[simp] theorem Dev.onI3c_titles (d : Dev) (f : I3c → I3c) : (d.onI3c f).titles = d.titles := rfl
@[simp] theorem Dev.onI3c_pstore (d : Dev) (f : I3c → I3c) : (d.onI3c f).pstore = d.pstore := rfl
@[simp] theorem Dev.onI3c_mirror (d : Dev) (f : I3c → I3c) : (d.onI3c f).mirror = d.mirror := rfl
@[simp] theorem Dev.onI3c_recorder (d : Dev) (f : I3c → I3c) : (d.onI3c f).recorder = d.recorder := rfl
@[simp] theorem Dev.onI3c_images (d : Dev) (f : I3c → I3c) : (d.onI3c f).images = d.images := rfl
@[simp] theorem Dev.onI3c_firmware (d : Dev) (f : I3c → I3c) : (d.onI3c f).firmware = d.firmware := rfl
@[simp] theorem Dev.onI3c_waiters (d : Dev) (f : I3c → I3c) : (d.onI3c f).waiters = d.waiters := rfl
@[simp] theorem Dev.onI3c_cart (d : Dev) (f : I3c → I3c) : (d.onI3c f).cart = d.cart := rfl
@[simp] theorem Dev.onI3c_seq (d : Dev) (f : I3c → I3c) : (d.onI3c f).seq = d.seq := rfl
@[simp] theorem Dev.onI3c_thermal (d : Dev) (f : I3c → I3c) : (d.onI3c f).thermal = d.thermal := rfl
@[simp] theorem Dev.onI3c_boot (d : Dev) (f : I3c → I3c) : (d.onI3c f).boot = d.boot := rfl
@[simp] theorem Dev.onI3c_pins (d : Dev) (f : I3c → I3c) : (d.onI3c f).pins = d.pins := rfl
@[simp] theorem Dev.onI3c_slices (d : Dev) (f : I3c → I3c) : (d.onI3c f).slices = d.slices := rfl
@[simp] theorem Dev.onI3c_flushes (d : Dev) (f : I3c → I3c) : (d.onI3c f).flushes = d.flushes := rfl
@[simp] theorem Dev.onI3c_nextFlush (d : Dev) (f : I3c → I3c) : (d.onI3c f).nextFlush = d.nextFlush := rfl
@[simp] theorem Dev.onI3c_counters (d : Dev) (f : I3c → I3c) : (d.onI3c f).counters = d.counters := rfl
@[simp] theorem Dev.onI3c_transition (d : Dev) (f : I3c → I3c) : (d.onI3c f).transition = d.transition := rfl
@[simp] theorem Dev.onI3c_preserve (d : Dev) (f : I3c → I3c) : (d.onI3c f).preserve = d.preserve := rfl
@[simp] theorem Dev.onI3c_rung (d : Dev) (f : I3c → I3c) : (d.onI3c f).rung = d.rung := rfl
@[simp] theorem Dev.onI3c_notStarted (d : Dev) (f : I3c → I3c) : (d.onI3c f).notStarted = d.notStarted := rfl
@[simp] theorem Dev.onI3c_working (d : Dev) (f : I3c → I3c) : (d.onI3c f).working = d.working := rfl
@[simp] theorem Dev.onI3c_draws (d : Dev) (f : I3c → I3c) : (d.onI3c f).draws = d.draws := rfl
@[simp] theorem Dev.onI3c_out (d : Dev) (f : I3c → I3c) : (d.onI3c f).out = d.out := rfl

/-! ### Dev.onDebug -/

@[simp] theorem Dev.onDebug_part (d : Dev) (f : Debug → Debug) : (d.onDebug f).part = d.part := rfl
@[simp] theorem Dev.onDebug_fuses (d : Dev) (f : Debug → Debug) : (d.onDebug f).fuses = d.fuses := rfl
@[simp] theorem Dev.onDebug_mode (d : Dev) (f : Debug → Debug) : (d.onDebug f).mode = d.mode := rfl
@[simp] theorem Dev.onDebug_clock (d : Dev) (f : Debug → Debug) : (d.onDebug f).clock = d.clock := rfl
@[simp] theorem Dev.onDebug_swap (d : Dev) (f : Debug → Debug) : (d.onDebug f).swap = d.swap := rfl
@[simp] theorem Dev.onDebug_active (d : Dev) (f : Debug → Debug) : (d.onDebug f).active = d.active := rfl
@[simp] theorem Dev.onDebug_shadow (d : Dev) (f : Debug → Debug) : (d.onDebug f).shadow = d.shadow := rfl
@[simp] theorem Dev.onDebug_regs (d : Dev) (f : Debug → Debug) : (d.onDebug f).regs = d.regs := rfl
@[simp] theorem Dev.onDebug_chans (d : Dev) (f : Debug → Debug) : (d.onDebug f).chans = d.chans := rfl
@[simp] theorem Dev.onDebug_i3c (d : Dev) (f : Debug → Debug) : (d.onDebug f).i3c = d.i3c := rfl
@[simp] theorem Dev.onDebug_rings (d : Dev) (f : Debug → Debug) : (d.onDebug f).rings = d.rings := rfl
@[simp] theorem Dev.onDebug_ports (d : Dev) (f : Debug → Debug) : (d.onDebug f).ports = d.ports := rfl
@[simp] theorem Dev.onDebug_std (d : Dev) (f : Debug → Debug) : (d.onDebug f).std = d.std := rfl
@[simp] theorem Dev.onDebug_msix (d : Dev) (f : Debug → Debug) : (d.onDebug f).msix = d.msix := rfl
@[simp] theorem Dev.onDebug_alarms (d : Dev) (f : Debug → Debug) : (d.onDebug f).alarms = d.alarms := rfl
@[simp] theorem Dev.onDebug_keys (d : Dev) (f : Debug → Debug) : (d.onDebug f).keys = d.keys := rfl
@[simp] theorem Dev.onDebug_titles (d : Dev) (f : Debug → Debug) : (d.onDebug f).titles = d.titles := rfl
@[simp] theorem Dev.onDebug_pstore (d : Dev) (f : Debug → Debug) : (d.onDebug f).pstore = d.pstore := rfl
@[simp] theorem Dev.onDebug_mirror (d : Dev) (f : Debug → Debug) : (d.onDebug f).mirror = d.mirror := rfl
@[simp] theorem Dev.onDebug_recorder (d : Dev) (f : Debug → Debug) : (d.onDebug f).recorder = d.recorder := rfl
@[simp] theorem Dev.onDebug_images (d : Dev) (f : Debug → Debug) : (d.onDebug f).images = d.images := rfl
@[simp] theorem Dev.onDebug_firmware (d : Dev) (f : Debug → Debug) : (d.onDebug f).firmware = d.firmware := rfl
@[simp] theorem Dev.onDebug_waiters (d : Dev) (f : Debug → Debug) : (d.onDebug f).waiters = d.waiters := rfl
@[simp] theorem Dev.onDebug_cart (d : Dev) (f : Debug → Debug) : (d.onDebug f).cart = d.cart := rfl
@[simp] theorem Dev.onDebug_seq (d : Dev) (f : Debug → Debug) : (d.onDebug f).seq = d.seq := rfl
@[simp] theorem Dev.onDebug_thermal (d : Dev) (f : Debug → Debug) : (d.onDebug f).thermal = d.thermal := rfl
@[simp] theorem Dev.onDebug_boot (d : Dev) (f : Debug → Debug) : (d.onDebug f).boot = d.boot := rfl
@[simp] theorem Dev.onDebug_pins (d : Dev) (f : Debug → Debug) : (d.onDebug f).pins = d.pins := rfl
@[simp] theorem Dev.onDebug_slices (d : Dev) (f : Debug → Debug) : (d.onDebug f).slices = d.slices := rfl
@[simp] theorem Dev.onDebug_flushes (d : Dev) (f : Debug → Debug) : (d.onDebug f).flushes = d.flushes := rfl
@[simp] theorem Dev.onDebug_nextFlush (d : Dev) (f : Debug → Debug) : (d.onDebug f).nextFlush = d.nextFlush := rfl
@[simp] theorem Dev.onDebug_counters (d : Dev) (f : Debug → Debug) : (d.onDebug f).counters = d.counters := rfl
@[simp] theorem Dev.onDebug_transition (d : Dev) (f : Debug → Debug) : (d.onDebug f).transition = d.transition := rfl
@[simp] theorem Dev.onDebug_preserve (d : Dev) (f : Debug → Debug) : (d.onDebug f).preserve = d.preserve := rfl
@[simp] theorem Dev.onDebug_rung (d : Dev) (f : Debug → Debug) : (d.onDebug f).rung = d.rung := rfl
@[simp] theorem Dev.onDebug_notStarted (d : Dev) (f : Debug → Debug) : (d.onDebug f).notStarted = d.notStarted := rfl
@[simp] theorem Dev.onDebug_working (d : Dev) (f : Debug → Debug) : (d.onDebug f).working = d.working := rfl
@[simp] theorem Dev.onDebug_draws (d : Dev) (f : Debug → Debug) : (d.onDebug f).draws = d.draws := rfl
@[simp] theorem Dev.onDebug_out (d : Dev) (f : Debug → Debug) : (d.onDebug f).out = d.out := rfl

/-! ### Dev.onCart -/

@[simp] theorem Dev.onCart_part (d : Dev) (f : Cart → Cart) : (d.onCart f).part = d.part := rfl
@[simp] theorem Dev.onCart_fuses (d : Dev) (f : Cart → Cart) : (d.onCart f).fuses = d.fuses := rfl
@[simp] theorem Dev.onCart_mode (d : Dev) (f : Cart → Cart) : (d.onCart f).mode = d.mode := rfl
@[simp] theorem Dev.onCart_clock (d : Dev) (f : Cart → Cart) : (d.onCart f).clock = d.clock := rfl
@[simp] theorem Dev.onCart_swap (d : Dev) (f : Cart → Cart) : (d.onCart f).swap = d.swap := rfl
@[simp] theorem Dev.onCart_active (d : Dev) (f : Cart → Cart) : (d.onCart f).active = d.active := rfl
@[simp] theorem Dev.onCart_shadow (d : Dev) (f : Cart → Cart) : (d.onCart f).shadow = d.shadow := rfl
@[simp] theorem Dev.onCart_regs (d : Dev) (f : Cart → Cart) : (d.onCart f).regs = d.regs := rfl
@[simp] theorem Dev.onCart_chans (d : Dev) (f : Cart → Cart) : (d.onCart f).chans = d.chans := rfl
@[simp] theorem Dev.onCart_i3c (d : Dev) (f : Cart → Cart) : (d.onCart f).i3c = d.i3c := rfl
@[simp] theorem Dev.onCart_rings (d : Dev) (f : Cart → Cart) : (d.onCart f).rings = d.rings := rfl
@[simp] theorem Dev.onCart_ports (d : Dev) (f : Cart → Cart) : (d.onCart f).ports = d.ports := rfl
@[simp] theorem Dev.onCart_std (d : Dev) (f : Cart → Cart) : (d.onCart f).std = d.std := rfl
@[simp] theorem Dev.onCart_msix (d : Dev) (f : Cart → Cart) : (d.onCart f).msix = d.msix := rfl
@[simp] theorem Dev.onCart_dbg (d : Dev) (f : Cart → Cart) : (d.onCart f).dbg = d.dbg := rfl
@[simp] theorem Dev.onCart_alarms (d : Dev) (f : Cart → Cart) : (d.onCart f).alarms = d.alarms := rfl
@[simp] theorem Dev.onCart_keys (d : Dev) (f : Cart → Cart) : (d.onCart f).keys = d.keys := rfl
@[simp] theorem Dev.onCart_titles (d : Dev) (f : Cart → Cart) : (d.onCart f).titles = d.titles := rfl
@[simp] theorem Dev.onCart_pstore (d : Dev) (f : Cart → Cart) : (d.onCart f).pstore = d.pstore := rfl
@[simp] theorem Dev.onCart_mirror (d : Dev) (f : Cart → Cart) : (d.onCart f).mirror = d.mirror := rfl
@[simp] theorem Dev.onCart_recorder (d : Dev) (f : Cart → Cart) : (d.onCart f).recorder = d.recorder := rfl
@[simp] theorem Dev.onCart_images (d : Dev) (f : Cart → Cart) : (d.onCart f).images = d.images := rfl
@[simp] theorem Dev.onCart_firmware (d : Dev) (f : Cart → Cart) : (d.onCart f).firmware = d.firmware := rfl
@[simp] theorem Dev.onCart_waiters (d : Dev) (f : Cart → Cart) : (d.onCart f).waiters = d.waiters := rfl
@[simp] theorem Dev.onCart_seq (d : Dev) (f : Cart → Cart) : (d.onCart f).seq = d.seq := rfl
@[simp] theorem Dev.onCart_thermal (d : Dev) (f : Cart → Cart) : (d.onCart f).thermal = d.thermal := rfl
@[simp] theorem Dev.onCart_boot (d : Dev) (f : Cart → Cart) : (d.onCart f).boot = d.boot := rfl
@[simp] theorem Dev.onCart_pins (d : Dev) (f : Cart → Cart) : (d.onCart f).pins = d.pins := rfl
@[simp] theorem Dev.onCart_slices (d : Dev) (f : Cart → Cart) : (d.onCart f).slices = d.slices := rfl
@[simp] theorem Dev.onCart_flushes (d : Dev) (f : Cart → Cart) : (d.onCart f).flushes = d.flushes := rfl
@[simp] theorem Dev.onCart_nextFlush (d : Dev) (f : Cart → Cart) : (d.onCart f).nextFlush = d.nextFlush := rfl
@[simp] theorem Dev.onCart_counters (d : Dev) (f : Cart → Cart) : (d.onCart f).counters = d.counters := rfl
@[simp] theorem Dev.onCart_transition (d : Dev) (f : Cart → Cart) : (d.onCart f).transition = d.transition := rfl
@[simp] theorem Dev.onCart_preserve (d : Dev) (f : Cart → Cart) : (d.onCart f).preserve = d.preserve := rfl
@[simp] theorem Dev.onCart_rung (d : Dev) (f : Cart → Cart) : (d.onCart f).rung = d.rung := rfl
@[simp] theorem Dev.onCart_notStarted (d : Dev) (f : Cart → Cart) : (d.onCart f).notStarted = d.notStarted := rfl
@[simp] theorem Dev.onCart_working (d : Dev) (f : Cart → Cart) : (d.onCart f).working = d.working := rfl
@[simp] theorem Dev.onCart_draws (d : Dev) (f : Cart → Cart) : (d.onCart f).draws = d.draws := rfl
@[simp] theorem Dev.onCart_out (d : Dev) (f : Cart → Cart) : (d.onCart f).out = d.out := rfl

/-! ### Dev.onImages -/

@[simp] theorem Dev.onImages_part (d : Dev) (f : Images → Images) : (d.onImages f).part = d.part := rfl
@[simp] theorem Dev.onImages_fuses (d : Dev) (f : Images → Images) : (d.onImages f).fuses = d.fuses := rfl
@[simp] theorem Dev.onImages_mode (d : Dev) (f : Images → Images) : (d.onImages f).mode = d.mode := rfl
@[simp] theorem Dev.onImages_clock (d : Dev) (f : Images → Images) : (d.onImages f).clock = d.clock := rfl
@[simp] theorem Dev.onImages_swap (d : Dev) (f : Images → Images) : (d.onImages f).swap = d.swap := rfl
@[simp] theorem Dev.onImages_active (d : Dev) (f : Images → Images) : (d.onImages f).active = d.active := rfl
@[simp] theorem Dev.onImages_shadow (d : Dev) (f : Images → Images) : (d.onImages f).shadow = d.shadow := rfl
@[simp] theorem Dev.onImages_regs (d : Dev) (f : Images → Images) : (d.onImages f).regs = d.regs := rfl
@[simp] theorem Dev.onImages_chans (d : Dev) (f : Images → Images) : (d.onImages f).chans = d.chans := rfl
@[simp] theorem Dev.onImages_i3c (d : Dev) (f : Images → Images) : (d.onImages f).i3c = d.i3c := rfl
@[simp] theorem Dev.onImages_rings (d : Dev) (f : Images → Images) : (d.onImages f).rings = d.rings := rfl
@[simp] theorem Dev.onImages_ports (d : Dev) (f : Images → Images) : (d.onImages f).ports = d.ports := rfl
@[simp] theorem Dev.onImages_std (d : Dev) (f : Images → Images) : (d.onImages f).std = d.std := rfl
@[simp] theorem Dev.onImages_msix (d : Dev) (f : Images → Images) : (d.onImages f).msix = d.msix := rfl
@[simp] theorem Dev.onImages_dbg (d : Dev) (f : Images → Images) : (d.onImages f).dbg = d.dbg := rfl
@[simp] theorem Dev.onImages_alarms (d : Dev) (f : Images → Images) : (d.onImages f).alarms = d.alarms := rfl
@[simp] theorem Dev.onImages_keys (d : Dev) (f : Images → Images) : (d.onImages f).keys = d.keys := rfl
@[simp] theorem Dev.onImages_titles (d : Dev) (f : Images → Images) : (d.onImages f).titles = d.titles := rfl
@[simp] theorem Dev.onImages_pstore (d : Dev) (f : Images → Images) : (d.onImages f).pstore = d.pstore := rfl
@[simp] theorem Dev.onImages_mirror (d : Dev) (f : Images → Images) : (d.onImages f).mirror = d.mirror := rfl
@[simp] theorem Dev.onImages_recorder (d : Dev) (f : Images → Images) : (d.onImages f).recorder = d.recorder := rfl
@[simp] theorem Dev.onImages_firmware (d : Dev) (f : Images → Images) : (d.onImages f).firmware = d.firmware := rfl
@[simp] theorem Dev.onImages_waiters (d : Dev) (f : Images → Images) : (d.onImages f).waiters = d.waiters := rfl
@[simp] theorem Dev.onImages_cart (d : Dev) (f : Images → Images) : (d.onImages f).cart = d.cart := rfl
@[simp] theorem Dev.onImages_seq (d : Dev) (f : Images → Images) : (d.onImages f).seq = d.seq := rfl
@[simp] theorem Dev.onImages_thermal (d : Dev) (f : Images → Images) : (d.onImages f).thermal = d.thermal := rfl
@[simp] theorem Dev.onImages_boot (d : Dev) (f : Images → Images) : (d.onImages f).boot = d.boot := rfl
@[simp] theorem Dev.onImages_pins (d : Dev) (f : Images → Images) : (d.onImages f).pins = d.pins := rfl
@[simp] theorem Dev.onImages_slices (d : Dev) (f : Images → Images) : (d.onImages f).slices = d.slices := rfl
@[simp] theorem Dev.onImages_flushes (d : Dev) (f : Images → Images) : (d.onImages f).flushes = d.flushes := rfl
@[simp] theorem Dev.onImages_nextFlush (d : Dev) (f : Images → Images) : (d.onImages f).nextFlush = d.nextFlush := rfl
@[simp] theorem Dev.onImages_counters (d : Dev) (f : Images → Images) : (d.onImages f).counters = d.counters := rfl
@[simp] theorem Dev.onImages_transition (d : Dev) (f : Images → Images) : (d.onImages f).transition = d.transition := rfl
@[simp] theorem Dev.onImages_preserve (d : Dev) (f : Images → Images) : (d.onImages f).preserve = d.preserve := rfl
@[simp] theorem Dev.onImages_rung (d : Dev) (f : Images → Images) : (d.onImages f).rung = d.rung := rfl
@[simp] theorem Dev.onImages_notStarted (d : Dev) (f : Images → Images) : (d.onImages f).notStarted = d.notStarted := rfl
@[simp] theorem Dev.onImages_working (d : Dev) (f : Images → Images) : (d.onImages f).working = d.working := rfl
@[simp] theorem Dev.onImages_draws (d : Dev) (f : Images → Images) : (d.onImages f).draws = d.draws := rfl
@[simp] theorem Dev.onImages_out (d : Dev) (f : Images → Images) : (d.onImages f).out = d.out := rfl

/-! ### Dev.onShadow -/

@[simp] theorem Dev.onShadow_part (d : Dev) (f : Groups → Groups) : (d.onShadow f).part = d.part := rfl
@[simp] theorem Dev.onShadow_fuses (d : Dev) (f : Groups → Groups) : (d.onShadow f).fuses = d.fuses := rfl
@[simp] theorem Dev.onShadow_mode (d : Dev) (f : Groups → Groups) : (d.onShadow f).mode = d.mode := rfl
@[simp] theorem Dev.onShadow_clock (d : Dev) (f : Groups → Groups) : (d.onShadow f).clock = d.clock := rfl
@[simp] theorem Dev.onShadow_swap (d : Dev) (f : Groups → Groups) : (d.onShadow f).swap = d.swap := rfl
@[simp] theorem Dev.onShadow_active (d : Dev) (f : Groups → Groups) : (d.onShadow f).active = d.active := rfl
@[simp] theorem Dev.onShadow_regs (d : Dev) (f : Groups → Groups) : (d.onShadow f).regs = d.regs := rfl
@[simp] theorem Dev.onShadow_chans (d : Dev) (f : Groups → Groups) : (d.onShadow f).chans = d.chans := rfl
@[simp] theorem Dev.onShadow_i3c (d : Dev) (f : Groups → Groups) : (d.onShadow f).i3c = d.i3c := rfl
@[simp] theorem Dev.onShadow_rings (d : Dev) (f : Groups → Groups) : (d.onShadow f).rings = d.rings := rfl
@[simp] theorem Dev.onShadow_ports (d : Dev) (f : Groups → Groups) : (d.onShadow f).ports = d.ports := rfl
@[simp] theorem Dev.onShadow_std (d : Dev) (f : Groups → Groups) : (d.onShadow f).std = d.std := rfl
@[simp] theorem Dev.onShadow_msix (d : Dev) (f : Groups → Groups) : (d.onShadow f).msix = d.msix := rfl
@[simp] theorem Dev.onShadow_dbg (d : Dev) (f : Groups → Groups) : (d.onShadow f).dbg = d.dbg := rfl
@[simp] theorem Dev.onShadow_alarms (d : Dev) (f : Groups → Groups) : (d.onShadow f).alarms = d.alarms := rfl
@[simp] theorem Dev.onShadow_keys (d : Dev) (f : Groups → Groups) : (d.onShadow f).keys = d.keys := rfl
@[simp] theorem Dev.onShadow_titles (d : Dev) (f : Groups → Groups) : (d.onShadow f).titles = d.titles := rfl
@[simp] theorem Dev.onShadow_pstore (d : Dev) (f : Groups → Groups) : (d.onShadow f).pstore = d.pstore := rfl
@[simp] theorem Dev.onShadow_mirror (d : Dev) (f : Groups → Groups) : (d.onShadow f).mirror = d.mirror := rfl
@[simp] theorem Dev.onShadow_recorder (d : Dev) (f : Groups → Groups) : (d.onShadow f).recorder = d.recorder := rfl
@[simp] theorem Dev.onShadow_images (d : Dev) (f : Groups → Groups) : (d.onShadow f).images = d.images := rfl
@[simp] theorem Dev.onShadow_firmware (d : Dev) (f : Groups → Groups) : (d.onShadow f).firmware = d.firmware := rfl
@[simp] theorem Dev.onShadow_waiters (d : Dev) (f : Groups → Groups) : (d.onShadow f).waiters = d.waiters := rfl
@[simp] theorem Dev.onShadow_cart (d : Dev) (f : Groups → Groups) : (d.onShadow f).cart = d.cart := rfl
@[simp] theorem Dev.onShadow_seq (d : Dev) (f : Groups → Groups) : (d.onShadow f).seq = d.seq := rfl
@[simp] theorem Dev.onShadow_thermal (d : Dev) (f : Groups → Groups) : (d.onShadow f).thermal = d.thermal := rfl
@[simp] theorem Dev.onShadow_boot (d : Dev) (f : Groups → Groups) : (d.onShadow f).boot = d.boot := rfl
@[simp] theorem Dev.onShadow_pins (d : Dev) (f : Groups → Groups) : (d.onShadow f).pins = d.pins := rfl
@[simp] theorem Dev.onShadow_slices (d : Dev) (f : Groups → Groups) : (d.onShadow f).slices = d.slices := rfl
@[simp] theorem Dev.onShadow_flushes (d : Dev) (f : Groups → Groups) : (d.onShadow f).flushes = d.flushes := rfl
@[simp] theorem Dev.onShadow_nextFlush (d : Dev) (f : Groups → Groups) : (d.onShadow f).nextFlush = d.nextFlush := rfl
@[simp] theorem Dev.onShadow_counters (d : Dev) (f : Groups → Groups) : (d.onShadow f).counters = d.counters := rfl
@[simp] theorem Dev.onShadow_transition (d : Dev) (f : Groups → Groups) : (d.onShadow f).transition = d.transition := rfl
@[simp] theorem Dev.onShadow_preserve (d : Dev) (f : Groups → Groups) : (d.onShadow f).preserve = d.preserve := rfl
@[simp] theorem Dev.onShadow_rung (d : Dev) (f : Groups → Groups) : (d.onShadow f).rung = d.rung := rfl
@[simp] theorem Dev.onShadow_notStarted (d : Dev) (f : Groups → Groups) : (d.onShadow f).notStarted = d.notStarted := rfl
@[simp] theorem Dev.onShadow_working (d : Dev) (f : Groups → Groups) : (d.onShadow f).working = d.working := rfl
@[simp] theorem Dev.onShadow_draws (d : Dev) (f : Groups → Groups) : (d.onShadow f).draws = d.draws := rfl
@[simp] theorem Dev.onShadow_out (d : Dev) (f : Groups → Groups) : (d.onShadow f).out = d.out := rfl

/-! ### Dev.onFirmware -/

@[simp] theorem Dev.onFirmware_part (d : Dev) (t : Nat) (f : FwTarget → FwTarget) : (d.onFirmware t f).part = d.part := rfl
@[simp] theorem Dev.onFirmware_fuses (d : Dev) (t : Nat) (f : FwTarget → FwTarget) : (d.onFirmware t f).fuses = d.fuses := rfl
@[simp] theorem Dev.onFirmware_mode (d : Dev) (t : Nat) (f : FwTarget → FwTarget) : (d.onFirmware t f).mode = d.mode := rfl
@[simp] theorem Dev.onFirmware_clock (d : Dev) (t : Nat) (f : FwTarget → FwTarget) : (d.onFirmware t f).clock = d.clock := rfl
@[simp] theorem Dev.onFirmware_swap (d : Dev) (t : Nat) (f : FwTarget → FwTarget) : (d.onFirmware t f).swap = d.swap := rfl
@[simp] theorem Dev.onFirmware_active (d : Dev) (t : Nat) (f : FwTarget → FwTarget) : (d.onFirmware t f).active = d.active := rfl
@[simp] theorem Dev.onFirmware_shadow (d : Dev) (t : Nat) (f : FwTarget → FwTarget) : (d.onFirmware t f).shadow = d.shadow := rfl
@[simp] theorem Dev.onFirmware_regs (d : Dev) (t : Nat) (f : FwTarget → FwTarget) : (d.onFirmware t f).regs = d.regs := rfl
@[simp] theorem Dev.onFirmware_chans (d : Dev) (t : Nat) (f : FwTarget → FwTarget) : (d.onFirmware t f).chans = d.chans := rfl
@[simp] theorem Dev.onFirmware_i3c (d : Dev) (t : Nat) (f : FwTarget → FwTarget) : (d.onFirmware t f).i3c = d.i3c := rfl
@[simp] theorem Dev.onFirmware_rings (d : Dev) (t : Nat) (f : FwTarget → FwTarget) : (d.onFirmware t f).rings = d.rings := rfl
@[simp] theorem Dev.onFirmware_ports (d : Dev) (t : Nat) (f : FwTarget → FwTarget) : (d.onFirmware t f).ports = d.ports := rfl
@[simp] theorem Dev.onFirmware_std (d : Dev) (t : Nat) (f : FwTarget → FwTarget) : (d.onFirmware t f).std = d.std := rfl
@[simp] theorem Dev.onFirmware_msix (d : Dev) (t : Nat) (f : FwTarget → FwTarget) : (d.onFirmware t f).msix = d.msix := rfl
@[simp] theorem Dev.onFirmware_dbg (d : Dev) (t : Nat) (f : FwTarget → FwTarget) : (d.onFirmware t f).dbg = d.dbg := rfl
@[simp] theorem Dev.onFirmware_alarms (d : Dev) (t : Nat) (f : FwTarget → FwTarget) : (d.onFirmware t f).alarms = d.alarms := rfl
@[simp] theorem Dev.onFirmware_keys (d : Dev) (t : Nat) (f : FwTarget → FwTarget) : (d.onFirmware t f).keys = d.keys := rfl
@[simp] theorem Dev.onFirmware_titles (d : Dev) (t : Nat) (f : FwTarget → FwTarget) : (d.onFirmware t f).titles = d.titles := rfl
@[simp] theorem Dev.onFirmware_pstore (d : Dev) (t : Nat) (f : FwTarget → FwTarget) : (d.onFirmware t f).pstore = d.pstore := rfl
@[simp] theorem Dev.onFirmware_mirror (d : Dev) (t : Nat) (f : FwTarget → FwTarget) : (d.onFirmware t f).mirror = d.mirror := rfl
@[simp] theorem Dev.onFirmware_recorder (d : Dev) (t : Nat) (f : FwTarget → FwTarget) : (d.onFirmware t f).recorder = d.recorder := rfl
@[simp] theorem Dev.onFirmware_images (d : Dev) (t : Nat) (f : FwTarget → FwTarget) : (d.onFirmware t f).images = d.images := rfl
@[simp] theorem Dev.onFirmware_waiters (d : Dev) (t : Nat) (f : FwTarget → FwTarget) : (d.onFirmware t f).waiters = d.waiters := rfl
@[simp] theorem Dev.onFirmware_cart (d : Dev) (t : Nat) (f : FwTarget → FwTarget) : (d.onFirmware t f).cart = d.cart := rfl
@[simp] theorem Dev.onFirmware_seq (d : Dev) (t : Nat) (f : FwTarget → FwTarget) : (d.onFirmware t f).seq = d.seq := rfl
@[simp] theorem Dev.onFirmware_thermal (d : Dev) (t : Nat) (f : FwTarget → FwTarget) : (d.onFirmware t f).thermal = d.thermal := rfl
@[simp] theorem Dev.onFirmware_boot (d : Dev) (t : Nat) (f : FwTarget → FwTarget) : (d.onFirmware t f).boot = d.boot := rfl
@[simp] theorem Dev.onFirmware_pins (d : Dev) (t : Nat) (f : FwTarget → FwTarget) : (d.onFirmware t f).pins = d.pins := rfl
@[simp] theorem Dev.onFirmware_slices (d : Dev) (t : Nat) (f : FwTarget → FwTarget) : (d.onFirmware t f).slices = d.slices := rfl
@[simp] theorem Dev.onFirmware_flushes (d : Dev) (t : Nat) (f : FwTarget → FwTarget) : (d.onFirmware t f).flushes = d.flushes := rfl
@[simp] theorem Dev.onFirmware_nextFlush (d : Dev) (t : Nat) (f : FwTarget → FwTarget) : (d.onFirmware t f).nextFlush = d.nextFlush := rfl
@[simp] theorem Dev.onFirmware_counters (d : Dev) (t : Nat) (f : FwTarget → FwTarget) : (d.onFirmware t f).counters = d.counters := rfl
@[simp] theorem Dev.onFirmware_transition (d : Dev) (t : Nat) (f : FwTarget → FwTarget) : (d.onFirmware t f).transition = d.transition := rfl
@[simp] theorem Dev.onFirmware_preserve (d : Dev) (t : Nat) (f : FwTarget → FwTarget) : (d.onFirmware t f).preserve = d.preserve := rfl
@[simp] theorem Dev.onFirmware_rung (d : Dev) (t : Nat) (f : FwTarget → FwTarget) : (d.onFirmware t f).rung = d.rung := rfl
@[simp] theorem Dev.onFirmware_notStarted (d : Dev) (t : Nat) (f : FwTarget → FwTarget) : (d.onFirmware t f).notStarted = d.notStarted := rfl
@[simp] theorem Dev.onFirmware_working (d : Dev) (t : Nat) (f : FwTarget → FwTarget) : (d.onFirmware t f).working = d.working := rfl
@[simp] theorem Dev.onFirmware_draws (d : Dev) (t : Nat) (f : FwTarget → FwTarget) : (d.onFirmware t f).draws = d.draws := rfl
@[simp] theorem Dev.onFirmware_out (d : Dev) (t : Nat) (f : FwTarget → FwTarget) : (d.onFirmware t f).out = d.out := rfl

/-! ### Dev.countPkg -/

@[simp] theorem Dev.countPkg_part (d : Dev) (i n : Nat) : (d.countPkg i n).part = d.part := rfl
@[simp] theorem Dev.countPkg_fuses (d : Dev) (i n : Nat) : (d.countPkg i n).fuses = d.fuses := rfl
@[simp] theorem Dev.countPkg_mode (d : Dev) (i n : Nat) : (d.countPkg i n).mode = d.mode := rfl
@[simp] theorem Dev.countPkg_clock (d : Dev) (i n : Nat) : (d.countPkg i n).clock = d.clock := rfl
@[simp] theorem Dev.countPkg_swap (d : Dev) (i n : Nat) : (d.countPkg i n).swap = d.swap := rfl
@[simp] theorem Dev.countPkg_active (d : Dev) (i n : Nat) : (d.countPkg i n).active = d.active := rfl
@[simp] theorem Dev.countPkg_shadow (d : Dev) (i n : Nat) : (d.countPkg i n).shadow = d.shadow := rfl
@[simp] theorem Dev.countPkg_regs (d : Dev) (i n : Nat) : (d.countPkg i n).regs = d.regs := rfl
@[simp] theorem Dev.countPkg_chans (d : Dev) (i n : Nat) : (d.countPkg i n).chans = d.chans := rfl
@[simp] theorem Dev.countPkg_i3c (d : Dev) (i n : Nat) : (d.countPkg i n).i3c = d.i3c := rfl
@[simp] theorem Dev.countPkg_rings (d : Dev) (i n : Nat) : (d.countPkg i n).rings = d.rings := rfl
@[simp] theorem Dev.countPkg_ports (d : Dev) (i n : Nat) : (d.countPkg i n).ports = d.ports := rfl
@[simp] theorem Dev.countPkg_std (d : Dev) (i n : Nat) : (d.countPkg i n).std = d.std := rfl
@[simp] theorem Dev.countPkg_msix (d : Dev) (i n : Nat) : (d.countPkg i n).msix = d.msix := rfl
@[simp] theorem Dev.countPkg_dbg (d : Dev) (i n : Nat) : (d.countPkg i n).dbg = d.dbg := rfl
@[simp] theorem Dev.countPkg_alarms (d : Dev) (i n : Nat) : (d.countPkg i n).alarms = d.alarms := rfl
@[simp] theorem Dev.countPkg_keys (d : Dev) (i n : Nat) : (d.countPkg i n).keys = d.keys := rfl
@[simp] theorem Dev.countPkg_titles (d : Dev) (i n : Nat) : (d.countPkg i n).titles = d.titles := rfl
@[simp] theorem Dev.countPkg_pstore (d : Dev) (i n : Nat) : (d.countPkg i n).pstore = d.pstore := rfl
@[simp] theorem Dev.countPkg_mirror (d : Dev) (i n : Nat) : (d.countPkg i n).mirror = d.mirror := rfl
@[simp] theorem Dev.countPkg_recorder (d : Dev) (i n : Nat) : (d.countPkg i n).recorder = d.recorder := rfl
@[simp] theorem Dev.countPkg_images (d : Dev) (i n : Nat) : (d.countPkg i n).images = d.images := rfl
@[simp] theorem Dev.countPkg_firmware (d : Dev) (i n : Nat) : (d.countPkg i n).firmware = d.firmware := rfl
@[simp] theorem Dev.countPkg_waiters (d : Dev) (i n : Nat) : (d.countPkg i n).waiters = d.waiters := rfl
@[simp] theorem Dev.countPkg_cart (d : Dev) (i n : Nat) : (d.countPkg i n).cart = d.cart := rfl
@[simp] theorem Dev.countPkg_seq (d : Dev) (i n : Nat) : (d.countPkg i n).seq = d.seq := rfl
@[simp] theorem Dev.countPkg_thermal (d : Dev) (i n : Nat) : (d.countPkg i n).thermal = d.thermal := rfl
@[simp] theorem Dev.countPkg_boot (d : Dev) (i n : Nat) : (d.countPkg i n).boot = d.boot := rfl
@[simp] theorem Dev.countPkg_pins (d : Dev) (i n : Nat) : (d.countPkg i n).pins = d.pins := rfl
@[simp] theorem Dev.countPkg_slices (d : Dev) (i n : Nat) : (d.countPkg i n).slices = d.slices := rfl
@[simp] theorem Dev.countPkg_flushes (d : Dev) (i n : Nat) : (d.countPkg i n).flushes = d.flushes := rfl
@[simp] theorem Dev.countPkg_nextFlush (d : Dev) (i n : Nat) : (d.countPkg i n).nextFlush = d.nextFlush := rfl
@[simp] theorem Dev.countPkg_transition (d : Dev) (i n : Nat) : (d.countPkg i n).transition = d.transition := rfl
@[simp] theorem Dev.countPkg_preserve (d : Dev) (i n : Nat) : (d.countPkg i n).preserve = d.preserve := rfl
@[simp] theorem Dev.countPkg_rung (d : Dev) (i n : Nat) : (d.countPkg i n).rung = d.rung := rfl
@[simp] theorem Dev.countPkg_notStarted (d : Dev) (i n : Nat) : (d.countPkg i n).notStarted = d.notStarted := rfl
@[simp] theorem Dev.countPkg_working (d : Dev) (i n : Nat) : (d.countPkg i n).working = d.working := rfl
@[simp] theorem Dev.countPkg_draws (d : Dev) (i n : Nat) : (d.countPkg i n).draws = d.draws := rfl
@[simp] theorem Dev.countPkg_out (d : Dev) (i n : Nat) : (d.countPkg i n).out = d.out := rfl

/-! ### Dev.count -/

@[simp] theorem Dev.count_part (d : Dev) (i k n : Nat) : (d.count i k n).part = d.part := rfl
@[simp] theorem Dev.count_fuses (d : Dev) (i k n : Nat) : (d.count i k n).fuses = d.fuses := rfl
@[simp] theorem Dev.count_mode (d : Dev) (i k n : Nat) : (d.count i k n).mode = d.mode := rfl
@[simp] theorem Dev.count_clock (d : Dev) (i k n : Nat) : (d.count i k n).clock = d.clock := rfl
@[simp] theorem Dev.count_swap (d : Dev) (i k n : Nat) : (d.count i k n).swap = d.swap := rfl
@[simp] theorem Dev.count_active (d : Dev) (i k n : Nat) : (d.count i k n).active = d.active := rfl
@[simp] theorem Dev.count_shadow (d : Dev) (i k n : Nat) : (d.count i k n).shadow = d.shadow := rfl
@[simp] theorem Dev.count_regs (d : Dev) (i k n : Nat) : (d.count i k n).regs = d.regs := rfl
@[simp] theorem Dev.count_chans (d : Dev) (i k n : Nat) : (d.count i k n).chans = d.chans := rfl
@[simp] theorem Dev.count_i3c (d : Dev) (i k n : Nat) : (d.count i k n).i3c = d.i3c := rfl
@[simp] theorem Dev.count_rings (d : Dev) (i k n : Nat) : (d.count i k n).rings = d.rings := rfl
@[simp] theorem Dev.count_ports (d : Dev) (i k n : Nat) : (d.count i k n).ports = d.ports := rfl
@[simp] theorem Dev.count_std (d : Dev) (i k n : Nat) : (d.count i k n).std = d.std := rfl
@[simp] theorem Dev.count_msix (d : Dev) (i k n : Nat) : (d.count i k n).msix = d.msix := rfl
@[simp] theorem Dev.count_dbg (d : Dev) (i k n : Nat) : (d.count i k n).dbg = d.dbg := rfl
@[simp] theorem Dev.count_alarms (d : Dev) (i k n : Nat) : (d.count i k n).alarms = d.alarms := rfl
@[simp] theorem Dev.count_keys (d : Dev) (i k n : Nat) : (d.count i k n).keys = d.keys := rfl
@[simp] theorem Dev.count_titles (d : Dev) (i k n : Nat) : (d.count i k n).titles = d.titles := rfl
@[simp] theorem Dev.count_pstore (d : Dev) (i k n : Nat) : (d.count i k n).pstore = d.pstore := rfl
@[simp] theorem Dev.count_mirror (d : Dev) (i k n : Nat) : (d.count i k n).mirror = d.mirror := rfl
@[simp] theorem Dev.count_recorder (d : Dev) (i k n : Nat) : (d.count i k n).recorder = d.recorder := rfl
@[simp] theorem Dev.count_images (d : Dev) (i k n : Nat) : (d.count i k n).images = d.images := rfl
@[simp] theorem Dev.count_firmware (d : Dev) (i k n : Nat) : (d.count i k n).firmware = d.firmware := rfl
@[simp] theorem Dev.count_waiters (d : Dev) (i k n : Nat) : (d.count i k n).waiters = d.waiters := rfl
@[simp] theorem Dev.count_cart (d : Dev) (i k n : Nat) : (d.count i k n).cart = d.cart := rfl
@[simp] theorem Dev.count_seq (d : Dev) (i k n : Nat) : (d.count i k n).seq = d.seq := rfl
@[simp] theorem Dev.count_thermal (d : Dev) (i k n : Nat) : (d.count i k n).thermal = d.thermal := rfl
@[simp] theorem Dev.count_boot (d : Dev) (i k n : Nat) : (d.count i k n).boot = d.boot := rfl
@[simp] theorem Dev.count_pins (d : Dev) (i k n : Nat) : (d.count i k n).pins = d.pins := rfl
@[simp] theorem Dev.count_flushes (d : Dev) (i k n : Nat) : (d.count i k n).flushes = d.flushes := rfl
@[simp] theorem Dev.count_nextFlush (d : Dev) (i k n : Nat) : (d.count i k n).nextFlush = d.nextFlush := rfl
@[simp] theorem Dev.count_counters (d : Dev) (i k n : Nat) : (d.count i k n).counters = d.counters := rfl
@[simp] theorem Dev.count_transition (d : Dev) (i k n : Nat) : (d.count i k n).transition = d.transition := rfl
@[simp] theorem Dev.count_preserve (d : Dev) (i k n : Nat) : (d.count i k n).preserve = d.preserve := rfl
@[simp] theorem Dev.count_rung (d : Dev) (i k n : Nat) : (d.count i k n).rung = d.rung := rfl
@[simp] theorem Dev.count_notStarted (d : Dev) (i k n : Nat) : (d.count i k n).notStarted = d.notStarted := rfl
@[simp] theorem Dev.count_working (d : Dev) (i k n : Nat) : (d.count i k n).working = d.working := rfl
@[simp] theorem Dev.count_draws (d : Dev) (i k n : Nat) : (d.count i k n).draws = d.draws := rfl
@[simp] theorem Dev.count_out (d : Dev) (i k n : Nat) : (d.count i k n).out = d.out := rfl

/-! ### Dev.await -/

@[simp] theorem Dev.await_part (d : Dev) (q : Req) (w : WaitFor) : (d.await q w).part = d.part := rfl
@[simp] theorem Dev.await_fuses (d : Dev) (q : Req) (w : WaitFor) : (d.await q w).fuses = d.fuses := rfl
@[simp] theorem Dev.await_mode (d : Dev) (q : Req) (w : WaitFor) : (d.await q w).mode = d.mode := rfl
@[simp] theorem Dev.await_clock (d : Dev) (q : Req) (w : WaitFor) : (d.await q w).clock = d.clock := rfl
@[simp] theorem Dev.await_swap (d : Dev) (q : Req) (w : WaitFor) : (d.await q w).swap = d.swap := rfl
@[simp] theorem Dev.await_active (d : Dev) (q : Req) (w : WaitFor) : (d.await q w).active = d.active := rfl
@[simp] theorem Dev.await_shadow (d : Dev) (q : Req) (w : WaitFor) : (d.await q w).shadow = d.shadow := rfl
@[simp] theorem Dev.await_regs (d : Dev) (q : Req) (w : WaitFor) : (d.await q w).regs = d.regs := rfl
@[simp] theorem Dev.await_chans (d : Dev) (q : Req) (w : WaitFor) : (d.await q w).chans = d.chans := rfl
@[simp] theorem Dev.await_i3c (d : Dev) (q : Req) (w : WaitFor) : (d.await q w).i3c = d.i3c := rfl
@[simp] theorem Dev.await_rings (d : Dev) (q : Req) (w : WaitFor) : (d.await q w).rings = d.rings := rfl
@[simp] theorem Dev.await_ports (d : Dev) (q : Req) (w : WaitFor) : (d.await q w).ports = d.ports := rfl
@[simp] theorem Dev.await_std (d : Dev) (q : Req) (w : WaitFor) : (d.await q w).std = d.std := rfl
@[simp] theorem Dev.await_msix (d : Dev) (q : Req) (w : WaitFor) : (d.await q w).msix = d.msix := rfl
@[simp] theorem Dev.await_dbg (d : Dev) (q : Req) (w : WaitFor) : (d.await q w).dbg = d.dbg := rfl
@[simp] theorem Dev.await_alarms (d : Dev) (q : Req) (w : WaitFor) : (d.await q w).alarms = d.alarms := rfl
@[simp] theorem Dev.await_keys (d : Dev) (q : Req) (w : WaitFor) : (d.await q w).keys = d.keys := rfl
@[simp] theorem Dev.await_titles (d : Dev) (q : Req) (w : WaitFor) : (d.await q w).titles = d.titles := rfl
@[simp] theorem Dev.await_pstore (d : Dev) (q : Req) (w : WaitFor) : (d.await q w).pstore = d.pstore := rfl
@[simp] theorem Dev.await_mirror (d : Dev) (q : Req) (w : WaitFor) : (d.await q w).mirror = d.mirror := rfl
@[simp] theorem Dev.await_recorder (d : Dev) (q : Req) (w : WaitFor) : (d.await q w).recorder = d.recorder := rfl
@[simp] theorem Dev.await_images (d : Dev) (q : Req) (w : WaitFor) : (d.await q w).images = d.images := rfl
@[simp] theorem Dev.await_firmware (d : Dev) (q : Req) (w : WaitFor) : (d.await q w).firmware = d.firmware := rfl
@[simp] theorem Dev.await_cart (d : Dev) (q : Req) (w : WaitFor) : (d.await q w).cart = d.cart := rfl
@[simp] theorem Dev.await_seq (d : Dev) (q : Req) (w : WaitFor) : (d.await q w).seq = d.seq := rfl
@[simp] theorem Dev.await_thermal (d : Dev) (q : Req) (w : WaitFor) : (d.await q w).thermal = d.thermal := rfl
@[simp] theorem Dev.await_boot (d : Dev) (q : Req) (w : WaitFor) : (d.await q w).boot = d.boot := rfl
@[simp] theorem Dev.await_pins (d : Dev) (q : Req) (w : WaitFor) : (d.await q w).pins = d.pins := rfl
@[simp] theorem Dev.await_slices (d : Dev) (q : Req) (w : WaitFor) : (d.await q w).slices = d.slices := rfl
@[simp] theorem Dev.await_flushes (d : Dev) (q : Req) (w : WaitFor) : (d.await q w).flushes = d.flushes := rfl
@[simp] theorem Dev.await_nextFlush (d : Dev) (q : Req) (w : WaitFor) : (d.await q w).nextFlush = d.nextFlush := rfl
@[simp] theorem Dev.await_counters (d : Dev) (q : Req) (w : WaitFor) : (d.await q w).counters = d.counters := rfl
@[simp] theorem Dev.await_transition (d : Dev) (q : Req) (w : WaitFor) : (d.await q w).transition = d.transition := rfl
@[simp] theorem Dev.await_preserve (d : Dev) (q : Req) (w : WaitFor) : (d.await q w).preserve = d.preserve := rfl
@[simp] theorem Dev.await_rung (d : Dev) (q : Req) (w : WaitFor) : (d.await q w).rung = d.rung := rfl
@[simp] theorem Dev.await_notStarted (d : Dev) (q : Req) (w : WaitFor) : (d.await q w).notStarted = d.notStarted := rfl
@[simp] theorem Dev.await_working (d : Dev) (q : Req) (w : WaitFor) : (d.await q w).working = d.working := rfl
@[simp] theorem Dev.await_draws (d : Dev) (q : Req) (w : WaitFor) : (d.await q w).draws = d.draws := rfl
@[simp] theorem Dev.await_out (d : Dev) (q : Req) (w : WaitFor) : (d.await q w).out = d.out := rfl

/-! ### Dev.draw -/

@[simp] theorem Dev.draw_part (d : Dev) (m : Nat) : (d.draw m).2.part = d.part := rfl
@[simp] theorem Dev.draw_fuses (d : Dev) (m : Nat) : (d.draw m).2.fuses = d.fuses := rfl
@[simp] theorem Dev.draw_mode (d : Dev) (m : Nat) : (d.draw m).2.mode = d.mode := rfl
@[simp] theorem Dev.draw_clock (d : Dev) (m : Nat) : (d.draw m).2.clock = d.clock := rfl
@[simp] theorem Dev.draw_swap (d : Dev) (m : Nat) : (d.draw m).2.swap = d.swap := rfl
@[simp] theorem Dev.draw_active (d : Dev) (m : Nat) : (d.draw m).2.active = d.active := rfl
@[simp] theorem Dev.draw_shadow (d : Dev) (m : Nat) : (d.draw m).2.shadow = d.shadow := rfl
@[simp] theorem Dev.draw_regs (d : Dev) (m : Nat) : (d.draw m).2.regs = d.regs := rfl
@[simp] theorem Dev.draw_chans (d : Dev) (m : Nat) : (d.draw m).2.chans = d.chans := rfl
@[simp] theorem Dev.draw_i3c (d : Dev) (m : Nat) : (d.draw m).2.i3c = d.i3c := rfl
@[simp] theorem Dev.draw_rings (d : Dev) (m : Nat) : (d.draw m).2.rings = d.rings := rfl
@[simp] theorem Dev.draw_ports (d : Dev) (m : Nat) : (d.draw m).2.ports = d.ports := rfl
@[simp] theorem Dev.draw_std (d : Dev) (m : Nat) : (d.draw m).2.std = d.std := rfl
@[simp] theorem Dev.draw_dbg (d : Dev) (m : Nat) : (d.draw m).2.dbg = d.dbg := rfl
@[simp] theorem Dev.draw_alarms (d : Dev) (m : Nat) : (d.draw m).2.alarms = d.alarms := rfl
@[simp] theorem Dev.draw_keys (d : Dev) (m : Nat) : (d.draw m).2.keys = d.keys := rfl
@[simp] theorem Dev.draw_titles (d : Dev) (m : Nat) : (d.draw m).2.titles = d.titles := rfl
@[simp] theorem Dev.draw_pstore (d : Dev) (m : Nat) : (d.draw m).2.pstore = d.pstore := rfl
@[simp] theorem Dev.draw_mirror (d : Dev) (m : Nat) : (d.draw m).2.mirror = d.mirror := rfl
@[simp] theorem Dev.draw_recorder (d : Dev) (m : Nat) : (d.draw m).2.recorder = d.recorder := rfl
@[simp] theorem Dev.draw_images (d : Dev) (m : Nat) : (d.draw m).2.images = d.images := rfl
@[simp] theorem Dev.draw_firmware (d : Dev) (m : Nat) : (d.draw m).2.firmware = d.firmware := rfl
@[simp] theorem Dev.draw_waiters (d : Dev) (m : Nat) : (d.draw m).2.waiters = d.waiters := rfl
@[simp] theorem Dev.draw_cart (d : Dev) (m : Nat) : (d.draw m).2.cart = d.cart := rfl
@[simp] theorem Dev.draw_seq (d : Dev) (m : Nat) : (d.draw m).2.seq = d.seq := rfl
@[simp] theorem Dev.draw_thermal (d : Dev) (m : Nat) : (d.draw m).2.thermal = d.thermal := rfl
@[simp] theorem Dev.draw_boot (d : Dev) (m : Nat) : (d.draw m).2.boot = d.boot := rfl
@[simp] theorem Dev.draw_pins (d : Dev) (m : Nat) : (d.draw m).2.pins = d.pins := rfl
@[simp] theorem Dev.draw_slices (d : Dev) (m : Nat) : (d.draw m).2.slices = d.slices := rfl
@[simp] theorem Dev.draw_flushes (d : Dev) (m : Nat) : (d.draw m).2.flushes = d.flushes := rfl
@[simp] theorem Dev.draw_nextFlush (d : Dev) (m : Nat) : (d.draw m).2.nextFlush = d.nextFlush := rfl
@[simp] theorem Dev.draw_counters (d : Dev) (m : Nat) : (d.draw m).2.counters = d.counters := rfl
@[simp] theorem Dev.draw_transition (d : Dev) (m : Nat) : (d.draw m).2.transition = d.transition := rfl
@[simp] theorem Dev.draw_preserve (d : Dev) (m : Nat) : (d.draw m).2.preserve = d.preserve := rfl
@[simp] theorem Dev.draw_rung (d : Dev) (m : Nat) : (d.draw m).2.rung = d.rung := rfl
@[simp] theorem Dev.draw_notStarted (d : Dev) (m : Nat) : (d.draw m).2.notStarted = d.notStarted := rfl
@[simp] theorem Dev.draw_working (d : Dev) (m : Nat) : (d.draw m).2.working = d.working := rfl
@[simp] theorem Dev.draw_out (d : Dev) (m : Nat) : (d.draw m).2.out = d.out := rfl

/-! ### Dev.random -/

@[simp] theorem Dev.random_part (d : Dev) : (d.random).2.part = d.part := rfl
@[simp] theorem Dev.random_fuses (d : Dev) : (d.random).2.fuses = d.fuses := rfl
@[simp] theorem Dev.random_mode (d : Dev) : (d.random).2.mode = d.mode := rfl
@[simp] theorem Dev.random_clock (d : Dev) : (d.random).2.clock = d.clock := rfl
@[simp] theorem Dev.random_swap (d : Dev) : (d.random).2.swap = d.swap := rfl
@[simp] theorem Dev.random_active (d : Dev) : (d.random).2.active = d.active := rfl
@[simp] theorem Dev.random_shadow (d : Dev) : (d.random).2.shadow = d.shadow := rfl
@[simp] theorem Dev.random_regs (d : Dev) : (d.random).2.regs = d.regs := rfl
@[simp] theorem Dev.random_chans (d : Dev) : (d.random).2.chans = d.chans := rfl
@[simp] theorem Dev.random_i3c (d : Dev) : (d.random).2.i3c = d.i3c := rfl
@[simp] theorem Dev.random_rings (d : Dev) : (d.random).2.rings = d.rings := rfl
@[simp] theorem Dev.random_ports (d : Dev) : (d.random).2.ports = d.ports := rfl
@[simp] theorem Dev.random_std (d : Dev) : (d.random).2.std = d.std := rfl
@[simp] theorem Dev.random_dbg (d : Dev) : (d.random).2.dbg = d.dbg := rfl
@[simp] theorem Dev.random_alarms (d : Dev) : (d.random).2.alarms = d.alarms := rfl
@[simp] theorem Dev.random_keys (d : Dev) : (d.random).2.keys = d.keys := rfl
@[simp] theorem Dev.random_titles (d : Dev) : (d.random).2.titles = d.titles := rfl
@[simp] theorem Dev.random_pstore (d : Dev) : (d.random).2.pstore = d.pstore := rfl
@[simp] theorem Dev.random_mirror (d : Dev) : (d.random).2.mirror = d.mirror := rfl
@[simp] theorem Dev.random_recorder (d : Dev) : (d.random).2.recorder = d.recorder := rfl
@[simp] theorem Dev.random_images (d : Dev) : (d.random).2.images = d.images := rfl
@[simp] theorem Dev.random_firmware (d : Dev) : (d.random).2.firmware = d.firmware := rfl
@[simp] theorem Dev.random_waiters (d : Dev) : (d.random).2.waiters = d.waiters := rfl
@[simp] theorem Dev.random_cart (d : Dev) : (d.random).2.cart = d.cart := rfl
@[simp] theorem Dev.random_seq (d : Dev) : (d.random).2.seq = d.seq := rfl
@[simp] theorem Dev.random_thermal (d : Dev) : (d.random).2.thermal = d.thermal := rfl
@[simp] theorem Dev.random_boot (d : Dev) : (d.random).2.boot = d.boot := rfl
@[simp] theorem Dev.random_pins (d : Dev) : (d.random).2.pins = d.pins := rfl
@[simp] theorem Dev.random_slices (d : Dev) : (d.random).2.slices = d.slices := rfl
@[simp] theorem Dev.random_flushes (d : Dev) : (d.random).2.flushes = d.flushes := rfl
@[simp] theorem Dev.random_nextFlush (d : Dev) : (d.random).2.nextFlush = d.nextFlush := rfl
@[simp] theorem Dev.random_counters (d : Dev) : (d.random).2.counters = d.counters := rfl
@[simp] theorem Dev.random_transition (d : Dev) : (d.random).2.transition = d.transition := rfl
@[simp] theorem Dev.random_preserve (d : Dev) : (d.random).2.preserve = d.preserve := rfl
@[simp] theorem Dev.random_rung (d : Dev) : (d.random).2.rung = d.rung := rfl
@[simp] theorem Dev.random_notStarted (d : Dev) : (d.random).2.notStarted = d.notStarted := rfl
@[simp] theorem Dev.random_working (d : Dev) : (d.random).2.working = d.working := rfl
@[simp] theorem Dev.random_out (d : Dev) : (d.random).2.out = d.out := rfl

/-! ### What an update writes -/

@[simp] theorem Dev.emit_out (d : Dev) (o : Output) : (d.emit o).out = d.out ++ [o] := rfl
@[simp] theorem Dev.onBoot_boot (d : Dev) (f : BootPort → BootPort) : (d.onBoot f).boot = f d.boot := rfl
@[simp] theorem Dev.onI3c_i3c (d : Dev) (f : I3c → I3c) : (d.onI3c f).i3c = f d.i3c := rfl
@[simp] theorem Dev.onDebug_dbg (d : Dev) (f : Debug → Debug) : (d.onDebug f).dbg = f d.dbg := rfl
@[simp] theorem Dev.onCart_cart (d : Dev) (f : Cart → Cart) : (d.onCart f).cart = f d.cart := rfl
@[simp] theorem Dev.onImages_images (d : Dev) (f : Images → Images) : (d.onImages f).images = f d.images := rfl
@[simp] theorem Dev.onShadow_shadow (d : Dev) (f : Groups → Groups) : (d.onShadow f).shadow = f d.shadow := rfl

/-- An updated list at the index updated, and elsewhere. -/
theorem getD_upd {α : Type} (l : List α) (i k : Nat) (f : α → α) (x : α) :
    (upd l i f).getD k x = if i = k ∧ k < l.length then f (l.getD k x) else l.getD k x := by
  simp only [upd, List.getD_eq_getElem?_getD, List.getElem?_modify]
  by_cases hk : k < l.length
  · by_cases hi : i = k
    · simp [hi, hk]
    · simp [hi, hk]
  · simp [hk]

theorem Dev.onPort_port (d : Dev) (p q : Nat) (f : Port → Port) :
    (d.onPort p f).port q = if p = q ∧ q < d.ports.length then f (d.port q) else d.port q := getD_upd _ _ _ _ _

theorem Dev.onChan_chan (d : Dev) (c k : Nat) (f : Chan → Chan) :
    (d.onChan c f).chan k = if c = k ∧ k < d.chans.length then f (d.chan k) else d.chan k := getD_upd _ _ _ _ _

theorem Dev.onSlice_slice (d : Dev) (i k : Nat) (f : Slice → Slice) :
    (d.onSlice i f).slice k = if i = k ∧ k < d.slices.length then f (d.slice k) else d.slice k := getD_upd _ _ _ _ _

theorem Dev.onTitle_title (d : Dev) (t k : Nat) (f : Title → Title) :
    (d.onTitle t f).title k = if t = k ∧ k < d.titles.length then f (d.title k) else d.title k := getD_upd _ _ _ _ _

end Sys2Proof.Machine
end

