-- ==== Sys2Proof/Laws/Ops.lean ====
section
/-!
SUPPORT. What the shared operations over mailbox output, events and alarms leave as it was: one lemma per operation and
field.
-/
namespace Sys2Proof.Machine

open Sys2Proof

theorem foldl_keeps {α β : Type} (g : Dev → β) (f : Dev → α → Dev) (hf : ∀ d a, g (f d a) = g d) (l : List α) (d : Dev) :
    g (l.foldl f d) = g d := by
  induction l generalizing d with
  | nil => rfl
  | cons a l ih => exact (ih _).trans (hf d a)


/-! ### Dev.chanIrq -/

@[simp] theorem Dev.chanIrq_part (d : Dev) (c v : Nat) : (d.chanIrq c v).part = d.part := by
  unfold Dev.chanIrq
  split <;> rfl
@[simp] theorem Dev.chanIrq_fuses (d : Dev) (c v : Nat) : (d.chanIrq c v).fuses = d.fuses := by
  unfold Dev.chanIrq
  split <;> rfl
@[simp] theorem Dev.chanIrq_mode (d : Dev) (c v : Nat) : (d.chanIrq c v).mode = d.mode := by
  unfold Dev.chanIrq
  split <;> rfl
@[simp] theorem Dev.chanIrq_clock (d : Dev) (c v : Nat) : (d.chanIrq c v).clock = d.clock := by
  unfold Dev.chanIrq
  split <;> rfl
@[simp] theorem Dev.chanIrq_swap (d : Dev) (c v : Nat) : (d.chanIrq c v).swap = d.swap := by
  unfold Dev.chanIrq
  split <;> rfl
@[simp] theorem Dev.chanIrq_active (d : Dev) (c v : Nat) : (d.chanIrq c v).active = d.active := by
  unfold Dev.chanIrq
  split <;> rfl
@[simp] theorem Dev.chanIrq_shadow (d : Dev) (c v : Nat) : (d.chanIrq c v).shadow = d.shadow := by
  unfold Dev.chanIrq
  split <;> rfl
@[simp] theorem Dev.chanIrq_regs (d : Dev) (c v : Nat) : (d.chanIrq c v).regs = d.regs := by
  unfold Dev.chanIrq
  split <;> rfl
@[simp] theorem Dev.chanIrq_chans (d : Dev) (c v : Nat) : (d.chanIrq c v).chans = d.chans := by
  unfold Dev.chanIrq
  split <;> rfl
@[simp] theorem Dev.chanIrq_i3c (d : Dev) (c v : Nat) : (d.chanIrq c v).i3c = d.i3c := by
  unfold Dev.chanIrq
  split <;> rfl
@[simp] theorem Dev.chanIrq_rings (d : Dev) (c v : Nat) : (d.chanIrq c v).rings = d.rings := by
  unfold Dev.chanIrq
  split <;> rfl
@[simp] theorem Dev.chanIrq_ports (d : Dev) (c v : Nat) : (d.chanIrq c v).ports = d.ports := by
  unfold Dev.chanIrq
  split <;> rfl
@[simp] theorem Dev.chanIrq_std (d : Dev) (c v : Nat) : (d.chanIrq c v).std = d.std := by
  unfold Dev.chanIrq
  split <;> rfl
@[simp] theorem Dev.chanIrq_dbg (d : Dev) (c v : Nat) : (d.chanIrq c v).dbg = d.dbg := by
  unfold Dev.chanIrq
  split <;> rfl
@[simp] theorem Dev.chanIrq_alarms (d : Dev) (c v : Nat) : (d.chanIrq c v).alarms = d.alarms := by
  unfold Dev.chanIrq
  split <;> rfl
@[simp] theorem Dev.chanIrq_keys (d : Dev) (c v : Nat) : (d.chanIrq c v).keys = d.keys := by
  unfold Dev.chanIrq
  split <;> rfl
@[simp] theorem Dev.chanIrq_titles (d : Dev) (c v : Nat) : (d.chanIrq c v).titles = d.titles := by
  unfold Dev.chanIrq
  split <;> rfl
@[simp] theorem Dev.chanIrq_pstore (d : Dev) (c v : Nat) : (d.chanIrq c v).pstore = d.pstore := by
  unfold Dev.chanIrq
  split <;> rfl
@[simp] theorem Dev.chanIrq_mirror (d : Dev) (c v : Nat) : (d.chanIrq c v).mirror = d.mirror := by
  unfold Dev.chanIrq
  split <;> rfl
@[simp] theorem Dev.chanIrq_recorder (d : Dev) (c v : Nat) : (d.chanIrq c v).recorder = d.recorder := by
  unfold Dev.chanIrq
  split <;> rfl
@[simp] theorem Dev.chanIrq_images (d : Dev) (c v : Nat) : (d.chanIrq c v).images = d.images := by
  unfold Dev.chanIrq
  split <;> rfl
@[simp] theorem Dev.chanIrq_firmware (d : Dev) (c v : Nat) : (d.chanIrq c v).firmware = d.firmware := by
  unfold Dev.chanIrq
  split <;> rfl
@[simp] theorem Dev.chanIrq_waiters (d : Dev) (c v : Nat) : (d.chanIrq c v).waiters = d.waiters := by
  unfold Dev.chanIrq
  split <;> rfl
@[simp] theorem Dev.chanIrq_cart (d : Dev) (c v : Nat) : (d.chanIrq c v).cart = d.cart := by
  unfold Dev.chanIrq
  split <;> rfl
@[simp] theorem Dev.chanIrq_seq (d : Dev) (c v : Nat) : (d.chanIrq c v).seq = d.seq := by
  unfold Dev.chanIrq
  split <;> rfl
@[simp] theorem Dev.chanIrq_thermal (d : Dev) (c v : Nat) : (d.chanIrq c v).thermal = d.thermal := by
  unfold Dev.chanIrq
  split <;> rfl
@[simp] theorem Dev.chanIrq_boot (d : Dev) (c v : Nat) : (d.chanIrq c v).boot = d.boot := by
  unfold Dev.chanIrq
  split <;> rfl
@[simp] theorem Dev.chanIrq_pins (d : Dev) (c v : Nat) : (d.chanIrq c v).pins = d.pins := by
  unfold Dev.chanIrq
  split <;> rfl
@[simp] theorem Dev.chanIrq_slices (d : Dev) (c v : Nat) : (d.chanIrq c v).slices = d.slices := by
  unfold Dev.chanIrq
  split <;> rfl
@[simp] theorem Dev.chanIrq_flushes (d : Dev) (c v : Nat) : (d.chanIrq c v).flushes = d.flushes := by
  unfold Dev.chanIrq
  split <;> rfl
@[simp] theorem Dev.chanIrq_nextFlush (d : Dev) (c v : Nat) : (d.chanIrq c v).nextFlush = d.nextFlush := by
  unfold Dev.chanIrq
  split <;> rfl
@[simp] theorem Dev.chanIrq_counters (d : Dev) (c v : Nat) : (d.chanIrq c v).counters = d.counters := by
  unfold Dev.chanIrq
  split <;> rfl
@[simp] theorem Dev.chanIrq_transition (d : Dev) (c v : Nat) : (d.chanIrq c v).transition = d.transition := by
  unfold Dev.chanIrq
  split <;> rfl
@[simp] theorem Dev.chanIrq_preserve (d : Dev) (c v : Nat) : (d.chanIrq c v).preserve = d.preserve := by
  unfold Dev.chanIrq
  split <;> rfl
@[simp] theorem Dev.chanIrq_rung (d : Dev) (c v : Nat) : (d.chanIrq c v).rung = d.rung := by
  unfold Dev.chanIrq
  split <;> rfl
@[simp] theorem Dev.chanIrq_draws (d : Dev) (c v : Nat) : (d.chanIrq c v).draws = d.draws := by
  unfold Dev.chanIrq
  split <;> rfl

/-! ### Dev.causeInEmpty -/

@[simp] theorem Dev.causeInEmpty_part (d : Dev) (c : Nat) : (d.causeInEmpty c).part = d.part := by
  unfold Dev.causeInEmpty
  dsimp only
  (repeat' split) <;> simp
@[simp] theorem Dev.causeInEmpty_fuses (d : Dev) (c : Nat) : (d.causeInEmpty c).fuses = d.fuses := by
  unfold Dev.causeInEmpty
  dsimp only
  (repeat' split) <;> simp
@[simp] theorem Dev.causeInEmpty_mode (d : Dev) (c : Nat) : (d.causeInEmpty c).mode = d.mode := by
  unfold Dev.causeInEmpty
  dsimp only
  (repeat' split) <;> simp
@[simp] theorem Dev.causeInEmpty_clock (d : Dev) (c : Nat) : (d.causeInEmpty c).clock = d.clock := by
  unfold Dev.causeInEmpty
  dsimp only
  (repeat' split) <;> simp
@[simp] theorem Dev.causeInEmpty_swap (d : Dev) (c : Nat) : (d.causeInEmpty c).swap = d.swap := by
  unfold Dev.causeInEmpty
  dsimp only
  (repeat' split) <;> simp
@[simp] theorem Dev.causeInEmpty_active (d : Dev) (c : Nat) : (d.causeInEmpty c).active = d.active := by
  unfold Dev.causeInEmpty
  dsimp only
  (repeat' split) <;> simp
@[simp] theorem Dev.causeInEmpty_shadow (d : Dev) (c : Nat) : (d.causeInEmpty c).shadow = d.shadow := by
  unfold Dev.causeInEmpty
  dsimp only
  (repeat' split) <;> simp
@[simp] theorem Dev.causeInEmpty_regs (d : Dev) (c : Nat) : (d.causeInEmpty c).regs = d.regs := by
  unfold Dev.causeInEmpty
  dsimp only
  (repeat' split) <;> simp
@[simp] theorem Dev.causeInEmpty_i3c (d : Dev) (c : Nat) : (d.causeInEmpty c).i3c = d.i3c := by
  unfold Dev.causeInEmpty
  dsimp only
  (repeat' split) <;> simp
@[simp] theorem Dev.causeInEmpty_rings (d : Dev) (c : Nat) : (d.causeInEmpty c).rings = d.rings := by
  unfold Dev.causeInEmpty
  dsimp only
  (repeat' split) <;> simp
@[simp] theorem Dev.causeInEmpty_ports (d : Dev) (c : Nat) : (d.causeInEmpty c).ports = d.ports := by
  unfold Dev.causeInEmpty
  dsimp only
  (repeat' split) <;> simp
@[simp] theorem Dev.causeInEmpty_std (d : Dev) (c : Nat) : (d.causeInEmpty c).std = d.std := by
  unfold Dev.causeInEmpty
  dsimp only
  (repeat' split) <;> simp
@[simp] theorem Dev.causeInEmpty_dbg (d : Dev) (c : Nat) : (d.causeInEmpty c).dbg = d.dbg := by
  unfold Dev.causeInEmpty
  dsimp only
  (repeat' split) <;> simp
@[simp] theorem Dev.causeInEmpty_alarms (d : Dev) (c : Nat) : (d.causeInEmpty c).alarms = d.alarms := by
  unfold Dev.causeInEmpty
  dsimp only
  (repeat' split) <;> simp
@[simp] theorem Dev.causeInEmpty_keys (d : Dev) (c : Nat) : (d.causeInEmpty c).keys = d.keys := by
  unfold Dev.causeInEmpty
  dsimp only
  (repeat' split) <;> simp
@[simp] theorem Dev.causeInEmpty_titles (d : Dev) (c : Nat) : (d.causeInEmpty c).titles = d.titles := by
  unfold Dev.causeInEmpty
  dsimp only
  (repeat' split) <;> simp
@[simp] theorem Dev.causeInEmpty_pstore (d : Dev) (c : Nat) : (d.causeInEmpty c).pstore = d.pstore := by
  unfold Dev.causeInEmpty
  dsimp only
  (repeat' split) <;> simp
@[simp] theorem Dev.causeInEmpty_mirror (d : Dev) (c : Nat) : (d.causeInEmpty c).mirror = d.mirror := by
  unfold Dev.causeInEmpty
  dsimp only
  (repeat' split) <;> simp
@[simp] theorem Dev.causeInEmpty_recorder (d : Dev) (c : Nat) : (d.causeInEmpty c).recorder = d.recorder := by
  unfold Dev.causeInEmpty
  dsimp only
  (repeat' split) <;> simp
@[simp] theorem Dev.causeInEmpty_images (d : Dev) (c : Nat) : (d.causeInEmpty c).images = d.images := by
  unfold Dev.causeInEmpty
  dsimp only
  (repeat' split) <;> simp
@[simp] theorem Dev.causeInEmpty_firmware (d : Dev) (c : Nat) : (d.causeInEmpty c).firmware = d.firmware := by
  unfold Dev.causeInEmpty
  dsimp only
  (repeat' split) <;> simp
@[simp] theorem Dev.causeInEmpty_waiters (d : Dev) (c : Nat) : (d.causeInEmpty c).waiters = d.waiters := by
  unfold Dev.causeInEmpty
  dsimp only
  (repeat' split) <;> simp
@[simp] theorem Dev.causeInEmpty_cart (d : Dev) (c : Nat) : (d.causeInEmpty c).cart = d.cart := by
  unfold Dev.causeInEmpty
  dsimp only
  (repeat' split) <;> simp
@[simp] theorem Dev.causeInEmpty_seq (d : Dev) (c : Nat) : (d.causeInEmpty c).seq = d.seq := by
  unfold Dev.causeInEmpty
  dsimp only
  (repeat' split) <;> simp
@[simp] theorem Dev.causeInEmpty_thermal (d : Dev) (c : Nat) : (d.causeInEmpty c).thermal = d.thermal := by
  unfold Dev.causeInEmpty
  dsimp only
  (repeat' split) <;> simp
@[simp] theorem Dev.causeInEmpty_boot (d : Dev) (c : Nat) : (d.causeInEmpty c).boot = d.boot := by
  unfold Dev.causeInEmpty
  dsimp only
  (repeat' split) <;> simp
@[simp] theorem Dev.causeInEmpty_pins (d : Dev) (c : Nat) : (d.causeInEmpty c).pins = d.pins := by
  unfold Dev.causeInEmpty
  dsimp only
  (repeat' split) <;> simp
@[simp] theorem Dev.causeInEmpty_slices (d : Dev) (c : Nat) : (d.causeInEmpty c).slices = d.slices := by
  unfold Dev.causeInEmpty
  dsimp only
  (repeat' split) <;> simp
@[simp] theorem Dev.causeInEmpty_flushes (d : Dev) (c : Nat) : (d.causeInEmpty c).flushes = d.flushes := by
  unfold Dev.causeInEmpty
  dsimp only
  (repeat' split) <;> simp
@[simp] theorem Dev.causeInEmpty_nextFlush (d : Dev) (c : Nat) : (d.causeInEmpty c).nextFlush = d.nextFlush := by
  unfold Dev.causeInEmpty
  dsimp only
  (repeat' split) <;> simp
@[simp] theorem Dev.causeInEmpty_counters (d : Dev) (c : Nat) : (d.causeInEmpty c).counters = d.counters := by
  unfold Dev.causeInEmpty
  dsimp only
  (repeat' split) <;> simp
@[simp] theorem Dev.causeInEmpty_transition (d : Dev) (c : Nat) : (d.causeInEmpty c).transition = d.transition := by
  unfold Dev.causeInEmpty
  dsimp only
  (repeat' split) <;> simp
@[simp] theorem Dev.causeInEmpty_preserve (d : Dev) (c : Nat) : (d.causeInEmpty c).preserve = d.preserve := by
  unfold Dev.causeInEmpty
  dsimp only
  (repeat' split) <;> simp
@[simp] theorem Dev.causeInEmpty_rung (d : Dev) (c : Nat) : (d.causeInEmpty c).rung = d.rung := by
  unfold Dev.causeInEmpty
  dsimp only
  (repeat' split) <;> simp
@[simp] theorem Dev.causeInEmpty_draws (d : Dev) (c : Nat) : (d.causeInEmpty c).draws = d.draws := by
  unfold Dev.causeInEmpty
  dsimp only
  (repeat' split) <;> simp

/-! ### Dev.causeOutReady -/

@[simp] theorem Dev.causeOutReady_part (d : Dev) (c : Nat) : (d.causeOutReady c).part = d.part := by
  unfold Dev.causeOutReady
  dsimp only
  (repeat' split) <;> simp
@[simp] theorem Dev.causeOutReady_fuses (d : Dev) (c : Nat) : (d.causeOutReady c).fuses = d.fuses := by
  unfold Dev.causeOutReady
  dsimp only
  (repeat' split) <;> simp
@[simp] theorem Dev.causeOutReady_mode (d : Dev) (c : Nat) : (d.causeOutReady c).mode = d.mode := by
  unfold Dev.causeOutReady
  dsimp only
  (repeat' split) <;> simp
@[simp] theorem Dev.causeOutReady_clock (d : Dev) (c : Nat) : (d.causeOutReady c).clock = d.clock := by
  unfold Dev.causeOutReady
  dsimp only
  (repeat' split) <;> simp
@[simp] theorem Dev.causeOutReady_swap (d : Dev) (c : Nat) : (d.causeOutReady c).swap = d.swap := by
  unfold Dev.causeOutReady
  dsimp only
  (repeat' split) <;> simp
@[simp] theorem Dev.causeOutReady_active (d : Dev) (c : Nat) : (d.causeOutReady c).active = d.active := by
  unfold Dev.causeOutReady
  dsimp only
  (repeat' split) <;> simp
@[simp] theorem Dev.causeOutReady_shadow (d : Dev) (c : Nat) : (d.causeOutReady c).shadow = d.shadow := by
  unfold Dev.causeOutReady
  dsimp only
  (repeat' split) <;> simp
@[simp] theorem Dev.causeOutReady_regs (d : Dev) (c : Nat) : (d.causeOutReady c).regs = d.regs := by
  unfold Dev.causeOutReady
  dsimp only
  (repeat' split) <;> simp
@[simp] theorem Dev.causeOutReady_i3c (d : Dev) (c : Nat) : (d.causeOutReady c).i3c = d.i3c := by
  unfold Dev.causeOutReady
  dsimp only
  (repeat' split) <;> simp
@[simp] theorem Dev.causeOutReady_rings (d : Dev) (c : Nat) : (d.causeOutReady c).rings = d.rings := by
  unfold Dev.causeOutReady
  dsimp only
  (repeat' split) <;> simp
@[simp] theorem Dev.causeOutReady_ports (d : Dev) (c : Nat) : (d.causeOutReady c).ports = d.ports := by
  unfold Dev.causeOutReady
  dsimp only
  (repeat' split) <;> simp
@[simp] theorem Dev.causeOutReady_std (d : Dev) (c : Nat) : (d.causeOutReady c).std = d.std := by
  unfold Dev.causeOutReady
  dsimp only
  (repeat' split) <;> simp
@[simp] theorem Dev.causeOutReady_dbg (d : Dev) (c : Nat) : (d.causeOutReady c).dbg = d.dbg := by
  unfold Dev.causeOutReady
  dsimp only
  (repeat' split) <;> simp
@[simp] theorem Dev.causeOutReady_alarms (d : Dev) (c : Nat) : (d.causeOutReady c).alarms = d.alarms := by
  unfold Dev.causeOutReady
  dsimp only
  (repeat' split) <;> simp
@[simp] theorem Dev.causeOutReady_keys (d : Dev) (c : Nat) : (d.causeOutReady c).keys = d.keys := by
  unfold Dev.causeOutReady
  dsimp only
  (repeat' split) <;> simp
@[simp] theorem Dev.causeOutReady_titles (d : Dev) (c : Nat) : (d.causeOutReady c).titles = d.titles := by
  unfold Dev.causeOutReady
  dsimp only
  (repeat' split) <;> simp
@[simp] theorem Dev.causeOutReady_pstore (d : Dev) (c : Nat) : (d.causeOutReady c).pstore = d.pstore := by
  unfold Dev.causeOutReady
  dsimp only
  (repeat' split) <;> simp
@[simp] theorem Dev.causeOutReady_mirror (d : Dev) (c : Nat) : (d.causeOutReady c).mirror = d.mirror := by
  unfold Dev.causeOutReady
  dsimp only
  (repeat' split) <;> simp
@[simp] theorem Dev.causeOutReady_recorder (d : Dev) (c : Nat) : (d.causeOutReady c).recorder = d.recorder := by
  unfold Dev.causeOutReady
  dsimp only
  (repeat' split) <;> simp
@[simp] theorem Dev.causeOutReady_images (d : Dev) (c : Nat) : (d.causeOutReady c).images = d.images := by
  unfold Dev.causeOutReady
  dsimp only
  (repeat' split) <;> simp
@[simp] theorem Dev.causeOutReady_firmware (d : Dev) (c : Nat) : (d.causeOutReady c).firmware = d.firmware := by
  unfold Dev.causeOutReady
  dsimp only
  (repeat' split) <;> simp
@[simp] theorem Dev.causeOutReady_waiters (d : Dev) (c : Nat) : (d.causeOutReady c).waiters = d.waiters := by
  unfold Dev.causeOutReady
  dsimp only
  (repeat' split) <;> simp
@[simp] theorem Dev.causeOutReady_cart (d : Dev) (c : Nat) : (d.causeOutReady c).cart = d.cart := by
  unfold Dev.causeOutReady
  dsimp only
  (repeat' split) <;> simp
@[simp] theorem Dev.causeOutReady_seq (d : Dev) (c : Nat) : (d.causeOutReady c).seq = d.seq := by
  unfold Dev.causeOutReady
  dsimp only
  (repeat' split) <;> simp
@[simp] theorem Dev.causeOutReady_thermal (d : Dev) (c : Nat) : (d.causeOutReady c).thermal = d.thermal := by
  unfold Dev.causeOutReady
  dsimp only
  (repeat' split) <;> simp
@[simp] theorem Dev.causeOutReady_boot (d : Dev) (c : Nat) : (d.causeOutReady c).boot = d.boot := by
  unfold Dev.causeOutReady
  dsimp only
  (repeat' split) <;> simp
@[simp] theorem Dev.causeOutReady_pins (d : Dev) (c : Nat) : (d.causeOutReady c).pins = d.pins := by
  unfold Dev.causeOutReady
  dsimp only
  (repeat' split) <;> simp
@[simp] theorem Dev.causeOutReady_slices (d : Dev) (c : Nat) : (d.causeOutReady c).slices = d.slices := by
  unfold Dev.causeOutReady
  dsimp only
  (repeat' split) <;> simp
@[simp] theorem Dev.causeOutReady_flushes (d : Dev) (c : Nat) : (d.causeOutReady c).flushes = d.flushes := by
  unfold Dev.causeOutReady
  dsimp only
  (repeat' split) <;> simp
@[simp] theorem Dev.causeOutReady_nextFlush (d : Dev) (c : Nat) : (d.causeOutReady c).nextFlush = d.nextFlush := by
  unfold Dev.causeOutReady
  dsimp only
  (repeat' split) <;> simp
@[simp] theorem Dev.causeOutReady_counters (d : Dev) (c : Nat) : (d.causeOutReady c).counters = d.counters := by
  unfold Dev.causeOutReady
  dsimp only
  (repeat' split) <;> simp
@[simp] theorem Dev.causeOutReady_transition (d : Dev) (c : Nat) : (d.causeOutReady c).transition = d.transition := by
  unfold Dev.causeOutReady
  dsimp only
  (repeat' split) <;> simp
@[simp] theorem Dev.causeOutReady_preserve (d : Dev) (c : Nat) : (d.causeOutReady c).preserve = d.preserve := by
  unfold Dev.causeOutReady
  dsimp only
  (repeat' split) <;> simp
@[simp] theorem Dev.causeOutReady_rung (d : Dev) (c : Nat) : (d.causeOutReady c).rung = d.rung := by
  unfold Dev.causeOutReady
  dsimp only
  (repeat' split) <;> simp
@[simp] theorem Dev.causeOutReady_draws (d : Dev) (c : Nat) : (d.causeOutReady c).draws = d.draws := by
  unfold Dev.causeOutReady
  dsimp only
  (repeat' split) <;> simp

/-! ### Dev.pushMessage -/

@[simp] theorem Dev.pushMessage_part (d : Dev) (c : Nat) (ws : List Word) : (d.pushMessage c ws).part = d.part := by simp [Dev.pushMessage]
@[simp] theorem Dev.pushMessage_fuses (d : Dev) (c : Nat) (ws : List Word) : (d.pushMessage c ws).fuses = d.fuses := by simp [Dev.pushMessage]
@[simp] theorem Dev.pushMessage_mode (d : Dev) (c : Nat) (ws : List Word) : (d.pushMessage c ws).mode = d.mode := by simp [Dev.pushMessage]
@[simp] theorem Dev.pushMessage_clock (d : Dev) (c : Nat) (ws : List Word) : (d.pushMessage c ws).clock = d.clock := by simp [Dev.pushMessage]
@[simp] theorem Dev.pushMessage_swap (d : Dev) (c : Nat) (ws : List Word) : (d.pushMessage c ws).swap = d.swap := by simp [Dev.pushMessage]
@[simp] theorem Dev.pushMessage_active (d : Dev) (c : Nat) (ws : List Word) : (d.pushMessage c ws).active = d.active := by simp [Dev.pushMessage]
@[simp] theorem Dev.pushMessage_shadow (d : Dev) (c : Nat) (ws : List Word) : (d.pushMessage c ws).shadow = d.shadow := by simp [Dev.pushMessage]
@[simp] theorem Dev.pushMessage_regs (d : Dev) (c : Nat) (ws : List Word) : (d.pushMessage c ws).regs = d.regs := by simp [Dev.pushMessage]
@[simp] theorem Dev.pushMessage_i3c (d : Dev) (c : Nat) (ws : List Word) : (d.pushMessage c ws).i3c = d.i3c := by simp [Dev.pushMessage]
@[simp] theorem Dev.pushMessage_rings (d : Dev) (c : Nat) (ws : List Word) : (d.pushMessage c ws).rings = d.rings := by simp [Dev.pushMessage]
@[simp] theorem Dev.pushMessage_ports (d : Dev) (c : Nat) (ws : List Word) : (d.pushMessage c ws).ports = d.ports := by simp [Dev.pushMessage]
@[simp] theorem Dev.pushMessage_std (d : Dev) (c : Nat) (ws : List Word) : (d.pushMessage c ws).std = d.std := by simp [Dev.pushMessage]
@[simp] theorem Dev.pushMessage_dbg (d : Dev) (c : Nat) (ws : List Word) : (d.pushMessage c ws).dbg = d.dbg := by simp [Dev.pushMessage]
@[simp] theorem Dev.pushMessage_alarms (d : Dev) (c : Nat) (ws : List Word) : (d.pushMessage c ws).alarms = d.alarms := by simp [Dev.pushMessage]
@[simp] theorem Dev.pushMessage_keys (d : Dev) (c : Nat) (ws : List Word) : (d.pushMessage c ws).keys = d.keys := by simp [Dev.pushMessage]
@[simp] theorem Dev.pushMessage_titles (d : Dev) (c : Nat) (ws : List Word) : (d.pushMessage c ws).titles = d.titles := by simp [Dev.pushMessage]
@[simp] theorem Dev.pushMessage_pstore (d : Dev) (c : Nat) (ws : List Word) : (d.pushMessage c ws).pstore = d.pstore := by simp [Dev.pushMessage]
@[simp] theorem Dev.pushMessage_mirror (d : Dev) (c : Nat) (ws : List Word) : (d.pushMessage c ws).mirror = d.mirror := by simp [Dev.pushMessage]
@[simp] theorem Dev.pushMessage_recorder (d : Dev) (c : Nat) (ws : List Word) : (d.pushMessage c ws).recorder = d.recorder := by simp [Dev.pushMessage]
@[simp] theorem Dev.pushMessage_images (d : Dev) (c : Nat) (ws : List Word) : (d.pushMessage c ws).images = d.images := by simp [Dev.pushMessage]
@[simp] theorem Dev.pushMessage_firmware (d : Dev) (c : Nat) (ws : List Word) : (d.pushMessage c ws).firmware = d.firmware := by simp [Dev.pushMessage]
@[simp] theorem Dev.pushMessage_waiters (d : Dev) (c : Nat) (ws : List Word) : (d.pushMessage c ws).waiters = d.waiters := by simp [Dev.pushMessage]
@[simp] theorem Dev.pushMessage_cart (d : Dev) (c : Nat) (ws : List Word) : (d.pushMessage c ws).cart = d.cart := by simp [Dev.pushMessage]
@[simp] theorem Dev.pushMessage_seq (d : Dev) (c : Nat) (ws : List Word) : (d.pushMessage c ws).seq = d.seq := by simp [Dev.pushMessage]
@[simp] theorem Dev.pushMessage_thermal (d : Dev) (c : Nat) (ws : List Word) : (d.pushMessage c ws).thermal = d.thermal := by simp [Dev.pushMessage]
@[simp] theorem Dev.pushMessage_boot (d : Dev) (c : Nat) (ws : List Word) : (d.pushMessage c ws).boot = d.boot := by simp [Dev.pushMessage]
@[simp] theorem Dev.pushMessage_pins (d : Dev) (c : Nat) (ws : List Word) : (d.pushMessage c ws).pins = d.pins := by simp [Dev.pushMessage]
@[simp] theorem Dev.pushMessage_slices (d : Dev) (c : Nat) (ws : List Word) : (d.pushMessage c ws).slices = d.slices := by simp [Dev.pushMessage]
@[simp] theorem Dev.pushMessage_flushes (d : Dev) (c : Nat) (ws : List Word) : (d.pushMessage c ws).flushes = d.flushes := by simp [Dev.pushMessage]
@[simp] theorem Dev.pushMessage_nextFlush (d : Dev) (c : Nat) (ws : List Word) : (d.pushMessage c ws).nextFlush = d.nextFlush := by simp [Dev.pushMessage]
@[simp] theorem Dev.pushMessage_counters (d : Dev) (c : Nat) (ws : List Word) : (d.pushMessage c ws).counters = d.counters := by simp [Dev.pushMessage]
@[simp] theorem Dev.pushMessage_transition (d : Dev) (c : Nat) (ws : List Word) : (d.pushMessage c ws).transition = d.transition := by simp [Dev.pushMessage]
@[simp] theorem Dev.pushMessage_preserve (d : Dev) (c : Nat) (ws : List Word) : (d.pushMessage c ws).preserve = d.preserve := by simp [Dev.pushMessage]
@[simp] theorem Dev.pushMessage_rung (d : Dev) (c : Nat) (ws : List Word) : (d.pushMessage c ws).rung = d.rung := by simp [Dev.pushMessage]
@[simp] theorem Dev.pushMessage_draws (d : Dev) (c : Nat) (ws : List Word) : (d.pushMessage c ws).draws = d.draws := by simp [Dev.pushMessage]

/-! ### Dev.drainOut -/

@[simp] theorem Dev.drainOut_part (d : Dev) (c n : Nat) : (d.drainOut c n).part = d.part := by
  induction n generalizing d with
  | zero => rfl
  | succ n ih =>
    unfold Dev.drainOut
    dsimp only
    (repeat' split) <;> simp [ih]
@[simp] theorem Dev.drainOut_fuses (d : Dev) (c n : Nat) : (d.drainOut c n).fuses = d.fuses := by
  induction n generalizing d with
  | zero => rfl
  | succ n ih =>
    unfold Dev.drainOut
    dsimp only
    (repeat' split) <;> simp [ih]
@[simp] theorem Dev.drainOut_mode (d : Dev) (c n : Nat) : (d.drainOut c n).mode = d.mode := by
  induction n generalizing d with
  | zero => rfl
  | succ n ih =>
    unfold Dev.drainOut
    dsimp only
    (repeat' split) <;> simp [ih]
@[simp] theorem Dev.drainOut_clock (d : Dev) (c n : Nat) : (d.drainOut c n).clock = d.clock := by
  induction n generalizing d with
  | zero => rfl
  | succ n ih =>
    unfold Dev.drainOut
    dsimp only
    (repeat' split) <;> simp [ih]
@[simp] theorem Dev.drainOut_swap (d : Dev) (c n : Nat) : (d.drainOut c n).swap = d.swap := by
  induction n generalizing d with
  | zero => rfl
  | succ n ih =>
    unfold Dev.drainOut
    dsimp only
    (repeat' split) <;> simp [ih]
@[simp] theorem Dev.drainOut_active (d : Dev) (c n : Nat) : (d.drainOut c n).active = d.active := by
  induction n generalizing d with
  | zero => rfl
  | succ n ih =>
    unfold Dev.drainOut
    dsimp only
    (repeat' split) <;> simp [ih]
@[simp] theorem Dev.drainOut_shadow (d : Dev) (c n : Nat) : (d.drainOut c n).shadow = d.shadow := by
  induction n generalizing d with
  | zero => rfl
  | succ n ih =>
    unfold Dev.drainOut
    dsimp only
    (repeat' split) <;> simp [ih]
@[simp] theorem Dev.drainOut_regs (d : Dev) (c n : Nat) : (d.drainOut c n).regs = d.regs := by
  induction n generalizing d with
  | zero => rfl
  | succ n ih =>
    unfold Dev.drainOut
    dsimp only
    (repeat' split) <;> simp [ih]
@[simp] theorem Dev.drainOut_i3c (d : Dev) (c n : Nat) : (d.drainOut c n).i3c = d.i3c := by
  induction n generalizing d with
  | zero => rfl
  | succ n ih =>
    unfold Dev.drainOut
    dsimp only
    (repeat' split) <;> simp [ih]
@[simp] theorem Dev.drainOut_rings (d : Dev) (c n : Nat) : (d.drainOut c n).rings = d.rings := by
  induction n generalizing d with
  | zero => rfl
  | succ n ih =>
    unfold Dev.drainOut
    dsimp only
    (repeat' split) <;> simp [ih]
@[simp] theorem Dev.drainOut_ports (d : Dev) (c n : Nat) : (d.drainOut c n).ports = d.ports := by
  induction n generalizing d with
  | zero => rfl
  | succ n ih =>
    unfold Dev.drainOut
    dsimp only
    (repeat' split) <;> simp [ih]
@[simp] theorem Dev.drainOut_std (d : Dev) (c n : Nat) : (d.drainOut c n).std = d.std := by
  induction n generalizing d with
  | zero => rfl
  | succ n ih =>
    unfold Dev.drainOut
    dsimp only
    (repeat' split) <;> simp [ih]
@[simp] theorem Dev.drainOut_dbg (d : Dev) (c n : Nat) : (d.drainOut c n).dbg = d.dbg := by
  induction n generalizing d with
  | zero => rfl
  | succ n ih =>
    unfold Dev.drainOut
    dsimp only
    (repeat' split) <;> simp [ih]
@[simp] theorem Dev.drainOut_alarms (d : Dev) (c n : Nat) : (d.drainOut c n).alarms = d.alarms := by
  induction n generalizing d with
  | zero => rfl
  | succ n ih =>
    unfold Dev.drainOut
    dsimp only
    (repeat' split) <;> simp [ih]
@[simp] theorem Dev.drainOut_keys (d : Dev) (c n : Nat) : (d.drainOut c n).keys = d.keys := by
  induction n generalizing d with
  | zero => rfl
  | succ n ih =>
    unfold Dev.drainOut
    dsimp only
    (repeat' split) <;> simp [ih]
@[simp] theorem Dev.drainOut_titles (d : Dev) (c n : Nat) : (d.drainOut c n).titles = d.titles := by
  induction n generalizing d with
  | zero => rfl
  | succ n ih =>
    unfold Dev.drainOut
    dsimp only
    (repeat' split) <;> simp [ih]
@[simp] theorem Dev.drainOut_pstore (d : Dev) (c n : Nat) : (d.drainOut c n).pstore = d.pstore := by
  induction n generalizing d with
  | zero => rfl
  | succ n ih =>
    unfold Dev.drainOut
    dsimp only
    (repeat' split) <;> simp [ih]
@[simp] theorem Dev.drainOut_mirror (d : Dev) (c n : Nat) : (d.drainOut c n).mirror = d.mirror := by
  induction n generalizing d with
  | zero => rfl
  | succ n ih =>
    unfold Dev.drainOut
    dsimp only
    (repeat' split) <;> simp [ih]
@[simp] theorem Dev.drainOut_recorder (d : Dev) (c n : Nat) : (d.drainOut c n).recorder = d.recorder := by
  induction n generalizing d with
  | zero => rfl
  | succ n ih =>
    unfold Dev.drainOut
    dsimp only
    (repeat' split) <;> simp [ih]
@[simp] theorem Dev.drainOut_images (d : Dev) (c n : Nat) : (d.drainOut c n).images = d.images := by
  induction n generalizing d with
  | zero => rfl
  | succ n ih =>
    unfold Dev.drainOut
    dsimp only
    (repeat' split) <;> simp [ih]
@[simp] theorem Dev.drainOut_firmware (d : Dev) (c n : Nat) : (d.drainOut c n).firmware = d.firmware := by
  induction n generalizing d with
  | zero => rfl
  | succ n ih =>
    unfold Dev.drainOut
    dsimp only
    (repeat' split) <;> simp [ih]
@[simp] theorem Dev.drainOut_waiters (d : Dev) (c n : Nat) : (d.drainOut c n).waiters = d.waiters := by
  induction n generalizing d with
  | zero => rfl
  | succ n ih =>
    unfold Dev.drainOut
    dsimp only
    (repeat' split) <;> simp [ih]
@[simp] theorem Dev.drainOut_cart (d : Dev) (c n : Nat) : (d.drainOut c n).cart = d.cart := by
  induction n generalizing d with
  | zero => rfl
  | succ n ih =>
    unfold Dev.drainOut
    dsimp only
    (repeat' split) <;> simp [ih]
@[simp] theorem Dev.drainOut_seq (d : Dev) (c n : Nat) : (d.drainOut c n).seq = d.seq := by
  induction n generalizing d with
  | zero => rfl
  | succ n ih =>
    unfold Dev.drainOut
    dsimp only
    (repeat' split) <;> simp [ih]
@[simp] theorem Dev.drainOut_thermal (d : Dev) (c n : Nat) : (d.drainOut c n).thermal = d.thermal := by
  induction n generalizing d with
  | zero => rfl
  | succ n ih =>
    unfold Dev.drainOut
    dsimp only
    (repeat' split) <;> simp [ih]
@[simp] theorem Dev.drainOut_boot (d : Dev) (c n : Nat) : (d.drainOut c n).boot = d.boot := by
  induction n generalizing d with
  | zero => rfl
  | succ n ih =>
    unfold Dev.drainOut
    dsimp only
    (repeat' split) <;> simp [ih]
@[simp] theorem Dev.drainOut_pins (d : Dev) (c n : Nat) : (d.drainOut c n).pins = d.pins := by
  induction n generalizing d with
  | zero => rfl
  | succ n ih =>
    unfold Dev.drainOut
    dsimp only
    (repeat' split) <;> simp [ih]
@[simp] theorem Dev.drainOut_slices (d : Dev) (c n : Nat) : (d.drainOut c n).slices = d.slices := by
  induction n generalizing d with
  | zero => rfl
  | succ n ih =>
    unfold Dev.drainOut
    dsimp only
    (repeat' split) <;> simp [ih]
@[simp] theorem Dev.drainOut_flushes (d : Dev) (c n : Nat) : (d.drainOut c n).flushes = d.flushes := by
  induction n generalizing d with
  | zero => rfl
  | succ n ih =>
    unfold Dev.drainOut
    dsimp only
    (repeat' split) <;> simp [ih]
@[simp] theorem Dev.drainOut_nextFlush (d : Dev) (c n : Nat) : (d.drainOut c n).nextFlush = d.nextFlush := by
  induction n generalizing d with
  | zero => rfl
  | succ n ih =>
    unfold Dev.drainOut
    dsimp only
    (repeat' split) <;> simp [ih]
@[simp] theorem Dev.drainOut_counters (d : Dev) (c n : Nat) : (d.drainOut c n).counters = d.counters := by
  induction n generalizing d with
  | zero => rfl
  | succ n ih =>
    unfold Dev.drainOut
    dsimp only
    (repeat' split) <;> simp [ih]
@[simp] theorem Dev.drainOut_transition (d : Dev) (c n : Nat) : (d.drainOut c n).transition = d.transition := by
  induction n generalizing d with
  | zero => rfl
  | succ n ih =>
    unfold Dev.drainOut
    dsimp only
    (repeat' split) <;> simp [ih]
@[simp] theorem Dev.drainOut_preserve (d : Dev) (c n : Nat) : (d.drainOut c n).preserve = d.preserve := by
  induction n generalizing d with
  | zero => rfl
  | succ n ih =>
    unfold Dev.drainOut
    dsimp only
    (repeat' split) <;> simp [ih]
@[simp] theorem Dev.drainOut_rung (d : Dev) (c n : Nat) : (d.drainOut c n).rung = d.rung := by
  induction n generalizing d with
  | zero => rfl
  | succ n ih =>
    unfold Dev.drainOut
    dsimp only
    (repeat' split) <;> simp [ih]
@[simp] theorem Dev.drainOut_draws (d : Dev) (c n : Nat) : (d.drainOut c n).draws = d.draws := by
  induction n generalizing d with
  | zero => rfl
  | succ n ih =>
    unfold Dev.drainOut
    dsimp only
    (repeat' split) <;> simp [ih]

/-! ### Dev.pump -/

@[simp] theorem Dev.pump_part (d : Dev) (c : Nat) : (d.pump c).part = d.part := by simp [Dev.pump]
@[simp] theorem Dev.pump_fuses (d : Dev) (c : Nat) : (d.pump c).fuses = d.fuses := by simp [Dev.pump]
@[simp] theorem Dev.pump_mode (d : Dev) (c : Nat) : (d.pump c).mode = d.mode := by simp [Dev.pump]
@[simp] theorem Dev.pump_clock (d : Dev) (c : Nat) : (d.pump c).clock = d.clock := by simp [Dev.pump]
@[simp] theorem Dev.pump_swap (d : Dev) (c : Nat) : (d.pump c).swap = d.swap := by simp [Dev.pump]
@[simp] theorem Dev.pump_active (d : Dev) (c : Nat) : (d.pump c).active = d.active := by simp [Dev.pump]
@[simp] theorem Dev.pump_shadow (d : Dev) (c : Nat) : (d.pump c).shadow = d.shadow := by simp [Dev.pump]
@[simp] theorem Dev.pump_regs (d : Dev) (c : Nat) : (d.pump c).regs = d.regs := by simp [Dev.pump]
@[simp] theorem Dev.pump_i3c (d : Dev) (c : Nat) : (d.pump c).i3c = d.i3c := by simp [Dev.pump]
@[simp] theorem Dev.pump_rings (d : Dev) (c : Nat) : (d.pump c).rings = d.rings := by simp [Dev.pump]
@[simp] theorem Dev.pump_ports (d : Dev) (c : Nat) : (d.pump c).ports = d.ports := by simp [Dev.pump]
@[simp] theorem Dev.pump_std (d : Dev) (c : Nat) : (d.pump c).std = d.std := by simp [Dev.pump]
@[simp] theorem Dev.pump_dbg (d : Dev) (c : Nat) : (d.pump c).dbg = d.dbg := by simp [Dev.pump]
@[simp] theorem Dev.pump_alarms (d : Dev) (c : Nat) : (d.pump c).alarms = d.alarms := by simp [Dev.pump]
@[simp] theorem Dev.pump_keys (d : Dev) (c : Nat) : (d.pump c).keys = d.keys := by simp [Dev.pump]
@[simp] theorem Dev.pump_titles (d : Dev) (c : Nat) : (d.pump c).titles = d.titles := by simp [Dev.pump]
@[simp] theorem Dev.pump_pstore (d : Dev) (c : Nat) : (d.pump c).pstore = d.pstore := by simp [Dev.pump]
@[simp] theorem Dev.pump_mirror (d : Dev) (c : Nat) : (d.pump c).mirror = d.mirror := by simp [Dev.pump]
@[simp] theorem Dev.pump_recorder (d : Dev) (c : Nat) : (d.pump c).recorder = d.recorder := by simp [Dev.pump]
@[simp] theorem Dev.pump_images (d : Dev) (c : Nat) : (d.pump c).images = d.images := by simp [Dev.pump]
@[simp] theorem Dev.pump_firmware (d : Dev) (c : Nat) : (d.pump c).firmware = d.firmware := by simp [Dev.pump]
@[simp] theorem Dev.pump_waiters (d : Dev) (c : Nat) : (d.pump c).waiters = d.waiters := by simp [Dev.pump]
@[simp] theorem Dev.pump_cart (d : Dev) (c : Nat) : (d.pump c).cart = d.cart := by simp [Dev.pump]
@[simp] theorem Dev.pump_seq (d : Dev) (c : Nat) : (d.pump c).seq = d.seq := by simp [Dev.pump]
@[simp] theorem Dev.pump_thermal (d : Dev) (c : Nat) : (d.pump c).thermal = d.thermal := by simp [Dev.pump]
@[simp] theorem Dev.pump_boot (d : Dev) (c : Nat) : (d.pump c).boot = d.boot := by simp [Dev.pump]
@[simp] theorem Dev.pump_pins (d : Dev) (c : Nat) : (d.pump c).pins = d.pins := by simp [Dev.pump]
@[simp] theorem Dev.pump_slices (d : Dev) (c : Nat) : (d.pump c).slices = d.slices := by simp [Dev.pump]
@[simp] theorem Dev.pump_flushes (d : Dev) (c : Nat) : (d.pump c).flushes = d.flushes := by simp [Dev.pump]
@[simp] theorem Dev.pump_nextFlush (d : Dev) (c : Nat) : (d.pump c).nextFlush = d.nextFlush := by simp [Dev.pump]
@[simp] theorem Dev.pump_counters (d : Dev) (c : Nat) : (d.pump c).counters = d.counters := by simp [Dev.pump]
@[simp] theorem Dev.pump_transition (d : Dev) (c : Nat) : (d.pump c).transition = d.transition := by simp [Dev.pump]
@[simp] theorem Dev.pump_preserve (d : Dev) (c : Nat) : (d.pump c).preserve = d.preserve := by simp [Dev.pump]
@[simp] theorem Dev.pump_rung (d : Dev) (c : Nat) : (d.pump c).rung = d.rung := by simp [Dev.pump]
@[simp] theorem Dev.pump_draws (d : Dev) (c : Nat) : (d.pump c).draws = d.draws := by simp [Dev.pump]

/-! ### Dev.respond -/

@[simp] theorem Dev.respond_part (d : Dev) (c op tag flags status : Nat) (ws : List Word) : (d.respond c op tag flags status ws).part = d.part := by simp [Dev.respond]
@[simp] theorem Dev.respond_fuses (d : Dev) (c op tag flags status : Nat) (ws : List Word) : (d.respond c op tag flags status ws).fuses = d.fuses := by simp [Dev.respond]
@[simp] theorem Dev.respond_mode (d : Dev) (c op tag flags status : Nat) (ws : List Word) : (d.respond c op tag flags status ws).mode = d.mode := by simp [Dev.respond]
@[simp] theorem Dev.respond_clock (d : Dev) (c op tag flags status : Nat) (ws : List Word) : (d.respond c op tag flags status ws).clock = d.clock := by simp [Dev.respond]
@[simp] theorem Dev.respond_swap (d : Dev) (c op tag flags status : Nat) (ws : List Word) : (d.respond c op tag flags status ws).swap = d.swap := by simp [Dev.respond]
@[simp] theorem Dev.respond_active (d : Dev) (c op tag flags status : Nat) (ws : List Word) : (d.respond c op tag flags status ws).active = d.active := by simp [Dev.respond]
@[simp] theorem Dev.respond_shadow (d : Dev) (c op tag flags status : Nat) (ws : List Word) : (d.respond c op tag flags status ws).shadow = d.shadow := by simp [Dev.respond]
@[simp] theorem Dev.respond_regs (d : Dev) (c op tag flags status : Nat) (ws : List Word) : (d.respond c op tag flags status ws).regs = d.regs := by simp [Dev.respond]
@[simp] theorem Dev.respond_i3c (d : Dev) (c op tag flags status : Nat) (ws : List Word) : (d.respond c op tag flags status ws).i3c = d.i3c := by simp [Dev.respond]
@[simp] theorem Dev.respond_rings (d : Dev) (c op tag flags status : Nat) (ws : List Word) : (d.respond c op tag flags status ws).rings = d.rings := by simp [Dev.respond]
@[simp] theorem Dev.respond_ports (d : Dev) (c op tag flags status : Nat) (ws : List Word) : (d.respond c op tag flags status ws).ports = d.ports := by simp [Dev.respond]
@[simp] theorem Dev.respond_std (d : Dev) (c op tag flags status : Nat) (ws : List Word) : (d.respond c op tag flags status ws).std = d.std := by simp [Dev.respond]
@[simp] theorem Dev.respond_dbg (d : Dev) (c op tag flags status : Nat) (ws : List Word) : (d.respond c op tag flags status ws).dbg = d.dbg := by simp [Dev.respond]
@[simp] theorem Dev.respond_alarms (d : Dev) (c op tag flags status : Nat) (ws : List Word) : (d.respond c op tag flags status ws).alarms = d.alarms := by simp [Dev.respond]
@[simp] theorem Dev.respond_keys (d : Dev) (c op tag flags status : Nat) (ws : List Word) : (d.respond c op tag flags status ws).keys = d.keys := by simp [Dev.respond]
@[simp] theorem Dev.respond_titles (d : Dev) (c op tag flags status : Nat) (ws : List Word) : (d.respond c op tag flags status ws).titles = d.titles := by simp [Dev.respond]
@[simp] theorem Dev.respond_pstore (d : Dev) (c op tag flags status : Nat) (ws : List Word) : (d.respond c op tag flags status ws).pstore = d.pstore := by simp [Dev.respond]
@[simp] theorem Dev.respond_mirror (d : Dev) (c op tag flags status : Nat) (ws : List Word) : (d.respond c op tag flags status ws).mirror = d.mirror := by simp [Dev.respond]
@[simp] theorem Dev.respond_recorder (d : Dev) (c op tag flags status : Nat) (ws : List Word) : (d.respond c op tag flags status ws).recorder = d.recorder := by simp [Dev.respond]
@[simp] theorem Dev.respond_images (d : Dev) (c op tag flags status : Nat) (ws : List Word) : (d.respond c op tag flags status ws).images = d.images := by simp [Dev.respond]
@[simp] theorem Dev.respond_firmware (d : Dev) (c op tag flags status : Nat) (ws : List Word) : (d.respond c op tag flags status ws).firmware = d.firmware := by simp [Dev.respond]
@[simp] theorem Dev.respond_waiters (d : Dev) (c op tag flags status : Nat) (ws : List Word) : (d.respond c op tag flags status ws).waiters = d.waiters := by simp [Dev.respond]
@[simp] theorem Dev.respond_cart (d : Dev) (c op tag flags status : Nat) (ws : List Word) : (d.respond c op tag flags status ws).cart = d.cart := by simp [Dev.respond]
@[simp] theorem Dev.respond_seq (d : Dev) (c op tag flags status : Nat) (ws : List Word) : (d.respond c op tag flags status ws).seq = d.seq := by simp [Dev.respond]
@[simp] theorem Dev.respond_thermal (d : Dev) (c op tag flags status : Nat) (ws : List Word) : (d.respond c op tag flags status ws).thermal = d.thermal := by simp [Dev.respond]
@[simp] theorem Dev.respond_boot (d : Dev) (c op tag flags status : Nat) (ws : List Word) : (d.respond c op tag flags status ws).boot = d.boot := by simp [Dev.respond]
@[simp] theorem Dev.respond_pins (d : Dev) (c op tag flags status : Nat) (ws : List Word) : (d.respond c op tag flags status ws).pins = d.pins := by simp [Dev.respond]
@[simp] theorem Dev.respond_slices (d : Dev) (c op tag flags status : Nat) (ws : List Word) : (d.respond c op tag flags status ws).slices = d.slices := by simp [Dev.respond]
@[simp] theorem Dev.respond_flushes (d : Dev) (c op tag flags status : Nat) (ws : List Word) : (d.respond c op tag flags status ws).flushes = d.flushes := by simp [Dev.respond]
@[simp] theorem Dev.respond_nextFlush (d : Dev) (c op tag flags status : Nat) (ws : List Word) : (d.respond c op tag flags status ws).nextFlush = d.nextFlush := by simp [Dev.respond]
@[simp] theorem Dev.respond_counters (d : Dev) (c op tag flags status : Nat) (ws : List Word) : (d.respond c op tag flags status ws).counters = d.counters := by simp [Dev.respond]
@[simp] theorem Dev.respond_transition (d : Dev) (c op tag flags status : Nat) (ws : List Word) : (d.respond c op tag flags status ws).transition = d.transition := by simp [Dev.respond]
@[simp] theorem Dev.respond_preserve (d : Dev) (c op tag flags status : Nat) (ws : List Word) : (d.respond c op tag flags status ws).preserve = d.preserve := by simp [Dev.respond]
@[simp] theorem Dev.respond_rung (d : Dev) (c op tag flags status : Nat) (ws : List Word) : (d.respond c op tag flags status ws).rung = d.rung := by simp [Dev.respond]
@[simp] theorem Dev.respond_draws (d : Dev) (c op tag flags status : Nat) (ws : List Word) : (d.respond c op tag flags status ws).draws = d.draws := by simp [Dev.respond]

/-! ### Dev.notifyOn -/

@[simp] theorem Dev.notifyOn_part (d : Dev) (c code : Nat) (ws : List Word) : (d.notifyOn c code ws).part = d.part := by
  unfold Dev.notifyOn
  split <;> simp
@[simp] theorem Dev.notifyOn_fuses (d : Dev) (c code : Nat) (ws : List Word) : (d.notifyOn c code ws).fuses = d.fuses := by
  unfold Dev.notifyOn
  split <;> simp
@[simp] theorem Dev.notifyOn_mode (d : Dev) (c code : Nat) (ws : List Word) : (d.notifyOn c code ws).mode = d.mode := by
  unfold Dev.notifyOn
  split <;> simp
@[simp] theorem Dev.notifyOn_clock (d : Dev) (c code : Nat) (ws : List Word) : (d.notifyOn c code ws).clock = d.clock := by
  unfold Dev.notifyOn
  split <;> simp
@[simp] theorem Dev.notifyOn_swap (d : Dev) (c code : Nat) (ws : List Word) : (d.notifyOn c code ws).swap = d.swap := by
  unfold Dev.notifyOn
  split <;> simp
@[simp] theorem Dev.notifyOn_active (d : Dev) (c code : Nat) (ws : List Word) : (d.notifyOn c code ws).active = d.active := by
  unfold Dev.notifyOn
  split <;> simp
@[simp] theorem Dev.notifyOn_shadow (d : Dev) (c code : Nat) (ws : List Word) : (d.notifyOn c code ws).shadow = d.shadow := by
  unfold Dev.notifyOn
  split <;> simp
@[simp] theorem Dev.notifyOn_regs (d : Dev) (c code : Nat) (ws : List Word) : (d.notifyOn c code ws).regs = d.regs := by
  unfold Dev.notifyOn
  split <;> simp
@[simp] theorem Dev.notifyOn_i3c (d : Dev) (c code : Nat) (ws : List Word) : (d.notifyOn c code ws).i3c = d.i3c := by
  unfold Dev.notifyOn
  split <;> simp
@[simp] theorem Dev.notifyOn_rings (d : Dev) (c code : Nat) (ws : List Word) : (d.notifyOn c code ws).rings = d.rings := by
  unfold Dev.notifyOn
  split <;> simp
@[simp] theorem Dev.notifyOn_ports (d : Dev) (c code : Nat) (ws : List Word) : (d.notifyOn c code ws).ports = d.ports := by
  unfold Dev.notifyOn
  split <;> simp
@[simp] theorem Dev.notifyOn_std (d : Dev) (c code : Nat) (ws : List Word) : (d.notifyOn c code ws).std = d.std := by
  unfold Dev.notifyOn
  split <;> simp
@[simp] theorem Dev.notifyOn_dbg (d : Dev) (c code : Nat) (ws : List Word) : (d.notifyOn c code ws).dbg = d.dbg := by
  unfold Dev.notifyOn
  split <;> simp
@[simp] theorem Dev.notifyOn_alarms (d : Dev) (c code : Nat) (ws : List Word) : (d.notifyOn c code ws).alarms = d.alarms := by
  unfold Dev.notifyOn
  split <;> simp
@[simp] theorem Dev.notifyOn_keys (d : Dev) (c code : Nat) (ws : List Word) : (d.notifyOn c code ws).keys = d.keys := by
  unfold Dev.notifyOn
  split <;> simp
@[simp] theorem Dev.notifyOn_titles (d : Dev) (c code : Nat) (ws : List Word) : (d.notifyOn c code ws).titles = d.titles := by
  unfold Dev.notifyOn
  split <;> simp
@[simp] theorem Dev.notifyOn_pstore (d : Dev) (c code : Nat) (ws : List Word) : (d.notifyOn c code ws).pstore = d.pstore := by
  unfold Dev.notifyOn
  split <;> simp
@[simp] theorem Dev.notifyOn_mirror (d : Dev) (c code : Nat) (ws : List Word) : (d.notifyOn c code ws).mirror = d.mirror := by
  unfold Dev.notifyOn
  split <;> simp
@[simp] theorem Dev.notifyOn_recorder (d : Dev) (c code : Nat) (ws : List Word) : (d.notifyOn c code ws).recorder = d.recorder := by
  unfold Dev.notifyOn
  split <;> simp
@[simp] theorem Dev.notifyOn_images (d : Dev) (c code : Nat) (ws : List Word) : (d.notifyOn c code ws).images = d.images := by
  unfold Dev.notifyOn
  split <;> simp
@[simp] theorem Dev.notifyOn_firmware (d : Dev) (c code : Nat) (ws : List Word) : (d.notifyOn c code ws).firmware = d.firmware := by
  unfold Dev.notifyOn
  split <;> simp
@[simp] theorem Dev.notifyOn_waiters (d : Dev) (c code : Nat) (ws : List Word) : (d.notifyOn c code ws).waiters = d.waiters := by
  unfold Dev.notifyOn
  split <;> simp
@[simp] theorem Dev.notifyOn_cart (d : Dev) (c code : Nat) (ws : List Word) : (d.notifyOn c code ws).cart = d.cart := by
  unfold Dev.notifyOn
  split <;> simp
@[simp] theorem Dev.notifyOn_seq (d : Dev) (c code : Nat) (ws : List Word) : (d.notifyOn c code ws).seq = d.seq := by
  unfold Dev.notifyOn
  split <;> simp
@[simp] theorem Dev.notifyOn_thermal (d : Dev) (c code : Nat) (ws : List Word) : (d.notifyOn c code ws).thermal = d.thermal := by
  unfold Dev.notifyOn
  split <;> simp
@[simp] theorem Dev.notifyOn_boot (d : Dev) (c code : Nat) (ws : List Word) : (d.notifyOn c code ws).boot = d.boot := by
  unfold Dev.notifyOn
  split <;> simp
@[simp] theorem Dev.notifyOn_pins (d : Dev) (c code : Nat) (ws : List Word) : (d.notifyOn c code ws).pins = d.pins := by
  unfold Dev.notifyOn
  split <;> simp
@[simp] theorem Dev.notifyOn_slices (d : Dev) (c code : Nat) (ws : List Word) : (d.notifyOn c code ws).slices = d.slices := by
  unfold Dev.notifyOn
  split <;> simp
@[simp] theorem Dev.notifyOn_flushes (d : Dev) (c code : Nat) (ws : List Word) : (d.notifyOn c code ws).flushes = d.flushes := by
  unfold Dev.notifyOn
  split <;> simp
@[simp] theorem Dev.notifyOn_nextFlush (d : Dev) (c code : Nat) (ws : List Word) : (d.notifyOn c code ws).nextFlush = d.nextFlush := by
  unfold Dev.notifyOn
  split <;> simp
@[simp] theorem Dev.notifyOn_transition (d : Dev) (c code : Nat) (ws : List Word) : (d.notifyOn c code ws).transition = d.transition := by
  unfold Dev.notifyOn
  split <;> simp
@[simp] theorem Dev.notifyOn_preserve (d : Dev) (c code : Nat) (ws : List Word) : (d.notifyOn c code ws).preserve = d.preserve := by
  unfold Dev.notifyOn
  split <;> simp
@[simp] theorem Dev.notifyOn_rung (d : Dev) (c code : Nat) (ws : List Word) : (d.notifyOn c code ws).rung = d.rung := by
  unfold Dev.notifyOn
  split <;> simp
@[simp] theorem Dev.notifyOn_draws (d : Dev) (c code : Nat) (ws : List Word) : (d.notifyOn c code ws).draws = d.draws := by
  unfold Dev.notifyOn
  split <;> simp

/-! ### Dev.notify -/

@[simp] theorem Dev.notify_part (d : Dev) (i code : Nat) (ws : List Word) : (d.notify i code ws).part = d.part := by
  unfold Dev.notify
  split
  · exact foldl_keeps (·.part) _ (fun d c => by split <;> simp) _ _
  · rfl
@[simp] theorem Dev.notify_fuses (d : Dev) (i code : Nat) (ws : List Word) : (d.notify i code ws).fuses = d.fuses := by
  unfold Dev.notify
  split
  · exact foldl_keeps (·.fuses) _ (fun d c => by split <;> simp) _ _
  · rfl
@[simp] theorem Dev.notify_mode (d : Dev) (i code : Nat) (ws : List Word) : (d.notify i code ws).mode = d.mode := by
  unfold Dev.notify
  split
  · exact foldl_keeps (·.mode) _ (fun d c => by split <;> simp) _ _
  · rfl
@[simp] theorem Dev.notify_clock (d : Dev) (i code : Nat) (ws : List Word) : (d.notify i code ws).clock = d.clock := by
  unfold Dev.notify
  split
  · exact foldl_keeps (·.clock) _ (fun d c => by split <;> simp) _ _
  · rfl
@[simp] theorem Dev.notify_swap (d : Dev) (i code : Nat) (ws : List Word) : (d.notify i code ws).swap = d.swap := by
  unfold Dev.notify
  split
  · exact foldl_keeps (·.swap) _ (fun d c => by split <;> simp) _ _
  · rfl
@[simp] theorem Dev.notify_active (d : Dev) (i code : Nat) (ws : List Word) : (d.notify i code ws).active = d.active := by
  unfold Dev.notify
  split
  · exact foldl_keeps (·.active) _ (fun d c => by split <;> simp) _ _
  · rfl
@[simp] theorem Dev.notify_shadow (d : Dev) (i code : Nat) (ws : List Word) : (d.notify i code ws).shadow = d.shadow := by
  unfold Dev.notify
  split
  · exact foldl_keeps (·.shadow) _ (fun d c => by split <;> simp) _ _
  · rfl
@[simp] theorem Dev.notify_regs (d : Dev) (i code : Nat) (ws : List Word) : (d.notify i code ws).regs = d.regs := by
  unfold Dev.notify
  split
  · exact foldl_keeps (·.regs) _ (fun d c => by split <;> simp) _ _
  · rfl
@[simp] theorem Dev.notify_i3c (d : Dev) (i code : Nat) (ws : List Word) : (d.notify i code ws).i3c = d.i3c := by
  unfold Dev.notify
  split
  · exact foldl_keeps (·.i3c) _ (fun d c => by split <;> simp) _ _
  · rfl
@[simp] theorem Dev.notify_rings (d : Dev) (i code : Nat) (ws : List Word) : (d.notify i code ws).rings = d.rings := by
  unfold Dev.notify
  split
  · exact foldl_keeps (·.rings) _ (fun d c => by split <;> simp) _ _
  · rfl
@[simp] theorem Dev.notify_ports (d : Dev) (i code : Nat) (ws : List Word) : (d.notify i code ws).ports = d.ports := by
  unfold Dev.notify
  split
  · exact foldl_keeps (·.ports) _ (fun d c => by split <;> simp) _ _
  · rfl
@[simp] theorem Dev.notify_std (d : Dev) (i code : Nat) (ws : List Word) : (d.notify i code ws).std = d.std := by
  unfold Dev.notify
  split
  · exact foldl_keeps (·.std) _ (fun d c => by split <;> simp) _ _
  · rfl
@[simp] theorem Dev.notify_dbg (d : Dev) (i code : Nat) (ws : List Word) : (d.notify i code ws).dbg = d.dbg := by
  unfold Dev.notify
  split
  · exact foldl_keeps (·.dbg) _ (fun d c => by split <;> simp) _ _
  · rfl
@[simp] theorem Dev.notify_alarms (d : Dev) (i code : Nat) (ws : List Word) : (d.notify i code ws).alarms = d.alarms := by
  unfold Dev.notify
  split
  · exact foldl_keeps (·.alarms) _ (fun d c => by split <;> simp) _ _
  · rfl
@[simp] theorem Dev.notify_keys (d : Dev) (i code : Nat) (ws : List Word) : (d.notify i code ws).keys = d.keys := by
  unfold Dev.notify
  split
  · exact foldl_keeps (·.keys) _ (fun d c => by split <;> simp) _ _
  · rfl
@[simp] theorem Dev.notify_titles (d : Dev) (i code : Nat) (ws : List Word) : (d.notify i code ws).titles = d.titles := by
  unfold Dev.notify
  split
  · exact foldl_keeps (·.titles) _ (fun d c => by split <;> simp) _ _
  · rfl
@[simp] theorem Dev.notify_pstore (d : Dev) (i code : Nat) (ws : List Word) : (d.notify i code ws).pstore = d.pstore := by
  unfold Dev.notify
  split
  · exact foldl_keeps (·.pstore) _ (fun d c => by split <;> simp) _ _
  · rfl
@[simp] theorem Dev.notify_mirror (d : Dev) (i code : Nat) (ws : List Word) : (d.notify i code ws).mirror = d.mirror := by
  unfold Dev.notify
  split
  · exact foldl_keeps (·.mirror) _ (fun d c => by split <;> simp) _ _
  · rfl
@[simp] theorem Dev.notify_recorder (d : Dev) (i code : Nat) (ws : List Word) : (d.notify i code ws).recorder = d.recorder := by
  unfold Dev.notify
  split
  · exact foldl_keeps (·.recorder) _ (fun d c => by split <;> simp) _ _
  · rfl
@[simp] theorem Dev.notify_images (d : Dev) (i code : Nat) (ws : List Word) : (d.notify i code ws).images = d.images := by
  unfold Dev.notify
  split
  · exact foldl_keeps (·.images) _ (fun d c => by split <;> simp) _ _
  · rfl
@[simp] theorem Dev.notify_firmware (d : Dev) (i code : Nat) (ws : List Word) : (d.notify i code ws).firmware = d.firmware := by
  unfold Dev.notify
  split
  · exact foldl_keeps (·.firmware) _ (fun d c => by split <;> simp) _ _
  · rfl
@[simp] theorem Dev.notify_waiters (d : Dev) (i code : Nat) (ws : List Word) : (d.notify i code ws).waiters = d.waiters := by
  unfold Dev.notify
  split
  · exact foldl_keeps (·.waiters) _ (fun d c => by split <;> simp) _ _
  · rfl
@[simp] theorem Dev.notify_cart (d : Dev) (i code : Nat) (ws : List Word) : (d.notify i code ws).cart = d.cart := by
  unfold Dev.notify
  split
  · exact foldl_keeps (·.cart) _ (fun d c => by split <;> simp) _ _
  · rfl
@[simp] theorem Dev.notify_seq (d : Dev) (i code : Nat) (ws : List Word) : (d.notify i code ws).seq = d.seq := by
  unfold Dev.notify
  split
  · exact foldl_keeps (·.seq) _ (fun d c => by split <;> simp) _ _
  · rfl
@[simp] theorem Dev.notify_thermal (d : Dev) (i code : Nat) (ws : List Word) : (d.notify i code ws).thermal = d.thermal := by
  unfold Dev.notify
  split
  · exact foldl_keeps (·.thermal) _ (fun d c => by split <;> simp) _ _
  · rfl
@[simp] theorem Dev.notify_boot (d : Dev) (i code : Nat) (ws : List Word) : (d.notify i code ws).boot = d.boot := by
  unfold Dev.notify
  split
  · exact foldl_keeps (·.boot) _ (fun d c => by split <;> simp) _ _
  · rfl
@[simp] theorem Dev.notify_pins (d : Dev) (i code : Nat) (ws : List Word) : (d.notify i code ws).pins = d.pins := by
  unfold Dev.notify
  split
  · exact foldl_keeps (·.pins) _ (fun d c => by split <;> simp) _ _
  · rfl
@[simp] theorem Dev.notify_slices (d : Dev) (i code : Nat) (ws : List Word) : (d.notify i code ws).slices = d.slices := by
  unfold Dev.notify
  split
  · exact foldl_keeps (·.slices) _ (fun d c => by split <;> simp) _ _
  · rfl
@[simp] theorem Dev.notify_flushes (d : Dev) (i code : Nat) (ws : List Word) : (d.notify i code ws).flushes = d.flushes := by
  unfold Dev.notify
  split
  · exact foldl_keeps (·.flushes) _ (fun d c => by split <;> simp) _ _
  · rfl
@[simp] theorem Dev.notify_nextFlush (d : Dev) (i code : Nat) (ws : List Word) : (d.notify i code ws).nextFlush = d.nextFlush := by
  unfold Dev.notify
  split
  · exact foldl_keeps (·.nextFlush) _ (fun d c => by split <;> simp) _ _
  · rfl
@[simp] theorem Dev.notify_transition (d : Dev) (i code : Nat) (ws : List Word) : (d.notify i code ws).transition = d.transition := by
  unfold Dev.notify
  split
  · exact foldl_keeps (·.transition) _ (fun d c => by split <;> simp) _ _
  · rfl
@[simp] theorem Dev.notify_preserve (d : Dev) (i code : Nat) (ws : List Word) : (d.notify i code ws).preserve = d.preserve := by
  unfold Dev.notify
  split
  · exact foldl_keeps (·.preserve) _ (fun d c => by split <;> simp) _ _
  · rfl
@[simp] theorem Dev.notify_rung (d : Dev) (i code : Nat) (ws : List Word) : (d.notify i code ws).rung = d.rung := by
  unfold Dev.notify
  split
  · exact foldl_keeps (·.rung) _ (fun d c => by split <;> simp) _ _
  · rfl
@[simp] theorem Dev.notify_draws (d : Dev) (i code : Nat) (ws : List Word) : (d.notify i code ws).draws = d.draws := by
  unfold Dev.notify
  split
  · exact foldl_keeps (·.draws) _ (fun d c => by split <;> simp) _ _
  · rfl

/-! ### Dev.notifySecure -/

@[simp] theorem Dev.notifySecure_part (d : Dev) (code : Nat) (ws : List Word) : (d.notifySecure code ws).part = d.part := by
  unfold Dev.notifySecure
  split
  · exact foldl_keeps (·.part) _ (fun d c => by simp) _ _
  · rfl
@[simp] theorem Dev.notifySecure_fuses (d : Dev) (code : Nat) (ws : List Word) : (d.notifySecure code ws).fuses = d.fuses := by
  unfold Dev.notifySecure
  split
  · exact foldl_keeps (·.fuses) _ (fun d c => by simp) _ _
  · rfl
@[simp] theorem Dev.notifySecure_mode (d : Dev) (code : Nat) (ws : List Word) : (d.notifySecure code ws).mode = d.mode := by
  unfold Dev.notifySecure
  split
  · exact foldl_keeps (·.mode) _ (fun d c => by simp) _ _
  · rfl
@[simp] theorem Dev.notifySecure_clock (d : Dev) (code : Nat) (ws : List Word) : (d.notifySecure code ws).clock = d.clock := by
  unfold Dev.notifySecure
  split
  · exact foldl_keeps (·.clock) _ (fun d c => by simp) _ _
  · rfl
@[simp] theorem Dev.notifySecure_swap (d : Dev) (code : Nat) (ws : List Word) : (d.notifySecure code ws).swap = d.swap := by
  unfold Dev.notifySecure
  split
  · exact foldl_keeps (·.swap) _ (fun d c => by simp) _ _
  · rfl
@[simp] theorem Dev.notifySecure_active (d : Dev) (code : Nat) (ws : List Word) : (d.notifySecure code ws).active = d.active := by
  unfold Dev.notifySecure
  split
  · exact foldl_keeps (·.active) _ (fun d c => by simp) _ _
  · rfl
@[simp] theorem Dev.notifySecure_shadow (d : Dev) (code : Nat) (ws : List Word) : (d.notifySecure code ws).shadow = d.shadow := by
  unfold Dev.notifySecure
  split
  · exact foldl_keeps (·.shadow) _ (fun d c => by simp) _ _
  · rfl
@[simp] theorem Dev.notifySecure_regs (d : Dev) (code : Nat) (ws : List Word) : (d.notifySecure code ws).regs = d.regs := by
  unfold Dev.notifySecure
  split
  · exact foldl_keeps (·.regs) _ (fun d c => by simp) _ _
  · rfl
@[simp] theorem Dev.notifySecure_i3c (d : Dev) (code : Nat) (ws : List Word) : (d.notifySecure code ws).i3c = d.i3c := by
  unfold Dev.notifySecure
  split
  · exact foldl_keeps (·.i3c) _ (fun d c => by simp) _ _
  · rfl
@[simp] theorem Dev.notifySecure_rings (d : Dev) (code : Nat) (ws : List Word) : (d.notifySecure code ws).rings = d.rings := by
  unfold Dev.notifySecure
  split
  · exact foldl_keeps (·.rings) _ (fun d c => by simp) _ _
  · rfl
@[simp] theorem Dev.notifySecure_ports (d : Dev) (code : Nat) (ws : List Word) : (d.notifySecure code ws).ports = d.ports := by
  unfold Dev.notifySecure
  split
  · exact foldl_keeps (·.ports) _ (fun d c => by simp) _ _
  · rfl
@[simp] theorem Dev.notifySecure_std (d : Dev) (code : Nat) (ws : List Word) : (d.notifySecure code ws).std = d.std := by
  unfold Dev.notifySecure
  split
  · exact foldl_keeps (·.std) _ (fun d c => by simp) _ _
  · rfl
@[simp] theorem Dev.notifySecure_dbg (d : Dev) (code : Nat) (ws : List Word) : (d.notifySecure code ws).dbg = d.dbg := by
  unfold Dev.notifySecure
  split
  · exact foldl_keeps (·.dbg) _ (fun d c => by simp) _ _
  · rfl
@[simp] theorem Dev.notifySecure_alarms (d : Dev) (code : Nat) (ws : List Word) : (d.notifySecure code ws).alarms = d.alarms := by
  unfold Dev.notifySecure
  split
  · exact foldl_keeps (·.alarms) _ (fun d c => by simp) _ _
  · rfl
@[simp] theorem Dev.notifySecure_keys (d : Dev) (code : Nat) (ws : List Word) : (d.notifySecure code ws).keys = d.keys := by
  unfold Dev.notifySecure
  split
  · exact foldl_keeps (·.keys) _ (fun d c => by simp) _ _
  · rfl
@[simp] theorem Dev.notifySecure_titles (d : Dev) (code : Nat) (ws : List Word) : (d.notifySecure code ws).titles = d.titles := by
  unfold Dev.notifySecure
  split
  · exact foldl_keeps (·.titles) _ (fun d c => by simp) _ _
  · rfl
@[simp] theorem Dev.notifySecure_pstore (d : Dev) (code : Nat) (ws : List Word) : (d.notifySecure code ws).pstore = d.pstore := by
  unfold Dev.notifySecure
  split
  · exact foldl_keeps (·.pstore) _ (fun d c => by simp) _ _
  · rfl
@[simp] theorem Dev.notifySecure_mirror (d : Dev) (code : Nat) (ws : List Word) : (d.notifySecure code ws).mirror = d.mirror := by
  unfold Dev.notifySecure
  split
  · exact foldl_keeps (·.mirror) _ (fun d c => by simp) _ _
  · rfl
@[simp] theorem Dev.notifySecure_recorder (d : Dev) (code : Nat) (ws : List Word) : (d.notifySecure code ws).recorder = d.recorder := by
  unfold Dev.notifySecure
  split
  · exact foldl_keeps (·.recorder) _ (fun d c => by simp) _ _
  · rfl
@[simp] theorem Dev.notifySecure_images (d : Dev) (code : Nat) (ws : List Word) : (d.notifySecure code ws).images = d.images := by
  unfold Dev.notifySecure
  split
  · exact foldl_keeps (·.images) _ (fun d c => by simp) _ _
  · rfl
@[simp] theorem Dev.notifySecure_firmware (d : Dev) (code : Nat) (ws : List Word) : (d.notifySecure code ws).firmware = d.firmware := by
  unfold Dev.notifySecure
  split
  · exact foldl_keeps (·.firmware) _ (fun d c => by simp) _ _
  · rfl
@[simp] theorem Dev.notifySecure_waiters (d : Dev) (code : Nat) (ws : List Word) : (d.notifySecure code ws).waiters = d.waiters := by
  unfold Dev.notifySecure
  split
  · exact foldl_keeps (·.waiters) _ (fun d c => by simp) _ _
  · rfl
@[simp] theorem Dev.notifySecure_cart (d : Dev) (code : Nat) (ws : List Word) : (d.notifySecure code ws).cart = d.cart := by
  unfold Dev.notifySecure
  split
  · exact foldl_keeps (·.cart) _ (fun d c => by simp) _ _
  · rfl
@[simp] theorem Dev.notifySecure_seq (d : Dev) (code : Nat) (ws : List Word) : (d.notifySecure code ws).seq = d.seq := by
  unfold Dev.notifySecure
  split
  · exact foldl_keeps (·.seq) _ (fun d c => by simp) _ _
  · rfl
@[simp] theorem Dev.notifySecure_thermal (d : Dev) (code : Nat) (ws : List Word) : (d.notifySecure code ws).thermal = d.thermal := by
  unfold Dev.notifySecure
  split
  · exact foldl_keeps (·.thermal) _ (fun d c => by simp) _ _
  · rfl
@[simp] theorem Dev.notifySecure_boot (d : Dev) (code : Nat) (ws : List Word) : (d.notifySecure code ws).boot = d.boot := by
  unfold Dev.notifySecure
  split
  · exact foldl_keeps (·.boot) _ (fun d c => by simp) _ _
  · rfl
@[simp] theorem Dev.notifySecure_pins (d : Dev) (code : Nat) (ws : List Word) : (d.notifySecure code ws).pins = d.pins := by
  unfold Dev.notifySecure
  split
  · exact foldl_keeps (·.pins) _ (fun d c => by simp) _ _
  · rfl
@[simp] theorem Dev.notifySecure_slices (d : Dev) (code : Nat) (ws : List Word) : (d.notifySecure code ws).slices = d.slices := by
  unfold Dev.notifySecure
  split
  · exact foldl_keeps (·.slices) _ (fun d c => by simp) _ _
  · rfl
@[simp] theorem Dev.notifySecure_flushes (d : Dev) (code : Nat) (ws : List Word) : (d.notifySecure code ws).flushes = d.flushes := by
  unfold Dev.notifySecure
  split
  · exact foldl_keeps (·.flushes) _ (fun d c => by simp) _ _
  · rfl
@[simp] theorem Dev.notifySecure_nextFlush (d : Dev) (code : Nat) (ws : List Word) : (d.notifySecure code ws).nextFlush = d.nextFlush := by
  unfold Dev.notifySecure
  split
  · exact foldl_keeps (·.nextFlush) _ (fun d c => by simp) _ _
  · rfl
@[simp] theorem Dev.notifySecure_transition (d : Dev) (code : Nat) (ws : List Word) : (d.notifySecure code ws).transition = d.transition := by
  unfold Dev.notifySecure
  split
  · exact foldl_keeps (·.transition) _ (fun d c => by simp) _ _
  · rfl
@[simp] theorem Dev.notifySecure_preserve (d : Dev) (code : Nat) (ws : List Word) : (d.notifySecure code ws).preserve = d.preserve := by
  unfold Dev.notifySecure
  split
  · exact foldl_keeps (·.preserve) _ (fun d c => by simp) _ _
  · rfl
@[simp] theorem Dev.notifySecure_rung (d : Dev) (code : Nat) (ws : List Word) : (d.notifySecure code ws).rung = d.rung := by
  unfold Dev.notifySecure
  split
  · exact foldl_keeps (·.rung) _ (fun d c => by simp) _ _
  · rfl
@[simp] theorem Dev.notifySecure_draws (d : Dev) (code : Nat) (ws : List Word) : (d.notifySecure code ws).draws = d.draws := by
  unfold Dev.notifySecure
  split
  · exact foldl_keeps (·.draws) _ (fun d c => by simp) _ _
  · rfl

/-! ### Dev.takeRequest -/

@[simp] theorem Dev.takeRequest_part (d : Dev) (c : Nat) (rest : List MbWord) : (d.takeRequest c rest).part = d.part := by
  unfold Dev.takeRequest
  (repeat' split) <;> simp
@[simp] theorem Dev.takeRequest_fuses (d : Dev) (c : Nat) (rest : List MbWord) : (d.takeRequest c rest).fuses = d.fuses := by
  unfold Dev.takeRequest
  (repeat' split) <;> simp
@[simp] theorem Dev.takeRequest_mode (d : Dev) (c : Nat) (rest : List MbWord) : (d.takeRequest c rest).mode = d.mode := by
  unfold Dev.takeRequest
  (repeat' split) <;> simp
@[simp] theorem Dev.takeRequest_clock (d : Dev) (c : Nat) (rest : List MbWord) : (d.takeRequest c rest).clock = d.clock := by
  unfold Dev.takeRequest
  (repeat' split) <;> simp
@[simp] theorem Dev.takeRequest_swap (d : Dev) (c : Nat) (rest : List MbWord) : (d.takeRequest c rest).swap = d.swap := by
  unfold Dev.takeRequest
  (repeat' split) <;> simp
@[simp] theorem Dev.takeRequest_active (d : Dev) (c : Nat) (rest : List MbWord) : (d.takeRequest c rest).active = d.active := by
  unfold Dev.takeRequest
  (repeat' split) <;> simp
@[simp] theorem Dev.takeRequest_shadow (d : Dev) (c : Nat) (rest : List MbWord) : (d.takeRequest c rest).shadow = d.shadow := by
  unfold Dev.takeRequest
  (repeat' split) <;> simp
@[simp] theorem Dev.takeRequest_regs (d : Dev) (c : Nat) (rest : List MbWord) : (d.takeRequest c rest).regs = d.regs := by
  unfold Dev.takeRequest
  (repeat' split) <;> simp
@[simp] theorem Dev.takeRequest_i3c (d : Dev) (c : Nat) (rest : List MbWord) : (d.takeRequest c rest).i3c = d.i3c := by
  unfold Dev.takeRequest
  (repeat' split) <;> simp
@[simp] theorem Dev.takeRequest_rings (d : Dev) (c : Nat) (rest : List MbWord) : (d.takeRequest c rest).rings = d.rings := by
  unfold Dev.takeRequest
  (repeat' split) <;> simp
@[simp] theorem Dev.takeRequest_ports (d : Dev) (c : Nat) (rest : List MbWord) : (d.takeRequest c rest).ports = d.ports := by
  unfold Dev.takeRequest
  (repeat' split) <;> simp
@[simp] theorem Dev.takeRequest_std (d : Dev) (c : Nat) (rest : List MbWord) : (d.takeRequest c rest).std = d.std := by
  unfold Dev.takeRequest
  (repeat' split) <;> simp
@[simp] theorem Dev.takeRequest_dbg (d : Dev) (c : Nat) (rest : List MbWord) : (d.takeRequest c rest).dbg = d.dbg := by
  unfold Dev.takeRequest
  (repeat' split) <;> simp
@[simp] theorem Dev.takeRequest_alarms (d : Dev) (c : Nat) (rest : List MbWord) : (d.takeRequest c rest).alarms = d.alarms := by
  unfold Dev.takeRequest
  (repeat' split) <;> simp
@[simp] theorem Dev.takeRequest_keys (d : Dev) (c : Nat) (rest : List MbWord) : (d.takeRequest c rest).keys = d.keys := by
  unfold Dev.takeRequest
  (repeat' split) <;> simp
@[simp] theorem Dev.takeRequest_titles (d : Dev) (c : Nat) (rest : List MbWord) : (d.takeRequest c rest).titles = d.titles := by
  unfold Dev.takeRequest
  (repeat' split) <;> simp
@[simp] theorem Dev.takeRequest_pstore (d : Dev) (c : Nat) (rest : List MbWord) : (d.takeRequest c rest).pstore = d.pstore := by
  unfold Dev.takeRequest
  (repeat' split) <;> simp
@[simp] theorem Dev.takeRequest_mirror (d : Dev) (c : Nat) (rest : List MbWord) : (d.takeRequest c rest).mirror = d.mirror := by
  unfold Dev.takeRequest
  (repeat' split) <;> simp
@[simp] theorem Dev.takeRequest_recorder (d : Dev) (c : Nat) (rest : List MbWord) : (d.takeRequest c rest).recorder = d.recorder := by
  unfold Dev.takeRequest
  (repeat' split) <;> simp
@[simp] theorem Dev.takeRequest_images (d : Dev) (c : Nat) (rest : List MbWord) : (d.takeRequest c rest).images = d.images := by
  unfold Dev.takeRequest
  (repeat' split) <;> simp
@[simp] theorem Dev.takeRequest_firmware (d : Dev) (c : Nat) (rest : List MbWord) : (d.takeRequest c rest).firmware = d.firmware := by
  unfold Dev.takeRequest
  (repeat' split) <;> simp
@[simp] theorem Dev.takeRequest_waiters (d : Dev) (c : Nat) (rest : List MbWord) : (d.takeRequest c rest).waiters = d.waiters := by
  unfold Dev.takeRequest
  (repeat' split) <;> simp
@[simp] theorem Dev.takeRequest_cart (d : Dev) (c : Nat) (rest : List MbWord) : (d.takeRequest c rest).cart = d.cart := by
  unfold Dev.takeRequest
  (repeat' split) <;> simp
@[simp] theorem Dev.takeRequest_seq (d : Dev) (c : Nat) (rest : List MbWord) : (d.takeRequest c rest).seq = d.seq := by
  unfold Dev.takeRequest
  (repeat' split) <;> simp
@[simp] theorem Dev.takeRequest_thermal (d : Dev) (c : Nat) (rest : List MbWord) : (d.takeRequest c rest).thermal = d.thermal := by
  unfold Dev.takeRequest
  (repeat' split) <;> simp
@[simp] theorem Dev.takeRequest_boot (d : Dev) (c : Nat) (rest : List MbWord) : (d.takeRequest c rest).boot = d.boot := by
  unfold Dev.takeRequest
  (repeat' split) <;> simp
@[simp] theorem Dev.takeRequest_pins (d : Dev) (c : Nat) (rest : List MbWord) : (d.takeRequest c rest).pins = d.pins := by
  unfold Dev.takeRequest
  (repeat' split) <;> simp
@[simp] theorem Dev.takeRequest_slices (d : Dev) (c : Nat) (rest : List MbWord) : (d.takeRequest c rest).slices = d.slices := by
  unfold Dev.takeRequest
  (repeat' split) <;> simp
@[simp] theorem Dev.takeRequest_flushes (d : Dev) (c : Nat) (rest : List MbWord) : (d.takeRequest c rest).flushes = d.flushes := by
  unfold Dev.takeRequest
  (repeat' split) <;> simp
@[simp] theorem Dev.takeRequest_nextFlush (d : Dev) (c : Nat) (rest : List MbWord) : (d.takeRequest c rest).nextFlush = d.nextFlush := by
  unfold Dev.takeRequest
  (repeat' split) <;> simp
@[simp] theorem Dev.takeRequest_transition (d : Dev) (c : Nat) (rest : List MbWord) : (d.takeRequest c rest).transition = d.transition := by
  unfold Dev.takeRequest
  (repeat' split) <;> simp
@[simp] theorem Dev.takeRequest_preserve (d : Dev) (c : Nat) (rest : List MbWord) : (d.takeRequest c rest).preserve = d.preserve := by
  unfold Dev.takeRequest
  (repeat' split) <;> simp
@[simp] theorem Dev.takeRequest_rung (d : Dev) (c : Nat) (rest : List MbWord) : (d.takeRequest c rest).rung = d.rung := by
  unfold Dev.takeRequest
  (repeat' split) <;> simp
@[simp] theorem Dev.takeRequest_draws (d : Dev) (c : Nat) (rest : List MbWord) : (d.takeRequest c rest).draws = d.draws := by
  unfold Dev.takeRequest
  (repeat' split) <;> simp

/-! ### Dev.answer -/

@[simp] theorem Dev.answer_part (d : Dev) (q : Req) (r : Reply) : (d.answer q r).part = d.part := by
  unfold Dev.answer
  (repeat' split) <;> simp
@[simp] theorem Dev.answer_fuses (d : Dev) (q : Req) (r : Reply) : (d.answer q r).fuses = d.fuses := by
  unfold Dev.answer
  (repeat' split) <;> simp
@[simp] theorem Dev.answer_mode (d : Dev) (q : Req) (r : Reply) : (d.answer q r).mode = d.mode := by
  unfold Dev.answer
  (repeat' split) <;> simp
@[simp] theorem Dev.answer_clock (d : Dev) (q : Req) (r : Reply) : (d.answer q r).clock = d.clock := by
  unfold Dev.answer
  (repeat' split) <;> simp
@[simp] theorem Dev.answer_swap (d : Dev) (q : Req) (r : Reply) : (d.answer q r).swap = d.swap := by
  unfold Dev.answer
  (repeat' split) <;> simp
@[simp] theorem Dev.answer_active (d : Dev) (q : Req) (r : Reply) : (d.answer q r).active = d.active := by
  unfold Dev.answer
  (repeat' split) <;> simp
@[simp] theorem Dev.answer_shadow (d : Dev) (q : Req) (r : Reply) : (d.answer q r).shadow = d.shadow := by
  unfold Dev.answer
  (repeat' split) <;> simp
@[simp] theorem Dev.answer_regs (d : Dev) (q : Req) (r : Reply) : (d.answer q r).regs = d.regs := by
  unfold Dev.answer
  (repeat' split) <;> simp
@[simp] theorem Dev.answer_i3c (d : Dev) (q : Req) (r : Reply) : (d.answer q r).i3c = d.i3c := by
  unfold Dev.answer
  (repeat' split) <;> simp
@[simp] theorem Dev.answer_rings (d : Dev) (q : Req) (r : Reply) : (d.answer q r).rings = d.rings := by
  unfold Dev.answer
  (repeat' split) <;> simp
@[simp] theorem Dev.answer_ports (d : Dev) (q : Req) (r : Reply) : (d.answer q r).ports = d.ports := by
  unfold Dev.answer
  (repeat' split) <;> simp
@[simp] theorem Dev.answer_std (d : Dev) (q : Req) (r : Reply) : (d.answer q r).std = d.std := by
  unfold Dev.answer
  (repeat' split) <;> simp
@[simp] theorem Dev.answer_dbg (d : Dev) (q : Req) (r : Reply) : (d.answer q r).dbg = d.dbg := by
  unfold Dev.answer
  (repeat' split) <;> simp
@[simp] theorem Dev.answer_alarms (d : Dev) (q : Req) (r : Reply) : (d.answer q r).alarms = d.alarms := by
  unfold Dev.answer
  (repeat' split) <;> simp
@[simp] theorem Dev.answer_keys (d : Dev) (q : Req) (r : Reply) : (d.answer q r).keys = d.keys := by
  unfold Dev.answer
  (repeat' split) <;> simp
@[simp] theorem Dev.answer_titles (d : Dev) (q : Req) (r : Reply) : (d.answer q r).titles = d.titles := by
  unfold Dev.answer
  (repeat' split) <;> simp
@[simp] theorem Dev.answer_pstore (d : Dev) (q : Req) (r : Reply) : (d.answer q r).pstore = d.pstore := by
  unfold Dev.answer
  (repeat' split) <;> simp
@[simp] theorem Dev.answer_mirror (d : Dev) (q : Req) (r : Reply) : (d.answer q r).mirror = d.mirror := by
  unfold Dev.answer
  (repeat' split) <;> simp
@[simp] theorem Dev.answer_recorder (d : Dev) (q : Req) (r : Reply) : (d.answer q r).recorder = d.recorder := by
  unfold Dev.answer
  (repeat' split) <;> simp
@[simp] theorem Dev.answer_images (d : Dev) (q : Req) (r : Reply) : (d.answer q r).images = d.images := by
  unfold Dev.answer
  (repeat' split) <;> simp
@[simp] theorem Dev.answer_firmware (d : Dev) (q : Req) (r : Reply) : (d.answer q r).firmware = d.firmware := by
  unfold Dev.answer
  (repeat' split) <;> simp
@[simp] theorem Dev.answer_waiters (d : Dev) (q : Req) (r : Reply) : (d.answer q r).waiters = d.waiters := by
  unfold Dev.answer
  (repeat' split) <;> simp
@[simp] theorem Dev.answer_cart (d : Dev) (q : Req) (r : Reply) : (d.answer q r).cart = d.cart := by
  unfold Dev.answer
  (repeat' split) <;> simp
@[simp] theorem Dev.answer_seq (d : Dev) (q : Req) (r : Reply) : (d.answer q r).seq = d.seq := by
  unfold Dev.answer
  (repeat' split) <;> simp
@[simp] theorem Dev.answer_thermal (d : Dev) (q : Req) (r : Reply) : (d.answer q r).thermal = d.thermal := by
  unfold Dev.answer
  (repeat' split) <;> simp
@[simp] theorem Dev.answer_boot (d : Dev) (q : Req) (r : Reply) : (d.answer q r).boot = d.boot := by
  unfold Dev.answer
  (repeat' split) <;> simp
@[simp] theorem Dev.answer_pins (d : Dev) (q : Req) (r : Reply) : (d.answer q r).pins = d.pins := by
  unfold Dev.answer
  (repeat' split) <;> simp
@[simp] theorem Dev.answer_slices (d : Dev) (q : Req) (r : Reply) : (d.answer q r).slices = d.slices := by
  unfold Dev.answer
  (repeat' split) <;> simp
@[simp] theorem Dev.answer_flushes (d : Dev) (q : Req) (r : Reply) : (d.answer q r).flushes = d.flushes := by
  unfold Dev.answer
  (repeat' split) <;> simp
@[simp] theorem Dev.answer_nextFlush (d : Dev) (q : Req) (r : Reply) : (d.answer q r).nextFlush = d.nextFlush := by
  unfold Dev.answer
  (repeat' split) <;> simp
@[simp] theorem Dev.answer_transition (d : Dev) (q : Req) (r : Reply) : (d.answer q r).transition = d.transition := by
  unfold Dev.answer
  (repeat' split) <;> simp
@[simp] theorem Dev.answer_preserve (d : Dev) (q : Req) (r : Reply) : (d.answer q r).preserve = d.preserve := by
  unfold Dev.answer
  (repeat' split) <;> simp
@[simp] theorem Dev.answer_rung (d : Dev) (q : Req) (r : Reply) : (d.answer q r).rung = d.rung := by
  unfold Dev.answer
  (repeat' split) <;> simp
@[simp] theorem Dev.answer_draws (d : Dev) (q : Req) (r : Reply) : (d.answer q r).draws = d.draws := by
  unfold Dev.answer
  (repeat' split) <;> simp

/-! ### Dev.store -/

@[simp] theorem Dev.store_part (d : Dev) (a : Nat) (b : List Byte) : (d.store a b).part = d.part := by simp [Dev.store]
@[simp] theorem Dev.store_fuses (d : Dev) (a : Nat) (b : List Byte) : (d.store a b).fuses = d.fuses := by simp [Dev.store]
@[simp] theorem Dev.store_mode (d : Dev) (a : Nat) (b : List Byte) : (d.store a b).mode = d.mode := by simp [Dev.store]
@[simp] theorem Dev.store_clock (d : Dev) (a : Nat) (b : List Byte) : (d.store a b).clock = d.clock := by simp [Dev.store]
@[simp] theorem Dev.store_swap (d : Dev) (a : Nat) (b : List Byte) : (d.store a b).swap = d.swap := by simp [Dev.store]
@[simp] theorem Dev.store_active (d : Dev) (a : Nat) (b : List Byte) : (d.store a b).active = d.active := by simp [Dev.store]
@[simp] theorem Dev.store_shadow (d : Dev) (a : Nat) (b : List Byte) : (d.store a b).shadow = d.shadow := by simp [Dev.store]
@[simp] theorem Dev.store_regs (d : Dev) (a : Nat) (b : List Byte) : (d.store a b).regs = d.regs := by simp [Dev.store]
@[simp] theorem Dev.store_chans (d : Dev) (a : Nat) (b : List Byte) : (d.store a b).chans = d.chans := by simp [Dev.store]
@[simp] theorem Dev.store_i3c (d : Dev) (a : Nat) (b : List Byte) : (d.store a b).i3c = d.i3c := by simp [Dev.store]
@[simp] theorem Dev.store_rings (d : Dev) (a : Nat) (b : List Byte) : (d.store a b).rings = d.rings := by simp [Dev.store]
@[simp] theorem Dev.store_ports (d : Dev) (a : Nat) (b : List Byte) : (d.store a b).ports = d.ports := by simp [Dev.store]
@[simp] theorem Dev.store_std (d : Dev) (a : Nat) (b : List Byte) : (d.store a b).std = d.std := by simp [Dev.store]
@[simp] theorem Dev.store_dbg (d : Dev) (a : Nat) (b : List Byte) : (d.store a b).dbg = d.dbg := by simp [Dev.store]
@[simp] theorem Dev.store_alarms (d : Dev) (a : Nat) (b : List Byte) : (d.store a b).alarms = d.alarms := by simp [Dev.store]
@[simp] theorem Dev.store_keys (d : Dev) (a : Nat) (b : List Byte) : (d.store a b).keys = d.keys := by simp [Dev.store]
@[simp] theorem Dev.store_titles (d : Dev) (a : Nat) (b : List Byte) : (d.store a b).titles = d.titles := by simp [Dev.store]
@[simp] theorem Dev.store_mirror (d : Dev) (a : Nat) (b : List Byte) : (d.store a b).mirror = d.mirror := by simp [Dev.store]
@[simp] theorem Dev.store_recorder (d : Dev) (a : Nat) (b : List Byte) : (d.store a b).recorder = d.recorder := by simp [Dev.store]
@[simp] theorem Dev.store_images (d : Dev) (a : Nat) (b : List Byte) : (d.store a b).images = d.images := by simp [Dev.store]
@[simp] theorem Dev.store_firmware (d : Dev) (a : Nat) (b : List Byte) : (d.store a b).firmware = d.firmware := by simp [Dev.store]
@[simp] theorem Dev.store_waiters (d : Dev) (a : Nat) (b : List Byte) : (d.store a b).waiters = d.waiters := by simp [Dev.store]
@[simp] theorem Dev.store_cart (d : Dev) (a : Nat) (b : List Byte) : (d.store a b).cart = d.cart := by simp [Dev.store]
@[simp] theorem Dev.store_seq (d : Dev) (a : Nat) (b : List Byte) : (d.store a b).seq = d.seq := by simp [Dev.store]
@[simp] theorem Dev.store_thermal (d : Dev) (a : Nat) (b : List Byte) : (d.store a b).thermal = d.thermal := by simp [Dev.store]
@[simp] theorem Dev.store_boot (d : Dev) (a : Nat) (b : List Byte) : (d.store a b).boot = d.boot := by simp [Dev.store]
@[simp] theorem Dev.store_pins (d : Dev) (a : Nat) (b : List Byte) : (d.store a b).pins = d.pins := by simp [Dev.store]
@[simp] theorem Dev.store_slices (d : Dev) (a : Nat) (b : List Byte) : (d.store a b).slices = d.slices := by simp [Dev.store]
@[simp] theorem Dev.store_flushes (d : Dev) (a : Nat) (b : List Byte) : (d.store a b).flushes = d.flushes := by simp [Dev.store]
@[simp] theorem Dev.store_nextFlush (d : Dev) (a : Nat) (b : List Byte) : (d.store a b).nextFlush = d.nextFlush := by simp [Dev.store]
@[simp] theorem Dev.store_transition (d : Dev) (a : Nat) (b : List Byte) : (d.store a b).transition = d.transition := by simp [Dev.store]
@[simp] theorem Dev.store_preserve (d : Dev) (a : Nat) (b : List Byte) : (d.store a b).preserve = d.preserve := by simp [Dev.store]
@[simp] theorem Dev.store_rung (d : Dev) (a : Nat) (b : List Byte) : (d.store a b).rung = d.rung := by simp [Dev.store]
@[simp] theorem Dev.store_draws (d : Dev) (a : Nat) (b : List Byte) : (d.store a b).draws = d.draws := by simp [Dev.store]
@[simp] theorem Dev.store_out (d : Dev) (a : Nat) (b : List Byte) : (d.store a b).out = d.out := by simp [Dev.store]

/-! ### Dev.storeControl -/

@[simp] theorem Dev.storeControl_part (d : Dev) : (d.storeControl).part = d.part := by simp [Dev.storeControl]
@[simp] theorem Dev.storeControl_fuses (d : Dev) : (d.storeControl).fuses = d.fuses := by simp [Dev.storeControl]
@[simp] theorem Dev.storeControl_mode (d : Dev) : (d.storeControl).mode = d.mode := by simp [Dev.storeControl]
@[simp] theorem Dev.storeControl_clock (d : Dev) : (d.storeControl).clock = d.clock := by simp [Dev.storeControl]
@[simp] theorem Dev.storeControl_swap (d : Dev) : (d.storeControl).swap = d.swap := by simp [Dev.storeControl]
@[simp] theorem Dev.storeControl_active (d : Dev) : (d.storeControl).active = d.active := by simp [Dev.storeControl]
@[simp] theorem Dev.storeControl_shadow (d : Dev) : (d.storeControl).shadow = d.shadow := by simp [Dev.storeControl]
@[simp] theorem Dev.storeControl_regs (d : Dev) : (d.storeControl).regs = d.regs := by simp [Dev.storeControl]
@[simp] theorem Dev.storeControl_chans (d : Dev) : (d.storeControl).chans = d.chans := by simp [Dev.storeControl]
@[simp] theorem Dev.storeControl_i3c (d : Dev) : (d.storeControl).i3c = d.i3c := by simp [Dev.storeControl]
@[simp] theorem Dev.storeControl_rings (d : Dev) : (d.storeControl).rings = d.rings := by simp [Dev.storeControl]
@[simp] theorem Dev.storeControl_ports (d : Dev) : (d.storeControl).ports = d.ports := by simp [Dev.storeControl]
@[simp] theorem Dev.storeControl_std (d : Dev) : (d.storeControl).std = d.std := by simp [Dev.storeControl]
@[simp] theorem Dev.storeControl_dbg (d : Dev) : (d.storeControl).dbg = d.dbg := by simp [Dev.storeControl]
@[simp] theorem Dev.storeControl_alarms (d : Dev) : (d.storeControl).alarms = d.alarms := by simp [Dev.storeControl]
@[simp] theorem Dev.storeControl_keys (d : Dev) : (d.storeControl).keys = d.keys := by simp [Dev.storeControl]
@[simp] theorem Dev.storeControl_titles (d : Dev) : (d.storeControl).titles = d.titles := by simp [Dev.storeControl]
@[simp] theorem Dev.storeControl_mirror (d : Dev) : (d.storeControl).mirror = d.mirror := by simp [Dev.storeControl]
@[simp] theorem Dev.storeControl_recorder (d : Dev) : (d.storeControl).recorder = d.recorder := by simp [Dev.storeControl]
@[simp] theorem Dev.storeControl_images (d : Dev) : (d.storeControl).images = d.images := by simp [Dev.storeControl]
@[simp] theorem Dev.storeControl_firmware (d : Dev) : (d.storeControl).firmware = d.firmware := by simp [Dev.storeControl]
@[simp] theorem Dev.storeControl_waiters (d : Dev) : (d.storeControl).waiters = d.waiters := by simp [Dev.storeControl]
@[simp] theorem Dev.storeControl_cart (d : Dev) : (d.storeControl).cart = d.cart := by simp [Dev.storeControl]
@[simp] theorem Dev.storeControl_seq (d : Dev) : (d.storeControl).seq = d.seq := by simp [Dev.storeControl]
@[simp] theorem Dev.storeControl_thermal (d : Dev) : (d.storeControl).thermal = d.thermal := by simp [Dev.storeControl]
@[simp] theorem Dev.storeControl_boot (d : Dev) : (d.storeControl).boot = d.boot := by simp [Dev.storeControl]
@[simp] theorem Dev.storeControl_pins (d : Dev) : (d.storeControl).pins = d.pins := by simp [Dev.storeControl]
@[simp] theorem Dev.storeControl_slices (d : Dev) : (d.storeControl).slices = d.slices := by simp [Dev.storeControl]
@[simp] theorem Dev.storeControl_flushes (d : Dev) : (d.storeControl).flushes = d.flushes := by simp [Dev.storeControl]
@[simp] theorem Dev.storeControl_nextFlush (d : Dev) : (d.storeControl).nextFlush = d.nextFlush := by simp [Dev.storeControl]
@[simp] theorem Dev.storeControl_transition (d : Dev) : (d.storeControl).transition = d.transition := by simp [Dev.storeControl]
@[simp] theorem Dev.storeControl_preserve (d : Dev) : (d.storeControl).preserve = d.preserve := by simp [Dev.storeControl]
@[simp] theorem Dev.storeControl_rung (d : Dev) : (d.storeControl).rung = d.rung := by simp [Dev.storeControl]
@[simp] theorem Dev.storeControl_draws (d : Dev) : (d.storeControl).draws = d.draws := by simp [Dev.storeControl]
@[simp] theorem Dev.storeControl_out (d : Dev) : (d.storeControl).out = d.out := by simp [Dev.storeControl]

/-! ### Dev.dropEvent -/

@[simp] theorem Dev.dropEvent_part (d : Dev) : (d.dropEvent).part = d.part := by simp [Dev.dropEvent]
@[simp] theorem Dev.dropEvent_fuses (d : Dev) : (d.dropEvent).fuses = d.fuses := by simp [Dev.dropEvent]
@[simp] theorem Dev.dropEvent_mode (d : Dev) : (d.dropEvent).mode = d.mode := by simp [Dev.dropEvent]
@[simp] theorem Dev.dropEvent_clock (d : Dev) : (d.dropEvent).clock = d.clock := by simp [Dev.dropEvent]
@[simp] theorem Dev.dropEvent_swap (d : Dev) : (d.dropEvent).swap = d.swap := by simp [Dev.dropEvent]
@[simp] theorem Dev.dropEvent_active (d : Dev) : (d.dropEvent).active = d.active := by simp [Dev.dropEvent]
@[simp] theorem Dev.dropEvent_shadow (d : Dev) : (d.dropEvent).shadow = d.shadow := by simp [Dev.dropEvent]
@[simp] theorem Dev.dropEvent_regs (d : Dev) : (d.dropEvent).regs = d.regs := by simp [Dev.dropEvent]
@[simp] theorem Dev.dropEvent_chans (d : Dev) : (d.dropEvent).chans = d.chans := by simp [Dev.dropEvent]
@[simp] theorem Dev.dropEvent_i3c (d : Dev) : (d.dropEvent).i3c = d.i3c := by simp [Dev.dropEvent]
@[simp] theorem Dev.dropEvent_rings (d : Dev) : (d.dropEvent).rings = d.rings := by simp [Dev.dropEvent]
@[simp] theorem Dev.dropEvent_ports (d : Dev) : (d.dropEvent).ports = d.ports := by simp [Dev.dropEvent]
@[simp] theorem Dev.dropEvent_std (d : Dev) : (d.dropEvent).std = d.std := by simp [Dev.dropEvent]
@[simp] theorem Dev.dropEvent_dbg (d : Dev) : (d.dropEvent).dbg = d.dbg := by simp [Dev.dropEvent]
@[simp] theorem Dev.dropEvent_alarms (d : Dev) : (d.dropEvent).alarms = d.alarms := by simp [Dev.dropEvent]
@[simp] theorem Dev.dropEvent_keys (d : Dev) : (d.dropEvent).keys = d.keys := by simp [Dev.dropEvent]
@[simp] theorem Dev.dropEvent_titles (d : Dev) : (d.dropEvent).titles = d.titles := by simp [Dev.dropEvent]
@[simp] theorem Dev.dropEvent_pstore (d : Dev) : (d.dropEvent).pstore = d.pstore := by simp [Dev.dropEvent]
@[simp] theorem Dev.dropEvent_recorder (d : Dev) : (d.dropEvent).recorder = d.recorder := by simp [Dev.dropEvent]
@[simp] theorem Dev.dropEvent_images (d : Dev) : (d.dropEvent).images = d.images := by simp [Dev.dropEvent]
@[simp] theorem Dev.dropEvent_firmware (d : Dev) : (d.dropEvent).firmware = d.firmware := by simp [Dev.dropEvent]
@[simp] theorem Dev.dropEvent_waiters (d : Dev) : (d.dropEvent).waiters = d.waiters := by simp [Dev.dropEvent]
@[simp] theorem Dev.dropEvent_cart (d : Dev) : (d.dropEvent).cart = d.cart := by simp [Dev.dropEvent]
@[simp] theorem Dev.dropEvent_seq (d : Dev) : (d.dropEvent).seq = d.seq := by simp [Dev.dropEvent]
@[simp] theorem Dev.dropEvent_thermal (d : Dev) : (d.dropEvent).thermal = d.thermal := by simp [Dev.dropEvent]
@[simp] theorem Dev.dropEvent_boot (d : Dev) : (d.dropEvent).boot = d.boot := by simp [Dev.dropEvent]
@[simp] theorem Dev.dropEvent_pins (d : Dev) : (d.dropEvent).pins = d.pins := by simp [Dev.dropEvent]
@[simp] theorem Dev.dropEvent_slices (d : Dev) : (d.dropEvent).slices = d.slices := by simp [Dev.dropEvent]
@[simp] theorem Dev.dropEvent_flushes (d : Dev) : (d.dropEvent).flushes = d.flushes := by simp [Dev.dropEvent]
@[simp] theorem Dev.dropEvent_nextFlush (d : Dev) : (d.dropEvent).nextFlush = d.nextFlush := by simp [Dev.dropEvent]
@[simp] theorem Dev.dropEvent_transition (d : Dev) : (d.dropEvent).transition = d.transition := by simp [Dev.dropEvent]
@[simp] theorem Dev.dropEvent_preserve (d : Dev) : (d.dropEvent).preserve = d.preserve := by simp [Dev.dropEvent]
@[simp] theorem Dev.dropEvent_rung (d : Dev) : (d.dropEvent).rung = d.rung := by simp [Dev.dropEvent]
@[simp] theorem Dev.dropEvent_draws (d : Dev) : (d.dropEvent).draws = d.draws := by simp [Dev.dropEvent]
@[simp] theorem Dev.dropEvent_out (d : Dev) : (d.dropEvent).out = d.out := by simp [Dev.dropEvent]

/-! ### Dev.failRecorder -/

@[simp] theorem Dev.failRecorder_part (d : Dev) : (d.failRecorder).part = d.part := by simp [Dev.failRecorder]
@[simp] theorem Dev.failRecorder_fuses (d : Dev) : (d.failRecorder).fuses = d.fuses := by simp [Dev.failRecorder]
@[simp] theorem Dev.failRecorder_mode (d : Dev) : (d.failRecorder).mode = d.mode := by simp [Dev.failRecorder]
@[simp] theorem Dev.failRecorder_clock (d : Dev) : (d.failRecorder).clock = d.clock := by simp [Dev.failRecorder]
@[simp] theorem Dev.failRecorder_swap (d : Dev) : (d.failRecorder).swap = d.swap := by simp [Dev.failRecorder]
@[simp] theorem Dev.failRecorder_active (d : Dev) : (d.failRecorder).active = d.active := by simp [Dev.failRecorder]
@[simp] theorem Dev.failRecorder_shadow (d : Dev) : (d.failRecorder).shadow = d.shadow := by simp [Dev.failRecorder]
@[simp] theorem Dev.failRecorder_regs (d : Dev) : (d.failRecorder).regs = d.regs := by simp [Dev.failRecorder]
@[simp] theorem Dev.failRecorder_i3c (d : Dev) : (d.failRecorder).i3c = d.i3c := by simp [Dev.failRecorder]
@[simp] theorem Dev.failRecorder_rings (d : Dev) : (d.failRecorder).rings = d.rings := by simp [Dev.failRecorder]
@[simp] theorem Dev.failRecorder_ports (d : Dev) : (d.failRecorder).ports = d.ports := by simp [Dev.failRecorder]
@[simp] theorem Dev.failRecorder_std (d : Dev) : (d.failRecorder).std = d.std := by simp [Dev.failRecorder]
@[simp] theorem Dev.failRecorder_dbg (d : Dev) : (d.failRecorder).dbg = d.dbg := by simp [Dev.failRecorder]
@[simp] theorem Dev.failRecorder_alarms (d : Dev) : (d.failRecorder).alarms = d.alarms := by simp [Dev.failRecorder]
@[simp] theorem Dev.failRecorder_keys (d : Dev) : (d.failRecorder).keys = d.keys := by simp [Dev.failRecorder]
@[simp] theorem Dev.failRecorder_titles (d : Dev) : (d.failRecorder).titles = d.titles := by simp [Dev.failRecorder]
@[simp] theorem Dev.failRecorder_images (d : Dev) : (d.failRecorder).images = d.images := by simp [Dev.failRecorder]
@[simp] theorem Dev.failRecorder_firmware (d : Dev) : (d.failRecorder).firmware = d.firmware := by simp [Dev.failRecorder]
@[simp] theorem Dev.failRecorder_waiters (d : Dev) : (d.failRecorder).waiters = d.waiters := by simp [Dev.failRecorder]
@[simp] theorem Dev.failRecorder_cart (d : Dev) : (d.failRecorder).cart = d.cart := by simp [Dev.failRecorder]
@[simp] theorem Dev.failRecorder_seq (d : Dev) : (d.failRecorder).seq = d.seq := by simp [Dev.failRecorder]
@[simp] theorem Dev.failRecorder_thermal (d : Dev) : (d.failRecorder).thermal = d.thermal := by simp [Dev.failRecorder]
@[simp] theorem Dev.failRecorder_boot (d : Dev) : (d.failRecorder).boot = d.boot := by simp [Dev.failRecorder]
@[simp] theorem Dev.failRecorder_pins (d : Dev) : (d.failRecorder).pins = d.pins := by simp [Dev.failRecorder]
@[simp] theorem Dev.failRecorder_slices (d : Dev) : (d.failRecorder).slices = d.slices := by simp [Dev.failRecorder]
@[simp] theorem Dev.failRecorder_flushes (d : Dev) : (d.failRecorder).flushes = d.flushes := by simp [Dev.failRecorder]
@[simp] theorem Dev.failRecorder_nextFlush (d : Dev) : (d.failRecorder).nextFlush = d.nextFlush := by simp [Dev.failRecorder]
@[simp] theorem Dev.failRecorder_transition (d : Dev) : (d.failRecorder).transition = d.transition := by simp [Dev.failRecorder]
@[simp] theorem Dev.failRecorder_preserve (d : Dev) : (d.failRecorder).preserve = d.preserve := by simp [Dev.failRecorder]
@[simp] theorem Dev.failRecorder_rung (d : Dev) : (d.failRecorder).rung = d.rung := by simp [Dev.failRecorder]
@[simp] theorem Dev.failRecorder_draws (d : Dev) : (d.failRecorder).draws = d.draws := by simp [Dev.failRecorder]

/-! ### Dev.storeRepeats -/

@[simp] theorem Dev.storeRepeats_part (d : Dev) : (d.storeRepeats).part = d.part := by
  unfold Dev.storeRepeats
  dsimp only
  (repeat' split) <;> simp
@[simp] theorem Dev.storeRepeats_fuses (d : Dev) : (d.storeRepeats).fuses = d.fuses := by
  unfold Dev.storeRepeats
  dsimp only
  (repeat' split) <;> simp
@[simp] theorem Dev.storeRepeats_mode (d : Dev) : (d.storeRepeats).mode = d.mode := by
  unfold Dev.storeRepeats
  dsimp only
  (repeat' split) <;> simp
@[simp] theorem Dev.storeRepeats_clock (d : Dev) : (d.storeRepeats).clock = d.clock := by
  unfold Dev.storeRepeats
  dsimp only
  (repeat' split) <;> simp
@[simp] theorem Dev.storeRepeats_swap (d : Dev) : (d.storeRepeats).swap = d.swap := by
  unfold Dev.storeRepeats
  dsimp only
  (repeat' split) <;> simp
@[simp] theorem Dev.storeRepeats_active (d : Dev) : (d.storeRepeats).active = d.active := by
  unfold Dev.storeRepeats
  dsimp only
  (repeat' split) <;> simp
@[simp] theorem Dev.storeRepeats_shadow (d : Dev) : (d.storeRepeats).shadow = d.shadow := by
  unfold Dev.storeRepeats
  dsimp only
  (repeat' split) <;> simp
@[simp] theorem Dev.storeRepeats_regs (d : Dev) : (d.storeRepeats).regs = d.regs := by
  unfold Dev.storeRepeats
  dsimp only
  (repeat' split) <;> simp
@[simp] theorem Dev.storeRepeats_i3c (d : Dev) : (d.storeRepeats).i3c = d.i3c := by
  unfold Dev.storeRepeats
  dsimp only
  (repeat' split) <;> simp
@[simp] theorem Dev.storeRepeats_rings (d : Dev) : (d.storeRepeats).rings = d.rings := by
  unfold Dev.storeRepeats
  dsimp only
  (repeat' split) <;> simp
@[simp] theorem Dev.storeRepeats_ports (d : Dev) : (d.storeRepeats).ports = d.ports := by
  unfold Dev.storeRepeats
  dsimp only
  (repeat' split) <;> simp
@[simp] theorem Dev.storeRepeats_std (d : Dev) : (d.storeRepeats).std = d.std := by
  unfold Dev.storeRepeats
  dsimp only
  (repeat' split) <;> simp
@[simp] theorem Dev.storeRepeats_dbg (d : Dev) : (d.storeRepeats).dbg = d.dbg := by
  unfold Dev.storeRepeats
  dsimp only
  (repeat' split) <;> simp
@[simp] theorem Dev.storeRepeats_alarms (d : Dev) : (d.storeRepeats).alarms = d.alarms := by
  unfold Dev.storeRepeats
  dsimp only
  (repeat' split) <;> simp
@[simp] theorem Dev.storeRepeats_keys (d : Dev) : (d.storeRepeats).keys = d.keys := by
  unfold Dev.storeRepeats
  dsimp only
  (repeat' split) <;> simp
@[simp] theorem Dev.storeRepeats_titles (d : Dev) : (d.storeRepeats).titles = d.titles := by
  unfold Dev.storeRepeats
  dsimp only
  (repeat' split) <;> simp
@[simp] theorem Dev.storeRepeats_images (d : Dev) : (d.storeRepeats).images = d.images := by
  unfold Dev.storeRepeats
  dsimp only
  (repeat' split) <;> simp
@[simp] theorem Dev.storeRepeats_firmware (d : Dev) : (d.storeRepeats).firmware = d.firmware := by
  unfold Dev.storeRepeats
  dsimp only
  (repeat' split) <;> simp
@[simp] theorem Dev.storeRepeats_waiters (d : Dev) : (d.storeRepeats).waiters = d.waiters := by
  unfold Dev.storeRepeats
  dsimp only
  (repeat' split) <;> simp
@[simp] theorem Dev.storeRepeats_cart (d : Dev) : (d.storeRepeats).cart = d.cart := by
  unfold Dev.storeRepeats
  dsimp only
  (repeat' split) <;> simp
@[simp] theorem Dev.storeRepeats_seq (d : Dev) : (d.storeRepeats).seq = d.seq := by
  unfold Dev.storeRepeats
  dsimp only
  (repeat' split) <;> simp
@[simp] theorem Dev.storeRepeats_thermal (d : Dev) : (d.storeRepeats).thermal = d.thermal := by
  unfold Dev.storeRepeats
  dsimp only
  (repeat' split) <;> simp
@[simp] theorem Dev.storeRepeats_boot (d : Dev) : (d.storeRepeats).boot = d.boot := by
  unfold Dev.storeRepeats
  dsimp only
  (repeat' split) <;> simp
@[simp] theorem Dev.storeRepeats_pins (d : Dev) : (d.storeRepeats).pins = d.pins := by
  unfold Dev.storeRepeats
  dsimp only
  (repeat' split) <;> simp
@[simp] theorem Dev.storeRepeats_slices (d : Dev) : (d.storeRepeats).slices = d.slices := by
  unfold Dev.storeRepeats
  dsimp only
  (repeat' split) <;> simp
@[simp] theorem Dev.storeRepeats_flushes (d : Dev) : (d.storeRepeats).flushes = d.flushes := by
  unfold Dev.storeRepeats
  dsimp only
  (repeat' split) <;> simp
@[simp] theorem Dev.storeRepeats_nextFlush (d : Dev) : (d.storeRepeats).nextFlush = d.nextFlush := by
  unfold Dev.storeRepeats
  dsimp only
  (repeat' split) <;> simp
@[simp] theorem Dev.storeRepeats_transition (d : Dev) : (d.storeRepeats).transition = d.transition := by
  unfold Dev.storeRepeats
  dsimp only
  (repeat' split) <;> simp
@[simp] theorem Dev.storeRepeats_preserve (d : Dev) : (d.storeRepeats).preserve = d.preserve := by
  unfold Dev.storeRepeats
  dsimp only
  (repeat' split) <;> simp
@[simp] theorem Dev.storeRepeats_rung (d : Dev) : (d.storeRepeats).rung = d.rung := by
  unfold Dev.storeRepeats
  dsimp only
  (repeat' split) <;> simp
@[simp] theorem Dev.storeRepeats_draws (d : Dev) : (d.storeRepeats).draws = d.draws := by
  unfold Dev.storeRepeats
  dsimp only
  (repeat' split) <;> simp

/-! ### Dev.appendRecord -/

@[simp] theorem Dev.appendRecord_part (d : Dev) (e : Event) : (d.appendRecord e).part = d.part := by
  unfold Dev.appendRecord
  dsimp only
  (repeat' split) <;> simp
@[simp] theorem Dev.appendRecord_fuses (d : Dev) (e : Event) : (d.appendRecord e).fuses = d.fuses := by
  unfold Dev.appendRecord
  dsimp only
  (repeat' split) <;> simp
@[simp] theorem Dev.appendRecord_mode (d : Dev) (e : Event) : (d.appendRecord e).mode = d.mode := by
  unfold Dev.appendRecord
  dsimp only
  (repeat' split) <;> simp
@[simp] theorem Dev.appendRecord_clock (d : Dev) (e : Event) : (d.appendRecord e).clock = d.clock := by
  unfold Dev.appendRecord
  dsimp only
  (repeat' split) <;> simp
@[simp] theorem Dev.appendRecord_swap (d : Dev) (e : Event) : (d.appendRecord e).swap = d.swap := by
  unfold Dev.appendRecord
  dsimp only
  (repeat' split) <;> simp
@[simp] theorem Dev.appendRecord_active (d : Dev) (e : Event) : (d.appendRecord e).active = d.active := by
  unfold Dev.appendRecord
  dsimp only
  (repeat' split) <;> simp
@[simp] theorem Dev.appendRecord_shadow (d : Dev) (e : Event) : (d.appendRecord e).shadow = d.shadow := by
  unfold Dev.appendRecord
  dsimp only
  (repeat' split) <;> simp
@[simp] theorem Dev.appendRecord_regs (d : Dev) (e : Event) : (d.appendRecord e).regs = d.regs := by
  unfold Dev.appendRecord
  dsimp only
  (repeat' split) <;> simp
@[simp] theorem Dev.appendRecord_i3c (d : Dev) (e : Event) : (d.appendRecord e).i3c = d.i3c := by
  unfold Dev.appendRecord
  dsimp only
  (repeat' split) <;> simp
@[simp] theorem Dev.appendRecord_rings (d : Dev) (e : Event) : (d.appendRecord e).rings = d.rings := by
  unfold Dev.appendRecord
  dsimp only
  (repeat' split) <;> simp
@[simp] theorem Dev.appendRecord_ports (d : Dev) (e : Event) : (d.appendRecord e).ports = d.ports := by
  unfold Dev.appendRecord
  dsimp only
  (repeat' split) <;> simp
@[simp] theorem Dev.appendRecord_std (d : Dev) (e : Event) : (d.appendRecord e).std = d.std := by
  unfold Dev.appendRecord
  dsimp only
  (repeat' split) <;> simp
@[simp] theorem Dev.appendRecord_dbg (d : Dev) (e : Event) : (d.appendRecord e).dbg = d.dbg := by
  unfold Dev.appendRecord
  dsimp only
  (repeat' split) <;> simp
@[simp] theorem Dev.appendRecord_alarms (d : Dev) (e : Event) : (d.appendRecord e).alarms = d.alarms := by
  unfold Dev.appendRecord
  dsimp only
  (repeat' split) <;> simp
@[simp] theorem Dev.appendRecord_keys (d : Dev) (e : Event) : (d.appendRecord e).keys = d.keys := by
  unfold Dev.appendRecord
  dsimp only
  (repeat' split) <;> simp
@[simp] theorem Dev.appendRecord_titles (d : Dev) (e : Event) : (d.appendRecord e).titles = d.titles := by
  unfold Dev.appendRecord
  dsimp only
  (repeat' split) <;> simp
@[simp] theorem Dev.appendRecord_images (d : Dev) (e : Event) : (d.appendRecord e).images = d.images := by
  unfold Dev.appendRecord
  dsimp only
  (repeat' split) <;> simp
@[simp] theorem Dev.appendRecord_firmware (d : Dev) (e : Event) : (d.appendRecord e).firmware = d.firmware := by
  unfold Dev.appendRecord
  dsimp only
  (repeat' split) <;> simp
@[simp] theorem Dev.appendRecord_waiters (d : Dev) (e : Event) : (d.appendRecord e).waiters = d.waiters := by
  unfold Dev.appendRecord
  dsimp only
  (repeat' split) <;> simp
@[simp] theorem Dev.appendRecord_cart (d : Dev) (e : Event) : (d.appendRecord e).cart = d.cart := by
  unfold Dev.appendRecord
  dsimp only
  (repeat' split) <;> simp
@[simp] theorem Dev.appendRecord_seq (d : Dev) (e : Event) : (d.appendRecord e).seq = d.seq := by
  unfold Dev.appendRecord
  dsimp only
  (repeat' split) <;> simp
@[simp] theorem Dev.appendRecord_thermal (d : Dev) (e : Event) : (d.appendRecord e).thermal = d.thermal := by
  unfold Dev.appendRecord
  dsimp only
  (repeat' split) <;> simp
@[simp] theorem Dev.appendRecord_boot (d : Dev) (e : Event) : (d.appendRecord e).boot = d.boot := by
  unfold Dev.appendRecord
  dsimp only
  (repeat' split) <;> simp
@[simp] theorem Dev.appendRecord_pins (d : Dev) (e : Event) : (d.appendRecord e).pins = d.pins := by
  unfold Dev.appendRecord
  dsimp only
  (repeat' split) <;> simp
@[simp] theorem Dev.appendRecord_slices (d : Dev) (e : Event) : (d.appendRecord e).slices = d.slices := by
  unfold Dev.appendRecord
  dsimp only
  (repeat' split) <;> simp
@[simp] theorem Dev.appendRecord_flushes (d : Dev) (e : Event) : (d.appendRecord e).flushes = d.flushes := by
  unfold Dev.appendRecord
  dsimp only
  (repeat' split) <;> simp
@[simp] theorem Dev.appendRecord_nextFlush (d : Dev) (e : Event) : (d.appendRecord e).nextFlush = d.nextFlush := by
  unfold Dev.appendRecord
  dsimp only
  (repeat' split) <;> simp
@[simp] theorem Dev.appendRecord_transition (d : Dev) (e : Event) : (d.appendRecord e).transition = d.transition := by
  unfold Dev.appendRecord
  dsimp only
  (repeat' split) <;> simp
@[simp] theorem Dev.appendRecord_preserve (d : Dev) (e : Event) : (d.appendRecord e).preserve = d.preserve := by
  unfold Dev.appendRecord
  dsimp only
  (repeat' split) <;> simp
@[simp] theorem Dev.appendRecord_rung (d : Dev) (e : Event) : (d.appendRecord e).rung = d.rung := by
  unfold Dev.appendRecord
  dsimp only
  (repeat' split) <;> simp
@[simp] theorem Dev.appendRecord_draws (d : Dev) (e : Event) : (d.appendRecord e).draws = d.draws := by
  unfold Dev.appendRecord
  dsimp only
  (repeat' split) <;> simp

/-! ### Dev.recordEvent -/

@[simp] theorem Dev.recordEvent_part (d : Dev) (e : Event) : (d.recordEvent e).part = d.part := by
  unfold Dev.recordEvent
  (repeat' split) <;> simp
@[simp] theorem Dev.recordEvent_fuses (d : Dev) (e : Event) : (d.recordEvent e).fuses = d.fuses := by
  unfold Dev.recordEvent
  (repeat' split) <;> simp
@[simp] theorem Dev.recordEvent_mode (d : Dev) (e : Event) : (d.recordEvent e).mode = d.mode := by
  unfold Dev.recordEvent
  (repeat' split) <;> simp
@[simp] theorem Dev.recordEvent_clock (d : Dev) (e : Event) : (d.recordEvent e).clock = d.clock := by
  unfold Dev.recordEvent
  (repeat' split) <;> simp
@[simp] theorem Dev.recordEvent_swap (d : Dev) (e : Event) : (d.recordEvent e).swap = d.swap := by
  unfold Dev.recordEvent
  (repeat' split) <;> simp
@[simp] theorem Dev.recordEvent_active (d : Dev) (e : Event) : (d.recordEvent e).active = d.active := by
  unfold Dev.recordEvent
  (repeat' split) <;> simp
@[simp] theorem Dev.recordEvent_shadow (d : Dev) (e : Event) : (d.recordEvent e).shadow = d.shadow := by
  unfold Dev.recordEvent
  (repeat' split) <;> simp
@[simp] theorem Dev.recordEvent_regs (d : Dev) (e : Event) : (d.recordEvent e).regs = d.regs := by
  unfold Dev.recordEvent
  (repeat' split) <;> simp
@[simp] theorem Dev.recordEvent_i3c (d : Dev) (e : Event) : (d.recordEvent e).i3c = d.i3c := by
  unfold Dev.recordEvent
  (repeat' split) <;> simp
@[simp] theorem Dev.recordEvent_rings (d : Dev) (e : Event) : (d.recordEvent e).rings = d.rings := by
  unfold Dev.recordEvent
  (repeat' split) <;> simp
@[simp] theorem Dev.recordEvent_ports (d : Dev) (e : Event) : (d.recordEvent e).ports = d.ports := by
  unfold Dev.recordEvent
  (repeat' split) <;> simp
@[simp] theorem Dev.recordEvent_std (d : Dev) (e : Event) : (d.recordEvent e).std = d.std := by
  unfold Dev.recordEvent
  (repeat' split) <;> simp
@[simp] theorem Dev.recordEvent_dbg (d : Dev) (e : Event) : (d.recordEvent e).dbg = d.dbg := by
  unfold Dev.recordEvent
  (repeat' split) <;> simp
@[simp] theorem Dev.recordEvent_alarms (d : Dev) (e : Event) : (d.recordEvent e).alarms = d.alarms := by
  unfold Dev.recordEvent
  (repeat' split) <;> simp
@[simp] theorem Dev.recordEvent_keys (d : Dev) (e : Event) : (d.recordEvent e).keys = d.keys := by
  unfold Dev.recordEvent
  (repeat' split) <;> simp
@[simp] theorem Dev.recordEvent_titles (d : Dev) (e : Event) : (d.recordEvent e).titles = d.titles := by
  unfold Dev.recordEvent
  (repeat' split) <;> simp
@[simp] theorem Dev.recordEvent_images (d : Dev) (e : Event) : (d.recordEvent e).images = d.images := by
  unfold Dev.recordEvent
  (repeat' split) <;> simp
@[simp] theorem Dev.recordEvent_firmware (d : Dev) (e : Event) : (d.recordEvent e).firmware = d.firmware := by
  unfold Dev.recordEvent
  (repeat' split) <;> simp
@[simp] theorem Dev.recordEvent_waiters (d : Dev) (e : Event) : (d.recordEvent e).waiters = d.waiters := by
  unfold Dev.recordEvent
  (repeat' split) <;> simp
@[simp] theorem Dev.recordEvent_cart (d : Dev) (e : Event) : (d.recordEvent e).cart = d.cart := by
  unfold Dev.recordEvent
  (repeat' split) <;> simp
@[simp] theorem Dev.recordEvent_seq (d : Dev) (e : Event) : (d.recordEvent e).seq = d.seq := by
  unfold Dev.recordEvent
  (repeat' split) <;> simp
@[simp] theorem Dev.recordEvent_thermal (d : Dev) (e : Event) : (d.recordEvent e).thermal = d.thermal := by
  unfold Dev.recordEvent
  (repeat' split) <;> simp
@[simp] theorem Dev.recordEvent_boot (d : Dev) (e : Event) : (d.recordEvent e).boot = d.boot := by
  unfold Dev.recordEvent
  (repeat' split) <;> simp
@[simp] theorem Dev.recordEvent_pins (d : Dev) (e : Event) : (d.recordEvent e).pins = d.pins := by
  unfold Dev.recordEvent
  (repeat' split) <;> simp
@[simp] theorem Dev.recordEvent_slices (d : Dev) (e : Event) : (d.recordEvent e).slices = d.slices := by
  unfold Dev.recordEvent
  (repeat' split) <;> simp
@[simp] theorem Dev.recordEvent_flushes (d : Dev) (e : Event) : (d.recordEvent e).flushes = d.flushes := by
  unfold Dev.recordEvent
  (repeat' split) <;> simp
@[simp] theorem Dev.recordEvent_nextFlush (d : Dev) (e : Event) : (d.recordEvent e).nextFlush = d.nextFlush := by
  unfold Dev.recordEvent
  (repeat' split) <;> simp
@[simp] theorem Dev.recordEvent_transition (d : Dev) (e : Event) : (d.recordEvent e).transition = d.transition := by
  unfold Dev.recordEvent
  (repeat' split) <;> simp
@[simp] theorem Dev.recordEvent_preserve (d : Dev) (e : Event) : (d.recordEvent e).preserve = d.preserve := by
  unfold Dev.recordEvent
  (repeat' split) <;> simp
@[simp] theorem Dev.recordEvent_rung (d : Dev) (e : Event) : (d.recordEvent e).rung = d.rung := by
  unfold Dev.recordEvent
  (repeat' split) <;> simp
@[simp] theorem Dev.recordEvent_draws (d : Dev) (e : Event) : (d.recordEvent e).draws = d.draws := by
  unfold Dev.recordEvent
  (repeat' split) <;> simp

/-! ### Dev.eventInterrupts -/

@[simp] theorem Dev.eventInterrupts_part (d : Dev) (l : Nat) : (d.eventInterrupts l).part = d.part := by simp [Dev.eventInterrupts]
@[simp] theorem Dev.eventInterrupts_fuses (d : Dev) (l : Nat) : (d.eventInterrupts l).fuses = d.fuses := by simp [Dev.eventInterrupts]
@[simp] theorem Dev.eventInterrupts_mode (d : Dev) (l : Nat) : (d.eventInterrupts l).mode = d.mode := by simp [Dev.eventInterrupts]
@[simp] theorem Dev.eventInterrupts_clock (d : Dev) (l : Nat) : (d.eventInterrupts l).clock = d.clock := by simp [Dev.eventInterrupts]
@[simp] theorem Dev.eventInterrupts_swap (d : Dev) (l : Nat) : (d.eventInterrupts l).swap = d.swap := by simp [Dev.eventInterrupts]
@[simp] theorem Dev.eventInterrupts_active (d : Dev) (l : Nat) : (d.eventInterrupts l).active = d.active := by simp [Dev.eventInterrupts]
@[simp] theorem Dev.eventInterrupts_shadow (d : Dev) (l : Nat) : (d.eventInterrupts l).shadow = d.shadow := by simp [Dev.eventInterrupts]
@[simp] theorem Dev.eventInterrupts_regs (d : Dev) (l : Nat) : (d.eventInterrupts l).regs = d.regs := by simp [Dev.eventInterrupts]
@[simp] theorem Dev.eventInterrupts_chans (d : Dev) (l : Nat) : (d.eventInterrupts l).chans = d.chans := by simp [Dev.eventInterrupts]
@[simp] theorem Dev.eventInterrupts_i3c (d : Dev) (l : Nat) : (d.eventInterrupts l).i3c = d.i3c := by simp [Dev.eventInterrupts]
@[simp] theorem Dev.eventInterrupts_rings (d : Dev) (l : Nat) : (d.eventInterrupts l).rings = d.rings := by simp [Dev.eventInterrupts]
@[simp] theorem Dev.eventInterrupts_ports (d : Dev) (l : Nat) : (d.eventInterrupts l).ports = d.ports := by simp [Dev.eventInterrupts]
@[simp] theorem Dev.eventInterrupts_std (d : Dev) (l : Nat) : (d.eventInterrupts l).std = d.std := by simp [Dev.eventInterrupts]
@[simp] theorem Dev.eventInterrupts_dbg (d : Dev) (l : Nat) : (d.eventInterrupts l).dbg = d.dbg := by simp [Dev.eventInterrupts]
@[simp] theorem Dev.eventInterrupts_alarms (d : Dev) (l : Nat) : (d.eventInterrupts l).alarms = d.alarms := by simp [Dev.eventInterrupts]
@[simp] theorem Dev.eventInterrupts_keys (d : Dev) (l : Nat) : (d.eventInterrupts l).keys = d.keys := by simp [Dev.eventInterrupts]
@[simp] theorem Dev.eventInterrupts_titles (d : Dev) (l : Nat) : (d.eventInterrupts l).titles = d.titles := by simp [Dev.eventInterrupts]
@[simp] theorem Dev.eventInterrupts_pstore (d : Dev) (l : Nat) : (d.eventInterrupts l).pstore = d.pstore := by simp [Dev.eventInterrupts]
@[simp] theorem Dev.eventInterrupts_mirror (d : Dev) (l : Nat) : (d.eventInterrupts l).mirror = d.mirror := by simp [Dev.eventInterrupts]
@[simp] theorem Dev.eventInterrupts_recorder (d : Dev) (l : Nat) : (d.eventInterrupts l).recorder = d.recorder := by simp [Dev.eventInterrupts]
@[simp] theorem Dev.eventInterrupts_images (d : Dev) (l : Nat) : (d.eventInterrupts l).images = d.images := by simp [Dev.eventInterrupts]
@[simp] theorem Dev.eventInterrupts_firmware (d : Dev) (l : Nat) : (d.eventInterrupts l).firmware = d.firmware := by simp [Dev.eventInterrupts]
@[simp] theorem Dev.eventInterrupts_waiters (d : Dev) (l : Nat) : (d.eventInterrupts l).waiters = d.waiters := by simp [Dev.eventInterrupts]
@[simp] theorem Dev.eventInterrupts_cart (d : Dev) (l : Nat) : (d.eventInterrupts l).cart = d.cart := by simp [Dev.eventInterrupts]
@[simp] theorem Dev.eventInterrupts_seq (d : Dev) (l : Nat) : (d.eventInterrupts l).seq = d.seq := by simp [Dev.eventInterrupts]
@[simp] theorem Dev.eventInterrupts_thermal (d : Dev) (l : Nat) : (d.eventInterrupts l).thermal = d.thermal := by simp [Dev.eventInterrupts]
@[simp] theorem Dev.eventInterrupts_boot (d : Dev) (l : Nat) : (d.eventInterrupts l).boot = d.boot := by simp [Dev.eventInterrupts]
@[simp] theorem Dev.eventInterrupts_pins (d : Dev) (l : Nat) : (d.eventInterrupts l).pins = d.pins := by simp [Dev.eventInterrupts]
@[simp] theorem Dev.eventInterrupts_slices (d : Dev) (l : Nat) : (d.eventInterrupts l).slices = d.slices := by simp [Dev.eventInterrupts]
@[simp] theorem Dev.eventInterrupts_flushes (d : Dev) (l : Nat) : (d.eventInterrupts l).flushes = d.flushes := by simp [Dev.eventInterrupts]
@[simp] theorem Dev.eventInterrupts_nextFlush (d : Dev) (l : Nat) : (d.eventInterrupts l).nextFlush = d.nextFlush := by simp [Dev.eventInterrupts]
@[simp] theorem Dev.eventInterrupts_counters (d : Dev) (l : Nat) : (d.eventInterrupts l).counters = d.counters := by simp [Dev.eventInterrupts]
@[simp] theorem Dev.eventInterrupts_transition (d : Dev) (l : Nat) : (d.eventInterrupts l).transition = d.transition := by simp [Dev.eventInterrupts]
@[simp] theorem Dev.eventInterrupts_preserve (d : Dev) (l : Nat) : (d.eventInterrupts l).preserve = d.preserve := by simp [Dev.eventInterrupts]
@[simp] theorem Dev.eventInterrupts_rung (d : Dev) (l : Nat) : (d.eventInterrupts l).rung = d.rung := by simp [Dev.eventInterrupts]
@[simp] theorem Dev.eventInterrupts_draws (d : Dev) (l : Nat) : (d.eventInterrupts l).draws = d.draws := by simp [Dev.eventInterrupts]

/-! ### Dev.logEvent -/

@[simp] theorem Dev.logEvent_part (d : Dev) (e : Event) : (d.logEvent e).part = d.part := by
  unfold Dev.logEvent
  dsimp only
  (repeat' split) <;> simp
@[simp] theorem Dev.logEvent_fuses (d : Dev) (e : Event) : (d.logEvent e).fuses = d.fuses := by
  unfold Dev.logEvent
  dsimp only
  (repeat' split) <;> simp
@[simp] theorem Dev.logEvent_mode (d : Dev) (e : Event) : (d.logEvent e).mode = d.mode := by
  unfold Dev.logEvent
  dsimp only
  (repeat' split) <;> simp
@[simp] theorem Dev.logEvent_clock (d : Dev) (e : Event) : (d.logEvent e).clock = d.clock := by
  unfold Dev.logEvent
  dsimp only
  (repeat' split) <;> simp
@[simp] theorem Dev.logEvent_swap (d : Dev) (e : Event) : (d.logEvent e).swap = d.swap := by
  unfold Dev.logEvent
  dsimp only
  (repeat' split) <;> simp
@[simp] theorem Dev.logEvent_active (d : Dev) (e : Event) : (d.logEvent e).active = d.active := by
  unfold Dev.logEvent
  dsimp only
  (repeat' split) <;> simp
@[simp] theorem Dev.logEvent_shadow (d : Dev) (e : Event) : (d.logEvent e).shadow = d.shadow := by
  unfold Dev.logEvent
  dsimp only
  (repeat' split) <;> simp
@[simp] theorem Dev.logEvent_regs (d : Dev) (e : Event) : (d.logEvent e).regs = d.regs := by
  unfold Dev.logEvent
  dsimp only
  (repeat' split) <;> simp
@[simp] theorem Dev.logEvent_chans (d : Dev) (e : Event) : (d.logEvent e).chans = d.chans := by
  unfold Dev.logEvent
  dsimp only
  (repeat' split) <;> simp
@[simp] theorem Dev.logEvent_i3c (d : Dev) (e : Event) : (d.logEvent e).i3c = d.i3c := by
  unfold Dev.logEvent
  dsimp only
  (repeat' split) <;> simp
@[simp] theorem Dev.logEvent_rings (d : Dev) (e : Event) : (d.logEvent e).rings = d.rings := by
  unfold Dev.logEvent
  dsimp only
  (repeat' split) <;> simp
@[simp] theorem Dev.logEvent_ports (d : Dev) (e : Event) : (d.logEvent e).ports = d.ports := by
  unfold Dev.logEvent
  dsimp only
  (repeat' split) <;> simp
@[simp] theorem Dev.logEvent_dbg (d : Dev) (e : Event) : (d.logEvent e).dbg = d.dbg := by
  unfold Dev.logEvent
  dsimp only
  (repeat' split) <;> simp
@[simp] theorem Dev.logEvent_alarms (d : Dev) (e : Event) : (d.logEvent e).alarms = d.alarms := by
  unfold Dev.logEvent
  dsimp only
  (repeat' split) <;> simp
@[simp] theorem Dev.logEvent_keys (d : Dev) (e : Event) : (d.logEvent e).keys = d.keys := by
  unfold Dev.logEvent
  dsimp only
  (repeat' split) <;> simp
@[simp] theorem Dev.logEvent_titles (d : Dev) (e : Event) : (d.logEvent e).titles = d.titles := by
  unfold Dev.logEvent
  dsimp only
  (repeat' split) <;> simp
@[simp] theorem Dev.logEvent_pstore (d : Dev) (e : Event) : (d.logEvent e).pstore = d.pstore := by
  unfold Dev.logEvent
  dsimp only
  (repeat' split) <;> simp
@[simp] theorem Dev.logEvent_mirror (d : Dev) (e : Event) : (d.logEvent e).mirror = d.mirror := by
  unfold Dev.logEvent
  dsimp only
  (repeat' split) <;> simp
@[simp] theorem Dev.logEvent_recorder (d : Dev) (e : Event) : (d.logEvent e).recorder = d.recorder := by
  unfold Dev.logEvent
  dsimp only
  (repeat' split) <;> simp
@[simp] theorem Dev.logEvent_images (d : Dev) (e : Event) : (d.logEvent e).images = d.images := by
  unfold Dev.logEvent
  dsimp only
  (repeat' split) <;> simp
@[simp] theorem Dev.logEvent_firmware (d : Dev) (e : Event) : (d.logEvent e).firmware = d.firmware := by
  unfold Dev.logEvent
  dsimp only
  (repeat' split) <;> simp
@[simp] theorem Dev.logEvent_waiters (d : Dev) (e : Event) : (d.logEvent e).waiters = d.waiters := by
  unfold Dev.logEvent
  dsimp only
  (repeat' split) <;> simp
@[simp] theorem Dev.logEvent_cart (d : Dev) (e : Event) : (d.logEvent e).cart = d.cart := by
  unfold Dev.logEvent
  dsimp only
  (repeat' split) <;> simp
@[simp] theorem Dev.logEvent_seq (d : Dev) (e : Event) : (d.logEvent e).seq = d.seq := by
  unfold Dev.logEvent
  dsimp only
  (repeat' split) <;> simp
@[simp] theorem Dev.logEvent_thermal (d : Dev) (e : Event) : (d.logEvent e).thermal = d.thermal := by
  unfold Dev.logEvent
  dsimp only
  (repeat' split) <;> simp
@[simp] theorem Dev.logEvent_boot (d : Dev) (e : Event) : (d.logEvent e).boot = d.boot := by
  unfold Dev.logEvent
  dsimp only
  (repeat' split) <;> simp
@[simp] theorem Dev.logEvent_pins (d : Dev) (e : Event) : (d.logEvent e).pins = d.pins := by
  unfold Dev.logEvent
  dsimp only
  (repeat' split) <;> simp
@[simp] theorem Dev.logEvent_slices (d : Dev) (e : Event) : (d.logEvent e).slices = d.slices := by
  unfold Dev.logEvent
  dsimp only
  (repeat' split) <;> simp
@[simp] theorem Dev.logEvent_flushes (d : Dev) (e : Event) : (d.logEvent e).flushes = d.flushes := by
  unfold Dev.logEvent
  dsimp only
  (repeat' split) <;> simp
@[simp] theorem Dev.logEvent_nextFlush (d : Dev) (e : Event) : (d.logEvent e).nextFlush = d.nextFlush := by
  unfold Dev.logEvent
  dsimp only
  (repeat' split) <;> simp
@[simp] theorem Dev.logEvent_counters (d : Dev) (e : Event) : (d.logEvent e).counters = d.counters := by
  unfold Dev.logEvent
  dsimp only
  (repeat' split) <;> simp
@[simp] theorem Dev.logEvent_transition (d : Dev) (e : Event) : (d.logEvent e).transition = d.transition := by
  unfold Dev.logEvent
  dsimp only
  (repeat' split) <;> simp
@[simp] theorem Dev.logEvent_preserve (d : Dev) (e : Event) : (d.logEvent e).preserve = d.preserve := by
  unfold Dev.logEvent
  dsimp only
  (repeat' split) <;> simp
@[simp] theorem Dev.logEvent_rung (d : Dev) (e : Event) : (d.logEvent e).rung = d.rung := by
  unfold Dev.logEvent
  dsimp only
  (repeat' split) <;> simp
@[simp] theorem Dev.logEvent_draws (d : Dev) (e : Event) : (d.logEvent e).draws = d.draws := by
  unfold Dev.logEvent
  dsimp only
  (repeat' split) <;> simp

/-! ### Dev.event -/

@[simp] theorem Dev.event_part (d : Dev) (code i reason cls : Nat) (ps : List Byte) : (d.event code i reason cls ps).part = d.part := by simp [Dev.event]
@[simp] theorem Dev.event_fuses (d : Dev) (code i reason cls : Nat) (ps : List Byte) : (d.event code i reason cls ps).fuses = d.fuses := by simp [Dev.event]
@[simp] theorem Dev.event_mode (d : Dev) (code i reason cls : Nat) (ps : List Byte) : (d.event code i reason cls ps).mode = d.mode := by simp [Dev.event]
@[simp] theorem Dev.event_clock (d : Dev) (code i reason cls : Nat) (ps : List Byte) : (d.event code i reason cls ps).clock = d.clock := by simp [Dev.event]
@[simp] theorem Dev.event_swap (d : Dev) (code i reason cls : Nat) (ps : List Byte) : (d.event code i reason cls ps).swap = d.swap := by simp [Dev.event]
@[simp] theorem Dev.event_active (d : Dev) (code i reason cls : Nat) (ps : List Byte) : (d.event code i reason cls ps).active = d.active := by simp [Dev.event]
@[simp] theorem Dev.event_shadow (d : Dev) (code i reason cls : Nat) (ps : List Byte) : (d.event code i reason cls ps).shadow = d.shadow := by simp [Dev.event]
@[simp] theorem Dev.event_regs (d : Dev) (code i reason cls : Nat) (ps : List Byte) : (d.event code i reason cls ps).regs = d.regs := by simp [Dev.event]
@[simp] theorem Dev.event_i3c (d : Dev) (code i reason cls : Nat) (ps : List Byte) : (d.event code i reason cls ps).i3c = d.i3c := by simp [Dev.event]
@[simp] theorem Dev.event_rings (d : Dev) (code i reason cls : Nat) (ps : List Byte) : (d.event code i reason cls ps).rings = d.rings := by simp [Dev.event]
@[simp] theorem Dev.event_ports (d : Dev) (code i reason cls : Nat) (ps : List Byte) : (d.event code i reason cls ps).ports = d.ports := by simp [Dev.event]
@[simp] theorem Dev.event_dbg (d : Dev) (code i reason cls : Nat) (ps : List Byte) : (d.event code i reason cls ps).dbg = d.dbg := by simp [Dev.event]
@[simp] theorem Dev.event_alarms (d : Dev) (code i reason cls : Nat) (ps : List Byte) : (d.event code i reason cls ps).alarms = d.alarms := by simp [Dev.event]
@[simp] theorem Dev.event_keys (d : Dev) (code i reason cls : Nat) (ps : List Byte) : (d.event code i reason cls ps).keys = d.keys := by simp [Dev.event]
@[simp] theorem Dev.event_titles (d : Dev) (code i reason cls : Nat) (ps : List Byte) : (d.event code i reason cls ps).titles = d.titles := by simp [Dev.event]
@[simp] theorem Dev.event_images (d : Dev) (code i reason cls : Nat) (ps : List Byte) : (d.event code i reason cls ps).images = d.images := by simp [Dev.event]
@[simp] theorem Dev.event_firmware (d : Dev) (code i reason cls : Nat) (ps : List Byte) : (d.event code i reason cls ps).firmware = d.firmware := by simp [Dev.event]
@[simp] theorem Dev.event_waiters (d : Dev) (code i reason cls : Nat) (ps : List Byte) : (d.event code i reason cls ps).waiters = d.waiters := by simp [Dev.event]
@[simp] theorem Dev.event_cart (d : Dev) (code i reason cls : Nat) (ps : List Byte) : (d.event code i reason cls ps).cart = d.cart := by simp [Dev.event]
@[simp] theorem Dev.event_seq (d : Dev) (code i reason cls : Nat) (ps : List Byte) : (d.event code i reason cls ps).seq = d.seq := by simp [Dev.event]
@[simp] theorem Dev.event_thermal (d : Dev) (code i reason cls : Nat) (ps : List Byte) : (d.event code i reason cls ps).thermal = d.thermal := by simp [Dev.event]
@[simp] theorem Dev.event_boot (d : Dev) (code i reason cls : Nat) (ps : List Byte) : (d.event code i reason cls ps).boot = d.boot := by simp [Dev.event]
@[simp] theorem Dev.event_pins (d : Dev) (code i reason cls : Nat) (ps : List Byte) : (d.event code i reason cls ps).pins = d.pins := by simp [Dev.event]
@[simp] theorem Dev.event_slices (d : Dev) (code i reason cls : Nat) (ps : List Byte) : (d.event code i reason cls ps).slices = d.slices := by simp [Dev.event]
@[simp] theorem Dev.event_flushes (d : Dev) (code i reason cls : Nat) (ps : List Byte) : (d.event code i reason cls ps).flushes = d.flushes := by simp [Dev.event]
@[simp] theorem Dev.event_nextFlush (d : Dev) (code i reason cls : Nat) (ps : List Byte) : (d.event code i reason cls ps).nextFlush = d.nextFlush := by simp [Dev.event]
@[simp] theorem Dev.event_transition (d : Dev) (code i reason cls : Nat) (ps : List Byte) : (d.event code i reason cls ps).transition = d.transition := by simp [Dev.event]
@[simp] theorem Dev.event_preserve (d : Dev) (code i reason cls : Nat) (ps : List Byte) : (d.event code i reason cls ps).preserve = d.preserve := by simp [Dev.event]
@[simp] theorem Dev.event_rung (d : Dev) (code i reason cls : Nat) (ps : List Byte) : (d.event code i reason cls ps).rung = d.rung := by simp [Dev.event]
@[simp] theorem Dev.event_draws (d : Dev) (code i reason cls : Nat) (ps : List Byte) : (d.event code i reason cls ps).draws = d.draws := by simp [Dev.event]

/-! ### Dev.packageEvent -/

@[simp] theorem Dev.packageEvent_part (d : Dev) (code reason : Nat) : (d.packageEvent code reason).part = d.part := by simp [Dev.packageEvent]
@[simp] theorem Dev.packageEvent_fuses (d : Dev) (code reason : Nat) : (d.packageEvent code reason).fuses = d.fuses := by simp [Dev.packageEvent]
@[simp] theorem Dev.packageEvent_mode (d : Dev) (code reason : Nat) : (d.packageEvent code reason).mode = d.mode := by simp [Dev.packageEvent]
@[simp] theorem Dev.packageEvent_clock (d : Dev) (code reason : Nat) : (d.packageEvent code reason).clock = d.clock := by simp [Dev.packageEvent]
@[simp] theorem Dev.packageEvent_swap (d : Dev) (code reason : Nat) : (d.packageEvent code reason).swap = d.swap := by simp [Dev.packageEvent]
@[simp] theorem Dev.packageEvent_active (d : Dev) (code reason : Nat) : (d.packageEvent code reason).active = d.active := by simp [Dev.packageEvent]
@[simp] theorem Dev.packageEvent_shadow (d : Dev) (code reason : Nat) : (d.packageEvent code reason).shadow = d.shadow := by simp [Dev.packageEvent]
@[simp] theorem Dev.packageEvent_regs (d : Dev) (code reason : Nat) : (d.packageEvent code reason).regs = d.regs := by simp [Dev.packageEvent]
@[simp] theorem Dev.packageEvent_i3c (d : Dev) (code reason : Nat) : (d.packageEvent code reason).i3c = d.i3c := by simp [Dev.packageEvent]
@[simp] theorem Dev.packageEvent_rings (d : Dev) (code reason : Nat) : (d.packageEvent code reason).rings = d.rings := by simp [Dev.packageEvent]
@[simp] theorem Dev.packageEvent_ports (d : Dev) (code reason : Nat) : (d.packageEvent code reason).ports = d.ports := by simp [Dev.packageEvent]
@[simp] theorem Dev.packageEvent_dbg (d : Dev) (code reason : Nat) : (d.packageEvent code reason).dbg = d.dbg := by simp [Dev.packageEvent]
@[simp] theorem Dev.packageEvent_alarms (d : Dev) (code reason : Nat) : (d.packageEvent code reason).alarms = d.alarms := by simp [Dev.packageEvent]
@[simp] theorem Dev.packageEvent_keys (d : Dev) (code reason : Nat) : (d.packageEvent code reason).keys = d.keys := by simp [Dev.packageEvent]
@[simp] theorem Dev.packageEvent_titles (d : Dev) (code reason : Nat) : (d.packageEvent code reason).titles = d.titles := by simp [Dev.packageEvent]
@[simp] theorem Dev.packageEvent_images (d : Dev) (code reason : Nat) : (d.packageEvent code reason).images = d.images := by simp [Dev.packageEvent]
@[simp] theorem Dev.packageEvent_firmware (d : Dev) (code reason : Nat) : (d.packageEvent code reason).firmware = d.firmware := by simp [Dev.packageEvent]
@[simp] theorem Dev.packageEvent_waiters (d : Dev) (code reason : Nat) : (d.packageEvent code reason).waiters = d.waiters := by simp [Dev.packageEvent]
@[simp] theorem Dev.packageEvent_cart (d : Dev) (code reason : Nat) : (d.packageEvent code reason).cart = d.cart := by simp [Dev.packageEvent]
@[simp] theorem Dev.packageEvent_seq (d : Dev) (code reason : Nat) : (d.packageEvent code reason).seq = d.seq := by simp [Dev.packageEvent]
@[simp] theorem Dev.packageEvent_thermal (d : Dev) (code reason : Nat) : (d.packageEvent code reason).thermal = d.thermal := by simp [Dev.packageEvent]
@[simp] theorem Dev.packageEvent_boot (d : Dev) (code reason : Nat) : (d.packageEvent code reason).boot = d.boot := by simp [Dev.packageEvent]
@[simp] theorem Dev.packageEvent_pins (d : Dev) (code reason : Nat) : (d.packageEvent code reason).pins = d.pins := by simp [Dev.packageEvent]
@[simp] theorem Dev.packageEvent_slices (d : Dev) (code reason : Nat) : (d.packageEvent code reason).slices = d.slices := by simp [Dev.packageEvent]
@[simp] theorem Dev.packageEvent_flushes (d : Dev) (code reason : Nat) : (d.packageEvent code reason).flushes = d.flushes := by simp [Dev.packageEvent]
@[simp] theorem Dev.packageEvent_nextFlush (d : Dev) (code reason : Nat) : (d.packageEvent code reason).nextFlush = d.nextFlush := by simp [Dev.packageEvent]
@[simp] theorem Dev.packageEvent_transition (d : Dev) (code reason : Nat) : (d.packageEvent code reason).transition = d.transition := by simp [Dev.packageEvent]
@[simp] theorem Dev.packageEvent_preserve (d : Dev) (code reason : Nat) : (d.packageEvent code reason).preserve = d.preserve := by simp [Dev.packageEvent]
@[simp] theorem Dev.packageEvent_rung (d : Dev) (code reason : Nat) : (d.packageEvent code reason).rung = d.rung := by simp [Dev.packageEvent]
@[simp] theorem Dev.packageEvent_draws (d : Dev) (code reason : Nat) : (d.packageEvent code reason).draws = d.draws := by simp [Dev.packageEvent]

/-! ### Dev.alarm -/

@[simp] theorem Dev.alarm_part (d : Dev) (cause : Nat) (i : Option Nat) (k : Nat) : (d.alarm cause i k).part = d.part := by
  unfold Dev.alarm
  (repeat' split) <;> simp
@[simp] theorem Dev.alarm_fuses (d : Dev) (cause : Nat) (i : Option Nat) (k : Nat) : (d.alarm cause i k).fuses = d.fuses := by
  unfold Dev.alarm
  (repeat' split) <;> simp
@[simp] theorem Dev.alarm_mode (d : Dev) (cause : Nat) (i : Option Nat) (k : Nat) : (d.alarm cause i k).mode = d.mode := by
  unfold Dev.alarm
  (repeat' split) <;> simp
@[simp] theorem Dev.alarm_clock (d : Dev) (cause : Nat) (i : Option Nat) (k : Nat) : (d.alarm cause i k).clock = d.clock := by
  unfold Dev.alarm
  (repeat' split) <;> simp
@[simp] theorem Dev.alarm_swap (d : Dev) (cause : Nat) (i : Option Nat) (k : Nat) : (d.alarm cause i k).swap = d.swap := by
  unfold Dev.alarm
  (repeat' split) <;> simp
@[simp] theorem Dev.alarm_active (d : Dev) (cause : Nat) (i : Option Nat) (k : Nat) : (d.alarm cause i k).active = d.active := by
  unfold Dev.alarm
  (repeat' split) <;> simp
@[simp] theorem Dev.alarm_shadow (d : Dev) (cause : Nat) (i : Option Nat) (k : Nat) : (d.alarm cause i k).shadow = d.shadow := by
  unfold Dev.alarm
  (repeat' split) <;> simp
@[simp] theorem Dev.alarm_regs (d : Dev) (cause : Nat) (i : Option Nat) (k : Nat) : (d.alarm cause i k).regs = d.regs := by
  unfold Dev.alarm
  (repeat' split) <;> simp
@[simp] theorem Dev.alarm_i3c (d : Dev) (cause : Nat) (i : Option Nat) (k : Nat) : (d.alarm cause i k).i3c = d.i3c := by
  unfold Dev.alarm
  (repeat' split) <;> simp
@[simp] theorem Dev.alarm_rings (d : Dev) (cause : Nat) (i : Option Nat) (k : Nat) : (d.alarm cause i k).rings = d.rings := by
  unfold Dev.alarm
  (repeat' split) <;> simp
@[simp] theorem Dev.alarm_ports (d : Dev) (cause : Nat) (i : Option Nat) (k : Nat) : (d.alarm cause i k).ports = d.ports := by
  unfold Dev.alarm
  (repeat' split) <;> simp
@[simp] theorem Dev.alarm_dbg (d : Dev) (cause : Nat) (i : Option Nat) (k : Nat) : (d.alarm cause i k).dbg = d.dbg := by
  unfold Dev.alarm
  (repeat' split) <;> simp
@[simp] theorem Dev.alarm_keys (d : Dev) (cause : Nat) (i : Option Nat) (k : Nat) : (d.alarm cause i k).keys = d.keys := by
  unfold Dev.alarm
  (repeat' split) <;> simp
@[simp] theorem Dev.alarm_titles (d : Dev) (cause : Nat) (i : Option Nat) (k : Nat) : (d.alarm cause i k).titles = d.titles := by
  unfold Dev.alarm
  (repeat' split) <;> simp
@[simp] theorem Dev.alarm_images (d : Dev) (cause : Nat) (i : Option Nat) (k : Nat) : (d.alarm cause i k).images = d.images := by
  unfold Dev.alarm
  (repeat' split) <;> simp
@[simp] theorem Dev.alarm_firmware (d : Dev) (cause : Nat) (i : Option Nat) (k : Nat) : (d.alarm cause i k).firmware = d.firmware := by
  unfold Dev.alarm
  (repeat' split) <;> simp
@[simp] theorem Dev.alarm_waiters (d : Dev) (cause : Nat) (i : Option Nat) (k : Nat) : (d.alarm cause i k).waiters = d.waiters := by
  unfold Dev.alarm
  (repeat' split) <;> simp
@[simp] theorem Dev.alarm_cart (d : Dev) (cause : Nat) (i : Option Nat) (k : Nat) : (d.alarm cause i k).cart = d.cart := by
  unfold Dev.alarm
  (repeat' split) <;> simp
@[simp] theorem Dev.alarm_seq (d : Dev) (cause : Nat) (i : Option Nat) (k : Nat) : (d.alarm cause i k).seq = d.seq := by
  unfold Dev.alarm
  (repeat' split) <;> simp
@[simp] theorem Dev.alarm_thermal (d : Dev) (cause : Nat) (i : Option Nat) (k : Nat) : (d.alarm cause i k).thermal = d.thermal := by
  unfold Dev.alarm
  (repeat' split) <;> simp
@[simp] theorem Dev.alarm_boot (d : Dev) (cause : Nat) (i : Option Nat) (k : Nat) : (d.alarm cause i k).boot = d.boot := by
  unfold Dev.alarm
  (repeat' split) <;> simp
@[simp] theorem Dev.alarm_pins (d : Dev) (cause : Nat) (i : Option Nat) (k : Nat) : (d.alarm cause i k).pins = d.pins := by
  unfold Dev.alarm
  (repeat' split) <;> simp
@[simp] theorem Dev.alarm_flushes (d : Dev) (cause : Nat) (i : Option Nat) (k : Nat) : (d.alarm cause i k).flushes = d.flushes := by
  unfold Dev.alarm
  (repeat' split) <;> simp
@[simp] theorem Dev.alarm_nextFlush (d : Dev) (cause : Nat) (i : Option Nat) (k : Nat) : (d.alarm cause i k).nextFlush = d.nextFlush := by
  unfold Dev.alarm
  (repeat' split) <;> simp
@[simp] theorem Dev.alarm_transition (d : Dev) (cause : Nat) (i : Option Nat) (k : Nat) : (d.alarm cause i k).transition = d.transition := by
  unfold Dev.alarm
  (repeat' split) <;> simp
@[simp] theorem Dev.alarm_preserve (d : Dev) (cause : Nat) (i : Option Nat) (k : Nat) : (d.alarm cause i k).preserve = d.preserve := by
  unfold Dev.alarm
  (repeat' split) <;> simp
@[simp] theorem Dev.alarm_rung (d : Dev) (cause : Nat) (i : Option Nat) (k : Nat) : (d.alarm cause i k).rung = d.rung := by
  unfold Dev.alarm
  (repeat' split) <;> simp
@[simp] theorem Dev.alarm_draws (d : Dev) (cause : Nat) (i : Option Nat) (k : Nat) : (d.alarm cause i k).draws = d.draws := by
  unfold Dev.alarm
  (repeat' split) <;> simp

/-! ### Dev.report -/

@[simp] theorem Dev.report_part (d : Dev) (a : Agent) (port off reason : Nat) : (d.report a port off reason).part = d.part := by
  unfold Dev.report
  dsimp only
  (repeat' split) <;> simp
@[simp] theorem Dev.report_fuses (d : Dev) (a : Agent) (port off reason : Nat) : (d.report a port off reason).fuses = d.fuses := by
  unfold Dev.report
  dsimp only
  (repeat' split) <;> simp
@[simp] theorem Dev.report_mode (d : Dev) (a : Agent) (port off reason : Nat) : (d.report a port off reason).mode = d.mode := by
  unfold Dev.report
  dsimp only
  (repeat' split) <;> simp
@[simp] theorem Dev.report_clock (d : Dev) (a : Agent) (port off reason : Nat) : (d.report a port off reason).clock = d.clock := by
  unfold Dev.report
  dsimp only
  (repeat' split) <;> simp
@[simp] theorem Dev.report_swap (d : Dev) (a : Agent) (port off reason : Nat) : (d.report a port off reason).swap = d.swap := by
  unfold Dev.report
  dsimp only
  (repeat' split) <;> simp
@[simp] theorem Dev.report_active (d : Dev) (a : Agent) (port off reason : Nat) : (d.report a port off reason).active = d.active := by
  unfold Dev.report
  dsimp only
  (repeat' split) <;> simp
@[simp] theorem Dev.report_shadow (d : Dev) (a : Agent) (port off reason : Nat) : (d.report a port off reason).shadow = d.shadow := by
  unfold Dev.report
  dsimp only
  (repeat' split) <;> simp
@[simp] theorem Dev.report_i3c (d : Dev) (a : Agent) (port off reason : Nat) : (d.report a port off reason).i3c = d.i3c := by
  unfold Dev.report
  dsimp only
  (repeat' split) <;> simp
@[simp] theorem Dev.report_rings (d : Dev) (a : Agent) (port off reason : Nat) : (d.report a port off reason).rings = d.rings := by
  unfold Dev.report
  dsimp only
  (repeat' split) <;> simp
@[simp] theorem Dev.report_dbg (d : Dev) (a : Agent) (port off reason : Nat) : (d.report a port off reason).dbg = d.dbg := by
  unfold Dev.report
  dsimp only
  (repeat' split) <;> simp
@[simp] theorem Dev.report_alarms (d : Dev) (a : Agent) (port off reason : Nat) : (d.report a port off reason).alarms = d.alarms := by
  unfold Dev.report
  dsimp only
  (repeat' split) <;> simp
@[simp] theorem Dev.report_keys (d : Dev) (a : Agent) (port off reason : Nat) : (d.report a port off reason).keys = d.keys := by
  unfold Dev.report
  dsimp only
  (repeat' split) <;> simp
@[simp] theorem Dev.report_titles (d : Dev) (a : Agent) (port off reason : Nat) : (d.report a port off reason).titles = d.titles := by
  unfold Dev.report
  dsimp only
  (repeat' split) <;> simp
@[simp] theorem Dev.report_images (d : Dev) (a : Agent) (port off reason : Nat) : (d.report a port off reason).images = d.images := by
  unfold Dev.report
  dsimp only
  (repeat' split) <;> simp
@[simp] theorem Dev.report_firmware (d : Dev) (a : Agent) (port off reason : Nat) : (d.report a port off reason).firmware = d.firmware := by
  unfold Dev.report
  dsimp only
  (repeat' split) <;> simp
@[simp] theorem Dev.report_waiters (d : Dev) (a : Agent) (port off reason : Nat) : (d.report a port off reason).waiters = d.waiters := by
  unfold Dev.report
  dsimp only
  (repeat' split) <;> simp
@[simp] theorem Dev.report_cart (d : Dev) (a : Agent) (port off reason : Nat) : (d.report a port off reason).cart = d.cart := by
  unfold Dev.report
  dsimp only
  (repeat' split) <;> simp
@[simp] theorem Dev.report_seq (d : Dev) (a : Agent) (port off reason : Nat) : (d.report a port off reason).seq = d.seq := by
  unfold Dev.report
  dsimp only
  (repeat' split) <;> simp
@[simp] theorem Dev.report_thermal (d : Dev) (a : Agent) (port off reason : Nat) : (d.report a port off reason).thermal = d.thermal := by
  unfold Dev.report
  dsimp only
  (repeat' split) <;> simp
@[simp] theorem Dev.report_boot (d : Dev) (a : Agent) (port off reason : Nat) : (d.report a port off reason).boot = d.boot := by
  unfold Dev.report
  dsimp only
  (repeat' split) <;> simp
@[simp] theorem Dev.report_pins (d : Dev) (a : Agent) (port off reason : Nat) : (d.report a port off reason).pins = d.pins := by
  unfold Dev.report
  dsimp only
  (repeat' split) <;> simp
@[simp] theorem Dev.report_flushes (d : Dev) (a : Agent) (port off reason : Nat) : (d.report a port off reason).flushes = d.flushes := by
  unfold Dev.report
  dsimp only
  (repeat' split) <;> simp
@[simp] theorem Dev.report_nextFlush (d : Dev) (a : Agent) (port off reason : Nat) : (d.report a port off reason).nextFlush = d.nextFlush := by
  unfold Dev.report
  dsimp only
  (repeat' split) <;> simp
@[simp] theorem Dev.report_transition (d : Dev) (a : Agent) (port off reason : Nat) : (d.report a port off reason).transition = d.transition := by
  unfold Dev.report
  dsimp only
  (repeat' split) <;> simp
@[simp] theorem Dev.report_preserve (d : Dev) (a : Agent) (port off reason : Nat) : (d.report a port off reason).preserve = d.preserve := by
  unfold Dev.report
  dsimp only
  (repeat' split) <;> simp
@[simp] theorem Dev.report_rung (d : Dev) (a : Agent) (port off reason : Nat) : (d.report a port off reason).rung = d.rung := by
  unfold Dev.report
  dsimp only
  (repeat' split) <;> simp
@[simp] theorem Dev.report_draws (d : Dev) (a : Agent) (port off reason : Nat) : (d.report a port off reason).draws = d.draws := by
  unfold Dev.report
  dsimp only
  (repeat' split) <;> simp

end Sys2Proof.Machine
end

