-- ==== Sys2Proof/Laws/Mailbox.lean ====
section
/-!
SUPPORT. Serving a mailbox request: when its command runs, and what it then leaves.
-/
namespace Sys2Proof.Machine

open Sys2Proof

/-- The channel of a front request is the channel it came on. -/
theorem Chan.front_channel {ch : Chan} {c : Nat} {q : Req} {rest : List MbWord} {bad : Bool}
    (h : ch.front c = some (q, rest, bad)) : q.channel = c := by
  unfold Chan.front at h
  split at h
  · cases h
  · dsimp only at h
    split at h
    · cases h
    · cases h
      rfl

/-- The row of an opcode is the row of that opcode. -/
theorem cmdSpec_opcode {op : Nat} {r : CmdSpec} (h : cmdSpec op = some r) : r.1 = op := by
  have := List.find?_some h
  simpa using this

/-- R429 finds nothing to refuse. -/
theorem Dev.refusal_none {d : Dev} {q : Req} {r : CmdSpec} (h : d.Admits q r) : d.refusal q false r none = none := by
  obtain ⟨op, secureOnly, modes, least, most, masks⟩ := r
  obtain ⟨h1, h2, h3, h4, h5, h6⟩ := h
  simp only at h1 h2 h3 h4 h5 h6
  have hl : ¬(q.words.length - 1 < least ∨ most < q.words.length - 1) := by omega
  have hc : (secureOnly && !q.secure) = false := by cases secureOnly <;> simp_all
  have hv : (d.fuses.lifecycle == .clove && !cloveServes op) = false := by
    cases hx : d.fuses.lifecycle <;> simp_all
  simp [Dev.refusal, hl, hc, hv, h5, h6]

/-- What R429 looks at is not changed by taking the request. -/
theorem Dev.Admits_take {d : Dev} {q : Req} {r : CmdSpec} {c : Nat} {rest : List MbWord} (h : d.Admits q r) :
    (d.takeRequest c rest).Admits q r := by
  simpa [Dev.Admits] using h

/-- A request that the firmware serves, that R429 lets through and that its command does not stop early: the command runs
on the package that has taken it, and answers. -/
theorem runCmd_eq {s : State} {c op : Nat} {q : Req} {rest : List MbWord} (h : s.dev.Asks c op q rest)
    {early : Dev → Req → Option Nat} (he : early (s.dev.takeRequest c rest) q = none)
    (body : Dev → Req → Dev × Reply) :
    runCmd c op s early body
      = .next (s.after ((body (s.dev.takeRequest c rest) q).1.answer q (body (s.dev.takeRequest c rest) q).2)) := by
  obtain ⟨hc, hs, hy, hf, ho, r, hr, ha⟩ := h
  have hn := Dev.refusal_none (Dev.Admits_take (c := c) (rest := rest) ha)
  simp [runCmd, runChan_eq hc, Dev.serve, hs, hy, hf, hr, ho, he, hn, State.after]

/-- The same of a command that only answers. -/
theorem runAnswer_eq {s : State} {c op : Nat} {q : Req} {rest : List MbWord} (h : s.dev.Asks c op q rest)
    (body : Dev → Req → Reply) :
    runAnswer c op s body
      = .next (s.after ((s.dev.takeRequest c rest).answer q (body (s.dev.takeRequest c rest) q))) := by
  rw [runAnswer, runCmd_eq h rfl]

/-- A served request that its command does not stop early leaves the state of its effect and its answer. -/
theorem runCmd_answered {s : State} {c op : Nat} {q : Req} {rest : List MbWord} {d : Dev}
    (hd : s.dev.takeRequest c rest = d) (h : s.dev.Asks c op q rest) {early : Dev → Req → Option Nat}
    (he : early d q = none) {body : Dev → Req → Dev × Reply} {f : Dev → Dev} {r : Reply} (hb : body d q = (f d, r)) :
    runCmd c op s early body = .next (s.answered q rest f r) := by
  subst hd
  rw [runCmd_eq h he, hb, State.answered, Chan.front_channel h.2.2.2.1]
  rfl

/-- A served request whose command stops early is answered so, without effect. -/
theorem runCmd_early {s : State} {c op : Nat} {q : Req} {rest : List MbWord} {d : Dev}
    (hd : s.dev.takeRequest c rest = d) (h : s.dev.Asks c op q rest) {early : Dev → Req → Option Nat} {n : Nat}
    (he : early d q = some n) (hn : n = 3 ∨ n = 5 ∨ n = 6) {body : Dev → Req → Dev × Reply} :
    runCmd c op s early body = .next (s.answered q rest id (fail n)) := by
  obtain ⟨hc, hs, hy, hf, ho, r, hr, ha⟩ := h
  have hch := Chan.front_channel hf
  have ha' := Dev.Admits_take (c := c) (rest := rest) ha
  rw [hd] at ha'
  obtain ⟨op', secureOnly, modes, least, most, masks⟩ := r
  obtain ⟨h1, h2, h3, h4, h5, h6⟩ := ha'
  simp only at h1 h2 h3 h4 h5 h6
  have hl : ¬(q.words.length - 1 < least ∨ most < q.words.length - 1) := by omega
  have hc' : (secureOnly && !q.secure) = false := by cases secureOnly <;> simp_all
  have hv : (d.fuses.lifecycle == .clove && !cloveServes op') = false := by
    cases hx : d.fuses.lifecycle <;> simp_all
  have : d.refusal q false (op', secureOnly, modes, least, most, masks) (some n) = some (fail n) := by
    rw [Dev.refusal]
    simp only [hc', hv, h5, h6]
    rcases hn with rfl | rfl | rfl <;> simp [hl]
  subst hch
  subst hd
  simp [runCmd, runChan_eq hc, Dev.serve, hs, hy, hf, hr, ho, he, this, State.answered]

/-- A served request of a command that only answers. -/
theorem runAnswer_answered {s : State} {c op : Nat} {q : Req} {rest : List MbWord} {d : Dev}
    (hd : s.dev.takeRequest c rest = d) (h : s.dev.Asks c op q rest) {body : Dev → Req → Reply} {r : Reply}
    (hb : body d q = r) : runAnswer c op s body = .next (s.answered q rest id r) := by
  rw [runAnswer]
  exact runCmd_answered hd h rfl (by rw [hb]; rfl)

/-! ### Units of the package that has taken a request -/

theorem Dev.takeRequest_slice (d : Dev) (c i : Nat) (rest : List MbWord) :
    (d.takeRequest c rest).slice i = d.slice i := by
  unfold Dev.slice
  rw [show (d.takeRequest c rest).slices = d.slices by simp]

theorem Dev.takeRequest_port (d : Dev) (c i : Nat) (rest : List MbWord) :
    (d.takeRequest c rest).port i = d.port i := by
  unfold Dev.port
  rw [show (d.takeRequest c rest).ports = d.ports by simp]

theorem Dev.takeRequest_fwTarget (d : Dev) (c i : Nat) (rest : List MbWord) :
    (d.takeRequest c rest).fwTarget i = d.fwTarget i := by
  unfold Dev.fwTarget
  rw [show (d.takeRequest c rest).firmware = d.firmware by simp]

theorem Dev.takeRequest_title (d : Dev) (c i : Nat) (rest : List MbWord) :
    (d.takeRequest c rest).title i = d.title i := by
  unfold Dev.title
  rw [show (d.takeRequest c rest).titles = d.titles by simp]

theorem Dev.takeRequest_sliceCount (d : Dev) (c : Nat) (rest : List MbWord) :
    (d.takeRequest c rest).sliceCount = d.sliceCount := by
  unfold Dev.sliceCount
  rw [show (d.takeRequest c rest).part = d.part by simp]

theorem Dev.takeRequest_ringCount (d : Dev) (c : Nat) (rest : List MbWord) :
    (d.takeRequest c rest).ringCount = d.ringCount := by
  unfold Dev.ringCount
  rw [Dev.takeRequest_sliceCount]

theorem Dev.takeRequest_deviceInfo (d : Dev) (c : Nat) (rest : List MbWord) :
    (d.takeRequest c rest).deviceInfo = d.deviceInfo := by
  unfold Dev.deviceInfo
  rw [Dev.takeRequest_sliceCount, show (d.takeRequest c rest).fuses = d.fuses by simp]

/-! ### The flush bound word (R294, R440) -/

theorem Dev.flushWord_none {d : Dev} {i : Nat} (h : d.flushBound i = none) :
    d.flushWord i = (word 0xFFFFFFFF, d) := by
  unfold Dev.flushWord
  rw [h]

theorem Dev.flushWord_some {d : Dev} {i n : Nat} (h : d.flushBound i = some n) (hn : n < 2 ^ 32) :
    d.flushWord i = (word n, d) := by
  unfold Dev.flushWord
  rw [h]
  exact if_pos hn

theorem Dev.flushWord_open {d : Dev} {i n : Nat} (h : d.flushBound i = some n) (hn : 2 ^ 32 ≤ n) :
    d.flushWord i = (word (Config.freeNat d.draws % 2 ^ 32), { d with draws := d.draws + 1 }) := by
  unfold Dev.flushWord
  rw [h]
  exact if_neg (Nat.not_lt.2 hn)

/-! ### Answers -/

/-- The answer of a command that was performed. -/
theorem Dev.answer_done (d : Dev) (q : Req) (ws : List Word) :
    d.answer q (done ws) = d.respond q.channel q.opcode q.tag 0 0 ws := rfl

theorem Dev.answer_later (d : Dev) (q : Req) : d.answer q .later = d := rfl

end Sys2Proof.Machine
end

