-- ==== Sys2Proof/WellFormed.lean ====
section
/-!
DEFINITION. Which commands can occur on some part: every unit an operand names exists on the largest part
(R2, R9, R14), and every counted operand lies in the range its encoding gives it.
-/
namespace Sys2Proof

/-- A host port of some part. -/
def portOk (p : Nat) : Bool := decide (p < 8)

/-- A slice of some part. -/
def sliceOk (s : Nat) : Bool := decide (s < 8)

/-- A mailbox channel (R402). -/
def channelOk (c : Nat) : Bool := decide (c < 16)

/-- A work ring of some part (R2). -/
def ringOk (r : Nat) : Bool := decide (r < 8192)

/-- A superblock slot of a slice (R197). -/
def slotOk (s : Nat) : Bool := decide (s < 10368)

/-- A reach, bank group and bank (R9). -/
def bankOk (reach group bank : Nat) : Bool := decide (reach < 18) && decide (group < 4) && decide (bank < 16)

/-- A rail (R488). -/
def railOk (k : Nat) : Bool := decide (k < 8)

/-- A DRAM channel and bank of a slice (R330). -/
def dramOk (s c b : Nat) : Bool := sliceOk s && decide (c < 8) && decide (b < 16)

/-- A device HDM decoder (R296). -/
def decoderOk (n : Nat) : Bool := decide (n < 4)

/-- A register access names a BAR2 offset (R392), a decoder, or one of 2,048 MSI-X vectors and a word of its entry (R423). -/
def RegTarget.ok : RegTarget → Bool
  | .bar2 o => decide (o < 0x4000000)
  | .hdm n _ => decoderOk n
  | .msix v k => decide (v < 2048) && decide (k < 4)
  | .msixControl | .mailboxControl => true

/-- A descriptor slot of a ring (R415). -/
def descOk (r s : Nat) : Bool := ringOk r && decide (s < 65536)

/-- Well-formed commands. -/
def Instr.wf : Instr → Bool
  | .checkpointCopyTaken s | .rekeySweepEnd s | .dryTimeout s | .alarmPolicyAction s | .trim s
  | .tailAdvance s | .cacheClearingDone s | .cacheDrainDone s | .orderlyShutdown s
  | .protectedSpaceFillDone s => sliceOk s
  | .cxlMemRead p a _ _ => portOk p && decide (a < 2 ^ 52)
  | .cxlMemWrite p a _ _ _ _ => portOk p && decide (a < 2 ^ 52)
  | .streamUnitLoaded _ _ data => decide (data.length ≤ 262144)
  | .pageReadComplete s _ _ => sliceOk s
  | .programComplete s r g b _ | .clearSegmentComplete s r g b _ => sliceOk s && bankOk r g b
  | .durableWriteComplete s _ => sliceOk s
  | .sourceInvalidate s k | .sourceClearStart s k | .verifyComplete s k => sliceOk s && slotOk k
  | .hintWrite p _ _ | .globalPersistentFlush p | .identifyMemoryDevice p | .getHealthInfo p
  | .getAlertConfiguration p | .setAlertConfiguration p _ _ | .getEventRecords p _
  | .clearEventRecords p _ _ _ | .getEventInterruptPolicy p | .setEventInterruptPolicy p _
  | .getSupportedLogs p | .getLog p _ _ _ | .getTimestamp p | .setTimestamp p _ | .getFwInfo p
  | .unsupportedStandardCommand p _ | .portReset p | .linkL1Entry p | .linkL1Exit p
  | .linkRecovery p _ | .ideIntegrityFailure p _ | .hostLinkUp p _ _ _ => portOk p
  | .maintClean _ p _ | .maintInvalidate _ p _ | .maintCleanInvalidate _ p _ | .setwayClean _ p _
  | .setwayInvalidate _ p _ | .setwayCleanInvalidate _ p _ | .cacheCmdEnable _ p | .drainDisable _ p
  | .discardDisable _ p | .swapRequest _ p _ | .retrainAll _ p _ | .mbAssignWrite _ p _ => portOk p
  | .registerWrite _ p t n _ => portOk p && t.ok && decide (n ≤ 8)
  | .mbInWrite _ p c _ _ | .mbOutRead _ p c _ _ | .mailboxDrop _ p c _ => portOk p && channelOk c
  | .ringEnable _ p r _ | .ringDisable _ p r _ | .ringReset _ p r _ | .ringDoorbell p r _
  | .ringCplHeadWrite _ p r _ => portOk p && ringOk r
  | .copy r _ _ | .install r _ _ | .hint r _ _ | .persist r _ _ | .verify r _ _ | .zero r _ _
  | .trimDescriptor r _ _ => ringOk r
  | .installUnitLoaded r s _ data => descOk r s && decide (data.length ≤ 262144)
  | .descriptorComplete r s => descOk r s
  | .descriptorFetchTimeout r s => ringOk r && s.all fun k => decide (k < 65536)
  | .hdmDecoderCommit p n | .hdmDecoderUncommit p n => portOk p && decoderOk n
  | .mailboxTimeout c | .i3cChannelWrite c _ | .i3cChannelRead ⟨c, _⟩ | .undefinedOpcode c | .identify c
  | .identifySlice c | .imageLoad c _ | .imageActivate c | .imageStatus c | .schedRead c | .schedSwap c
  | .contractReport c | .regionSet c | .regionGet c | .portClassSet c | .shadowRevert c | .cacheMaint c
  | .cacheDisable c | .cacheEnable c | .cacheStatus c | .titleImport c | .titleOpen c | .titleClose c
  | .titleStatus c | .titleBindRing c | .titleDelete c | .deviceKeyGet c | .ideKeySet c | .healthGet c
  | .recorderRead c | .recorderStatus c | .recorderClear c _ | .lastGaspRead c | .lifeGet c | .notifySet c
  | .modeEnter c | .warmReset c | .thermalStatus c | .faultStatus c | .faultClear c | .cartStatus c
  | .cartPower c | .cartAuth c _ | .cartManifestRead c | .cartTitleImport c _ _ | .cartStreamMap c _
  | .fwStage c _ | .fwActivate c | .fwInfo c | .lifecycleGet c | .lifecycleAdvance c _ | .secPolicySet c
  | .secAlarmStatus c | .secAlarmClear c | .rollbackRead c | .rollbackAdvance c | .keySlotWrite c
  | .testEnter c | .counterSnapshot c | .counterRead c | .bwWindowSet c | .pstoreRead c _
  | .pstoreWrite c => channelOk c
  | .i3cAddressAssign (.entdaa t) _ => decide (t < 9)
  | .i3cAddressAssign (.setdasa _) _ => true
  | .railGood k | .railRampTimeout k | .railFailure k | .railShortDrop k | .railOffTimeout k | .railOff k =>
    railOk k
  | .dramTrainingDone s _ _ => sliceOk s
  | .dramRefresh s c b | .forcedRefresh s c b => dramOk s c b
  | .cartLinkUp w v => (w == 1 || w == 2 || w == 4) && (v == 5 || v == 16 || v == 32)
  | .bufWrite _ data => decide (data.length ≤ 4096)
  | .token bytes => decide (bytes.length = 128)
  | .tickBoundary _ | .skippedTick | .roundBoundary _ | .shadowCopyDone | .idleExit
  | .firmwareVariantChange | .thermalSample _ | .flushComplete _ | .maintDone | .read _ _ | .fastRead _ _
  | .readSfdp _ _ | .readStatus _ | .octalRead _ _ | .octalReadStatus _ | .writeEnable
  | .writeVolatileConfig _ _ | .resetEnable | .reset | .xspiIgnoredCommand _ | .regWrite _ _ | .regAddr _
  | .bufAddr _ | .drop _ | .i3cControlRead _ | .imageStagingTimeout | .cartRefclkStart | .cartPerstRelease
  | .cardPresent | .cardRemoved | .cartFailure _ | .cardRequest _ | .snapshotLatch | .bwWindowEnd
  | .pstoreProgramDone _ | .repeatCountWrite _ | .mirrorSave | .extest _ | .samplePreload _ | .idcode
  | .challenge | .unlockStatus | .fault | .dapAccess _ _ _ | .bypass _ | .alwaysOnPowerOn | .aonPowerOff
  | .resetNLow _ | .resetNHigh | .powerFail _ _ | .wakeEvent | .startConditionMet | .vppDischargeTimeout
  | .vppClampRelease | .barrierRelease | .barrierTimeout | .externalFault | .watchdogExpiry
  | .tickStart _ _ | .bootComplete | .cartClkreqChange _ | .cartShutdownDone | .cartRefclkStop
  | .cartPwrEnFall | .drowseThermalSample _ _ => true

end Sys2Proof
end

