-- ==== Sys2Proof/Tests/Slice0.lean ====
section
/-!
SUPPORT. Tests: ill-formed commands that the check refuses, the manual's worked examples and published test vectors, one
step of commands of each family, and for each statement with hypotheses a state that meets them.
-/
namespace Sys2Proof.Tests

open Sys2Proof Sys2Proof.Machine

-- One theorem at a time: a kernel evaluation that waits for its forerunner would hold a thread of its own.
set_option Elab.async false

/-! ### Well-formed commands -/

theorem test_wf_port : (Instr.portReset 7).wf = true ∧ (Instr.portReset 8).wf = false := by decide
theorem test_wf_slice : (Instr.trim 7).wf = true ∧ (Instr.trim 8).wf = false := by decide
theorem test_wf_channel : (Instr.identify 15).wf = true ∧ (Instr.identify 16).wf = false := by decide
theorem test_wf_mailbox_port : (Instr.mailboxDrop .host 8 0 0).wf = false ∧ (Instr.mailboxDrop .host 0 16 0).wf = false := by
  decide
theorem test_wf_ring : (Instr.ringDoorbell 0 8191 0).wf = true ∧ (Instr.ringDoorbell 0 8192 0).wf = false := by decide
theorem test_wf_descriptor_slot : (Instr.descriptorComplete 0 65535).wf = true
    ∧ (Instr.descriptorComplete 0 65536).wf = false ∧ (Instr.descriptorFetchTimeout 0 (some 65536)).wf = false := by decide
theorem test_wf_superblock : (Instr.verifyComplete 0 10367).wf = true ∧ (Instr.verifyComplete 0 10368).wf = false := by decide
theorem test_wf_bank : (Instr.programComplete 0 17 3 15 true).wf = true ∧ (Instr.programComplete 0 18 0 0 true).wf = false
    ∧ (Instr.programComplete 0 0 4 0 true).wf = false ∧ (Instr.clearSegmentComplete 0 0 0 16 true).wf = false := by decide
theorem test_wf_rail : (Instr.railGood 7).wf = true ∧ (Instr.railGood 8).wf = false := by decide
theorem test_wf_dram : (Instr.dramRefresh 0 7 15).wf = true ∧ (Instr.dramRefresh 0 8 0).wf = false
    ∧ (Instr.forcedRefresh 0 0 16).wf = false := by decide
theorem test_wf_decoder : (Instr.hdmDecoderCommit 0 3).wf = true ∧ (Instr.hdmDecoderCommit 0 4).wf = false
    ∧ (Instr.registerWrite .host 0 (.hdm 4 .base) 8 0).wf = false := by decide
theorem test_wf_register : (Instr.registerWrite .host 0 (.bar2 0x3FFFFF8) 8 0).wf = true
    ∧ (Instr.registerWrite .host 0 (.bar2 0x4000000) 8 0).wf = false
    ∧ (Instr.registerWrite .host 0 (.bar2 0) 9 0).wf = false := by decide
theorem test_wf_address : (Instr.cxlMemRead 0 (2 ^ 52 - 1) 0 ⟨false, false⟩).wf = true
    ∧ (Instr.cxlMemRead 0 (2 ^ 52) 0 ⟨false, false⟩).wf = false
    ∧ (Instr.cxlMemWrite 0 (2 ^ 52) 0 0 false ⟨false, false⟩).wf = false := by decide
theorem test_wf_target : (Instr.i3cAddressAssign (.entdaa 8) 0x30).wf = true
    ∧ (Instr.i3cAddressAssign (.entdaa 9) 0x30).wf = false := by decide
theorem test_wf_card_width : (Instr.cartLinkUp 4 16).wf = true ∧ (Instr.cartLinkUp 3 16).wf = false := by decide
theorem test_wf_token : (Instr.token (List.replicate 128 0)).wf = true ∧ (Instr.token []).wf = false := by decide +kernel
theorem test_wf_window : (Instr.bufWrite 0 (List.replicate 4096 0)).wf = true
    ∧ (Instr.bufWrite 0 (List.replicate 4097 0)).wf = false := by decide +kernel
theorem test_wf_unit (l : List Byte) (h : 262144 < l.length) : (Instr.streamUnitLoaded 0 0 l).wf = false
    ∧ (Instr.installUnitLoaded 0 0 0 l).wf = false := by
  simpa [Instr.wf, descOk, ringOk] using h

/-! ### Commands of the table's bits -/

/-- No row of the table gives its command bits, so no word spells one. -/
theorem test_no_word : decodeTableWord 8 0 = none ∧ State.reset.withFetchWord 8 0 = State.reset := ⟨rfl, rfl⟩

/-! ### The manual's worked examples and published test vectors -/

/-- The example after R19: DPA 0x0012_3456_7ABC on a TVQ-4. -/
theorem test_dpa_example :
    let d : Dev := { Dev.reset with part := .tvq4 }
    d.sliceOf 0x1234567ABC = 3 ∧ d.frameOf 0x1234567ABC = 0x48D159 ∧ subOf 0x1234567ABC = 10 ∧ sectorIn 0x1234567ABC = 2 := by
  decide

/-- The example after R271: the line of that access. -/
theorem test_line_example : lineOf 0x48D159 0xA = 0x48D159A ∧ setOf 0x48D159A = 0x59A := by decide

/-- The example after R301: decoder 0 of port 2, 4 ways, position 2. -/
theorem test_hdm_example :
    let p : Port := { decoders := [{ base := 0x4000000000, size := 2 ^ 41, ways := 4, committed := true }, {}, {}, {}]
                      position := 2 }
    p.decode 0x4000126ABC = some (0x126ABC, true) ∧ p.decode 0x4000125ABC = some (0x125ABC, false)
      ∧ p.decode 0x3FFFFFFFFF = none := by decide

/-- The example of PSTORE_WRITE: 10 bytes at 0x3_FFFC leave the store, and 10 bytes at 0x3_FFBC take a 3-word payload. -/
theorem test_pstore_example : 2 ^ 18 < 0x3FFFC + 10 ∧ 2 + ceilDiv 10 6 = 4 ∧ 0x3FFBC + 9 * 2 ^ 18 = 0x27FFBC
    ∧ replyHeader 0x0C02 3 0 0 0 = 0x0C0230000000#48 := by decide

/-- CRC-32C of "123456789". -/
theorem test_crc : crc32c [0x31, 0x32, 0x33, 0x34, 0x35, 0x36, 0x37, 0x38, 0x39] = 0xE3069283 := by decide +kernel

/-- SHA-384 of "abc" (FIPS 180-4). -/
theorem test_sha384 : beAt (sha384 [0x61, 0x62, 0x63]) 0 48
    = 0xCB00753F45A35E8BB5A03D699AC65007272C32AB0EDED1631A8B605A43FF5BED8086072BA1E7CC2358BAECA134C825A7 := by
  decide +kernel

/-- ECDSA on P-384 with SHA-384, message "sample" (RFC 6979, A.2.6), and the same signature with its last bit changed. -/
theorem test_ecdsa :
    let x := 0xEC3A4E415B4E19A4568618029F427FA5DA9A8BC4AE92E02E06AAE5286B300C64DEF8F0EA9055866064A254515480BC13
    let y := 0x8015D9B72D7D57244EA8EF9AC0C621896708A59367F9DFB9F54CA84B3F1C9DB1288B231C3AE0D4FE7344FD2533264720
    let r := 0x94EDBB92A5ECB8AAD4736E56C691916B3F88140666CE9FA73D64C4EA95AD133C81A648152E44ACF96E36DD1E80FABE46
    let s := 0x99EF4AEB15F178CEA1FE40DB2603138F130E740A19624526203B6351D0A3A94FA329C145786E679E7B82C71A38628AC8
    let m := sha384 [0x73, 0x61, 0x6D, 0x70, 0x6C, 0x65]
    ecdsaVerify x y r s m = true ∧ ecdsaVerify x y r (s + 1) m = false := by
  decide +kernel

/-! ### One step of a command -/

/-- A package in SERVICE, its tick running. -/
def service : Dev := { Dev.reset with mode := .service, clock := { on := true } }

/-- A state of a package with an empty queue. -/
def at_ (d : Dev) : State := ⟨d, []⟩

/-- What a command leaves, seen through `f`. -/
def leaves {α : Type} (d : Dev) (c : Instr) (f : Dev → α) : Option α :=
  match exec c (at_ d) with
  | .next t => some (f t.dev)
  | _ => none

/-- The package with one request of tag 5 on channel `c`. -/
def sent (d : Dev) (c op : Nat) (ws : List Nat) : Dev :=
  d.onChan c fun ch => { ch with inb :=
    ⟨word (op * 2 ^ 32 + ws.length * 2 ^ 28 + 5 * 2 ^ 12), true, false⟩ :: ws.map fun w => ⟨word w, false, false⟩ }

/-- The words that stand in the outbound FIFO of channel `c`. -/
def answerOf (c : Nat) (d : Dev) : List Word := (d.chan c).outb.map (·.word)

/-- Port 0 linked. -/
def linked (d : Dev) : Dev := d.onPort 0 fun p => { p with link := .l0 }

theorem test_identify : (leaves (sent service 2 0x0101 []) (.identify 2) fun d => (answerOf 2 d).map (wbits · 0 48) |>.drop 3)
    = some [0, 1024 * 2 ^ 16 + 2048 * 2 ^ 32] := by decide +kernel
theorem test_response_header : (leaves (sent service 2 0x0101 []) (.identify 2) fun d => (answerOf 2 d).head?)
    = some (some 0x010140005000#48) := by decide +kernel
theorem test_unknown_slice : (leaves (sent service 0 0x0102 [2]) (.identifySlice 0) (answerOf 0))
    = some [0x010210005004#48, 1#48] := by decide +kernel
theorem test_notification_code : (leaves (sent service 0 0x0180 []) (.undefinedOpcode 0) (answerOf 0))
    = some [0x018000005002#48] := by decide +kernel
theorem test_bad_length : (leaves (sent service 0 0x0102 []) (.identifySlice 0) (answerOf 0))
    = some [0x010200005003#48] := by decide +kernel
theorem test_denied_channel : (leaves (sent service 0 0x0503 [0]) (.titleClose 0) (answerOf 0))
    = some [0x050300005005#48] := by decide +kernel
theorem test_reserved_field : (leaves (sent service 0 0x0102 [0x10]) (.identifySlice 0) (answerOf 0))
    = some [0x010210005004#48, 0x31#48] := by decide +kernel
theorem test_notify_mask : (leaves (sent service 3 0x0607 [1]) (.notifySet 3) fun d => (answerOf 3 d, (d.chan 3).mask))
    = some ([0x060710005000#48, 0x1A#48], 1#16) := by decide +kernel
theorem test_no_channel : exec (.identify 16) (at_ service) = .fault .noSuchChannel := rfl

theorem test_inbound_overrun :
    let full := (linked service).onChan 0 fun ch => { ch with inb := List.replicate 16 ⟨0, false, false⟩ }
    leaves full (.mbInWrite .host 0 0 1 false) (fun d => ((d.chan 0).inb.length, (d.chan 0).overrun, d.regs.accessError.reason))
      = some (16, true, 7) := by decide +kernel
theorem test_outbound_empty : leaves (linked service) (.mbOutRead .host 0 0 .full false)
    (fun d => ((d.chan 0).underrun, d.out.take 1)) = some (true, [.readData 0 false]) := by decide +kernel
theorem test_word_write : leaves (linked service) (.registerWrite .host 0 (.bar2 0x8) 4 1)
    (fun d => (d.regs.accessError.reason, d.regs.accessError.count, (d.port 0).aer)) = some (1, 1, true) := by decide +kernel
theorem test_select_slice : leaves (linked service) (.registerWrite .host 0 (.bar2 0x10) 8 1)
    (fun d => (d.regs.selHost.slice, d.regs.selSecure.slice)) = some (1, 0) := by decide +kernel

theorem test_swap_tick_991 : leaves ({ linked service with clock := { on := true, tick := 991 } })
    (.swapRequest .host 0 1) (fun d => (d.swap.pending, d.swap.wait)) = some (some .all, 1) := by decide +kernel
theorem test_swap_tick_992 : leaves ({ linked service with clock := { on := true, tick := 992 } })
    (.swapRequest .host 0 1) (fun d => (d.swap.pending, d.swap.wait)) = some (some .all, 2) := by decide +kernel
theorem test_swap_refused : leaves ({ linked service with swap := { pending := some .all, wait := 1 } })
    (.swapRequest .host 0 1) (fun d => (d.swap.refused, d.regs.accessError.reason)) = some (true, 3) := by decide +kernel

theorem test_xspi_past_image :
    let d := { service with boot := { image := [1, 2], imageValid := true } }
    leaves d (.read 1 3) (fun d => d.out.take 1) = some [.xspi [2, 0xFF, 0xFF]] := by decide +kernel
theorem test_xspi_float : leaves service .writeEnable (fun d => (d.boot.writeEnabled, d.out.take 1))
    = some (false, [.xspiFloat]) := by decide +kernel
theorem test_sideband_nack : leaves service (.i3cChannelRead ⟨8, []⟩) (·.out.take 1) = some [.i3cNack] := by decide +kernel
theorem test_sideband_word :
    let d := { service with i3c := { addresses := List.replicate 9 (some 0x31) } }
    leaves d (.i3cChannelWrite 8 ⟨[1, 2, 3, 4, 5, 6], []⟩) (fun d => (d.chan 8).inb.map (·.word)) = some [0x060504030201#48] := by
  decide +kernel

/-- The codes of R560 at stepping 0. -/
theorem test_idcode : leaves service .idcode (·.out.take 1) = some [.jtag 32 0x074029CB]
    ∧ leaves { service with part := .tvq8 } .idcode (·.out.take 1) = some [.jtag 32 0x074089CB] := by decide +kernel

theorem test_first_rail :
    let d := { Dev.reset with seq := { finished := true } }
    leaves d .barrierRelease (fun d => (d.seq.state, d.seq.en)) = some (2, 1#8) := by decide +kernel
theorem test_rail_fault :
    let d := { service with seq := { state := 11, en := 0xFF, pg := 0xFF } }
    leaves d (.railFailure 1) (fun d => (d.mode, d.seq.latch, d.seq.target)) = some (.halt, 0x202#16, .halt) := by
  decide +kernel
theorem test_wake_in_dormant :
    leaves { Dev.reset with mode := .dormant } .wakeEvent (·.seq.wake) = some true := by decide +kernel
theorem test_power_off : leaves service .aonPowerOff (fun d => (d.mode, d.seq.state)) = some (.off, 0) := by decide +kernel

theorem test_round_boundary :
    let d := { service with clock := { on := true, tick := 1023, round := 6 }, mirror := { lifeClock := 9 } }
    leaves d (.roundBoundary []) (fun d => (d.clock.round, d.mirror.lifeClock)) = some (7#32, 10) := by decide +kernel
theorem test_skip_without_step : leaves service .skippedTick (fun d => (d.clock.tick, d.clock.periods)) = some (0, 0) := by
  decide +kernel
theorem test_skip :
    let d := { service with clock := { on := true, skipN := 4, skipCount := 3 } }
    leaves d .skippedTick (fun d => (d.clock.tick, d.clock.periods, d.clock.skipCount)) = some (0, 1, 0) := by decide +kernel
theorem test_link_recovery_narrows :
    let d := (linked service).onPort 0 fun p => { p with width := 16, recoveries := [(0, 0x100), (0, 0x100)] }
    leaves d (.linkRecovery 0 0x100) (fun d => (d.port 0).widthLimit) = some 8 := by decide +kernel
theorem test_hdm_not_committed : leaves (linked service) (.hdmDecoderCommit 0 1)
    (fun d => ((d.port 0).decoders.map (·.notCommitted))) = some [false, true, false, false] := by decide +kernel
theorem test_read_unwritten :
    let d := (linked service).onPort 0 fun p =>
      { p with decoders := [{ base := 0, size := 2 ^ 40, committed := true }, {}, {}, {}] }
    leaves { d with slices := d.slices.map fun x => { x with cache := { state := .on } } } (.cxlMemRead 0 0x40 9 ⟨false, false⟩)
      (fun d => d.out.filter fun o => match o with
        | .cxlData .. => true
        | _ => false) = some [.cxlData 0 9 (some 0)] := by decide +kernel
theorem test_ring_enable : leaves (linked service) (.ringEnable .host 0 3 (word (7 + 2 ^ 5)))
    (fun d => ((d.ring 3).state, (d.ring 3).sizeLog2, (d.ring 4).state)) = some (.running, 7, .disabled) := by decide +kernel
theorem test_queue : step ⟨service, [.writeEnable, .idcode]⟩ = exec .writeEnable ⟨service, [.idcode]⟩ := rfl
theorem test_idle : step (at_ service) = .next (at_ service) := rfl

/-! ### States that meet the hypotheses of the statements

One theorem for each statement with hypotheses; each entry of its list is the hypotheses of one clause. -/

/-- Whether every entry of a list holds. -/
def each (l : List Bool) : Bool := l.all id

/-- Whether the firmware of `d` finds on channel `c` a whole request for opcode `op`, each of its words intact, that meets
`ok`; the first argument of `ok` is the package with the request taken. -/
def finds (d : Dev) (c op : Nat) (ok : Dev → Req → Bool) : Bool :=
  decide (c < 16) && d.serving c && !(d.chan c).resync &&
  match (d.chan c).front c with
  | some (q, rest, false) => q.opcode == op && ok (d.takeRequest c rest) q
  | _ => false

/-- What `finds` finds stands in the front of its channel. -/
theorem finds_sound {d : Dev} {c op : Nat} {ok : Dev → Req → Bool} (h : finds d c op ok = true) :
    c < 16 ∧ d.serving c = true ∧ (d.chan c).resync = false ∧
    ∃ q rest, (d.chan c).front c = some (q, rest, false) ∧ q.opcode = op ∧ ok (d.takeRequest c rest) q = true := by
  unfold finds at h
  split at h
  case h_1 q rest hf =>
    simp only [Bool.and_eq_true, Bool.not_eq_true', decide_eq_true_eq, beq_iff_eq] at h
    obtain ⟨⟨⟨hc, hs⟩, hy⟩, ho, hk⟩ := h
    exact ⟨hc, hs, hy, q, rest, hf, ho, hk⟩
  case h_2 => simp at h

/-- Whether R429 lets a request for opcode `op` through (`Dev.Admits`). -/
def admitted (d : Dev) (op : Nat) (q : Req) : Bool :=
  match cmdSpec op with
  | some r =>
    decide (r.2.2.2.1 ≤ q.words.length - 1) && decide (q.words.length - 1 ≤ r.2.2.2.2.1) && (!r.2.1 || q.secure)
      && (d.fuses.lifecycle != .clove || cloveServes r.1) && modeAllowed r.2.2.1 d.mode
      && (firstReserved q r.2.2.2.2.2).isNone
  | none => false

/-- What `finds` finds and R429 admits is a request in the sense of the statements. -/
theorem asks_sound {d : Dev} {c op : Nat} {ok : Dev → Req → Bool}
    (h : finds d c op (fun e q => admitted d op q && ok e q) = true) :
    ∃ q rest, d.Asks c op q rest ∧ ok (d.takeRequest c rest) q = true := by
  obtain ⟨hc, hs, hy, q, rest, hf, ho, hk⟩ := finds_sound h
  simp only [Bool.and_eq_true] at hk
  obtain ⟨ha, hk⟩ := hk
  refine ⟨q, rest, ⟨hc, hs, hy, hf, ho, ?_⟩, hk⟩
  unfold admitted at ha
  split at ha
  case h_1 r hr =>
    simp only [Bool.and_eq_true, Bool.or_eq_true, Bool.not_eq_true', decide_eq_true_eq, bne_iff_ne,
      Option.isNone_iff_eq_none] at ha
    obtain ⟨⟨⟨⟨⟨h1, h2⟩, h3⟩, h4⟩, h5⟩, h6⟩ := ha
    refine ⟨r, hr, h1, h2, ?_, ?_, h5, h6⟩
    · intro h; simpa [h] using h3
    · intro h; simpa [h] using h4
  case h_2 => simp at ha

/-- A request on channel `c` of `d` that meets `ok`, admitted by R429. -/
def sends (d : Dev) (c op : Nat) (ws : List Nat) (ok : Dev → Req → Bool := fun _ _ => true) : Bool :=
  finds (sent d c op ws) c op fun e q => admitted (sent d c op ws) op q && ok e q

/-- A package in SERVICE in a lifecycle state. -/
def inLife (l : Lifecycle) : Dev := { service with fuses := { lifecycle := l } }

/-- One slice with reach 0 alone in service, which programs `n` host pages in the flagged tick of a round. -/
def flushing (n : Nat) : Dev :=
  service.onSlice 0 fun x => { x with
    reaches := {} :: List.replicate 17 { state := .retired }
    active := { templates := [List.replicate 16 0, [word (2 ^ 4), 0, word (n * 2 ^ 6)]]
                sequences := [[1]] } }

/-- Channel 0 with a buffer of one page. -/
def buffered (d : Dev) : Dev := d.onChan 0 fun ch => { ch with bufPages := 1 }

/-- Whether SCHED_READ names a table that meets `ok`. -/
def tableOf (d : Dev) (q : Req) (ok : Table → Bool) : Bool :=
  match d.namedTable q with
  | .inl t => ok t
  | .inr _ => false

theorem test_hyp_IdentityAndSchedulesReported : each
    [sends service 0 0x0101 [], sends service 0 0x0102 [1] fun _ q => decide (q.f 1 0 3 < 2),
     sends service 0 0x0102 [2] fun _ q => decide (2 ≤ q.f 1 0 3), sends service 0 0x0203 [],
     sends service 0 0x0206 [2] fun d q => decide (d.sliceCount ≤ q.f 1 0 3),
     sends service 0 0x0206 [0] fun d _ => d.flushBound 0 == none,
     sends (flushing 63) 0 0x0206 [0] fun d _ => (d.flushBound 0).any fun n => decide (n < 2 ^ 32),
     sends { flushing 1 with clock := { on := true, skipN := 2 } } 0 0x0206 [0] fun d _ =>
       (d.flushBound 0).any fun n => decide (2 ^ 32 ≤ n),
     sends (buffered (flushing 1)) 0 0x0204 [2 ^ 11] fun d q => q.f 1 2 1 == 0 && decide (96 ≤ d.bufferSize q.channel)
       && tableOf d q fun t => t.templates[1]?.isSome,
     sends (buffered (flushing 1)) 0 0x0204 [3 + 4] fun d q => q.f 1 2 1 == 1 && decide (1024 ≤ d.bufferSize q.channel)
       && tableOf d q fun t => (t.sequences[0]?).any fun x => x.length == 1024,
     sends (buffered (flushing 1)) 0 0x0204 [4] fun d q => q.f 1 2 1 == 1 && decide (1024 ≤ d.bufferSize q.channel)
       && tableOf d q fun t => (t.sequences[0]?).any fun x => x.length != 1024,
     sends (buffered (flushing 1)) 0 0x0204 [2 * 2 ^ 11] fun d q => q.f 1 2 1 == 0 && decide (96 ≤ d.bufferSize q.channel)
       && tableOf d q fun t => decide (t.templates.length ≤ q.f 1 11 8),
     sends (buffered (flushing 1)) 0 0x0204 [3 + 4 + 18 * 2 ^ 11] fun d q => q.f 1 2 1 == 1
       && decide (1024 ≤ d.bufferSize q.channel) && tableOf d q fun t => decide (t.sequences.length ≤ q.f 1 11 8),
     sends (buffered service) 0 0x0204 [2] fun d q => decide (96 ≤ d.bufferSize q.channel) && (match d.namedTable q with
       | .inr _ => true
       | .inl _ => false),
     sends service 0 0x0204 [0] fun d q => decide (d.bufferSize q.channel < 96)] = true := by
  decide +kernel

/-- What the statements on staging ask of a part: its length, its place and what is staged. -/
def partOk (d : Dev) (q : Req) (buffer old : List Byte) (staging : Option (Nat × List Byte)) (most : Nat) : Bool :=
  let off := q.f 1 0 32
  let n := q.f 2 0 32
  decide (n ≤ d.bufferSize q.channel) && off % 4096 == 0 && n != 0 && (q.f 1 32 1 == 1 || n % 4096 == 0)
    && staging.all (·.1 == q.channel)
    && (off == 0 && old == [] || staging == some (q.channel, old) && old.length == off)
    && decide (off + n ≤ most) && (d.bufferBytes q buffer n).isSome

/-- A package whose swap is pending. -/
def swapping (d : Dev) : Dev := { d with swap := { d.swap with pending := some .all, wait := 1 } }

/-- A package with a one-byte candidate image. -/
def candidate : Dev := { service with images := { candidate := some [0] } }

/-- A package whose IMAGE_ACTIVATE is storing. -/
def storing (d : Dev) : Dev := { d with images := { d.images with storing := some 0 } }

/-- A package in which a channel has staged bytes of an image. -/
def stagedBy (c : Nat) (b : List Byte) : Dev := { buffered service with images := { staging := some (c, b) } }

/-- A package that a candidate does not cover: one reach of slice 0 is retired and no variant runs on 17. -/
def uncovered : Dev := { candidate with slices := candidate.slices.map fun x =>
  { x with upkeep := { x.upkeep with effective := 1 } } }

theorem test_hyp_ImagesLoadedAndSwapped : each
    [sends (buffered service) 0 0x0201 [0, 4096] fun d q =>
       partOk d q (List.replicate 4096 0) [] d.images.staging (2 ^ 21) && q.f 1 32 1 == 0,
     sends (stagedBy 0 (List.replicate 4096 0)) 0 0x0201 [4096, 4096] fun d q =>
       partOk d q (List.replicate 4096 0) (List.replicate 4096 0) d.images.staging (2 ^ 21) && q.f 1 32 1 == 0,
     sends (buffered service) 0 0x0201 [2 ^ 32, 1] fun d q =>
       partOk d q [0] [] d.images.staging (2 ^ 21) && q.f 1 32 1 == 1 && (d.validate [0]).isSome,
     sends (buffered service) 0 0x0201 [2 ^ 32 + 1, 1] fun _ q => q.f 1 0 32 % 4096 != 0,
     sends (buffered service) 0 0x0201 [0, 1] fun _ q => q.f 1 0 32 % 4096 == 0 && q.f 1 32 1 == 0 && q.f 2 0 32 % 4096 != 0,
     sends (buffered service) 0 0x0201 [4096, 4096] fun d q => q.f 1 0 32 != 0 && d.images.staging == none,
     sends (stagedBy 1 []) 0 0x0201 [0, 4096] fun d q => q.f 1 0 32 == 0 && d.images.staging.any fun e => e.1 != q.channel,
     sends (stagedBy 0 []) 0 0x0201 [2 ^ 32 + 2 ^ 21, 1] fun d q =>
       d.images.staging.all (·.1 == q.channel) && decide (2 ^ 21 < q.f 1 0 32 + q.f 2 0 32),
     sends (buffered service) 0 0x0201 [0, 4096] fun d q => d.bufferBytes q [] (q.f 2 0 32) == none,
     sends service 0 0x0201 [0, 4096] fun d q => decide (d.bufferSize q.channel < q.f 2 0 32),
     sends service 0 0x0202 [] fun d _ =>
       !d.swapPending && !d.swap.changeDue && d.images.storing == none && d.images.candidate == none,
     sends candidate 0 0x0202 [] fun d _ => !d.swapPending && !d.swap.changeDue && d.images.storing == none
       && d.images.candidate == some [0] && (List.range d.sliceCount).all (d.coveredBy [0]),
     sends uncovered 0 0x0202 [] fun d _ => !d.swapPending && !d.swap.changeDue && d.images.storing == none
       && d.images.candidate == some [0] && !d.coveredBy [0] 1,
     sends (storing service) 0 0x0202 [] fun d _ => !d.swapPending && d.images.storing != none,
     sends { service with swap := { changeDue := true } } 0 0x0202 [] fun d _ => !d.swapPending && d.swap.changeDue,
     sends { service with clock := { on := true, tick := 991 } } 0 0x0205 [] fun d _ => !d.swapPending && decide (d.clock.tick ≤ 991),
     sends { service with clock := { on := true, tick := 992 } } 0 0x0205 [] fun d _ =>
       !d.swapPending && decide (991 < d.clock.tick) && !d.clock.roundClosed,
     sends { service with clock := { on := true, tick := 1023, roundClosed := true } } 0 0x0205 [] fun d _ =>
       !d.swapPending && d.clock.roundClosed,
     sends (swapping service) 0 0x0202 [] fun d _ => d.swapPending,
     sends (swapping service) 0 0x0205 [] fun d _ => d.swapPending] = true := by
  decide +kernel

/-- The bytes that must be staged for the clause on an image that leaves its 2 MiB. -/
theorem test_hyp_image_end : ∃ b : List Byte, (stagedBy 0 b).images.staging = some (0, b) ∧ b.length = 2 ^ 21 :=
  ⟨List.replicate (2 ^ 21) 0, rfl, List.length_replicate⟩

/-- A package whose region 5 is secure. -/
def locked : Dev := { service with shadow := { service.shadow with
  regionAttr := upd service.shadow.regionAttr 5 fun _ => word (2 ^ 10) } }

theorem test_hyp_RegionsSet : each
    [sends service 0 0x0301 [0, 0, 3 * 2 ^ 11] fun _ q => q.f 3 11 2 == 3,
     sends (swapping service) 0 0x0301 [0, 0, 0] fun d q => q.f 3 11 2 != 3 && d.swapPending,
     sends (storing service) 0 0x0301 [0, 0, 0] fun d q => q.f 3 11 2 != 3 && !d.swapPending && d.images.storing != none,
     sends service 0 0x0301 [0, 0, 2 ^ 14] fun d q => q.f 3 11 2 != 3 && !d.swapPending && d.images.storing == none
       && !q.secure && masked (q.w 3) secureAttr != 0,
     sends locked 0 0x0301 [5, 0, 0] fun d q => q.f 3 11 2 != 3 && !d.swapPending && d.images.storing == none
       && !q.secure && d.regionLocked (q.f 1 0 6),
     sends service 8 0x0301 [63, 0, 2 ^ 14] fun d q =>
       q.f 3 11 2 != 3 && !d.swapPending && d.images.storing == none && q.secure,
     sends service 0 0x0301 [0, 0, 1] fun d q => q.f 3 11 2 != 3 && !d.swapPending && d.images.storing == none
       && masked (q.w 3) secureAttr == 0 && !d.regionLocked (q.f 1 0 6),
     sends service 0 0x0302 [0x7F], sends service 0 0x0303 [2, 0] fun d q => decide (d.sliceCount ≤ q.f 1 0 3),
     sends service 0 0x0303 [1, 3 * 2 ^ 3] fun d q => decide (q.f 1 0 3 < d.sliceCount) && q.f 2 3 2 == 3,
     sends (swapping service) 0 0x0303 [1, 0] fun d q =>
       decide (q.f 1 0 3 < d.sliceCount) && q.f 2 3 2 != 3 && d.swapPending,
     sends (storing service) 0 0x0303 [1, 0] fun d q =>
       decide (q.f 1 0 3 < d.sliceCount) && q.f 2 3 2 != 3 && !d.swapPending && d.images.storing != none,
     sends service 0 0x0303 [1, 7] fun d q =>
       decide (q.f 1 0 3 < d.sliceCount) && q.f 2 3 2 != 3 && !d.swapPending && d.images.storing == none,
     sends (storing service) 0 0x0304 [] fun d _ => !d.swapPending && d.images.storing != none,
     sends locked 0 0x0304 [] fun d _ => !d.swapPending && d.images.storing == none,
     sends (swapping service) 0 0x0304 [] fun d _ => d.swapPending] = true := by
  decide +kernel

/-- A package whose line caches stand in a state. -/
def caching (c : CacheState) : Dev := service.onSlices fun x => { x with cache := { x.cache with state := c } }

/-- A package whose whole space from 0 is a secure region of 1 MiB. -/
def securing : Dev := { service with active := { service.active with
  regionBase := upd service.active.regionBase 0 fun _ => word (2 ^ 22)
  regionAttr := upd service.active.regionAttr 0 fun _ => word (1 + 2 ^ 10) } }

/-- A package with a range operation in progress. -/
def maintaining : Dev := { service with regs := { service.regs with maintRun := some ⟨1, 0, 1⟩ } }

theorem test_hyp_LineCacheCommanded : each
    [sends service 0 0x0401 [5, 1, 1] fun _ q => maintReserved q == some (3, 0),
     sends service 0 0x0401 [5, 1, 0] fun d q => maintReserved q == none && q.f 1 2 1 == 1
       && decide (q.f 2 0 3 < d.sliceCount) && q.f 1 0 2 != 0,
     sends service 0 0x0401 [5, 2, 0] fun d q => maintReserved q == none && q.f 1 2 1 == 1
       && decide (d.sliceCount ≤ q.f 2 0 3),
     sends service 0 0x0401 [0, 0, 0] fun _ q => maintReserved q == none && q.f 1 0 2 == 0 && q.f 1 2 1 == 0,
     sends service 0 0x0401 [4, 1, 0] fun d q => maintReserved q == none && q.f 1 0 2 == 0
       && decide (q.f 2 0 3 < d.sliceCount),
     sends service 0 0x0401 [2, 0, 0] fun d q => maintReserved q == none && q.f 1 2 1 == 0 && q.f 1 0 2 != 0
       && d.regs.maintRun == none && !d.maintForbidden q.secure (q.f 1 0 2) (q.f 2 0 34) (q.f 3 0 34 + 1),
     sends securing 0 0x0401 [2, 0, 0] fun d q => maintReserved q == none && q.f 1 2 1 == 0 && q.f 1 0 2 != 0
       && d.regs.maintRun == none && d.maintForbidden q.secure (q.f 1 0 2) (q.f 2 0 34) (q.f 3 0 34 + 1),
     sends maintaining 0 0x0401 [2, 0, 0] fun d q => maintReserved q == none && q.f 1 2 1 == 0 && q.f 1 0 2 != 0
       && d.regs.maintRun.isSome,
     sends service 0 0x0402 [0x101] fun _ q => q.f 1 8 1 == 1 && !q.secure,
     sends (caching .on) 8 0x0402 [0x101] fun d q => q.f 1 8 1 == 1 && q.secure && !q.named.all d.mayDiscard,
     sends service 0 0x0402 [4] fun d q => q.f 1 8 1 == 0 && !q.named.all d.hasSlice,
     sends (caching .invalidating) 0 0x0402 [1] fun d q => q.f 1 8 1 == 0 && q.named.all d.hasSlice
       && q.named.any fun i => (d.slice i).cache.state == .invalidating,
     sends (caching .off) 0 0x0402 [3] fun d q => q.f 1 8 1 == 0 && q.named.all d.hasSlice && q.named == [0, 1]
       && q.named.all fun i => (d.slice i).cache.state == .off,
     sends (caching .on) 0 0x0402 [2] fun d q => q.f 1 8 1 == 0 && q.named.all d.hasSlice && q.named == [1]
       && (d.slice 1).cache.state == .on,
     sends { caching .on with mode := .throttled, slices := (caching .on).slices.map fun x => { x with inRecovery := true } }
       8 0x0402 [0x101] fun d q => q.f 1 8 1 == 1 && q.secure && q.named == [0] && q.named.all d.mayDiscard
         && q.named.all d.hasSlice && (d.slice 0).cache.state == .on,
     sends service 0 0x0403 [4] fun d q => !q.named.all d.hasSlice,
     sends (caching .draining) 0 0x0403 [1] fun d q => q.named.all d.hasSlice && q.named == [0]
       && (d.slice 0).cache.state == .draining,
     sends (caching .off) 0 0x0403 [3] fun d q => q.named.all d.hasSlice
       && q.named.all fun i => (d.slice i).cache.state == .off,
     sends service 0 0x0404 [2] fun d q => decide (d.sliceCount ≤ q.f 1 0 3),
     sends service 0 0x0404 [1] fun d q => decide (q.f 1 0 3 < d.sliceCount)] = true := by
  decide +kernel

/-- A package in CUMIN whose title slot 4 stands in a state. -/
def titled (t : TitleState) : Dev :=
  { inLife .cumin with titles := upd service.titles 4 fun _ => { state := t } }

theorem test_hyp_TitleOpenRefusedOrDone : each
    [finds (sent { titled .installed with mode := .recovery } 8 0x0502 [4]) 8 0x0502 fun d q =>
       q.words.length == 2 && q.secure && d.fuses.lifecycle != .clove && !d.mode.isService,
     sends (inLife .anise) 8 0x0502 [4] fun d q => d.mode.isService && !d.titleBusy q.slot && d.fuses.lifecycle == .anise,
     sends { inLife .mace with dbg := { unlocked := true } } 8 0x0502 [4] fun d q =>
       d.mode.isService && !d.titleBusy q.slot && d.fuses.lifecycle == .mace && d.dbg.unlocked,
     sends { inLife .mace with dbg := { granted := some 1 } } 8 0x0502 [4] fun d q =>
       d.mode.isService && !d.titleBusy q.slot && d.fuses.lifecycle == .mace && d.dbg.granted != none,
     sends (titled .empty) 8 0x0502 [4] fun d q => d.fuses.lifecycle == .cumin && !d.titleBusy q.slot
       && (d.title q.slot).state != .installed,
     sends (titled .installed) 8 0x0502 [4] fun d q => d.fuses.lifecycle == .cumin && !d.titleBusy q.slot
       && (d.title q.slot).state == .installed] = true := by
  decide +kernel

/-- A package in CUMIN whose window holds a title record of one 4 KiB range. -/
def recorded (t : TitleState) : Dev :=
  { titled t with i3c := { window := memWrite [] 0x98 ([1] ++ List.replicate 7 0 ++ leBytes 8 0 ++ leBytes 8 4096) } }

/-- A package whose title 4 is open, with a secure region 7. -/
def bindable : Dev := { titled .opened with active := { service.active with
  regionAttr := upd service.active.regionAttr 7 fun _ => word (2 ^ 10) } }

/-- A package in which a command waits for the flush of title 4. -/
def holding (d : Dev) : Dev := { d with waiters := [⟨9, 0x0503, 5, .flush 0 4 false⟩] }

theorem test_hyp_TitlesCommanded : each
    [sends (holding (titled .opened)) 8 0x0501 [4] fun d q => d.titleBusy q.slot,
     sends (inLife .anise) 8 0x0501 [4] fun d q => !d.titleBusy q.slot && d.fuses.lifecycle == .anise,
     sends (recorded .empty) 8 0x0501 [4] fun d q => !d.titleBusy q.slot && d.fuses.lifecycle != .anise
       && (d.title q.slot).state == .empty && d.recordOk d.window,
     sends (recorded .installed) 8 0x0501 [4] fun d q => !d.titleBusy q.slot && d.fuses.lifecycle != .anise
       && (d.title q.slot).state != .empty,
     sends (titled .opened) 8 0x0503 [4] fun d q => !d.titleBusy q.slot && d.regs.maintRun == none
       && (d.title q.slot).state == .opened,
     sends (titled .installed) 8 0x0503 [4] fun d q => !d.titleBusy q.slot && d.regs.maintRun == none
       && (d.title q.slot).state != .opened,
     sends (holding (titled .opened)) 8 0x0503 [4] fun d q => d.titleBusy q.slot,
     sends maintaining 8 0x0503 [4] fun d _ => d.regs.maintRun != none,
     sends (holding (titled .opened)) 0 0x0504 [4] fun d q => d.titleBusy q.slot,
     sends service 0 0x0504 [31] fun d q => !d.titleBusy q.slot,
     sends bindable 8 0x0505 [4 + 2048 * 2 ^ 5] fun d q => decide (d.ringCount ≤ q.f 1 5 13),
     sends bindable 8 0x0505 [2 ^ 18 + 6 * 2 ^ 19] fun d q => decide (q.f 1 5 13 < d.ringCount) && q.f 1 18 1 == 1
       && wbits (d.active.regionAttr.getD (q.f 1 19 6) 0) 10 1 != 1,
     sends (holding bindable) 8 0x0505 [4] fun d q => q.f 1 18 1 == 0 && d.titleBusy q.slot,
     sends (titled .installed) 8 0x0505 [4] fun d q => q.f 1 18 1 == 0 && !d.titleBusy q.slot
       && (d.title q.slot).state != .opened,
     sends { bindable with rings := [(0, { binding := some (.title 5) })] } 8 0x0505 [4] fun d q => q.f 1 18 1 == 0
       && !d.titleBusy q.slot && (d.title q.slot).state == .opened
       && (d.ring 0).binding != none && (d.ring 0).binding != some (.title q.slot),
     sends bindable 8 0x0505 [4 + 2047 * 2 ^ 5] fun d q => decide (q.f 1 5 13 < d.ringCount) && q.f 1 18 1 == 0
       && !d.titleBusy q.slot && (d.title q.slot).state == .opened && (d.ring (q.f 1 5 13)).binding == none,
     sends bindable 8 0x0505 [2 ^ 18 + 7 * 2 ^ 19] fun d q => decide (q.f 1 5 13 < d.ringCount) && q.f 1 18 1 == 1
       && wbits (d.active.regionAttr.getD (q.f 1 19 6) 0) 10 1 == 1 && (d.ring (q.f 1 5 13)).binding == none,
     sends (holding (titled .opened)) 8 0x0506 [4] fun d q => d.titleBusy q.slot,
     sends { titled .opened with regs := maintaining.regs } 8 0x0506 [4] fun d q =>
       (d.title q.slot).state == .opened && d.regs.maintRun != none,
     sends { titled .installed with mode := .preserve } 8 0x0506 [4] fun d q => !d.titleBusy q.slot && d.mode == .preserve
       && (d.title q.slot).state == .installed,
     sends (titled .installed) 8 0x0506 [4] fun d q => !d.titleBusy q.slot && d.mode != .preserve
       && (d.title q.slot).state == .installed,
     sends (titled .opened) 8 0x0506 [4] fun d q => !d.titleBusy q.slot && d.mode != .preserve
       && (d.title q.slot).state == .opened && d.regs.maintRun == none,
     sends (titled .empty) 8 0x0506 [4] fun d q => !d.titleBusy q.slot && d.mode != .preserve
       && (d.title q.slot).state == .empty] = true := by
  decide +kernel

theorem test_hyp_DeviceKeyAnswered : each
    [sends (inLife .anise) 0 0x0507 [0] fun d _ => d.fuses.lifecycle == .anise,
     sends (inLife .mace) 0 0x0507 [1] fun d _ => d.fuses.lifecycle != .anise] = true := by
  decide +kernel

/-- A package whose window holds a point of P-384: the base point. -/
def pointed : Dev := { service with i3c := { window := memWrite [] 0 (beBytes 48 g384.1 ++ beBytes 48 g384.2) } }

/-- A package whose rollback counter 4 has the last sequence number. -/
def lastSequence : Dev := { service with pstore := { service.pstore with
  mem := cellsAt 0x500 ((withCrc (leBytes 6 0 ++ [0, 0] ++ leBytes 6 (2 ^ 48 - 1) ++ [0, 0])).map (·.toNat)) } }

theorem test_hyp_CountersAndKeysWritten : each
    [sends service 8 0x0510 [2] fun d q => decide (d.sliceCount ≤ q.f 1 0 3),
     sends service 8 0x0510 [1 + 3 * 2 ^ 4] fun d q => decide (q.f 1 0 3 < d.sliceCount) && q.f 1 4 2 == 3,
     sends service 8 0x0510 [1 + 2 * 2 ^ 4] fun d q => decide (q.f 1 0 3 < d.sliceCount) && q.f 1 4 2 != 3,
     sends service 0 0x0A06 [15], sends service 8 0x0A07 [3, 1] fun _ q => decide (q.f 1 0 4 < 4),
     sends service 8 0x0A07 [4, 0] fun d q => decide (4 ≤ q.f 1 0 4 ∧ (q.w 2).toNat ≤ d.rollback (q.f 1 0 4)),
     sends service 8 0x0A07 [15, 1] fun d q => decide (4 ≤ q.f 1 0 4 ∧ d.rollback (q.f 1 0 4) < (q.w 2).toNat
       ∧ d.rollbackSeq (q.f 1 0 4) + 1 < 2 ^ 48),
     sends lastSequence 8 0x0A07 [4, 1] fun d q => decide (4 ≤ q.f 1 0 4 ∧ d.rollback (q.f 1 0 4) < (q.w 2).toNat
       ∧ 2 ^ 48 ≤ d.rollbackSeq (q.f 1 0 4) + 1),
     sends service 8 0x0A08 [3] fun _ q => q.f 1 0 2 == 3,
     sends service 8 0x0A08 [1 + 2 * 2 ^ 2] fun _ q => q.f 1 0 2 == 1 && decide (2 ≤ q.f 1 2 2),
     sends service 8 0x0A08 [2 + 3 * 2 ^ 2 + 2 ^ 4] fun _ q => q.f 1 0 2 == 2 && decide (q.f 1 2 2 < 4) && q.f 1 4 1 == 1,
     sends pointed 8 0x0A08 [0] fun d q => q.f 1 0 2 == 0 && decide (q.f 1 2 2 < 4) && q.f 1 4 1 == 0
       && onCurve (beAt (bytesAt d.window 0 48) 0 48) (beAt (bytesAt d.window 0x30 48) 0 48),
     sends service 8 0x0A08 [1 + 2 ^ 2] fun d q => q.f 1 0 2 == 1 && decide (q.f 1 2 2 < 2) && q.f 1 4 1 == 0
       && !onCurve (beAt (bytesAt d.window 0 48) 0 48) (beAt (bytesAt d.window 0x30 48) 0 48)] = true := by
  decide +kernel

/-- A package whose recorder generation is the last. -/
def lastGeneration : Dev := { service with recorder := { generation := 0xFFFF } }

/-- A package with one event in its recorder. -/
def recorded1 : Dev := service.packageEvent 0x0501 0

theorem test_hyp_HealthReadAndChanged : each
    [sends (buffered service) 0 0x0601 [15] fun d q => q.f 1 0 4 == 15 && decide (448 ≤ d.bufferSize q.channel),
     sends (buffered service) 0 0x0601 [1] fun d q => decide (q.f 1 0 4 < d.sliceCount)
       && decide (96 ≤ d.bufferSize q.channel) && decide (8192 ≤ (d.slice (q.f 1 0 4)).upkeep.formable),
     sends (buffered ((service.onSlice 1 fun x => { x with upkeep := { x.upkeep with formable := 8191 } }))) 0 0x0601 [1] fun d q =>
       decide (q.f 1 0 4 < d.sliceCount) && decide (96 ≤ d.bufferSize q.channel)
         && decide ((d.slice (q.f 1 0 4)).upkeep.formable < 8192),
     sends (buffered service) 0 0x0601 [14] fun d q => q.f 1 0 4 != 15 && decide (d.sliceCount ≤ q.f 1 0 4)
       && decide (96 ≤ d.bufferSize q.channel),
     sends service 0 0x0601 [0] fun d q => decide (d.bufferSize q.channel < 96),
     sends service 0 0x0602 [0] fun d q => q.f 1 0 16 == d.recorder.writePos,
     sends (buffered recorded1) 0 0x0602 [0xFFFF0000] fun d q =>
       let rs := d.pstore.recordStarts d.recorder.writePos 2731 0
       rs.any (fun r => r.1 == q.f 1 0 16) && (rs.head?.all fun r => decide (r.2 ≤ q.f 1 16 16))
         && (d.pstore.takeRecords (q.f 1 16 16) rs).any fun b => b != [] && decide (b.length ≤ d.bufferSize q.channel),
     sends recorded1 0 0x0602 [0xFFFF0001] fun d q => q.f 1 0 16 != d.recorder.writePos
       && (d.pstore.recordStarts d.recorder.writePos 2731 0).all fun r => r.1 != q.f 1 0 16,
     sends recorded1 0 0x0602 [0x10000] fun d q =>
       (d.pstore.recordStarts d.recorder.writePos 2731 0).head?.any fun r => r.1 == q.f 1 0 16 && decide (q.f 1 16 16 < r.2),
     sends recorded1 0 0x0602 [0xFFFF0000] fun d q =>
       let rs := d.pstore.recordStarts d.recorder.writePos 2731 0
       (d.pstore.takeRecords (q.f 1 16 16) rs).any fun b => decide (d.bufferSize q.channel < b.length),
     sends { recorded1 with pstore := { recorded1.pstore with broken := [0x2000] } } 0 0x0602 [0xFFFF0000] fun d q =>
       let rs := d.pstore.recordStarts d.recorder.writePos 2731 0
       rs.any (fun r => r.1 == q.f 1 0 16) && d.pstore.takeRecords (q.f 1 16 16) rs == none,
     sends service 0 0x0603 [], sends service 0 0x0605 [] fun d _ => (d.pstore.read 0x180 64).isSome,
     sends { service with pstore := { service.pstore with broken := [0x30] } } 0 0x0605 [] fun d _ =>
       (d.pstore.read 0x180 64).isNone,
     sends service 0 0x0606 [] fun d _ => decide (d.thermalLifeUsed < 2 ^ 16) && decide (d.wearLifeUsed < 2 ^ 16),
     sends lastGeneration 8 0x0604 [] fun d _ => d.recorder.generation == 0xFFFF,
     sends service 8 0x0604 [] fun d _ => d.recorder.generation != 0xFFFF, sends service 15 0x0607 [0x1F]] = true := by
  decide +kernel

/-- A package on its way to HELD. -/
def leaving : Dev := { service with transition := some ⟨.held, 1⟩ }

/-- A package in RECOVERY after a latched start. -/
def latched : Dev := { service with mode := .recovery, seq := { latchedStart := true } }

/-- A package whose thermal source 1 is enabled and in fault, whose sensor 3 is in fault, and whose sensor 0 reads 25 °C. -/
def sensed : Dev := { service with
  active := { service.active with thermSrc := 2 }
  thermal := { service.thermal with sensors := [(0, { readings := [25] }), (3, { faulty := true }), (9, { faulty := true })] } }

theorem test_hyp_TransitionsAndFaults : each
    [sends service 0 0x0701 [1] fun d q => !d.transitioning && q.f 1 0 4 == 1,
     sends service 0 0x0701 [8] fun d q => !d.transitioning && q.f 1 0 4 == 8,
     sends service 0 0x0701 [9] fun d q => !d.transitioning && q.f 1 0 4 == 9,
     sends leaving 0 0x0701 [9] fun d q => d.transitioning && q.f 1 0 4 == 9,
     sends service 0 0x0701 [7] fun _ q => q.f 1 0 4 == 7,
     sends service 0 0x0702 [] fun d _ => !d.transitioning, sends leaving 0 0x0702 [] fun d _ => d.transitioning,
     sends (inLife .mace) 8 0x0A09 [] fun d _ => d.fuses.lifecycle == .mace,
     sends (inLife .cumin) 0 0x0A09 [] fun d q => d.fuses.lifecycle == .cumin && !q.secure,
     sends (inLife .cumin) 8 0x0A09 [] fun d q => d.fuses.lifecycle == .cumin && q.secure && !d.transitioning,
     sends (inLife .anise) 0 0x0A09 [] fun d _ => d.fuses.lifecycle == .anise && !d.transitioning,
     sends leaving 0 0x0A09 [] fun d _ => d.fuses.lifecycle == .anise && d.transitioning,
     sends sensed 0 0x0703 [] fun d _ => wbits d.active.thermSrc 0 1 != 1 && wbits d.active.thermSrc 1 1 == 1
       && (d.sensor (4 * d.sliceCount + 1)).faulty && (d.sensor 3).faulty && (d.sensor 0).readings == [25]
       && (hottest d.readings).isSome,
     sends service 0 0x0704 [] fun d _ => decide (d.seq.shortDrops < 2 ^ 16),
     sends service 8 0x0705 [] fun d _ => !(d.mode == .recovery && d.seq.latchedStart),
     sends latched 8 0x0705 [] fun d _ => d.mode == .recovery && d.seq.latchedStart && d.transition == none,
     sends { latched with transition := some ⟨.held, 1⟩ } 8 0x0705 [] fun d _ =>
       d.mode == .recovery && d.seq.latchedStart && d.transition != none] = true := by
  decide +kernel

/-- A card manifest of one streamable, installable entry (identifier 7, 4 KiB of content), signed with a key made for the
test. -/
def manifest : List Byte := leBytes 304 0xcef4fcf4da5b0279de11be9d3ead18f3351ce9b43eaba025fb2082f8f58130869ab7b75076b6c18c4d39d5e1a928962925715b181b4cc3e6a0746018c191ef8a336807d52d23e78c02b369c3a9a25699c67d09ec85b157ba48f7fe78b1250cfd000000000000000000000000000000000000000000000000000000000000000000000000000000000000000000000000a7f8f6fa4edfc92851d583678fbe2df7aafddf585ae2fac9fe20a26bd971b991ea0e401ce422be706bad68035c140d8f000000000000000300000000000000000000000000001000000000000000000000000000000000000000000000000007153fd14300000000000000000000000000000000000000000000000000000000000000000000000000000000000000000000000000000130004001014d515654

/-- The public key of the tests' signatures. -/
def keyX : Nat := 0xfbf96095915eb587390f850ec95b35f618ae121c72a70808ad8f9f4c261b602b63541743e395f7c778e52bb28c18dc83
def keyY : Nat := 0x16a6ff3f72c9368326ad50a3bd148a53cd2213bb480e4730ad019db87ae100995ec65df011e19811a15dc9ddfc9ab3c

/-- A package whose key slots `l` hold that key. -/
def keyed (d : Dev) (l : List Nat) : Dev :=
  let bytes := beBytes 48 keyX ++ beBytes 48 keyY ++ [1, 0, 0, 0] ++ leBytes 4 0xD80C86E5
  { d with pstore := { mem := l.flatMap fun n => cellsAt (0x1000 + 128 * n) (bytes.map (·.toNat)) } }

/-- A card that passes every step of CART_AUTH, its leaf and root keys that key. -/
def card : CardInfo :=
  { readyAfter := some 100, capTimeout := 2, namespace1 := true, lbaBytes := 512, metadata := 0, protection := false, security := true
    maxTransfer := none, answers := true, spdmAgreed := true, rootX := BitVec.ofNat 384 keyX
    rootY := BitVec.ofNat 384 keyY, certificates := 1, chainBytes := 100, chainP384 := true, chainSigned := true
    leafX := BitVec.ofNat 384 keyX, leafY := BitVec.ofNat 384 keyY, challengeSigned := true, sessionOpen := true
    manifest := manifest }

/-- A package with a seated card, its port in a state. -/
def carded (c : Cart) : Dev := { service with cart := { c with present := true } }

/-- A package with that card authenticated. -/
def authed : Dev :=
  carded { pwrEn := true, linkUp := true, step := 4, auth := 2, session := true, manifest := manifest }

/-- The same in CUMIN, with a title record of one range in the window. -/
def importing : Dev := { authed with fuses := { lifecycle := .cumin }, i3c := (recorded .empty).i3c }

/-- The same with the card's title installed in slot 4. -/
def mapping : Dev := { authed with titles := upd authed.titles 4 fun _ => { state := .installed, id := 7 } }

/-- A package in which another command waits for the fall of CART_PWR_EN. -/
def poweredOff : Dev := { service with waiters := [⟨9, 0x0802, 5, .cartOff⟩] }

/-- The title slot that holds the title of manifest entry `e`. -/
def mappedBy (d : Dev) (e : Nat) : Option Nat :=
  (List.range 32).find? fun t => (d.title t).state != .empty && (d.title t).id == d.cart.titleId e

set_option maxRecDepth 100000 in
theorem test_hyp_CartridgeCommanded : each
    [sends service 0 0x0801 [], sends poweredOff 8 0x0802 [0] fun d _ => d.cartBusy,
     sends service 8 0x0802 [1] fun d q => !d.cartBusy && q.f 1 0 1 == 1 && !d.cart.present,
     sends (carded {}) 8 0x0802 [1] fun d q => !d.cartBusy && q.f 1 0 1 == 1 && d.cart.present && !d.cart.pwrEn
       && decide (d.cart.step < 5),
     sends authed 8 0x0802 [1] fun d q => !d.cartBusy && q.f 1 0 1 == 1 && d.cart.present && d.cart.pwrEn
       && decide (d.cart.step < 5),
     sends (carded { pwrEn := true, step := 5 }) 8 0x0802 [1] fun d q => !d.cartBusy && q.f 1 0 1 == 1 && d.cart.present
       && decide (5 ≤ d.cart.step),
     sends (carded { pwrEn := true, step := 5 }) 8 0x0802 [0] fun d q => !d.cartBusy && q.f 1 0 1 == 0 && d.cart.pwrEn
       && decide (5 ≤ d.cart.step),
     sends service 8 0x0802 [0] fun d q => !d.cartBusy && q.f 1 0 1 == 0 && !d.cart.pwrEn,
     sends authed 8 0x0802 [0] fun d q => !d.cartBusy && q.f 1 0 1 == 0 && d.cart.pwrEn && decide (d.cart.step < 5),
     sends (keyed (carded { linkUp := true }) [6]) 8 0x0803 [] fun d _ =>
       !d.cartBusy && d.cart.linkUp && cardReady card && card.answers && d.authStep card == none,
     sends (carded { linkUp := true }) 8 0x0803 [] fun d _ => !d.cartBusy && d.cart.linkUp && d.authStep card == some 3,
     sends poweredOff 8 0x0803 [] fun d _ => d.cartBusy,
     sends service 8 0x0803 [] fun d _ => !d.cartBusy && !d.cart.linkUp && !{ card with answers := false }.answers,
     sends service 0 0x0804 [] fun d _ => !d.cart.serves,
     sends authed 0 0x0804 [] fun d q => d.cart.serves && decide (d.bufferSize q.channel < d.cart.manifest.length),
     sends (buffered authed) 0 0x0804 [] fun d q => d.cart.serves
       && decide (d.cart.manifest.length ≤ d.bufferSize q.channel),
     sends importing 8 0x0805 [4 * 2 ^ 8] fun d q => d.cart.serves && decide (q.f 1 0 8 < d.cart.entryCount)
       && !d.titleBusy (q.f 1 8 5) && !d.cartBusy && d.fuses.lifecycle != .anise && (d.title (q.f 1 8 5)).state == .empty
       && d.recordOk d.window,
     sends importing 8 0x0805 [1 + 4 * 2 ^ 8] fun d q => d.cart.serves && decide (d.cart.entryCount ≤ q.f 1 0 8),
     sends { poweredOff with cart := authed.cart } 8 0x0805 [4 * 2 ^ 8] fun d q => decide (q.f 1 0 8 < d.cart.entryCount)
       && d.cartBusy,
     sends authed 8 0x0805 [4 * 2 ^ 8] fun d q => decide (q.f 1 0 8 < d.cart.entryCount) && !d.titleBusy (q.f 1 8 5)
       && !d.cartBusy && d.fuses.lifecycle == .anise,
     sends (inLife .cumin) 8 0x0805 [4 * 2 ^ 8] fun d q => !d.titleBusy (q.f 1 8 5) && !d.cartBusy
       && d.fuses.lifecycle != .anise && !d.cart.serves,
     sends { importing with i3c := service.i3c } 8 0x0805 [4 * 2 ^ 8] fun d q => d.cart.serves
       && decide (q.f 1 0 8 < d.cart.entryCount) && !d.titleBusy (q.f 1 8 5) && !d.cartBusy && d.fuses.lifecycle != .anise
       && (d.title (q.f 1 8 5)).state == .empty && !d.recordOk d.window,
     sends mapping 8 0x0806 [1] fun d q => d.cart.serves && decide (d.cart.entryCount ≤ q.f 1 0 8),
     sends (swapping mapping) 8 0x0806 [0] fun d q => decide (q.f 1 0 8 < d.cart.entryCount) && d.swapPending,
     sends (storing mapping) 8 0x0806 [0] fun d q => decide (q.f 1 0 8 < d.cart.entryCount) && !d.swapPending
       && d.images.storing != none,
     sends service 8 0x0806 [0] fun d _ => !d.swapPending && d.images.storing == none && !d.cartBusy && !d.cart.serves,
     sends mapping 8 0x0806 [0] fun d _ => d.cart.serves && !d.swapPending && d.images.storing == none && !d.cartBusy
       && mappedBy d 0 == some 4 && d.cart.streamable 0 && (d.loadTable 0 (List.replicate 48 1)).2 != 0,
     sends mapping 8 0x0806 [0] fun d q => d.cart.serves && decide (q.f 1 0 8 < d.cart.entryCount) && !d.swapPending
       && d.images.storing == none && !d.cartBusy && d.cart.streamable 0 && (d.loadTable 0 (List.replicate 48 0)).2 == 0
       && mappedBy d 0 == some 4] = true := by
  decide +kernel

/-- A package in a lifecycle state with a staged part of firmware. -/
def staged (l : Lifecycle) : Dev :=
  { inLife l with firmware := [{ staged := some [0] }, {}, {}] }

/-- A package in which a channel has staged bytes of a firmware image for target 0. -/
def fwStagedBy (c : Nat) (b : List Byte) : Dev := { buffered service with firmware := [{ staging := some (c, b) }, {}, {}] }

/-- A boot image without payload and without signature. -/
def bootImage : List Byte :=
  let head := leBytes 4 0x57465654 ++ [2, 0] ++ leBytes 2 64 ++ leBytes 4 176 ++ List.replicate 48 0
  head ++ leBytes 4 (crc32c head) ++ List.replicate 112 0

/-- The same with page buffers. -/
def loading : Dev := buffered service

theorem test_hyp_FirmwareStagedAndActivated : each
    [sends loading 0 0x0901 [0, 4096] fun d q =>
       partOk d q (List.replicate 4096 0) [] (d.fwTarget 0).staging (2 ^ 24) && q.f 1 33 2 == 0 && q.f 1 32 1 == 0,
     sends { loading with i3c := { window := memWrite [] 0 bootImage } } 8 0x0901 [2 ^ 32 + 2 * 2 ^ 33, 176] fun d q =>
       partOk d q [] [] (d.fwTarget 2).staging (2 ^ 24) && q.f 1 33 2 == 2 && q.secure && q.f 1 32 1 == 1
         && (d.bufferBytes q [] 176).any fun b => d.fwCheck 2 b == 0,
     sends loading 0 0x0901 [2 ^ 32 + 2 ^ 33, 1] fun d q =>
       partOk d q [0] [] (d.fwTarget 1).staging (2 ^ 24) && q.f 1 33 2 == 1 && q.f 1 32 1 == 1 && d.fwCheck 1 [0] != 0,
     sends service 0 0x0901 [2 ^ 32, 1] fun d q => decide (d.bufferSize q.channel < q.f 2 0 32),
     sends loading 0 0x0901 [1, 4096] fun d q => decide (q.f 2 0 32 ≤ d.bufferSize q.channel) && q.f 1 0 32 % 4096 != 0,
     sends loading 0 0x0901 [0, 1] fun _ q => q.f 1 0 32 == 0 && q.f 1 32 1 == 0 && q.f 2 0 32 % 4096 != 0,
     sends loading 0 0x0901 [2 ^ 32, 0] fun _ q => q.f 1 0 32 == 0 && q.f 2 0 32 == 0,
     sends loading 0 0x0901 [4096, 4096] fun d q => q.f 1 0 32 != 0 && (d.fwTarget 0).staging == none,
     sends (fwStagedBy 1 []) 0 0x0901 [0, 4096] fun d q => (d.fwTarget 0).staging.any fun e => e.1 != q.channel,
     sends (fwStagedBy 0 []) 0 0x0901 [2 ^ 32 - 4096, 4096] fun _ q => decide (2 ^ 24 < q.f 1 0 32 + q.f 2 0 32),
     sends loading 0 0x0901 [0, 4096] fun d q => d.bufferBytes q [] (q.f 2 0 32) == none,
     sends loading 0 0x0901 [3 * 2 ^ 33, 1] fun d q => decide (q.f 2 0 32 ≤ d.bufferSize q.channel) && q.f 1 33 2 == 3,
     sends loading 0 0x0901 [2 * 2 ^ 33, 1] fun d q => decide (q.f 2 0 32 ≤ d.bufferSize q.channel) && q.f 1 33 2 == 2
       && !q.secure,
     sends service 0 0x0902 [2] fun _ q => q.f 1 0 2 == 2 && !q.secure, sends service 8 0x0902 [3] fun _ q => q.f 1 0 2 == 3,
     sends (fwStagedBy 1 []) 0 0x0902 [0] fun d q => d.fwBusy 0 q.channel,
     sends { service with firmware := [{ storing := some 1 }, {}, {}] } 0 0x0902 [0] fun d _ => (d.fwTarget 0).storing != none,
     sends service 0 0x0902 [1] fun d q => !d.fwBusy (q.f 1 0 2) q.channel && (d.fwTarget (q.f 1 0 2)).storing == none
       && (d.fwTarget (q.f 1 0 2)).staged == none,
     sends (staged .mace) 0 0x0902 [0] fun d q => !d.fwBusy 0 q.channel && (d.fwTarget 0).storing == none
       && (d.fwTarget 0).staged == some [0],
     sends service 0 0x0903 []] = true := by
  decide +kernel

set_option maxRecDepth 100000 in
theorem test_hyp_LifecycleAndAlarms : each
    [sends service 0 0x0A01 [], sends service 8 0x0A02 [0, 0] fun _ q => q.f 1 0 2 == 0,
     sends service 8 0x0A02 [1, 9] fun d q => q.f 1 0 2 != 0 && (q.w 2).toNat != d.fuses.deviceId.toNat % 2 ^ 48,
     sends (inLife .mace) 8 0x0A02 [2, 0] fun d q => (q.w 2).toNat == d.fuses.deviceId.toNat % 2 ^ 48 && !d.transitioning
       && decide (Lifecycle.mace.code = q.f 1 0 2 ∧ Lifecycle.mace.code ≤ d.fuses.lifecycle.code),
     sends (inLife .anise) 8 0x0A02 [2, 0] fun d q => (q.w 2).toNat == d.fuses.deviceId.toNat % 2 ^ 48 && !d.transitioning
       && decide (Lifecycle.mace.code = q.f 1 0 2) && !d.maceKeys,
     sends (inLife .anise) 8 0x0A02 [1, 0] fun d q => (q.w 2).toNat == d.fuses.deviceId.toNat % 2 ^ 48 && !d.transitioning
       && decide (Lifecycle.cumin.code = q.f 1 0 2 ∧ d.fuses.lifecycle.code < Lifecycle.cumin.code)
       && d.fuses.rootBanks.all (fun b => !b.any RootBank.good) && d.fuses.rootBanks.findIdx? Option.isNone == some 0,
     sends { service with fuses := { lifecycle := .anise, rootBanks := [some ⟨0, 0⟩, some ⟨0, 0⟩] } } 8 0x0A02 [1, 0] fun d q =>
       (q.w 2).toNat == d.fuses.deviceId.toNat % 2 ^ 48 && !d.transitioning
         && d.fuses.rootBanks.all (fun b => !b.any RootBank.good) && d.fuses.rootBanks.findIdx? Option.isNone == none,
     RootBank.good ⟨0, 0x8A9136AA⟩,
     sends (keyed (inLife .cumin) [0, 4]) 8 0x0A02 [2, 0] fun d q =>
       (q.w 2).toNat == d.fuses.deviceId.toNat % 2 ^ 48 && !d.transitioning && d.maceKeys
       && decide (Lifecycle.mace.code = q.f 1 0 2 ∧ d.fuses.lifecycle.code < Lifecycle.mace.code),
     sends (inLife .mace) 8 0x0A02 [3, 0] fun d q => (q.w 2).toNat == d.fuses.deviceId.toNat % 2 ^ 48 && !d.transitioning
       && decide (Lifecycle.clove.code = q.f 1 0 2 ∧ d.fuses.lifecycle.code < Lifecycle.clove.code),
     sends leaving 8 0x0A02 [1, 0] fun d q => q.f 1 0 2 != 0 && (q.w 2).toNat == d.fuses.deviceId.toNat % 2 ^ 48
       && d.transitioning,
     sends service 8 0x0A03 [3] fun _ q => q.f 1 0 2 == 3, sends service 8 0x0A03 [2] fun _ q => q.f 1 0 2 != 3,
     sends service 8 0x0A04 [], sends service 8 0x0A05 []] = true := by
  decide +kernel

/-- Whatever root is drawn, a bank that programs without errors passes its CRC, and one with a wrong CRC fuse fails it (R353). -/
theorem test_hyp_fused_bank (root : BitVec 256) :
    let crc := BitVec.ofNat 32 (crc32c (leBytes 32 root.toNat))
    RootBank.good ⟨root ^^^ (0#288).setWidth 256, crc ^^^ ((0#288) >>> 256).setWidth 32⟩ = true
    ∧ RootBank.good ⟨root ^^^ (BitVec.twoPow 288 256).setWidth 256,
        crc ^^^ (BitVec.twoPow 288 256 >>> 256).setWidth 32⟩ = false := by
  have z : root ^^^ (BitVec.twoPow 288 256).setWidth 256 = root := by
    rw [show (BitVec.twoPow 288 256).setWidth 256 = 0#256 by decide]; exact BitVec.xor_zero
  have o : (BitVec.twoPow 288 256 >>> 256).setWidth 32 = 1#32 := by decide
  have c : BitVec.ofNat 32 (crc32c (leBytes 32 root.toNat))
      = (leBytes 32 root.toNat).foldl crcByte 0xFFFF_FFFF#32 ^^^ 0xFFFF_FFFF#32 := by
    rw [crc32c, BitVec.ofNat_toNat, BitVec.setWidth_eq]
  generalize hx : (leBytes 32 root.toNat).foldl crcByte 0xFFFF_FFFF#32 ^^^ 0xFFFF_FFFF#32 = x at c
  have n : crc32c (leBytes 32 root.toNat) = x.toNat := by rw [crc32c, hx]
  constructor
  · simp [RootBank.good, n]
  · rw [z, o, c]
    simp only [RootBank.good, n, beq_eq_false_iff_ne, ne_eq]
    intro h
    have := congrArg (x ^^^ ·) (BitVec.eq_of_toNat_eq h)
    simp [← BitVec.xor_assoc] at this

theorem test_hyp_CountersReported : each
    [sends service 0 0x0B01 [] fun d _ => d.clock.on,
     sends { service with mode := .boot, clock := {} } 0 0x0B01 [] fun d _ => !d.clock.on,
     sends service 8 0x0B02 [15 * 2 ^ 12] fun _ q => q.f 1 12 4 + 1 == 16,
     sends service 8 0x0B02 [2] fun d q => q.f 1 12 4 + 1 != 16 && q.f 1 0 4 != 15 && decide (d.sliceCount ≤ q.f 1 0 4),
     sends service 8 0x0B02 [15 + 32 * 2 ^ 4] fun _ q => q.f 1 12 4 + 1 != 16 && q.f 1 0 4 == 15
       && decide (32 < q.f 1 4 8 + (q.f 1 12 4 + 1)),
     sends service 8 0x0B02 [1 + 160 * 2 ^ 4] fun d q => q.f 1 12 4 + 1 != 16 && decide (q.f 1 0 4 < d.sliceCount)
       && decide (160 < q.f 1 4 8 + (q.f 1 12 4 + 1)),
     sends service 8 0x0B02 [15 + 31 * 2 ^ 4] fun _ q => q.f 1 12 4 + 1 != 16 && q.f 1 0 4 == 15
       && decide (q.f 1 4 8 + (q.f 1 12 4 + 1) ≤ 32),
     sends service 8 0x0B02 [1 + 159 * 2 ^ 4 + 2 ^ 16] fun d q => q.f 1 12 4 + 1 != 16
       && decide (q.f 1 0 4 < d.sliceCount) && decide (q.f 1 4 8 + (q.f 1 12 4 + 1) ≤ 160),
     sends service 0 0x0B03 [0] fun _ q => q.f 1 0 16 == 0, sends service 0 0x0B03 [0xFFFF] fun _ q => q.f 1 0 16 != 0]
      = true := by
  decide +kernel

/-- A package whose parameter store programs a write at an address. -/
def programming (a : Nat) (n : Nat) (two : Bool) : Dev :=
  { service with pstore := { service.pstore with
    queue := [⟨a, List.replicate n 1, two, some 0, 5, 0x0C02, n, false, [], none⟩] } }

theorem test_hyp_StoreAccessed : each
    [sends service 0 0x0C01 [0x3FFFF + 2 ^ 18] fun _ q => decide (2 ^ 18 < q.f 1 0 18 + (q.f 1 18 6 + 1)),
     sends service 0 0x0C01 [0x2000] fun _ q => decide (q.f 1 0 18 + (q.f 1 18 6 + 1) ≤ 2 ^ 18)
       && !pstoreOpen false q.secure (q.f 1 0 18) (q.f 1 18 6 + 1),
     sends service 0 0x0C01 [0x3FFFF] fun _ q => decide (q.f 1 0 18 + (q.f 1 18 6 + 1) ≤ 2 ^ 18)
       && pstoreOpen false q.secure (q.f 1 0 18) (q.f 1 18 6 + 1),
     sends service 0 0x0C02 [0x30000, 0, 0] fun _ q => q.words.length != 2 + ceilDiv (q.f 1 18 6 + 1) 6,
     sends service 0 0x0C02 [0x3FFFC + 9 * 2 ^ 18, 0, 0] fun _ q => q.words.length == 2 + ceilDiv (q.f 1 18 6 + 1) 6
       && decide (2 ^ 18 < q.f 1 0 18 + (q.f 1 18 6 + 1)),
     sends service 0 0x0C02 [0x30000, 256] fun _ q => q.words.length == 2 + ceilDiv (q.f 1 18 6 + 1) 6
       && decide (q.f 1 0 18 + (q.f 1 18 6 + 1) ≤ 2 ^ 18) && (unusedSet q 1).isSome,
     sends service 0 0x0C02 [0x1000, 1] fun _ q => q.words.length == 2 + ceilDiv (q.f 1 18 6 + 1) 6
       && unusedSet q 1 == none && !pstoreOpen true q.secure (q.f 1 0 18) (q.f 1 18 6 + 1),
     sends service 0 0x0C02 [0x3FFBC + 9 * 2 ^ 18, 1, 1] fun _ q => q.words.length == 2 + ceilDiv (q.f 1 18 6 + 1) 6
       && decide (q.f 1 0 18 + (q.f 1 18 6 + 1) ≤ 2 ^ 18) && unusedSet q 10 == none
       && pstoreOpen true q.secure (q.f 1 0 18) (q.f 1 18 6 + 1),
     (programming 0x3FFBC 10 false).pstore.queue.any fun a => !a.isRead && a.secondPage != [] && !a.page2,
     (programming 0x3FFBC 10 true).pstore.queue.any fun a => !a.isRead && a.page2,
     (programming 0x3FF80 8 false).pstore.queue.any fun a => !a.isRead && a.secondPage == [],
     service.pstore.queue == [], !Dev.reset.mode.ticks,
     service.mode.ticks && !service.recorder.repeatDirty,
     let d : Dev := { service with recorder := { repeatDirty := true } }
     d.mode.ticks && d.recorder.repeatDirty && !d.recorder.failed,
     let d : Dev := { service with mirror := { lifeClock := 1048576 } }
     d.mode.ticks && d.mirror.lifeClock != 0 && d.mirror.lifeClock % 1048576 == 0 && !d.mirrorCurrent,
     service.mirror.lifeClock == 0, { service with mirror := { lifeClock := 1048577 } }.mirror.lifeClock % 1048576 != 0]
      = true := by
  decide +kernel

/-- A package with a request of bad parity on channel 0. -/
def damaged : Dev := (sent service 0 0x0101 []).onChan 0 fun ch => { ch with inb := ch.inb.map fun w => { w with bad := true } }

theorem test_hyp_RefusalsHaveNoEffect : each
    [mailboxRow (.identify 0) == some (0, 0x0101) && damaged.serving 0 && (damaged.chan 0).front 0 != none
       && (damaged.refusal ⟨0, 0x0101, 5, [word 0]⟩ true (0x0101, false, 0, 0, 0, []) none).isSome,
     finds (sent service 0 0x0102 []) 0 0x0102 fun _ q => decide (q.words.length - 1 < 1),
     finds (sent service 0 0x0102 [0, 0]) 0 0x0102 fun _ q => decide (1 < q.words.length - 1),
     finds (sent service 0 0x0501 [0]) 0 0x0501 fun _ q => !q.secure && q.words.length == 2,
     finds (sent { service with mode := .boot } 0 0x0205 []) 0 0x0205 fun d q =>
       (d.refusal q false (0x0205, false, 1, 0, 0, []) none).isSome && !ownChecks.contains 0x0205,
     finds (sent (inLife .clove) 0 0x0203 []) 0 0x0203 fun d q =>
       (d.refusal q false (0x0203, false, 0, 0, 0, []) none).isSome] = true := by
  decide +kernel

theorem test_hyp_RequestsWait : each
    [mailboxRow (.identify 0) == some (0, 0x0101), !(sent { service with mode := .held } 0 0x0101 []).serving 0,
     let d := (sent service 0 0x0101 []).onChan 0 fun ch => { ch with resync := true }
     d.serving 0 && (d.chan 0).resync,
     service.serving 15 && !(service.chan 15).resync && (service.chan 15).front 15 == none,
     let d := { sent service 0 0x0602 [0] with pstore := { queue := [⟨0x600, [1], false, some 9, 0, 0x0C02, 1, false, [], none⟩] } }
     d.pstore.writing.isSome && storeOpcodes.contains 0x0602 && match (d.chan 0).front 0 with
       | some (q, _, _) => q.opcode == 0x0602
       | none => false,
     finds (sent service 0 0x0102 [0]) 0 0x0102 fun _ q => q.opcode != 0x0101 && (cmdSpec q.opcode).isSome] = true := by
  decide +kernel

theorem test_hyp_UndefinedOpcodesRefused : each
    [(0x0180 % 256 == 0x80) && 0x80 ≤ 0xFF % 256,
     finds (sent service 0 0x0FFF []) 0 0x0FFF fun _ q => (cmdSpec q.opcode).isNone,
     let d := (sent service 0 0x0FFF []).onChan 0 fun ch => { ch with inb := ch.inb.map fun w => { w with bad := true } }
     ((d.chan 0).front 0).any fun e => e.2.2 && (cmdSpec e.1.opcode).isNone] = true := by
  decide +kernel

theorem test_hyp_TimeoutsAnswered : each
    [let d := service.onChan 3 fun ch => { ch with inb := [⟨word (2 ^ 28), true, false⟩] }
     d.mode.ticks && !d.dbg.halted && !(d.chan 3).resync && (d.chan 3).front 3 == none && (d.chan 3).inb != [],
     !Dev.reset.mode.ticks, { service with dbg := { halted := true } }.dbg.halted,
     let d := service.onChan 15 fun ch => { ch with resync := true }
     d.mode.ticks && !d.dbg.halted && (d.chan 15).resync,
     (service.chan 0).inb == [] && ((sent service 0 0x0101 []).chan 0).front 0 != none] = true := by
  decide +kernel

theorem test_hyp_RequestTakenAndAnswered :
    each [decide (15 < service.chans.length), (service.chan 0).waiting == [] && (service.chan 0).notices == [],
      decide ((service.chan 0).outb.length + 1 + 15 ≤ 16)] = true := by
  decide +kernel

/-- A package that serves its boot port in a protocol. -/
def booting (p : XspiMode) (we armed : Bool) : Dev :=
  { service with boot := { proto := p, writeEnabled := we, resetArmed := armed, image := [1, 2], imageValid := true } }

theorem test_hyp_BootPortServes : each
    [(booting .single false false).bootReady && (booting .single false false).boot.proto == .single,
     (booting .octal true true).bootReady && (booting .octal true true).boot.proto == .octal,
     (booting .single true true).bootReady && (booting .single true true).boot.writeEnabled
       && (booting .single true true).boot.resetArmed,
     (booting .single false false).bootReady && !(booting .single false false).boot.resetArmed] = true := by
  decide +kernel

theorem test_hyp_BootPortIgnores : each
    [!service.bootReady, service.boot.proto == .single, (booting .octal false false).boot.proto == .octal,
     !(booting .octal false false).boot.writeEnabled] = true := by
  decide +kernel

/-- A package whose sideband targets have addresses; channel 8 holds a message, channel 9 a full inbound FIFO. -/
def sided : Dev :=
  ({ service with i3c := { addresses := List.replicate 9 (some 0x31) } }.onChan 8 fun ch =>
    { ch with outb := marked [replyHeader 0x0101 0 5 0 0] }).onChan 9 fun ch =>
    { ch with inb := List.replicate 16 ⟨0, false, false⟩ }

theorem test_hyp_SidebandTransfers : each
    [sided.mode.ticks, !Dev.reset.mode.ticks,
     sided.targetUp 1 && !sided.inboundFull 8, sided.targetUp 8 && !sided.inboundFull 15,
     sided.targetUp 2 && sided.inboundFull 9, (sided.chan 8).outMsg, !(sided.chan 9).outMsg, !service.targetUp 1,
     !service.targetUp 0, sided.targetUp 0 && Memory.wf sided.i3c.window && !sided.i3c.readsBuffer,
     decide ((0x3FFFFF8#32).toNat % 8 = 0 ∧ (0x3FFFFF8#32).toNat < 0x4000000),
     decide ((4#32).toNat % 8 ≠ 0), decide (0x4000000 ≤ (0x4000000#32).toNat),
     decide (8 ≤ (15#8).toNat ∧ (15#8).toNat ≤ 15), decide (¬(8 ≤ (16#8).toNat ∧ (16#8).toNat ≤ 15)),
     { sided with i3c := { sided.i3c with readsBuffer := true } }.targetUp 0,
     decide ((0x39#7).toNat < 0x30 ∨ 0x38 < (0x39#7).toNat), 9 ≤ 9, sided.pstore.queue == [],
     let d := { sided with pstore := (programming 0x3FF80 8 false).pstore }
     d.targetUp 0 && d.pstore.queue != [] && d.pstore.queue.all (·.register == none),
     let d := { sided with pstore := { sided.pstore with
       queue := [⟨0, [], false, none, 0, 0, 0, true, [], some ⟨0x10, none, false⟩⟩] } }
     d.targetUp 0 && d.pstore.queue.any (·.register != none)] = true := by
  decide +kernel

theorem test_hyp_JtagAnswers : each
    [({ service with mode := .off } : Dev).mode == .off, service.mode != .off,
     service.mode.ticks && bitAt service.debugScope 0,
     let d := { service with mode := .test }
     d.mode.ticks && bitAt d.debugScope 0, !bitAt (inLife .mace).debugScope 0, !Dev.reset.mode.ticks && Dev.reset.mode != .off]
      = true := by
  decide +kernel

/-- A package in CUMIN that has put out a challenge of nonce 0 and holds the tests' key in debug key slot 0. -/
def challenged (l : Lifecycle) : Dev := keyed { inLife l with dbg := { nonce := some 0 } } [4]

/-- A token for nonce 0, signed with that key for scope 0x3F. -/
def token (scope : Nat) : List Byte :=
  List.replicate 24 0 ++ [BitVec.ofNat 8 scope] ++ List.replicate 7 0
    ++ beBytes 48 0xfd0c25b178fef748ba57b185ec097dc69956a2a9c369b3028ce7232dd50768338aef91c1186074a0e6c34c1b185b7125
    ++ beBytes 48 0x573e04b3d6d995df0477024711dfc89a471c175643c4498f1f9c83538a6c5cedbaf69fae0b3a8be8396d6e15f536f3e7

set_option maxRecDepth 100000 in
theorem test_hyp_DebugUnlocked : each
    [(challenged .mace).mode.ticks && !(challenged .mace).debugOpen && decide ((challenged .mace).dbg.failures < 8)
       && (challenged .mace).fuses.lifecycle == .mace && (challenged .mace).tokenOk (token 0x3F)
       && !(challenged .mace).titles.any (·.state == .opened),
     let d := { challenged .mace with titles := (titled .opened).titles }
     d.mode.ticks && !d.debugOpen && decide (d.dbg.failures < 8) && d.tokenOk (token 0x3F)
       && d.titles.any (·.state == .opened),
     (challenged .cumin).mode.ticks && !(challenged .cumin).debugOpen && !(challenged .cumin).tokenOk (token 0x40),
     decide (8 ≤ { service with dbg := { failures := 8 } }.dbg.failures), service.debugOpen,
     !Dev.reset.mode.ticks && Dev.reset.mode != .off] = true := by
  decide +kernel

/-- A package in CUMIN whose debug is unlocked in a scope. -/
def inScope (n : Nat) : Dev := { inLife .cumin with dbg := { unlocked := true, scope := BitVec.ofNat 8 n } }

theorem test_hyp_DebugAccess : each
    [(inScope 0).debugScope == 0, bitAt (inScope 2).debugScope 1 && !bitAt (inScope 2).debugScope 4,
     bitAt (inScope 12).debugScope 2 && bitAt (inScope 12).debugScope 3,
     let d := { inScope 12 with active := securing.active }
     decide (0 / 8 * 8 < d.capacity) && d.lineProtected (d.active.classify 0 0) 0,
     (inScope 1).debugScope != 0 && (inScope 1).fuses.lifecycle != .anise && !bitAt (inScope 1).debugScope 2
       && !bitAt (inScope 1).debugScope 3 && !bitAt (inScope 1).debugScope 1,
     (inLife .anise).debugScope != 0 && (inLife .anise).fuses.lifecycle == .anise, bitAt (inScope 16).debugScope 4,
     let d := { inScope 12 with dbg := { (inScope 12).dbg with halted := true } }
     d.mode.ticks && d.dbg.halted && bitAt d.debugScope 2 && bitAt d.debugScope 3 && decide (2 ^ 27 - 8 < 2 ^ 27),
     decide (0 < workingBase false), bitAt (inScope 16).debugScope 4 && decide (1 < 3),
     (service.slice 1).lineMarked 0 == false,
     bitAt (inScope 32).debugScope 5 && (inScope 32).mode.isService && !(inScope 32).transitioning,
     !bitAt (inScope 16).debugScope 5, !Dev.reset.mode.ticks && Dev.reset.mode != .off] = true := by
  decide +kernel

/-- A package with port 0 linked and one record of handle 3 in the warning log. -/
def logged : Dev :=
  { linked service with std := { service.std with
    logs := upd service.std.logs 1 fun g => { g with records := [⟨3, .dram, ⟨0x0206, 0, 1, 0xFF, [], 0⟩⟩] } } }

theorem test_hyp_StandardMailbox : each
    [decide (0 < service.sliceCount) && !service.reached .host 0,
     decide (1 < service.sliceCount) && (linked service).reached .host 0,
     (linked service).std.logs[3]? == some ⟨16, [], 0⟩ && (linked service).std.logs[4]? == none
       && (linked service).internalHigh == none,
     (logged.std.logs[1]?).any fun g => g.records.any (·.handle == 3) && g.records.all (·.handle != 4),
     let d := { linked service with thermal := { service.thermal with sensors := [(0, { readings := [100] })] } }
     d.internalHigh.isSome] = true := by
  decide +kernel

/-- A package with both ports linked. -/
def bothLinked : Dev := (linked service).onPort 1 fun p => { p with link := .l0 }

theorem test_hyp_LaterSetWins : each
    [decide (1 < service.sliceCount) && bothLinked.reached .host 0 && bothLinked.reached .host 1,
     ([1, 2, 3, 4, 5] : List Int).length == 5] = true := by
  decide +kernel

/-- Port 0 linked with its decoder 0 as given. -/
def decoding (h : Hdm) : Dev := (linked service).onPort 0 fun p => { p with decoders := [h, {}, {}, {}] }

/-- Port 0 linked with decoders 0 and 1 committed. -/
def twoDecoders : Dev := (linked service).onPort 0 fun p =>
  { p with decoders := [{ committed := true }, { committed := true }, {}, {}] }

theorem test_hyp_DecodersCommitted : each
    [!service.reached .host 0, (decoding {}).reached .host 0 && !(((decoding {}).port 0).decoders.getD 0 {}).committed,
     (((decoding { committed := true }).port 0).decoders.getD 0 {}).committed,
     (((decoding { committed := true }).port 0).decoders.drop 1).all fun y => !y.committed,
     (((decoding { committed := true, lockOnCommit := true }).port 0).decoders.getD 0 {}).lockOnCommit,
     ((twoDecoders.port 0).decoders.drop 1).any (·.committed)] = true := by
  decide +kernel

/-- Port 0 with two recoveries that exclude lane 8, and its keys set. -/
def recovering : Dev := (linked service).onPort 0 fun p =>
  { p with width := 16, recoveries := [(0, 0x100), (0, 0x100)], ideKeys := [⟨1, 0, 0⟩] }

theorem test_hyp_LinksAndPortReset : each
    [decide (0 < service.ports.length) && (service.port 0).link == .down && (service.port 0).trains 16 64 true,
     !(service.port 0).trains 3 64 true,
     ((linked service).port 0).link == .l0, ((service.onPort 0 fun p => { p with link := .l1 }).port 0).link == .l1,
     !Dev.reset.mode.ticks, (service.port 1).link == .down,
     ((recovering.port 0).recoveries.filter (fun e => decide (recovering.lifeClock < e.1 + 1024) && e.2 == 1)).length + 1 < 3,
     (recovering.port 0).link != .down && decide (3 ≤ ((recovering.port 0).recoveries.filter (fun e =>
       decide (recovering.lifeClock < e.1 + 1024) && e.2 == 0x100)).length + 1),
     (recovering.port 0).ideKeys.all fun k => k.selector % 2 != b2n false,
     (recovering.port 0).ideKeys.any fun k => k.selector % 2 == b2n true] = true := by
  decide +kernel

/-- A masked interrupt is sent when its vector is unmasked (R423). -/
theorem test_msix_sent_when_unmasked :
    let d := service.writeMsixControl 0 0x8000
    (d.signals [(0, 3)]).out = [] ∧ ((d.signals [(0, 3)]).maskVector 0 3 false).out = [.msix 0 3 0 0] := by
  decide +kernel

theorem test_hyp_RegistersWritten : each
    [(linked service).reached .host 0 && (linked service).mapped 0x3FFF8 && (linked service).mapped 0x11FFF8
       && 0x11FFF8 % 8 == 0,
     (linked service).mapped 0x3FFFC && 0x3FFFC % 4 == 0 && (linked service).mapped 0x3FFFF && 0x3FFFF % 4 != 0,
     !(linked service).mapped 0x40000 && !(linked service).mapped 0x120000, !service.reached .host 0,
     service.reached .secure 0, !service.regs.accessError.valid,
     ((linked service).report .host 0 8 1).regs.accessError.valid,
     (service.maskVector 0 2047 false).msix.enabled.contains (0, 2047), !service.msix.enabled.contains (0, 3),
     (service.signals [(0, 3)]).msix.waiting.contains (0, 3), !service.msix.waiting.contains (0, 3),
     let d := service.writeMsixControl 0 0x8000
     bitAt (d.port 0).msixControl.toNat 15 && !bitAt (d.port 0).msixControl.toNat 14
       && (d.signals [(0, 3)]).msix.waiting.filter (fun x => x == (0, 3)) == [(0, 3)]] = true := by
  decide +kernel

/-- Port 0 linked and a select pair of the host at a slice. -/
def selecting (i : Nat) : Dev := { linked service with regs := { service.regs with selHost := { slice := i } } }

theorem test_hyp_CommandRegisters : each
    [!service.reached .host 0,
     (selecting 1).reached .host 0 && decide (((selecting 1).selOf .host).slice < 2),
     (selecting 2).reached .host 0 && decide (2 ≤ ((selecting 2).selOf .host).slice),
     !(linked service).swapPending && (linked service).clock.on, (swapping (linked service)).swapPending,
     decide (991 < { linked service with clock := { on := true, tick := 992 } }.clock.tick),
     let d : Dev := linked { service with mode := .boot, clock := {} }
     d.reached .host 0 && !d.swapPending && !d.clock.on] = true := by
  decide +kernel

/-- Port 0 linked; channel 0 has a word to read, channel 1 a full inbound FIFO and belongs to port 1. -/
def fifos : Dev :=
  ({ linked service with regs := { service.regs with mbAssign := word (1 * 2 ^ 3) } }.onChan 0 fun ch =>
    { ch with outb := [⟨1, true, false⟩], inb := List.replicate 16 ⟨0, false, false⟩ })

theorem test_hyp_MailboxFifosAccessed : each
    [!service.reached .host 0,
     fifos.reached .host 0 && fifos.chanReason .host 0 2 == none && !fifos.inboundFull 2 && (fifos.chan 2).outb == [],
     fifos.chanReason .host 0 0 == none && fifos.inboundFull 0 && (fifos.chan 0).outb != [] && decide (0 < fifos.chans.length),
     fifos.chanReason .firmware 0 0 == none && fifos.reached .firmware 0, fifos.chanReason .host 0 1 == some 8, fifos.chanReason .host 0 8 == some 4, fifos.chanReason .secure 0 15 == none]
      = true := by
  decide +kernel

/-- Port 0 linked and ring 2047 RUNNING on it. -/
def ringing : Dev := { linked service with rings := [(2047, { state := .running, enable := true, produced := 1 })] }

theorem test_hyp_RingsConfigured : each
    [service.ringCount == 2048, !service.reached .host 0,
     decide (0 < service.ringCount) && (linked service).reached .host 0 && ((linked service).ring 0).state == .disabled,
     decide (2047 < ringing.ringCount) && (ringing.ring 2047).state == .running && (ringing.ring 2047).hostPort == 0,
     let d := { ringing with rings := [(2047, { state := .stopped })] }
     (d.ring 2047).state != .disabled && (d.ring 2047).state != .running,
     decide ((64#32 - (ringing.ring 2047).fetched).toNat ≤ (ringing.ring 2047).size),
     decide ((ringing.ring 2047).size < (65#32 - (ringing.ring 2047).fetched).toNat), (ringing.ring 2047).hostPort != 1]
      = true := by
  decide +kernel

/-- Ring 0 RUNNING on port 0 with one descriptor posted. -/
def posting : Dev := { service with rings := [(0, { state := .running, enable := true, produced := 1 })] }

/-- A ZERO descriptor, and host data whose descriptor was fetched poisoned or not. -/
def zeroRaw : BitVec 512 := BitVec.ofNat 512 6
def hostData (badFetch : Bool) : HostData := ⟨[], false, false, badFetch⟩

/-- A started descriptor in slot 0 with its raw words, status and reads outstanding. -/
def desc (raw : Nat) (status : Option Nat) : Desc :=
  { slot := 0, raw := BitVec.ofNat 512 raw, started := true, status := status, pending := 1, moved := 0, dropped := 0
    poisoned := 0, firstPoison := none, flush := none }

/-- A fetched descriptor in slot `n` with flag 1, which waits for those before it. -/
def fetched (n : Nat) : Desc :=
  { slot := n, raw := BitVec.ofNat 512 (6 + 2 ^ 17), started := false, status := none, pending := 0, moved := 0, dropped := 0
    poisoned := 0, firstPoison := none, flush := none }

/-- A RUNNING ring with `n` of them behind a started one, or alone, and one posted. -/
def fencing (n : Nat) (alone : Bool) : Ring :=
  { state := .running, enable := true, produced := 20, fetched := 17
    descs := (if alone then [] else [desc 6 none]) ++ (List.range n).map fetched }

theorem test_hyp_DescriptorsStarted : each
    [service.ringCount == 2048, (service.ring 0).state != .running,
     (ringing.ring 2047).descs == [] && ({ ringing with rings := [(0, { state := .running })] }.ring 0).posted == 0,
     decide (1 ≤ rawOpcode zeroRaw ∧ rawOpcode zeroRaw ≤ 7 ∧ rawOpcode zeroRaw ≠ 7),
     decide (0 < posting.ringCount) && (posting.ring 0).state == .running && (posting.ring 0).descs == []
       && (posting.ring 0).posted != 0,
     rawOpcode zeroRaw == 6, rawOpcode 0 == 0, decide (7 < rawOpcode 8), (hostData true).badFetch,
     let x : Desc :=
       { slot := 0, raw := BitVec.ofNat 512 (1 + 2 ^ 19), started := false, status := none, pending := 0, moved := 0, dropped := 0
         poisoned := 0, firstPoison := none, flush := none }
     let d := (posting.onRing 0 fun r => { r with fetched := r.fetched + 1, descs := r.descs ++ [x] }).count 0 112 1
     (d.descStatus (d.ring 0) x ⟨[], false, true, false⟩) == some 0x0C,
     (fencing 1 false).posted != 0 && !(fencing 1 false).mayStart (fetched 0)
       && (fencing 1 false).descs.find? (fun z => !z.started) == some (fetched 0),
     ((fencing 16 false).descs.filter fun z => !z.started).length == 16 && !(fencing 16 false).mayStart (fetched 0),
     (fencing 1 true).mayStart (fetched 0) && (fencing 1 true).descs.find? (fun z => !z.started) == some (fetched 0),
     rawOpcode 1 == 1 && !(desc 1 none).flag 2] = true := by
  decide +kernel

/-- Ring 0 RUNNING with that descriptor and `written` completion entries ahead of the head. -/
def working (x : Desc) (written : BitVec 32) : Dev :=
  { service with rings := [(0, { state := .running, enable := true, produced := 2, fetched := 1, written := written
                                 descs := [x] })] }

/-- An INSTALL of 64 bytes: opcode 2, length 64. -/
def installRaw : Nat := 2 + 64 * 2 ^ 192

theorem test_hyp_DescriptorsEnded : each
    [service.ringCount == 2048,
     decide (0 < service.ringCount) && ((working (desc 6 (some 0)) 0).ring 0).room
       && ((working (desc 6 (some 0)) 0).ring 0).descs.any fun x => x.slot == 0 && x.status == some 0 && x.started,
     !((working (desc 6 (some 0)) 64).ring 0).room,
     ((working (desc 6 none) 0).ring 0).state == .running && ((working (desc 6 none) 0).ring 0).posted != 0,
     (service.ring 0).descs.find? (·.slot == 0) == none && (service.ring 0).state != .running,
     ((working (desc 6 none) 0).ring 0).descs.any fun x => x.slot == 0 && x.status == none && x.started,
     (desc installRaw none).field 0 2 == 2 && (desc installRaw none).units.contains 0] = true := by
  decide +kernel

/-- Port 0 linked and its decoder 0 committed over 1 TiB at HPA 0. -/
def mapped : Dev := decoding { base := 0, size := 2 ^ 40, committed := true }

/-- The same with 2 ways, at position 0. -/
def interleaved : Dev := decoding { base := 0, size := 2 ^ 40, ways := 2, committed := true }

/-- The same with region 0 read-only over the first MiB. -/
def guarded : Dev := { mapped with active := { service.active with
  regionBase := upd service.active.regionBase 0 fun _ => word (2 ^ 22)
  regionAttr := upd service.active.regionAttr 0 fun _ => word (2 * 2 ^ 11) } }

/-- A basin line of frame 0 with its first sector dirty. -/
def basinLine : BasinEntry :=
  { lfn := 0, index := 0, valid := 1, dirty := 1, folding := 0, data := List.replicate 64 0, firstRound := 0, cls := 0
    durable := false, bulk := false, named := true, title := none, acks := [] }

theorem test_hyp_HostMemoryAccessed : each
    [!service.portServes 0, mapped.portServes 0 && (mapped.port 0).decode (2 ^ 40) == none,
     mapped.portServes 0 && decide ((mapped.port 0).reads.length < 4096 ∧ (mapped.port 0).writes.length < 1024),
     let d := mapped.onPort 0 fun p => { p with reads := List.replicate 4096 0, writes := List.replicate 1024 0 }
     decide (4096 ≤ (d.port 0).reads.length ∧ 1024 ≤ (d.port 0).writes.length),
     (interleaved.port 0).decode 0x1000 == some (0x1000, false),
     (mapped.port 0).decode (2 ^ 40 - 64) == some (2 ^ 40 - 64, true) && decide (2 ^ 40 - 64 < mapped.capacity),
     decide (mapped.capacity ≤ 2 ^ 40) && ((decoding { base := 0, size := 2 ^ 41, committed := true }).port 0).decode (2 ^ 40)
       == some (2 ^ 40, true),
     (mapped.slice 0).cache.state == .invalidating,
     ((mapped.onSlices fun x => { x with cache := { x.cache with state := .on } }).slice 0).cache.state != .invalidating,
     (mapped.discardReason (mapped.active.classify 0 0) 0).isNone,
     guarded.portServes 0 && (guarded.discardReason (guarded.active.classify 0 0) 0).isSome,
     ((mapped.slice 0).basinHeader (mapped.active.classify 0 0) false 0).isNone,
     let d := mapped.onSlice 0 fun x => { x with
       cache := { x.cache with state := .off }, basin := { x.basin with entries := [basinLine] } }
     ((d.slice 0).basinHeader (d.active.classify 0 0) false 0).isSome,
     mapped.reached .host 0] = true := by
  decide +kernel

/-- Flushes of port 0, of a descriptor and of a title, and one that waits for journal entry 5 of slice 0. -/
def flushes : Dev := { linked service with
  flushes := [⟨0, some 0, none, [], []⟩, ⟨1, none, some (0, 0), [], []⟩, ⟨2, none, none, [], []⟩,
              ⟨3, some 0, none, [], [(0, 5)]⟩] }

/-- A read that waits for unit 0 of the entry that region 0 streams. -/
def streaming : Dev :=
  { authed with
    active := { service.active with
      regionBase := upd service.active.regionBase 0 fun _ => word (2 ^ 22)
      regionAttr := upd service.active.regionAttr 0 fun _ => word (2 ^ 14) }
    cart := { authed.cart with
      hashTables := [(0, List.replicate 48 0)]
      streamMaps := [⟨0, 7, 4096, authed.cart.tableDigest 0, List.replicate 48 0⟩]
      streamWaits := [⟨0, 9, 0, 0, 0, 4, 0⟩] } }

theorem test_hyp_FlushesAndStreams : each
    [(linked service).portServes 0 && (linked service).mode.isService, !service.portServes 0,
     flushes.flushes.find? (·.id == 9) == none,
     (flushes.flushes.find? (·.id == 3)).any fun f => !flushes.flushReady f,
     (flushes.flushes.find? (·.id == 0)).any fun f => flushes.flushReady f && f.host == some 0 && f.desc == none,
     (flushes.flushes.find? (·.id == 1)).any fun f => flushes.flushReady f && f.host == none && f.desc == some (0, 0),
     let d := { flushes with dbg := { granted := some 1, closing := [(2, 4)] }, titles := (titled .opened).titles }
     (d.flushes.find? (·.id == 2)).any fun f => d.flushReady f && f.host == none && f.desc == none
       && d.dbg.granted != none && d.dbg.closing.all fun x => x.1 == f.id,
     service.cart.streamWaits.filter (service.waitsFor 0 0) == [],
     streaming.cart.streamWaits.filter (streaming.waitsFor 0 0) != []
       && bytesAt (streaming.cart.tableOf 0) 0 48 != sha384 [1],
     let d := { streaming with cart := { streaming.cart with hashTables := [(0, sha384 [1])] } }
     d.cart.streamWaits.filter (d.waitsFor 0 0) != [] && bytesAt (d.cart.tableOf 0) 0 48 == sha384 [1],
     let x := (linked service).onSlice 0 fun x => { x with
       basin := { x.basin with entries := [basinLine] }, journal := { x.journal with next := x.journal.durable + 1 } }
     (x.slice 0).basin.entries.any (fun e => e.dirty &&& ~~~ e.folding != 0)
       && decide ((x.slice 0).journal.durable < (x.slice 0).journal.next)] = true := by
  decide +kernel

/-- A page read of slot 2, position 0, lane 0 in its `n`-th attempt for a host, or for rebuild 5. -/
def readOf (n : Nat) (rebuild : Bool) : ReadReq :=
  { cls := 1, arrival := 0, reach := 0, group := 0, bank := 0, slot := 2, pos := 0, lane := 0, lfn := 0, line := 0
    who := [if rebuild then .rebuild 5 else .host 0 9 0], allocate := false, covered := false, attempt := n, tow := none
    order := 0 }

/-- A page of zeros. -/
def blank : Page :=
  { data := [0, 0, 0, 0], lfn := 0, sub := 0, relocated := false, slc := false, title := none, parity := false, seq := 0
    key := none }

/-- A chamber and a clear at work in bank 0 of reach 0. -/
def chamber : Chamber :=
  { reach := 0, group := 0, bank := 0, kind := .host, slot := 2, pos := 0, lane := 0, page := blank, rewrite := none
    sysSeq := none, filledAt := 0, programming := true }
def clearing (n : Nat) : Clear :=
  { slot := 2, lane := 0, group := 0, reach := 0, bank := 0, left := n, running := true, age := 0, lent := false
    ready := true, entry := 0 }

/-- A package with read `q` in flight on slice 0, its latch as given, a chamber, a clear of `left` segments, and a durable write of
journal entry `entry`. -/
def busy (q : ReadReq) (latch : Option Cell) (left entry : Nat) : Dev :=
  service.onSlice 0 fun x => { x with
    journal := { durable := 4, next := 9 }
    slots := [(2, { state := .closed, stream := .host, laneReach := List.range 16, laneBank := List.replicate 64 0 })]
    upkeep := { x.upkeep with verifyQ := [2] }
    flow := { x.flow with
      flights := [⟨0, q, latch, false, [], 0, false, []⟩], chambers := [chamber], clears := [clearing left]
      durables := [⟨1, entry, 7, 1, 0, [.host 0 7 0 1]⟩] } }

/-- The same at tick 1,000, where the image in force declares every class durable. -/
def lateDurable : Dev :=
  { (busy (readOf 0 false) none 1 3).onSlice 0 (fun x => { x with source := .image 0 0 }) with
    images := { inForce := some [0, 0, 0, 0, 0, 0, 0xFF] }, clock := { on := true, abs := 1000 } }

/-- What `errors` make of the page in the latch of the read in flight. -/
def classOf (latch : Option Cell) (errors : List Nat) : PageClass := decodeClass latch errors

theorem test_hyp_MediaCompletions : each
    [((busy (readOf 0 false) none 1 0).slice 0).flow.flights.find? (·.id == 1) == none,
     ((busy (readOf 0 false) (some (.page blank)) 1 0).slice 0).flow.flights.any fun f => f.id == 0 && f.latch == some (.page blank),
     classOf (some (.page blank)) [] == .clean, classOf (some (.page blank)) [0] == .corrected 1,
     classOf (some (.page blank)) (List.range 24) == .corrected 24,
     classOf (some (.page blank)) (List.range 25) == .uncorrectable && (readOf 0 true).rebuilds,
     classOf none ((List.range 24).map (2464 + ·)) == .uncorrectable && !(readOf 2 false).rebuilds
       && decide ((readOf 2 false).attempt < 3),
     !(readOf 3 false).rebuilds && decide (3 ≤ (readOf 3 false).attempt),
     classOf none [] == .cleared, classOf none (List.range 25) == .torn, classOf (some .torn) [] == .torn,
     let d := (busy (readOf 0 false) none 1 0).onSlice 0 fun x => { x with flow := { x.flow with
       flights := [⟨0, readOf 0 false, none, true, [], 0, false, []⟩], latches := [(0, some (.page blank))] } }
     (d.slice 0).flow.flights.any fun f => f.held
       && sget (d.slice 0).flow.latches f.req.bankNumber none == some (.page blank),
     ((busy (readOf 0 false) none 1 0).slice 0).flow.chambers.find? (fun c => c.programming && c.reach == 1) == none,
     ((busy (readOf 0 false) none 1 0).slice 0).flow.chambers.any fun c =>
       c.programming && c.reach == 0 && c.group == 0 && c.bank == 0,
     ((busy (readOf 0 false) none 1 0).slice 0).flow.clears.find? (fun c => c.running && c.reach == 1) == none,
     ((busy (readOf 0 false) none 2 0).slice 0).flow.clears.any fun c => c.running && c.reach == 0 && c.group == 0
       && c.bank == 0 && decide (2 ≤ c.left),
     ((busy (readOf 0 false) none 1 0).slice 0).flow.clears.any fun c => c.running && decide (c.left ≤ 1),
     ((busy (readOf 0 false) none 1 0).slice 0).flow.durables.find? (·.id == 9) == none,
     ((busy (readOf 0 false) none 1 4).slice 0).flow.durables.any fun w =>
       decide (((busy (readOf 0 false) none 1 4).slice 0).journal.durable ≤ w.entry),
     let x := (busy (readOf 0 false) none 1 3).slice 0
     x.flow.durables.any fun w => decide (w.entry < x.journal.durable) && !x.behind w && x.lateClasses 11 w == [],
     let x := lateDurable.slice 0
     x.flow.durables.any fun w => decide (w.entry < x.journal.durable) && !x.behind w
       && (x.lateClasses lateDurable.now w).find? (lateDurable.hasDurableBound 0) == some 1,
     let y := (busy (readOf 0 false) none 1 0).slice 0
     let x := { y with flow := { y.flow with chambers := [] } }
     (x.slot 2).state == .closed && x.upkeep.verifyQ.contains 2 && x.verifyEnded 2 && x.marksCommitted 2,
     ((service.slice 0).slot 3).state != .closed] = true := by
  decide +kernel

/-- Slice 0 as given. -/
def sliced (f : Slice → Slice) : Dev := service.onSlice 0 f

/-- A package whose slice 0 has a source slot 2 without a valid frame, a clearing slot 3, and a trim that waits for
nothing. -/
def keeping : Dev := sliced fun x => { x with
  slots := [(2, { state := .closed, stream := .host }), (3, { state := .clearing, clearEntry := 3 }),
            (4, { state := .closed, stream := .host, valid := 1 })]
  journal := { durable := 4, next := 9 }
  upkeep := { x.upkeep with victim := some 2 }
  flow := { x.flow with trims := [⟨0, 1, none⟩] } }

/-- Slice 0 with slots 5 and 6 in its system chain, of which slot 6 alone holds a page at or after the replay start. -/
def chained : Dev := sliced fun x => { x with
  sys := { x.sys with
    chain := [5, 6], format := some { factoryFormat with base := 9, live := [], order := [], slots := [] }
    pages := [⟨9, .trailer 0 0 0 0 [], some 6, 0, true, true, false, none, false⟩,
              ⟨10, .trailer 0 0 0 rotationLength [], some 6, 8, true, true, false, none, false⟩] } }

theorem test_hyp_UpkeepAdvanced : each
    [(service.slice 0).flow.trims == [],
     ((keeping.slice 0).flow.trims.find? fun t => !(keeping.slice 0).trimWaits t).any fun t => t.ack == none,
     let x := (sliced fun x => { x with flow := { x.flow with trims := [⟨0, 1, some (.title 4)⟩] } }).slice 0
     (x.flow.trims.find? fun t => !x.trimWaits t).any fun t => t.ack == some (.title 4),
     let d : Dev := { service with active := { service.active with
       regionBase := upd service.active.regionBase 0 fun _ => word (2 ^ 22)
       regionAttr := upd service.active.regionAttr 0 fun _ => word (2 ^ 3) } }
     d.trimDurable 0 ⟨0, 1, some (.title 4)⟩, !service.trimDurable 0 ⟨0, 1, some (.title 4)⟩,
     (chained.slice 0).sys.rootWrite == none,
     ((keeping.slice 0).slot 2).state == .closed && (keeping.slice 0).isSource 2 && ((keeping.slice 0).slot 2).valid == 0
       && !(keeping.slice 0).moving 2,
     decide (0 < ((keeping.slice 0).slot 4).valid),
     ((keeping.slice 0).slot 3).state == .clearing && decide (((keeping.slice 0).slot 3).clearEntry < 4)
       && !(keeping.slice 0).readsHold 3,
     ((keeping.slice 0).slot 2).state != .clearing, (service.slice 0).checkpoint.capturing == [],
     let x := (sliced fun x => { x with checkpoint := { capturing := [(0, 0)] } }).slice 0
     x.checkpoint.capturing.find? (fun e => !x.captureWaits e.1 e.2) == some (0, 0),
     (chained.slice 0).tailSlot == some 6 && chained.clock.on && (chained.slice 0).sys.chain.takeWhile (· != 6) == [5],
     !Dev.reset.clock.on,
     let x := (sliced fun x => { x with upkeep := { x.upkeep with watermark := .dry, dryRounds := 256 } }).slice 0
     x.upkeep.watermark == .dry && decide (256 ≤ x.upkeep.dryRounds),
     (service.slice 0).upkeep.watermark != .dry] = true := by
  decide +kernel

/-- A line of the line cache with a dirty sector. -/
def dirtyLine : Line :=
  { line := 0, way := 0, prot := false, valid := 1, dirty := 1, data := [0, 0, 0, 0], filling := false, cls := 0, title := none }

theorem test_hyp_CacheWorkEnded : each
    [((caching .invalidating).slice 1).cache.state == .invalidating, ((caching .on).slice 1).cache.state == .on,
     ((caching .draining).slice 1).cache.state == .draining && decide (1 < (caching .draining).slices.length)
       && (((caching .draining).slice 1).drain false 0 fun _ => true).cache.lines.all (·.dirty == 0)
       && !((caching .draining).slice 1).cache.discarding,
     ((caching .draining).onSlice 1 fun x => { x with cache := { x.cache with discarding := true } }).slice 1 |>.cache.discarding,
     maintaining.regs.maintRun.any fun m => !maintaining.maintLeft m,
     let d := maintaining.onSlice 0 fun x => { x with cache := { x.cache with state := .on, lines := [dirtyLine] } }
     d.maintLeft ⟨1, 0, 2 ^ 20⟩, service.regs.maintRun == none] = true := by
  decide +kernel

/-- A slice whose cache drains one line into a basin entry with a lost index header, which takes no write (R373). -/
def stuck : Dev := (caching .draining).onSlice 1 fun x => { x with
  cache := { x.cache with lines := [dirtyLine] }, basin := { x.basin with entries := [basinLine] }
  dram := { x.dram with marked := [headerAddress 0] } }

theorem test_hyp_drain_stuck : (stuck.slice 1).cache.state = .draining
    ∧ ((stuck.slice 1).drain false 0 fun _ => true).cache.lines.all (·.dirty == 0) = false := by
  decide +kernel

/-- R508 by hand: half of VIO is 10 kΩ, so 25 °C; 23.84 % of VIO at a beta of 3,435 K is 58.42 °C, between 233 and 234 quarter degrees; an
ideal diode at 273.15 K is at 0 °C. -/
theorem test_temperatures : thermistorTemp 3435 (2 ^ 23) = 100 ∧ ntcAtLeast 3435 4000000 233 = true
    ∧ ntcAtLeast 3435 4000000 234 = false ∧ diodeTemp 0 273150 = 0 := by decide +kernel

/-- A package at a tick of its round. -/
def ticking (t : Nat) : Dev := { service with clock := { on := true, tick := t, round := 1024 } }

/-- A package in DROWSE. -/
def drowsing : Dev := { Dev.reset with mode := .drowse }

theorem test_hyp_TicksAndRounds : each
    [(ticking 1022).clock.on && (ticking 1022).mode.ticks,
     ((ticking 1023).endTicks quietTick).clock.tick == 1023 && !((ticking 1023).endTicks quietTick).clock.roundClosed,
     (ticking 1023).clock.tick == 1023 && !(ticking 1023).clock.roundClosed,
     { ticking 1023 with clock := { (ticking 1023).clock with roundClosed := true } }.clock.roundClosed,
     (ticking 1022).clock.tick != 1023,
     let c := { service with clock := { on := true, skipN := 4, skipCount := 3 } }.clock
     c.skipN != 0 && decide (c.skipN ≤ c.skipCount + 1),
     service.clock.skipN == 0, { service with clock := { on := true, skipN := 4, skipCount := 2 } }.clock.skipCount + 1 < 4,
     !Dev.reset.clock.on, !Dev.reset.mode.ticks] = true := by
  decide +kernel

theorem test_hyp_SamplesTaken : each
    [let d := { service with counters := { snapDue := true } }
     d.counters.snapDue && d.clock.on, !service.counters.snapDue,
     let d := { service with clock := { on := true, round := 1024 } }
     d.atRoundBoundary && d.clock.round.toNat != d.counters.windowLast && d.counters.windowNext == none
       && d.clock.round.toNat % d.counters.window == 0,
     let d := { service with clock := { on := true, round := 1024 }, counters := { windowNext := some 512 } }
     d.atRoundBoundary && d.clock.round.toNat != d.counters.windowLast && d.clock.round.toNat % 512 == 0,
     let d := { service with clock := { on := true, round := 1024 }, counters := { windowNext := some 1000 } }
     d.atRoundBoundary && d.clock.round.toNat != d.counters.windowLast && d.clock.round.toNat % 1000 != 0,
     !(ticking 5).atRoundBoundary, service.clock.on, !Dev.reset.clock.on,
     drowsing.mode == .drowse && drowsing.thermal.sensors == [] && drowsing.criticalRuns.2 == [], service.mode != .drowse,
     let d := { drowsing with thermal := { drowsing.thermal with sensors := [(8, { readings := [2000], criticalRun := 1 })] } }
     d.criticalRuns.2 != []] = true := by
  decide +kernel

theorem test_hyp_ScheduleUpkeep : each
    [{ service with swap := { copying := some .all } }.swap.copying == some .all,
     { service with swap := { copying := some .tables } }.swap.copying == some .tables, service.swap.copying == none,
     let d := { service with swap := { changeDue := true } }
     d.swap.changeDue && !d.swapPending && d.clock.on,
     !service.swap.changeDue, (swapping service).swapPending, !Dev.reset.clock.on,
     let d := { service with mode := .idle, regs := { service.regs with idleExit := true } }
     d.mode == .idle && d.regs.idleExit,
     service.mode != .idle,
     let d := sliced fun x => { x with alarmsInRound := 4 }
     decide (4 ≤ (d.slice 0).alarmsInRound) && !(d.slice 0).policyActed && d.alarms.policy == 1,
     { service with alarms := { policy := 0 } }.alarms.policy == 0, { service with alarms := { policy := 2 } }.alarms.policy == 2,
     decide ((service.slice 0).alarmsInRound < 4), ((sliced fun x => { x with policyActed := true }).slice 0).policyActed]
      = true := by
  decide +kernel

/-- A package whose cartridge power sequence stands at a step. -/
def stepping (n : Nat) : Dev := carded { pwrEn := true, step := n }

theorem test_hyp_CartridgePort : each
    [(List.range 8).all fun n => (stepping n).cart.step == n,
     let d := { stepping 7 with waiters := [⟨8, 0x0802, 5, .cartOff⟩] }
     d.waiters.all fun w => w.what == .cartOff,
     service.mode.ticks && !service.cart.present, !Dev.reset.mode.ticks,
     authed.cart.present && authed.cart.linkUp && authed.mode.ticks, !service.cart.linkUp,
     authed.cart.pwrEn && decide (authed.cart.step < 6),
     decide (0x4000000 < 0x4000000 + 4 ∧ (0x4000000 ≠ 0x4000000 ∨ 4 ≠ 4 ∨ true = true)),
     decide (0x100000 < 0x100000 + 1 ∧ 0x100000 + 1 ≤ 0x4000000), !authed.cardReading, streaming.cardReading,
     decide (0xFFFFC + 4 ≤ 0x100000), cartTrains 4 32 && !cartTrains 8 32] = true := by
  decide +kernel

/-- A package whose sequencer stands in a state with rails enabled and good. -/
def sequenced (m : Mode) (q : Sequencer) : Dev := { Dev.reset with mode := m, seq := q }

theorem test_hyp_RailsRaised : each
    [(sequenced .off {}).mode == .off, Dev.reset.mode != .off,
     Dev.reset.mode == .held && Dev.reset.seq.state == 1 && Dev.reset.seq.mayStart && Dev.reset.seq.resetHigh
       && !Dev.reset.seq.faultLow,
     let d := sequenced .halt { state := 15, latch := 0x4000 }
     d.mode == .halt && d.seq.state == 15 && d.seq.latch &&& 0xB300 == 0 && d.seq.resetHigh && !d.seq.faultLow,
     (sequenced .dormant { wake := true, mayStart := false }).seq.wake, !(sequenced .held { resetHigh := false }).seq.resetHigh,
     !Dev.reset.seq.finished, (List.range 8).all fun n => (sequenced .held { state := n + 1, finished := true }).seq.state == n + 1,
     (sequenced .held { state := 9, finished := true }).seq.finished, (sequenced .held { state := 10, finished := true }).seq.finished,
     (List.range 8).all fun n => has (sequenced .held { state := n + 2, en := 0xFF }).seq.en n,
     (List.range 8).all fun n => !has (sequenced .held { state := n + 2 }).seq.en n,
     decide (Dev.reset.seq.state ≠ 0 + 2), decide (0 < Dev.reset.slices.length)] = true := by
  decide +kernel

theorem test_hyp_RailsLowered : each
    [(sequenced .held { state := 12, finished := true }).seq.finished, (sequenced .held { state := 13, finished := true }).seq.finished,
     (sequenced .halt { state := 14, finished := true, target := .halt }).seq.target == .halt,
     (sequenced .held { state := 14, finished := true }).seq.target != .halt,
     let q := (sequenced .held { state := 13, en := 0x3F, turn := some 6 }).seq
     !has q.en 6 && q.turn == some 6 && !has q.en 7 && q.turn != some 7,
     has (sequenced .held { state := 11, en := 0xFF }).seq.en 7,
     (sequenced .held { state := 13, turn := some 7 }).seq.turn == some 7,
     let q := (sequenced .held { state := 13, turn := some 6 }).seq
     q.turn == some 6 && !q.vppDischarge && q.turn != some 5,
     let q := (sequenced .held { state := 13, turn := some 6, vppDischarge := true }).seq
     q.vppDischarge && q.turn == some 6, !Dev.reset.seq.vppDischarge,
     !has Dev.reset.seq.pg 6, has (sequenced .held { pg := 0x40 }).seq.pg 6] = true := by
  decide +kernel

theorem test_hyp_SequencerFaults : each
    [let q := (sequenced .service { state := 11, en := 0xFF, pg := 0xFF }).seq
     has q.en 5 && has q.pg 5 && q.state == 11 && has q.en 6,
     let q := (sequenced .held { state := 7, en := 0x3F, pg := 0x1F }).seq
     has q.en 4 && has q.pg 4 && decide (q.state < 11),
     let q := (sequenced .held { state := 9, en := 0x7F, pg := 0x7F }).seq
     has q.en 5 && has q.pg 5 && has q.en 6 && decide (q.state < 11),
     let q := (sequenced .held { state := 13, en := 0x1F, pg := 0x1F, powerFailing := true }).seq
     has q.en 0 && has q.pg 0 && decide (12 ≤ q.state) && q.powerFailing,
     let q := (sequenced .held { state := 13, en := 0x1F, pg := 0x1F }).seq
     has q.en 0 && has q.pg 0 && decide (12 ≤ q.state) && !q.powerFailing,
     let q := (sequenced .held { state := 12, en := 0x7F, pg := 0x7F }).seq
     has q.en 5 && has q.pg 5 && has q.en 6 && decide (12 ≤ q.state) && !q.powerFailing,
     !has Dev.reset.seq.en 0, service.mode.ticks, !Dev.reset.mode.ticks,
     let q := (sequenced .held { state := 2, finished := true }).seq
     q.finished && decide (2 ≤ q.state ∧ q.state ≤ 10),
     let q := (sequenced .held { state := 14, finished := true }).seq
     q.finished && decide (12 ≤ q.state ∧ q.state ≤ 14), !Dev.reset.seq.finished,
     let q := (sequenced .held { state := 11, en := 1 }).seq
     decide (2 ≤ q.state ∧ q.state ≤ 11) && q.en != 0,
     Dev.reset.seq.en == 0, (sequenced .halt { state := 15 }).mode == .halt] = true := by
  decide +kernel

theorem test_hyp_PowerDropped : each
    [let d := sequenced .service { state := 11, en := 0xFF, pg := 0xFF }
     d.mode != .off && d.mode != .halt && decide (2 ≤ d.seq.state ∧ d.seq.state ≤ 11) && d.seq.state == 11,
     decide (2 ≤ (sequenced .held { state := 2, en := 1 }).seq.state ∧ (sequenced .held { state := 2, en := 1 }).seq.state ≤ 10),
     let d := sequenced .service { state := 11, en := 0xFF, pg := 0xFF, pfailHigh := true }
     d.seq.pfailHigh && d.pstore.writing == none,
     let d := { programming 0x3FF80 8 false with seq := { state := 11, en := 0xFF, pg := 0xFF, pfailHigh := true } }
     d.seq.pfailHigh && d.pstore.writing != none,
     Dev.reset.mode != .halt && Dev.reset.mode != .off && Dev.reset.seq.state == 1,
     let d := sequenced .held { state := 13, en := 1 }
     d.mode != .halt && d.mode != .off && decide (12 ≤ d.seq.state), (sequenced .off {}).mode == .off,
     let d := sequenced .halt { state := 15, resetHigh := false }
     d.mode == .halt && d.seq.state == 15 && !d.seq.resetHigh, Dev.reset.seq.resetHigh] = true := by
  decide +kernel

/-- A package in BOOT with every slice trained and filled. -/
def readied : Dev := Dev.onSlices { Dev.reset with mode := .boot } fun x =>
  { x with dram := { x.dram with trained := true, filled := true } }

/-- The same with its tick running. -/
def started : Dev := { readied with clock := { on := true } }

theorem test_hyp_StartsRun : each
    [let d := { Dev.reset with mode := .boot }
     d.mode == .boot && !d.clock.on && !(d.slice 0).dram.trained,
     readied.mode == .boot && !readied.clock.on && readied.slices.all (fun x => x.dram.trained && x.dram.filled)
       && readied.notStarted.isNone,
     let d := { readied with
       fuses := { lifecycle := .mace }, firmware := [{ copies := [some ⟨[0], 1, true⟩, none] }, {}, {}] }
     (d.verifyFirmware false).notStarted == some 0
       && ({ readied with notStarted := some 0 } : Dev).notStarted.isSome,
     (readied.verifyFirmware true).notStarted.isNone && readied.fuses.lifecycle != .mace,
     started.clock.on && started.swap.pending == none && !(started.saveMirrors false).staysInRecovery
       && !started.seq.latchedStart,
     let d := { started with fuses := { lifecycle := .clove } }
     (d.saveMirrors false).staysInRecovery,
     !Dev.reset.slices.all (fun x => x.dram.trained && x.dram.filled), (swapping started).swap.pending.isSome,
     (readied.slice 0).dram.trained, Dev.reset.mode != .boot] = true := by
  decide +kernel

theorem test_hyp_ModesLeft : each
    [drowsing.mode == .drowse, Dev.reset.mode == .held && Dev.reset.seq.state == 1,
     ({ service with transition := some ⟨.drowse, 1⟩ } : Dev).transition.any fun t => t.target == .drowse,
     decide (12 ≤ (sequenced .held { state := 14 }).seq.state) && (sequenced .held { state := 14 }).seq.target != .halt,
     (sequenced .service { state := 11 }).mode.isService && (sequenced .service { state := 11 }).transition == none,
     leaving.transition == some ⟨.held, 1⟩ && !(leaving.slice 1).shutdown.done && leaving.drained 1 && !leaving.swapPending
       && !leaving.slices.all (·.shutdown.done),
     let d : Dev := { leaving with slices := leaving.slices.map fun (x : Slice) => { x with shutdown := { done := true } } }
     d.slices.all (·.shutdown.done) && !d.swapPending && (d.slice 0).shutdown.done,
     service.transition == none && service.mode.ticks, !Dev.reset.mode.ticks, !(leaving.slice 1).shutdown.ending] = true := by
  decide +kernel

/-- Slice 0 with its local DRAM trained and a re-key sweep whose pointer has come to the tag base. -/
def sweeping (v : Sparse Nat) (p : Nat) : Dev := sliced fun x => { x with dram := { x.dram with
  trained := true, versions := v, sweep := some ⟨p, []⟩ } }

/-- Whatever the row hash is, a bank of a healthy channel has a request queued, however many refresh intervals it is behind. -/
theorem test_hyp_refresh_queued (n : Nat) : ∃ c b : Nat, b < 16 ∧
    let m := ((sliced fun x => { x with dram := { x.dram with
      requests := [⟨0, 0, 0, false, [], false⟩], debt := [(16 * c + b, n)] } }).slice 0).dram
    has m.healthy c = true ∧ sget m.debt (16 * c + b) 0 = n ∧
    ∃ r, r ∈ m.requests ∧ dramChannel service.keys.seed m.healthy r.address = c
      ∧ dramBank service.keys.seed m.healthy r.address = b := by
  refine ⟨dramChannel service.keys.seed 0xFF 0, dramBank service.keys.seed 0xFF 0, ?_, ?_, ?_, _, List.mem_singleton.2 rfl, rfl, rfl⟩
  · rw [show dramBank service.keys.seed 0xFF 0 = Nat.xor 0 (dramHash service.keys.seed 0xFF 0 / 8 % 4) * 4
        + Nat.xor 0 (dramHash service.keys.seed 0xFF 0 / 32 % 4) from rfl]
    have e (a : Nat) : Nat.xor 0 a = a := Nat.zero_xor a
    rw [e, e]; omega
  · have e (a : Nat) : Nat.xor 0 a = a := Nat.zero_xor a
    have c : dramChannel service.keys.seed 0xFF 0 < 8 := by
      rw [show dramChannel service.keys.seed 0xFF 0 = Nat.xor 0 (dramHash service.keys.seed 0xFF 0 % 8) from rfl, e]; omega
    have all : ∀ c, c < 8 → has (0xFF : BitVec 8) c = true := by decide
    exact all _ c
  · change (sget? [(_, n)] _).getD 0 = n
    simp [sget?]

theorem test_hyp_DramUpkeep : each
    [((sweeping [] 0).slice 0).dram.trained && !((sweeping [] 0).slice 0).dram.filled, !(service.slice 0).dram.trained,
     service.mode.ticks && !(service.slice 0).dram.selfRefresh && has (service.slice 0).dram.healthy 7
       && (service.slice 0).dram.requests == [], !Dev.reset.mode.ticks,
     (service.slice 0).dram.sweep == none, decide (0 < tagBase false 0xFF),
     ((sweeping [(0, 1)] (tagBase false 0xFF)).slice 0).dram.waitingWrites == []
       && ((sweeping [(0, 1)] (tagBase false 0xFF)).slice 0).dram.versions.all fun e => decide (e.2 < 0xF00000),
     ((sweeping [(0, 0xF00000)] (tagBase false 0xFF)).slice 0).dram.versions.any fun e => decide (0xF00000 ≤ e.2)] = true := by
  decide +kernel

/-! The statements over every state. -/

theorem test_hyp_StepRunsFrontCommand : (step ⟨service, [.idcode]⟩) = exec .idcode (at_ service) := rfl

theorem test_hyp_QueueOnlyLosesItsFront : (at_ service).pending = [] ∧ (leaves service .idcode (·.mode)).isSome = true := by
  decide +kernel

theorem test_hyp_CommandsStopOnlyAtAbsentUnits :
    missing service (.identify 16) = some .noSuchChannel ∧ missing service (.trim 2) = some .noSuchSlice
      ∧ missing service (.portReset 2) = some .noSuchPort ∧ missing service (.copy 2048 0 (hostData false)) = none
      ∧ missing service (.trim 1) = none := by
  decide +kernel

theorem test_hyp_InvariantKept : (at_ (settle service)).Inv ∧ step (at_ (settle service)) = .next (at_ (settle service)) := by
  refine ⟨⟨?_, fun h => ?_, ?_⟩, rfl⟩
  · unfold State.PinsFollow; decide +kernel
  · exact absurd h (by decide +kernel)
  · unfold State.Shaped; decide +kernel

theorem test_hyp_MemoryStaysCanonical : (at_ service).Canonical ∧ step (at_ service) = .next (at_ service) := by
  refine ⟨?_, rfl⟩
  unfold State.Canonical Dev.Stored
  decide +kernel

theorem test_hyp_LifecycleNeverGoesBack : (leaves service .idcode (·.fuses)) = some service.fuses := by decide +kernel

end Sys2Proof.Tests
end

section
/-!
SUPPORT. The standard mailbox at two linked ports: what answering a standard command leaves of the package, and of two Set
commands the one completed later (R304, R306).
-/
namespace Sys2Proof.Machine

open Sys2Proof

/-! ### What a standard command leaves as it was -/

/-- An answer through a port only signals a vector and adds an output, so it keeps what these two keep. -/
theorem Dev.stdReply_keeps {β : Type} (g : Dev → β) (hs : ∀ d vs, g (d.signals vs) = g d) (he : ∀ d o, g (d.emit o) = g d)
    (d : Dev) (p code : Nat) (fields : List Nat) : g (d.stdReply p code fields) = g d := by
  unfold Dev.stdReply Dev.mailboxInterrupt
  split
  · exact (hs _ _).trans (he _ _)
  · exact he _ _

/-- `e` has the ports of `d`, reached by the same agents, and its life clock: what a standard command at another port looks at
beside the standard mailbox itself. -/
structure Dev.SameLinks (d e : Dev) : Prop where
  sliceCount : e.sliceCount = d.sliceCount
  reached : ∀ a p, e.reached a p = d.reached a p
  lifeClock : e.lifeClock = d.lifeClock

/-- A command at a linked port that acts on the standard mailbox alone completes with that effect and keeps every link. -/
theorem runStd_std {p : Nat} {s : State} (hp : p < s.dev.sliceCount) (hr : s.dev.reached .host p = true)
    (f : Dev → StdState) (code : Nat) (fields : List Nat) :
    ∃ t, runStd p s (fun d => ({ d with std := f d }, code, fields)) = .next t
      ∧ t.dev.std = f s.dev ∧ s.dev.SameLinks t.dev := by
  have keeps {β : Type} (g : Dev → β) (hs : ∀ d vs, g (d.signals vs) = g d) (he : ∀ d o, g (d.emit o) = g d) :=
    Dev.stdReply_keeps g hs he { s.dev with std := f s.dev } p code fields
  refine ⟨_, runStd_eq hp hr _, keeps (·.std) (fun _ _ => rfl) fun _ _ => rfl, ?_, fun a q => ?_, ?_⟩
  · exact keeps (·.sliceCount) (fun _ _ => rfl) fun _ _ => rfl
  · exact keeps (·.reached a q) (fun _ _ => rfl) fun _ _ => rfl
  · exact keeps (·.lifeClock) (fun _ _ => rfl) fun _ _ => rfl

/-! ### Set Timestamp -/

theorem exec_setTimestamp_linked {p : Nat} {s : State} (hp : p < s.dev.sliceCount)
    (hr : s.dev.reached .host p = true) (v : BitVec 64) :
    ∃ t, exec (.setTimestamp p v) s = .next t
      ∧ t.dev.std = { s.dev.std with timestamp := v.toNat, timestampClock := s.dev.lifeClock } ∧ s.dev.SameLinks t.dev :=
  runStd_std hp hr (fun d => { d.std with timestamp := v.toNat, timestampClock := d.lifeClock }) 0 []

/-! ### Set Alert Configuration -/

/-- The thresholds after a Set Alert Configuration: the enabled ones take their values, the others keep theirs. -/
def mergedAlerts (valid : BitVec 5) (values old : List Int) : List Int :=
  (List.range 5).map fun i => if bitAt valid.toNat i then values.getD i (old.getD i 0) else old.getD i 0

theorem mergedAlerts_enabled {valid : BitVec 5} {values : List Int} (hv : values.length = 5) (old : List Int) {i : Nat}
    (hi : i < 5) (hb : bitAt valid.toNat i = true) : (mergedAlerts valid values old).getD i 0 = values.getD i 0 := by
  have hget : i < values.length := hv ▸ hi
  simp [mergedAlerts, List.getD_eq_getElem?_getD, hi, hb, hget]

theorem exec_setAlertConfiguration_linked {p : Nat} {s : State} (hp : p < s.dev.sliceCount)
    (hr : s.dev.reached .host p = true) (m : BitVec 5) (v : List Int) :
    ∃ t, exec (.setAlertConfiguration p m v) s = .next t
      ∧ t.dev.std = { s.dev.std with alertValid := m, alertValues := mergedAlerts m v s.dev.std.alertValues }
      ∧ s.dev.SameLinks t.dev :=
  runStd_std hp hr (fun d => { d.std with alertValid := m, alertValues := mergedAlerts m v d.std.alertValues }) 0 []

/-- A linked port's Set Alert Configuration leaves the thresholds it enables at its values, whatever stood there. -/
theorem exec_setAlertConfiguration_enabled {p : Nat} {s : State} (hp : p < s.dev.sliceCount)
    (hr : s.dev.reached .host p = true) (m : BitVec 5) {v : List Int} (hv : v.length = 5) :
    ∃ t, exec (.setAlertConfiguration p m v) s = .next t ∧ t.dev.std.alertValid = m
      ∧ (∀ i, i < 5 → bitAt m.toNat i = true → t.dev.std.alertValues.getD i 0 = v.getD i 0) ∧ s.dev.SameLinks t.dev := by
  obtain ⟨t, ht, hstd, hlinks⟩ := exec_setAlertConfiguration_linked hp hr m v
  refine ⟨t, ht, by rw [hstd], fun i hi hb => ?_, hlinks⟩
  rw [hstd]
  exact mergedAlerts_enabled hv _ hi hb

/-! ### The later of two commands -/

/-- Settles O36: each command completes whole and leaves the links as they were, so the one at the other port runs on its
result and its own values stand in the end. -/
theorem laterSetWins : Obligations.LaterSetWins := by
  intro s p q hp hq hrp hrq
  refine ⟨fun v w => ?_, fun m n v w hv hw => ?_⟩
  · obtain ⟨t, ht, hstd, hlinks⟩ := exec_setTimestamp_linked hp hrp v
    obtain ⟨u, hu, hstd', -⟩ :=
      exec_setTimestamp_linked (hlinks.sliceCount ▸ hq) ((hlinks.reached _ _).trans hrq) w
    exact ⟨t, u, ht, hu, by rw [hstd], by rw [hstd'], by rw [hstd', hlinks.lifeClock]⟩
  · obtain ⟨t, ht, hm, hvals, hlinks⟩ := exec_setAlertConfiguration_enabled hp hrp m hv
    obtain ⟨u, hu, hn, hvals', -⟩ :=
      exec_setAlertConfiguration_enabled (hlinks.sliceCount ▸ hq) ((hlinks.reached _ _).trans hrq) n hw
    exact ⟨t, u, ht, hu, hm, hn, hvals, hvals'⟩

end Sys2Proof.Machine
end

section
/-!
SUPPORT. Opening a title slot: a request that R429 refuses is answered with that refusal, and each case of R364 decides the
answer of TITLE_OPEN.
-/
namespace Sys2Proof.Machine

open Sys2Proof

/-! ### Refusals of R429 -/

/-- A served request that R429 refuses is answered with that refusal, without effect. -/
theorem runCmd_refused {s : State} {c op : Nat} {q : Req} {rest : List MbWord} {bad : Bool} {r : CmdSpec}
    (hc : c < 16) (hs : s.dev.serving c = true) (hy : (s.dev.chan c).resync = false)
    (hf : (s.dev.chan c).front c = some (q, rest, bad)) (ho : q.opcode = op) (hr : cmdSpec op = some r)
    {early : Dev → Req → Option Nat} {reply : Reply}
    (hn : (s.dev.takeRequest c rest).refusal q bad r (early (s.dev.takeRequest c rest) q) = some reply)
    (body : Dev → Req → Dev × Reply) : runCmd c op s early body = .next (s.answered q rest id reply) := by
  simp [runCmd, runChan_eq hc, Dev.serve, hs, hy, hf, ho, hr, hn, State.answered, Chan.front_channel hf]

/-- An intact request of a right length, on a channel of the right kind and outside CLOVE, meets WRONG_MODE in a mode that
is none of its command's. -/
theorem Dev.refusal_wrongMode {d : Dev} {q : Req} {r : CmdSpec}
    (hlen : r.2.2.2.1 ≤ q.words.length - 1 ∧ q.words.length - 1 ≤ r.2.2.2.2.1) (hsec : q.secure = true)
    (hlife : d.fuses.lifecycle ≠ .clove) (hmode : modeAllowed r.2.2.1 d.mode = false) :
    d.refusal q false r none = some (fail 6) := by
  obtain ⟨op, secureOnly, modes, least, most, masks⟩ := r
  have hl : ¬(q.words.length - 1 < least ∨ most < q.words.length - 1) := by
    simp only at hlen
    omega
  simp only at hmode
  simp [Dev.refusal, hl, hsec, hlife, hmode]

/-! ### TITLE_OPEN (R364) -/

/-- The row of TITLE_OPEN in the command summary: secure channels, the service group, one word that names a slot. -/
theorem cmdSpec_titleOpen : cmdSpec 0x0502 = some (0x0502, true, 1, 1, 1, [0x1F]) := rfl

/-- Whether a command holds a slot is not changed by taking a request. -/
theorem Dev.takeRequest_titleBusy (d : Dev) (c t : Nat) (rest : List MbWord) :
    (d.takeRequest c rest).titleBusy t = d.titleBusy t := by
  unfold Dev.titleBusy
  rw [Dev.takeRequest_waiters]

/-- The case of R364 in which debug bars a slot from opening: MACE with debug unlocked, or with a token accepted that still
waits for the close of the open slots (R366). -/
def Dev.debugBarsOpen (d : Dev) : Prop :=
  d.fuses.lifecycle = .mace ∧ (d.dbg.unlocked = true ∨ d.dbg.granted ≠ none)

theorem Dev.debugBarsOpen_iff (d : Dev) :
    d.debugBarsOpen ↔ (d.fuses.lifecycle == .mace && (d.dbg.unlocked || d.dbg.granted.isSome)) = true := by
  simp [Dev.debugBarsOpen, Option.isSome_iff_ne_none]

/-- The package after TITLE_OPEN of an INSTALLED slot: every slice holds the slot's frame key, and the slot is OPEN. -/
def Dev.openTitle (d : Dev) (t : Nat) : Dev :=
  ((d.loadFrameKey t).onTitle t fun x => { x with state := .opened }).countPkg 14 1

section
variable {s : State} {c : Nat} {q : Req} {rest : List MbWord}

section
variable (hc : c < 16) (hs : s.dev.serving c = true) (hy : (s.dev.chan c).resync = false)
  (hf : (s.dev.chan c).front c = some (q, rest, false)) (ho : q.opcode = 0x0502) (hlen : q.words.length = 2)
  (hsec : q.secure = true) (hlife : s.dev.fuses.lifecycle ≠ .clove)
include hc hs hy hf ho hlen hsec hlife

/-- Outside the service group TITLE_OPEN is refused by R429, whatever its fields. -/
theorem exec_titleOpen_wrongMode (hmode : s.dev.mode.isService = false) :
    exec (.titleOpen c) s = .next (s.answered q rest id (fail 6)) :=
  runCmd_refused hc hs hy hf ho cmdSpec_titleOpen
    (Dev.refusal_wrongMode (by simp [hlen]) hsec (by simpa using hlife) (by simpa [modeAllowed] using hmode)) _

/-- In the service group R429 lets a TITLE_OPEN without reserved bits through. -/
theorem asks_titleOpen (hmode : s.dev.mode.isService = true) (hres : firstReserved q [0x1F] = none) :
    s.dev.Asks c 0x0502 q rest :=
  ⟨hc, hs, hy, hf, ho, _, cmdSpec_titleOpen, by simp [hlen], by simp [hlen], fun _ => hsec, fun h => absurd h hlife, hmode, hres⟩

end

variable (hask : s.dev.Asks c 0x0502 q rest) (hbusy : s.dev.titleBusy q.slot = false)
include hask hbusy

theorem exec_titleOpen_anise (hlife : s.dev.fuses.lifecycle = .anise) :
    exec (.titleOpen c) s = .next (s.answered q rest id (fail 0x0E)) :=
  runCmd_answered rfl hask rfl (by simp [Dev.takeRequest_titleBusy, hbusy, hlife])

theorem exec_titleOpen_debugBars (hbar : s.dev.debugBarsOpen) :
    exec (.titleOpen c) s = .next (s.answered q rest id (fail 5)) := by
  obtain ⟨hmace, hunlocked | hgranted⟩ := hbar
  · exact runCmd_answered rfl hask rfl (by simp [Dev.takeRequest_titleBusy, hbusy, hmace, hunlocked])
  · exact runCmd_answered rfl hask rfl
      (by simp [Dev.takeRequest_titleBusy, hbusy, hmace, hgranted, Option.isSome_iff_ne_none])

variable (hlife : s.dev.fuses.lifecycle ≠ .anise) (hbar : ¬s.dev.debugBarsOpen)
include hlife hbar

theorem exec_titleOpen_notInstalled (hst : (s.dev.title q.slot).state ≠ .installed) :
    exec (.titleOpen c) s = .next (s.answered q rest id (fail 7)) := by
  have hguard := mt s.dev.debugBarsOpen_iff.2 hbar
  exact runCmd_answered rfl hask rfl
    (by simp [Dev.takeRequest_titleBusy, Dev.takeRequest_title, hbusy, hlife, hguard, hst])

theorem exec_titleOpen_installed (hst : (s.dev.title q.slot).state = .installed) :
    exec (.titleOpen c) s = .next (s.answered q rest (·.openTitle q.slot) (done [])) := by
  have hguard := mt s.dev.debugBarsOpen_iff.2 hbar
  exact runCmd_answered rfl hask rfl
    (by simp [Dev.takeRequest_titleBusy, Dev.takeRequest_title, hbusy, hlife, hguard, hst, Dev.openTitle])

end

/-- Settles O13: R429 refuses the request outside the service group; otherwise it lets the request through, and the cases of
R364 are the command's own tests, in their order. -/
theorem titleOpenRefusedOrDone : Obligations.TitleOpenRefusedOrDone := by
  intro s c q rest t hs hc hy hf ho hlen hsec hclove
  refine ⟨exec_titleOpen_wrongMode hc hs hy hf ho hlen hsec hclove, fun hmode hres hbusy => ?_⟩
  have hask := asks_titleOpen hc hs hy hf ho hlen hsec hclove hmode hres
  exact ⟨exec_titleOpen_anise hask hbusy, fun hmace hdbg => exec_titleOpen_debugBars hask hbusy ⟨hmace, hdbg⟩,
    exec_titleOpen_notInstalled hask hbusy, exec_titleOpen_installed hask hbusy⟩

end Sys2Proof.Machine
end

section
/-!
SUPPORT. Requests that no command answers (R426), and the public key of the device (R448).
-/
namespace Sys2Proof.Machine

open Sys2Proof

/-! ### Opcodes of no command (R426) -/

/-- No row of the command summary carries a notification code. -/
theorem cmdTable_low_byte : ∀ r ∈ cmdTableA ++ cmdTableB, r.1 % 256 < 0x80 := by decide

/-- A notification code is the opcode of no command. -/
theorem cmdSpec_notification {op : Nat} (h : 0x80 ≤ op % 256) : cmdSpec op = none := by
  refine List.find?_eq_none.2 fun r hr hop => ?_
  have hlow := cmdTable_low_byte r hr
  rw [eq_of_beq hop] at hlow
  omega

/-- A served request with the opcode of no command is refused, without effect. -/
theorem exec_undefinedOpcode {s : State} {c : Nat} {q : Req} {rest : List MbWord} {bad : Bool} (hc : c < 16)
    (hs : s.dev.serving c = true) (hy : (s.dev.chan c).resync = false) (hf : (s.dev.chan c).front c = some (q, rest, bad))
    (ho : cmdSpec q.opcode = none) :
    exec (.undefinedOpcode c) s = .next (s.answered q rest id (fail (if bad then 9 else 2))) := by
  have hch : q.channel = c := Chan.front_channel hf
  simp [exec, execUndefinedOpcode, runChan_eq hc, hs, hy, hf, ho, State.answered, hch]

/-- Settles O26: no row of the command summary has a notification code's low byte, and a request without a row is refused. -/
theorem undefinedOpcodesRefused : Obligations.UndefinedOpcodesRefused :=
  ⟨fun _ => cmdSpec_notification, fun _ _ _ _ _ => exec_undefinedOpcode⟩

/-! ### DEVICE_KEY_GET (R448) -/

/-- A field that lies in the 48 bits of a word. -/
theorem wbits_word (n : Nat) {lo width : Nat} (h : lo + width ≤ 48) :
    wbits (word n) lo width = n / 2 ^ lo % 2 ^ width := by
  obtain ⟨k, hk⟩ := Nat.exists_eq_add_of_le h
  rw [wbits, bits, word, BitVec.toNat_ofNat, Nat.shiftRight_eq_div_pow, hk, Nat.add_assoc, Nat.pow_add,
    Nat.mod_mul_right_div_self, Nat.pow_add, Nat.mod_mul_right_mod]

/-- The words of a 48-byte value hold its bytes in order, the most significant first. -/
theorem keyWords_byte (x : BitVec 384) {k j : Nat} (hk : k < 8) (hj : j < 6) :
    wbits ((keyWords x).getD k 0) (40 - 8 * j) 8 = x.toNat / 256 ^ (47 - (6 * k + j)) % 256 := by
  have hword : (keyWords x).getD k 0 = word (x.toNat / 2 ^ (48 * (7 - k))) := by simp [keyWords, hk]
  have hplace : 48 * (7 - k) + (40 - 8 * j) = 8 * (47 - (6 * k + j)) := by omega
  rw [hword, wbits_word _ (by omega), Nat.div_div_eq_div_mul, ← Nat.pow_add, hplace, Nat.pow_mul,
    show 2 ^ 8 = 256 from rfl]

section
variable {s : State} {c : Nat} {q : Req} {rest : List MbWord} (hask : s.dev.Asks c 0x0507 q rest)
include hask

theorem exec_deviceKeyGet_anise (hlife : s.dev.fuses.lifecycle = .anise) :
    exec (.deviceKeyGet c) s = .next (s.answered q rest id (fail 0x0E)) :=
  runAnswer_answered rfl hask (by simp [hlife])

theorem exec_deviceKeyGet_answers (hlife : s.dev.fuses.lifecycle ≠ .anise) :
    exec (.deviceKeyGet c) s = .next (s.answered q rest id
      (done (keyWords (agreementPublic s.dev.root (decide (q.f 1 0 1 = 1)))))) := by
  have hselector : (q.f 1 0 1 == 1) = decide (q.f 1 0 1 = 1) := rfl
  exact runAnswer_answered rfl hask (by simp [hlife, Dev.root, hselector])

end

/-- Settles O15: outside ANISE the answer is the words of one coordinate, whose fields are its bytes. -/
theorem deviceKeyAnswered : Obligations.DeviceKeyAnswered := fun _ _ _ _ hask =>
  ⟨exec_deviceKeyGet_anise hask, fun hlife =>
    ⟨_, exec_deviceKeyGet_answers hask hlife, by simp [keyWords], fun _ _ => keyWords_byte _⟩⟩

end Sys2Proof.Machine
end

section
/-!
SUPPORT. The region table and the port classification: what the commands that write or revert the shadow copy answer
(R400, R431, R441, R442).
-/
namespace Sys2Proof.Machine

open Sys2Proof

/-! ### The groups after a revert -/

@[simp] theorem settle_shadow (d : Dev) : (settle d).shadow = d.shadow := rfl

@[simp] theorem settle_active (d : Dev) : (settle d).active = d.active := rfl

/-- An answered command leaves the shadow groups of its effect. -/
theorem State.answered_shadow (s : State) (q : Req) (rest : List MbWord) (f : Dev → Dev) (r : Reply) :
    (s.answered q rest f r).dev.shadow = (f (s.dev.takeRequest q.channel rest)).shadow := by
  simp [State.answered]

/-- An answered command leaves the active groups of its effect. -/
theorem State.answered_active (s : State) (q : Req) (rest : List MbWord) (f : Dev → Dev) (r : Reply) :
    (s.answered q rest f r).dev.active = (f (s.dev.takeRequest q.channel rest)).active := by
  simp [State.answered]

/-- A kept entry keeps its base; another takes the active one. -/
theorem Groups.revert_regionBase (shadow active : Groups) (kept : Nat → Bool) {n : Nat} (hn : n < 64) :
    (shadow.revert active kept).regionBase.getD n 0
      = if kept n then shadow.regionBase.getD n 0 else active.regionBase.getD n 0 := by
  simp [Groups.revert, hn]

/-- A kept entry keeps its attributes; another takes the active ones. -/
theorem Groups.revert_regionAttr (shadow active : Groups) (kept : Nat → Bool) {n : Nat} (hn : n < 64) :
    (shadow.revert active kept).regionAttr.getD n 0
      = if kept n then shadow.regionAttr.getD n 0 else active.regionAttr.getD n 0 := by
  simp [Groups.revert, hn]

/-- The entries that a revert on the channel of a request leaves as they are (R400, R442). -/
def Dev.revertKeeps (d : Dev) (q : Req) (n : Nat) : Bool := !q.secure && d.regionLocked n

/-- The package with its shadow, and the cartridge streams staged with it, reverted but for the kept entries. -/
def Dev.revertShadow (d : Dev) (kept : Nat → Bool) : Dev :=
  { d with
    cart := { d.cart with streamShadow := d.cart.streamShadow.filter fun m => kept m.region }
    shadow := d.shadow.revert d.active kept }

/-- A revert that is answered takes the shadow back from the active groups before the request was taken. -/
theorem State.answered_revertShadow (s : State) (q : Req) (rest : List MbWord) (kept : Nat → Bool) (r : Reply) :
    (s.answered q rest (·.revertShadow kept) r).dev.shadow = s.dev.shadow.revert s.dev.active kept := by
  simp [State.answered_shadow, Dev.revertShadow]

/-- An IMAGE_ACTIVATE holds the shadow sets exactly while it stores its copies (R431). -/
theorem Dev.shadowHeld_iff {d : Dev} : d.shadowHeld = true ↔ d.images.storing ≠ none := by
  simp [Dev.shadowHeld, Option.isSome_iff_ne_none]

theorem Dev.shadowHeld_eq_false {d : Dev} (h : d.images.storing = none) : d.shadowHeld = false := by
  simp [Dev.shadowHeld, h]

section
variable {s : State} {c : Nat} {q : Req} {rest : List MbWord} {d : Dev} (hd : s.dev.takeRequest c rest = d)
include hd

/-! ### REGION_SET (R441) -/

section
variable (hask : s.dev.Asks c 0x0301 q rest)
include hask

theorem exec_regionSet_reserved (hfield : q.f 3 11 2 = 3) :
    exec (.regionSet c) s = .next (s.answered q rest id (badField 3 11)) :=
  runCmd_answered hd hask rfl (if_pos hfield)

variable (hfield : q.f 3 11 2 ≠ 3)
include hfield

theorem exec_regionSet_swapPending (hswap : d.swapPending = true) :
    exec (.regionSet c) s = .next (s.answered q rest id (fail 0x0F)) :=
  runCmd_answered hd hask rfl (by simp [hfield, hswap])

theorem exec_regionSet_busy (hswap : d.swapPending = false) (hheld : d.images.storing ≠ none) :
    exec (.regionSet c) s = .next (s.answered q rest id (fail 1)) :=
  runCmd_answered hd hask rfl (by simp [hfield, hswap, Dev.shadowHeld_iff.2 hheld])

variable (hswap : d.swapPending = false) (hheld : d.images.storing = none)
include hswap hheld

theorem exec_regionSet_denied (hkind : q.secure = false)
    (hbar : masked (q.w 3) secureAttr ≠ 0 ∨ d.regionLocked (q.f 1 0 6) = true) :
    exec (.regionSet c) s = .next (s.answered q rest id (fail 5)) := by
  have hguard : (!q.secure && (masked (q.w 3) secureAttr != 0 || d.regionLocked (q.f 1 0 6))) = true := by
    simpa [hkind] using hbar
  exact runCmd_answered hd hask rfl (by simp only [hfield, hswap, Dev.shadowHeld_eq_false hheld, hguard]; rfl)

theorem exec_regionSet_writes
    (hopen : q.secure = true ∨ masked (q.w 3) secureAttr = 0 ∧ d.regionLocked (q.f 1 0 6) = false) :
    exec (.regionSet c) s = .next (s.answered q rest (fun d => { d with shadow := { d.shadow with
      regionBase := upd d.shadow.regionBase (q.f 1 0 6) fun _ => q.w 2
      regionAttr := upd d.shadow.regionAttr (q.f 1 0 6) fun _ => q.w 3 } }) (done [])) := by
  have hguard : (!q.secure && (masked (q.w 3) secureAttr != 0 || d.regionLocked (q.f 1 0 6))) = false := by
    rcases hopen with hsec | ⟨hbit, hlock⟩
    · simp [hsec]
    · simp [hbit, hlock]
  exact runCmd_answered hd hask rfl (by simp only [hfield, hswap, Dev.shadowHeld_eq_false hheld, hguard]; rfl)

end

/-! ### PORT_CLASS_SET (R442) -/

section
variable (hask : s.dev.Asks c 0x0303 q rest)
include hask

theorem exec_portClassSet_noPort (hport : d.sliceCount ≤ q.f 1 0 3) :
    exec (.portClassSet c) s = .next (s.answered q rest id (badField 1 0)) :=
  runCmd_answered hd hask rfl (by simp [Dev.hasSlice, hport])

variable (hport : q.f 1 0 3 < d.sliceCount)
include hport

theorem exec_portClassSet_reserved (hfield : q.f 2 3 2 = 3) :
    exec (.portClassSet c) s = .next (s.answered q rest id (badField 2 3)) :=
  runCmd_answered hd hask rfl (by simp [Dev.hasSlice, hport, hfield])

variable (hfield : q.f 2 3 2 ≠ 3)
include hfield

theorem exec_portClassSet_swapPending (hswap : d.swapPending = true) :
    exec (.portClassSet c) s = .next (s.answered q rest id (fail 0x0F)) :=
  runCmd_answered hd hask rfl (by simp [Dev.hasSlice, hport, hfield, hswap])

theorem exec_portClassSet_busy (hswap : d.swapPending = false) (hheld : d.images.storing ≠ none) :
    exec (.portClassSet c) s = .next (s.answered q rest id (fail 1)) :=
  runCmd_answered hd hask rfl (by simp [Dev.hasSlice, hport, hfield, hswap, Dev.shadowHeld_iff.2 hheld])

theorem exec_portClassSet_writes (hswap : d.swapPending = false) (hheld : d.images.storing = none) :
    exec (.portClassSet c) s = .next (s.answered q rest (fun d => { d with shadow := { d.shadow with
      portClass := upd d.shadow.portClass (q.f 1 0 3) fun _ => q.w 2 } }) (done [])) :=
  runCmd_answered hd hask rfl
    (by simp [Dev.hasSlice, hport, hfield, hswap, Dev.shadowHeld_eq_false hheld, Dev.onShadow])

end

/-! ### SHADOW_REVERT (R442) -/

section
variable (hask : s.dev.Asks c 0x0304 q rest)
include hask

theorem exec_shadowRevert_swapPending (hswap : d.swapPending = true) :
    exec (.shadowRevert c) s = .next (s.answered q rest id (fail 0x0F)) :=
  runCmd_answered hd hask rfl (if_pos hswap)

variable (hswap : d.swapPending = false)
include hswap

theorem exec_shadowRevert_busy (hheld : d.images.storing ≠ none) :
    exec (.shadowRevert c) s = .next (s.answered q rest id (fail 1)) :=
  runCmd_answered hd hask rfl (by simp [hswap, Dev.shadowHeld_iff.2 hheld])

theorem exec_shadowRevert_reverts (hheld : d.images.storing = none) :
    exec (.shadowRevert c) s = .next (s.answered q rest (·.revertShadow (d.revertKeeps q))
      (done [word ((List.range 64).filter (d.revertKeeps q)).length])) :=
  runCmd_answered hd hask rfl (by simp only [hswap, Dev.shadowHeld_eq_false hheld]; rfl)

end

end

/-- REGION_GET reads one entry of the copy it names (R441). -/
theorem exec_regionGet {s : State} {c : Nat} {q : Req} {rest : List MbWord} (hask : s.dev.Asks c 0x0302 q rest) :
    let g := if q.f 1 6 1 = 1 then (s.dev.takeRequest c rest).shadow else (s.dev.takeRequest c rest).active
    exec (.regionGet c) s
      = .next (s.answered q rest id (done [g.regionBase.getD (q.f 1 0 6) 0, g.regionAttr.getD (q.f 1 0 6) 0])) :=
  runAnswer_answered rfl hask rfl

/-- Settles O11: each case of the four commands is a test of its own, and a reverted entry is read off the reverted
groups. -/
theorem regionsSet : Obligations.RegionsSet := by
  intro s c q rest d
  refine ⟨fun hask => ?_, exec_regionGet, fun hask => ?_, exec_shadowRevert_busy rfl, fun hask hswap hheld => ?_,
    exec_shadowRevert_swapPending rfl⟩
  · exact ⟨exec_regionSet_reserved rfl hask, exec_regionSet_swapPending rfl hask, exec_regionSet_busy rfl hask,
      exec_regionSet_denied rfl hask, exec_regionSet_writes rfl hask⟩
  · exact ⟨exec_portClassSet_noPort rfl hask, exec_portClassSet_swapPending rfl hask,
      exec_portClassSet_reserved rfl hask, exec_portClassSet_busy rfl hask, exec_portClassSet_writes rfl hask⟩
  · have hshadow := s.answered_revertShadow q rest (d.revertKeeps q)
      (done [word ((List.range 64).filter (d.revertKeeps q)).length])
    refine ⟨_, exec_shadowRevert_reverts rfl hask hswap hheld, rfl, fun n hn => ?_, fun n hn => ?_, ?_, ?_⟩
    · rw [hshadow]
      exact Groups.revert_regionBase _ _ _ hn
    · rw [hshadow]
      exact Groups.revert_regionAttr _ _ _ hn
    · rw [hshadow]
      rfl
    · simp [State.answered_active, Dev.revertShadow]

end Sys2Proof.Machine
end

section
/-!
SUPPORT. Schedule images: what becomes of a part of an image, and when an activation or a swap is accepted (R176, R177,
R179, R436, R439).
-/
namespace Sys2Proof.Machine

open Sys2Proof

/-! ### A part of an image (R436) -/

/-- The parts whose offset and length IMAGE_LOAD takes: pages of 4 KiB, but for the end of the last part. -/
structure Req.PartAligned (q : Req) : Prop where
  offset : q.f 1 0 32 % 4096 = 0
  nonempty : q.f 2 0 32 ≠ 0
  length : q.f 1 32 1 = 1 ∨ q.f 2 0 32 % 4096 = 0

/-- The bytes that the channel of a request has staged. -/
abbrev Dev.stagedBy (d : Dev) (q : Req) : Option (List Byte) :=
  d.images.staging.bind fun e => if e.1 = q.channel then some e.2 else none

/-- An aligned part that begins a load or follows what its channel has staged, where no other channel holds the staging. -/
structure Dev.PartExpected (d : Dev) (q : Req) : Prop where
  aligned : q.PartAligned
  next : q.f 1 0 32 = 0 ∨ (d.stagedBy q).map List.length = some (q.f 1 0 32)
  own : ∀ e, d.images.staging = some e → e.1 = q.channel

/-- The bytes that the part of a request is put behind. -/
def Dev.PartFollows (d : Dev) (q : Req) (old : List Byte) : Prop :=
  q.f 1 0 32 = 0 ∧ old = [] ∨ d.images.staging = some (q.channel, old) ∧ old.length = q.f 1 0 32

theorem Dev.stagedBy_length (d : Dev) (q : Req) :
    (d.stagedBy q).map List.length
      = d.images.staging.bind fun e => if e.1 = q.channel then some e.2.length else none := by
  cases hst : d.images.staging with
  | none => simp [Dev.stagedBy, hst]
  | some e => by_cases he : e.1 = q.channel <;> simp [Dev.stagedBy, hst, he]

section
variable {d : Dev} {q : Req} {host old b : List Byte}

theorem Req.PartAligned.length_ok (h : q.PartAligned) :
    ¬(q.f 2 0 32 = 0 ∨ ¬q.f 1 32 1 = 1 ∧ q.f 2 0 32 % 4096 ≠ 0) := by
  have hnonempty := h.nonempty
  have hlength := h.length
  omega

theorem Dev.PartFollows.next (h : d.PartFollows q old) :
    q.f 1 0 32 = 0 ∨ (d.stagedBy q).map List.length = some (q.f 1 0 32) := by
  rcases h with ⟨hoff, -⟩ | ⟨hst, hlen⟩
  · exact .inl hoff
  · exact .inr (by simp [Dev.stagedBy, hst, hlen])

theorem Dev.PartFollows.staged (h : d.PartFollows q old) :
    (if q.f 1 0 32 = 0 then [] else (d.stagedBy q).getD []) = old := by
  rcases h with ⟨hoff, rfl⟩ | ⟨hst, hlen⟩
  · simp [hoff]
  · by_cases hoff : q.f 1 0 32 = 0
    · simp [hoff, List.length_eq_zero_iff.1 (hlen.trans hoff)]
    · simp [Dev.stagedBy, hst, hoff]

theorem Dev.PartExpected.next_ok (h : d.PartExpected q) :
    ¬(q.f 1 0 32 ≠ 0 ∧ (d.stagedBy q).map List.length ≠ some (q.f 1 0 32)) :=
  fun ⟨hoff, hlen⟩ => h.next.elim hoff hlen

theorem Dev.PartExpected.own_ok (h : d.PartExpected q) : ¬(d.images.staging.any fun e => e.1 != q.channel) = true := by
  cases hst : d.images.staging with
  | none => simp
  | some e => simp [h.own e hst]

theorem Dev.imagePart_badOffset (h : q.f 1 0 32 % 4096 ≠ 0) : d.imagePart q host = (d, badField 1 0) := if_pos h

theorem Dev.imagePart_badLength (hoff : q.f 1 0 32 % 4096 = 0)
    (h : q.f 2 0 32 = 0 ∨ q.f 1 32 1 = 0 ∧ q.f 2 0 32 % 4096 ≠ 0) : d.imagePart q host = (d, badField 2 0) := by
  rw [Dev.imagePart, if_neg (Classical.not_not.2 hoff), if_pos (by omega)]

theorem Dev.imagePart_unexpected (ha : q.PartAligned) (hoff : q.f 1 0 32 ≠ 0)
    (h : (d.stagedBy q).map List.length ≠ some (q.f 1 0 32)) : d.imagePart q host = (d, badField 1 0) := by
  rw [Dev.imagePart, if_neg (Classical.not_not.2 ha.offset), if_neg ha.length_ok, if_pos ⟨hoff, h⟩]

theorem Dev.imagePart_otherChannel (ha : q.PartAligned)
    (hnext : q.f 1 0 32 = 0 ∨ (d.stagedBy q).map List.length = some (q.f 1 0 32)) {e : Nat × List Byte}
    (hst : d.images.staging = some e) (he : e.1 ≠ q.channel) : d.imagePart q host = (d, fail 1) := by
  rw [Dev.imagePart, if_neg (Classical.not_not.2 ha.offset), if_neg ha.length_ok, if_neg (fun h => hnext.elim h.1 h.2),
    if_pos (by simp [hst, he])]

section
variable (h : d.PartExpected q)
include h

/-- A part beyond 2 MiB ends the load (R176). -/
theorem Dev.imagePart_tooLong (hlen : 2 ^ 21 < q.f 1 0 32 + q.f 2 0 32) :
    d.imagePart q host = d.imageRejected (imageFail 0x0104 0xFF) := by
  rw [Dev.imagePart, if_neg (Classical.not_not.2 h.aligned.offset), if_neg h.aligned.length_ok, if_neg h.next_ok,
    if_neg h.own_ok, if_pos hlen]

theorem Dev.imagePart_poisoned (hlen : q.f 1 0 32 + q.f 2 0 32 ≤ 2 ^ 21)
    (hb : d.bufferBytes q host (q.f 2 0 32) = none) : d.imagePart q host = (d, fail 9) := by
  rw [Dev.imagePart, if_neg (Classical.not_not.2 h.aligned.offset), if_neg h.aligned.length_ok, if_neg h.next_ok,
    if_neg h.own_ok, if_neg (Nat.not_lt.2 hlen), hb]

/-- A part is put behind what is staged; the last one ends the load. -/
theorem Dev.imagePart_taken (hlen : q.f 1 0 32 + q.f 2 0 32 ≤ 2 ^ 21) (hold : d.PartFollows q old)
    (hb : d.bufferBytes q host (q.f 2 0 32) = some b) :
    d.imagePart q host = if q.f 1 32 1 = 1 then d.finishLoad (old ++ b)
      else (d.onImages fun m => { m with staging := some (q.channel, old ++ b) }, done []) := by
  rw [Dev.imagePart, if_neg (Classical.not_not.2 h.aligned.offset), if_neg h.aligned.length_ok, if_neg h.next_ok,
    if_neg h.own_ok, if_neg (Nat.not_lt.2 hlen), hb, hold.staged]

end

end

theorem Dev.finishLoad_valid {d : Dev} {b : List Byte} (h : d.validate b = none) :
    d.finishLoad b = (d.onImages fun m => { m with candidate := some b, staging := none }, done []) := by
  rw [Dev.finishLoad, h]

theorem Dev.finishLoad_failed {d : Dev} {b : List Byte} {f : VFail} (h : d.validate b = some f) :
    d.finishLoad b = d.imageRejected f := by
  rw [Dev.finishLoad, h]

/-! ### IMAGE_LOAD (R176, R436) -/

section
variable {s : State} {c : Nat} {q : Req} {rest : List MbWord} {d : Dev} (hd : s.dev.takeRequest c rest = d)
  (hask : s.dev.Asks c 0x0201 q rest) {host : List Byte}
include hd hask

theorem exec_imageLoad_bufferTooSmall (hbuf : d.bufferSize q.channel < q.f 2 0 32) :
    exec (.imageLoad c host) s = .next (s.answered q rest id (fail 3)) :=
  runCmd_early hd hask (if_pos hbuf) (.inl rfl)

/-- A part that fits the buffer has the effect of `Dev.imagePart`. -/
theorem exec_imageLoad_part (hbuf : q.f 2 0 32 ≤ d.bufferSize q.channel) {f : Dev → Dev} {r : Reply}
    (hpart : d.imagePart q host = (f d, r)) : exec (.imageLoad c host) s = .next (s.answered q rest f r) :=
  runCmd_answered hd hask (if_neg (Nat.not_lt.2 hbuf)) hpart

/-- A part that IMAGE_LOAD takes is staged, or ends the load with a candidate or the validator's failure. -/
theorem exec_imageLoad_taken (hbuf : q.f 2 0 32 ≤ d.bufferSize q.channel) (h : d.PartExpected q) {old b : List Byte}
    (hold : d.PartFollows q old) (hlen : q.f 1 0 32 + q.f 2 0 32 ≤ 2 ^ 21)
    (hb : d.bufferBytes q host (q.f 2 0 32) = some b) :
    (q.f 1 32 1 = 0 → exec (.imageLoad c host) s = .next (s.answered q rest
      (fun d => { d with images := { d.images with staging := some (q.channel, old ++ b) } }) (done [])))
    ∧ (q.f 1 32 1 = 1 → d.validate (old ++ b) = none → exec (.imageLoad c host) s = .next (s.answered q rest
        (fun d => { d with images := { d.images with candidate := some (old ++ b), staging := none } }) (done [])))
    ∧ (∀ f, q.f 1 32 1 = 1 → d.validate (old ++ b) = some f → exec (.imageLoad c host) s = .next (s.answered q rest
        (fun d => { d with images := { d.images with candidate := none, staging := none, report := f.words } })
        (.now 0x0A 0 [word f.words.1, word f.words.2]))) := by
  have htaken := Dev.imagePart_taken (host := host) h hlen hold hb
  refine ⟨fun hmore => ?_, fun hlast hvalid => ?_, fun f hlast hfail => ?_⟩
  · exact exec_imageLoad_part hd hask hbuf (htaken.trans (if_neg (by omega)))
  · exact exec_imageLoad_part hd hask hbuf (htaken.trans ((if_pos hlast).trans (Dev.finishLoad_valid hvalid)))
  · exact exec_imageLoad_part hd hask hbuf (htaken.trans ((if_pos hlast).trans (Dev.finishLoad_failed hfail)))

end

/-! ### IMAGE_ACTIVATE (R177) and SCHED_SWAP (R439) -/

section
variable {s : State} {c : Nat} {q : Req} {rest : List MbWord} {d : Dev} (hd : s.dev.takeRequest c rest = d)
include hd

section
variable (hask : s.dev.Asks c 0x0202 q rest)
include hask

theorem exec_imageActivate_swapPending (hswap : d.swapPending = true) :
    exec (.imageActivate c) s = .next (s.answered q rest id (fail 0x0F)) :=
  runCmd_answered hd hask rfl (if_pos hswap)

variable (hswap : d.swapPending = false)
include hswap

theorem exec_imageActivate_busy (hbusy : d.swap.changeDue = true ∨ d.images.storing ≠ none) :
    exec (.imageActivate c) s = .next (s.answered q rest id (fail 1)) := by
  have hguard : (d.swap.changeDue || d.images.storing.isSome) = true := by
    simpa [Option.isSome_iff_ne_none] using hbusy
  exact runCmd_answered hd hask rfl (by simp only [hswap, hguard]; rfl)

variable (hdue : d.swap.changeDue = false) (hheld : d.images.storing = none)
include hdue hheld

theorem exec_imageActivate_noCandidate (hcand : d.images.candidate = none) :
    exec (.imageActivate c) s = .next (s.answered q rest id (fail 7)) :=
  runCmd_answered hd hask rfl (by simp [hswap, hdue, hheld, hcand])

theorem exec_imageActivate_stores {b : List Byte} (hcand : d.images.candidate = some b)
    (hcover : ∀ i, i < d.sliceCount → d.coveredBy b i = true) :
    exec (.imageActivate c) s = .next (s.answered q rest (fun d => (d.storeImage b).await q .swap) .later) := by
  have hall : (List.range d.sliceCount).all (d.coveredBy b) = true := by simpa using hcover
  exact runCmd_answered hd hask rfl (by simp [hswap, hdue, hheld, hcand, hall])

theorem exec_imageActivate_uncovered {b : List Byte} {i : Nat} (hcand : d.images.candidate = some b)
    (hi : i < d.sliceCount) (hcover : d.coveredBy b i = false) :
    exec (.imageActivate c) s = .next (s.answered q rest
      (fun d => { d with images := { d.images with report := (imageFail 0x0701 0xFF).words } })
      (imageFail 0x0701 0xFF).reply) := by
  have hall : (List.range d.sliceCount).all (d.coveredBy b) = false := by simpa using ⟨i, hi, hcover⟩
  exact runCmd_answered hd hask rfl (by simp [hswap, hdue, hheld, hcand, hall, Dev.onImages])

end

section
variable (hask : s.dev.Asks c 0x0205 q rest)
include hask

theorem exec_schedSwap_swapPending (hswap : d.swapPending = true) :
    exec (.schedSwap c) s = .next (s.answered q rest id (fail 0x0F)) :=
  runCmd_answered hd hask rfl (if_pos hswap)

/-- An accepted swap waits for the boundary of R179, and the answer names its round. -/
theorem exec_schedSwap_accepts (hswap : d.swapPending = false) {w : Nat}
    (hw : w = if d.clock.roundClosed = true ∨ d.clock.tick ≤ 991 then 1 else 2) :
    exec (.schedSwap c) s
      = .next (s.answered q rest (fun d => { d with swap := { d.swap with pending := some .all, wait := w } })
          (done [word ((d.clock.round.toNat + w) % 2 ^ 32)])) := by
  have hwait : d.swapWait = w := by simp [Dev.swapWait, hw]
  exact runCmd_answered hd hask rfl (by simp [hswap, Dev.acceptSwap, Dev.swapRound, hwait])

end

end

/-- Settles O10: the parts of an image by the tests of `Dev.imagePart`, the last one by the validator; an activation and a
swap by their own tests. -/
theorem imagesLoadedAndSwapped : Obligations.ImagesLoadedAndSwapped := by
  intro s c q rest d
  refine ⟨fun buffer old b hask hbuf hoff hn hlength hown hold hend hb => ?_,
    fun buffer hask hbuf => ?_, fun buffer hask => exec_imageLoad_bufferTooSmall rfl hask,
    fun hask hswap hdue hheld => ?_, exec_imageActivate_busy rfl, fun hask hswap => ?_,
    exec_imageActivate_swapPending rfl, exec_schedSwap_swapPending rfl⟩
  · exact exec_imageLoad_taken rfl hask hbuf ⟨⟨hoff, hn, hlength⟩, Dev.PartFollows.next hold, hown⟩ hold hend hb
  · have hpart {f : Dev → Dev} {r : Reply} (h : d.imagePart q buffer = (f d, r)) :=
      exec_imageLoad_part rfl hask hbuf h
    have hmine := d.stagedBy_length q
    refine ⟨fun hoff => hpart (Dev.imagePart_badOffset hoff), fun hoff hn => hpart (Dev.imagePart_badLength hoff hn),
      fun hoff hn hlength => ?_⟩
    have ha : q.PartAligned := ⟨hoff, hn, hlength⟩
    refine ⟨fun hfirst hnext => hpart (Dev.imagePart_unexpected ha hfirst (hmine ▸ hnext)), fun hnext => ?_⟩
    rw [← hmine] at hnext
    exact ⟨fun e hst he => hpart (Dev.imagePart_otherChannel ha hnext hst he), fun hown =>
      ⟨fun hend => hpart (Dev.imagePart_tooLong ⟨ha, hnext, hown⟩ hend),
        fun hend hb => hpart (Dev.imagePart_poisoned ⟨ha, hnext, hown⟩ hend hb)⟩⟩
  · exact ⟨exec_imageActivate_noCandidate rfl hask hswap hdue hheld,
      fun _ => exec_imageActivate_stores rfl hask hswap hdue hheld,
      fun _ _ => exec_imageActivate_uncovered rfl hask hswap hdue hheld⟩
  · exact exec_schedSwap_accepts rfl hask hswap rfl

end Sys2Proof.Machine
end

section
/-!
SUPPORT. What every command is: an effect on the package behind the test for the unit that it names. The effect keeps the
shape of the package and the canonical form of its memories; one lemma per frame says so of the commands that run in it.
-/
namespace Sys2Proof.Machine

open Sys2Proof

/-! ### Effects that keep the package whole -/

/-- An effect on the package keeps its shape and the canonical form of its memories. -/
structure Keeps (f : Dev → Dev) : Prop where
  shape : ∀ d, (f d).shape = d.shape
  stored : ∀ d, d.Stored → (f d).Stored

theorem keeps_self : Keeps fun d => d := ⟨fun _ => rfl, fun _ hd => hd⟩

theorem keeps_emit (o : Dev → Output) : Keeps fun d => d.emit (o d) :=
  ⟨fun _ => Dev.emit_shape _ _, fun _ => Dev.emit_stored _ _⟩

theorem keeps_onSlice (i : Nat) (f : Dev → Slice → Slice) : Keeps fun d => d.onSlice i (f d) :=
  ⟨fun _ => Dev.onSlice_shape _ _ _, fun _ => Dev.onSlice_stored _ _ _⟩

theorem keeps_onPort (p : Nat) (f : Dev → Port → Port) : Keeps fun d => d.onPort p (f d) :=
  ⟨fun _ => Dev.onPort_shape _ _ _, fun _ => Dev.onPort_stored _ _ _⟩

theorem keeps_onCart (f : Dev → Cart → Cart) : Keeps fun d => d.onCart (f d) :=
  ⟨fun _ => Dev.onCart_shape _ _, fun _ => Dev.onCart_stored _ _⟩

theorem keeps_onBoot (f : Dev → BootPort → BootPort) : Keeps fun d => d.onBoot (f d) :=
  ⟨fun _ => Dev.onBoot_shape _ _, fun _ => Dev.onBoot_stored _ _⟩

theorem Keeps.ite {c : Dev → Prop} [DecidablePred c] {f g : Dev → Dev} (hf : Keeps f) (hg : Keeps g) :
    Keeps fun d => if c d then f d else g d := by
  refine ⟨fun d => ?_, fun d hd => ?_⟩
  · rw [ite_shape, hf.shape, hg.shape, ite_self]
  · rw [ite_stored]
    split
    · exact hf.stored d hd
    · exact hg.stored d hd

theorem Keeps.comp {f g : Dev → Dev} (hg : Keeps g) (hf : Keeps f) : Keeps fun d => g (f d) :=
  ⟨fun d => (hg.shape _).trans (hf.shape d), fun d hd => hg.stored _ (hf.stored d hd)⟩

theorem Keeps.foldl {α : Type} {f : Dev → α → Dev} (hf : ∀ a, Keeps fun d => f d a) (l : List α) :
    Keeps fun d => l.foldl f d :=
  ⟨fun d => foldl_shape f (fun d a => (hf a).shape d) l d, fun d hd => foldl_stored f (fun d a => (hf a).stored d) l d hd⟩

/-! ### Commands -/

/-- What a command answers: the fault `m` of a unit that is not there, else the state of an effect as in `K`. -/
def Answers (K : (Dev → Dev) → Prop) (m : Option Fault) (s : State) (o : Host.Outcome State Fault Refusal) : Prop :=
  ∃ f, K f ∧ o = m.elim (run s f) .fault

/-- A command completes with an effect that keeps the package whole, but for the fault `m`. -/
abbrev Completes : Option Fault → State → Host.Outcome State Fault Refusal → Prop := Answers Keeps

section
variable {s : State} {f : Dev → Dev}

theorem run_completes (hf : Keeps f) : Completes none s (run s f) := ⟨f, hf, rfl⟩

/-- A guard adds its fault ahead of the others. -/
theorem Answers.guardIf {K : (Dev → Dev) → Prop} {m : Option Fault} {o : Host.Outcome State Fault Refusal}
    (h : Answers K m s o) (e : Fault) (i n : Nat) :
    Answers K ((lacks e i n).orElse fun _ => m) s (guardIf (decide (i < n)) e o) := by
  obtain ⟨f, hf, rfl⟩ := h
  refine ⟨f, hf, ?_⟩
  by_cases hi : i < n
  · simp [lacks, hi]
  · simp [lacks, Machine.guardIf, hi]

theorem Answers.guardIf_none {K : (Dev → Dev) → Prop} {o : Host.Outcome State Fault Refusal} (h : Answers K none s o)
    (e : Fault) (i n : Nat) : Answers K (lacks e i n) s (Machine.guardIf (decide (i < n)) e o) := by
  simpa using h.guardIf e i n

variable (hf : Keeps f)
include hf

theorem runPort_completes (p : Nat) : Completes (lacks .noSuchPort p s.dev.sliceCount) s (runPort p s f) :=
  (run_completes hf).guardIf_none _ _ _

theorem runSlice_completes (i : Nat) : Completes (lacks .noSuchSlice i s.dev.sliceCount) s (runSlice i s f) :=
  (run_completes hf).guardIf_none _ _ _

theorem runChan_completes (c : Nat) : Completes (lacks .noSuchChannel c 16) s (runChan c s f) :=
  (run_completes hf).guardIf_none _ _ _

theorem runRing_completes (r : Nat) : Completes none s (runRing r s f) := run_completes (hf.ite keeps_self)

theorem runReg_completes (a : Agent) (p : Nat) : Completes (lacksPort a p s.dev.sliceCount) s (runReg a p s f) := by
  have h := run_completes (s := s) (hf.ite (c := fun d => d.reached a p = true) keeps_self)
  cases a with
  | host => exact h.guardIf_none .noSuchPort p s.dev.sliceCount
  | secure => exact h
  | firmware => exact h

theorem runXspi_completes (m : Option XspiMode) : Completes none s (runXspi m s f) :=
  run_completes (hf.ite (keeps_emit _))

theorem runTarget_completes (k : Nat) : Completes none s (runTarget k s f) := run_completes (hf.ite (keeps_emit _))

theorem runControl_completes : Completes none s (runControl s f) := runTarget_completes ((keeps_emit _).ite hf) 0

theorem runChannelTarget_completes (c : Nat) : Completes (lacks .noSuchChannel c 16) s (runChannelTarget c s f) :=
  (run_completes (hf.ite (c := fun d => (decide (8 ≤ c) && d.targetUp (c - 7)) = true) (keeps_emit _))).guardIf_none _ _ _

theorem runJtag_completes (code : Nat) : Completes none s (runJtag code s f) :=
  run_completes (keeps_self.ite (hf.comp ⟨fun _ => Dev.onDebug_shape _ _, fun _ => Dev.onDebug_stored _ _⟩))

end

section
variable {s : State} {p c op : Nat}

theorem runXspiRead_completes (m : XspiMode) (bytes : Dev → List Byte) : Completes none s (runXspiRead m s bytes) :=
  runXspi_completes ⟨fun d => by simp, fun d hd => by simp [hd]⟩ _

theorem runStd_completes {f : Dev → Dev × Nat × List Nat} (hf : Keeps fun d => (f d).1) :
    Completes (lacks .noSuchPort p s.dev.sliceCount) s (runStd p s f) :=
  runPort_completes (Keeps.ite
    ⟨fun d => (Dev.stdReply_shape _ _ _ _).trans (hf.shape d), fun d hd => Dev.stdReply_stored _ _ _ _ (hf.stored d hd)⟩
    keeps_self) p

theorem runStdAnswer_completes {f : Dev → Nat × List Nat} :
    Completes (lacks .noSuchPort p s.dev.sliceCount) s (runStdAnswer p s f) := runStd_completes keeps_self

theorem runCmd_completes {early : Dev → Req → Option Nat} {body : Dev → Req → Dev × Reply}
    (hf : ∀ q, Keeps fun d => (body d q).1) : Completes (lacks .noSuchChannel c 16) s (runCmd c op s early body) :=
  runChan_completes ⟨fun d => Dev.serve_shape d c op early body fun d q => (hf q).shape d,
    fun d hd => Dev.serve_stored d c op early body (fun d q => (hf q).stored d) hd⟩ c

theorem runAnswer_completes {body : Dev → Req → Reply} : Completes (lacks .noSuchChannel c 16) s (runAnswer c op s body) :=
  runCmd_completes fun _ => keeps_self

end

end Sys2Proof.Machine
end

section
/-!
SUPPORT. The commands, each in its frame: what it does to the package keeps it whole.
-/
namespace Sys2Proof.Machine

open Sys2Proof

/-! ### Parts of commands -/

/-- The commands `l` that waited are answered. -/
theorem keeps_answerWaiting (l : List Waiter) : Keeps fun d => l.foldl (fun d w =>
    { d with waiters := d.waiters.erase w }.respond w.channel w.opcode w.tag 0 0 []) d :=
  Keeps.foldl (fun w => ⟨fun d => Dev.respond_shape { d with waiters := d.waiters.erase w } _ _ _ _ _ _,
    fun d hd => Dev.respond_stored { d with waiters := d.waiters.erase w } _ _ _ _ _ _ hd⟩) l

/-- The end of a range operation. -/
theorem keeps_maintEnd : Keeps fun d =>
    let d := { d with regs := { d.regs with maintRun := none, maintDone := true } }
    (d.waiters.filter (·.what == .maint)).foldl (fun d w =>
      { d with waiters := d.waiters.erase w }.respond w.channel w.opcode w.tag 0 0 []) d :=
  ⟨fun _ => (keeps_answerWaiting _).shape _, fun _ hd => (keeps_answerWaiting _).stored _ hd⟩

/-- The tick after a boundary: clock, slices and transition. -/
theorem keeps_nextTick (env : TickEnv) : Keeps fun d =>
    let d := { d with clock := d.clock.advance }
    let swapDue := d.swap.pending.isSome && decide (d.swap.wait ≤ 1)
    ((List.range d.sliceCount).foldl (fun d i => d.sliceTick env swapDue i) d).transitionTick := by
  have hslices (l : List Nat) (due : Bool) : Keeps fun d => l.foldl (fun d i => d.sliceTick env due i) d :=
    Keeps.foldl (fun _ => ⟨fun _ => Dev.sliceTick_shape _ _ _ _, fun _ => Dev.sliceTick_stored _ _ _ _⟩) l
  exact ⟨fun d => (Dev.transitionTick_shape _).trans ((hslices _ _).shape { d with clock := d.clock.advance }),
    fun d hd => Dev.transitionTick_stored _ ((hslices _ _).stored { d with clock := d.clock.advance } hd)⟩

theorem runWrite_completes (agent : Agent) (port off : Nat) (v : Word) {s : State} :
    Completes (lacksPort agent port s.dev.sliceCount) s (runWrite agent port off v s) :=
  runReg_completes ⟨fun _ => Dev.writeAccess_shape _ _ _ _ _ _, fun _ => Dev.writeAccess_stored _ _ _ _ _ _⟩ _ _

theorem runRingWrite_completes (agent : Agent) (port ring off : Nat) (v : Word) {s : State} :
    Completes (lacksPort agent port s.dev.sliceCount) s (runRingWrite agent port ring off v s) :=
  runReg_completes (Keeps.ite ⟨fun _ => Dev.writeAccess_shape _ _ _ _ _ _, fun _ => Dev.writeAccess_stored _ _ _ _ _ _⟩
    keeps_self) _ _

/-! ### Commands of the line cache -/

theorem execCacheDrainDone_completes (slice : Nat) (s : State) :
    Completes (lacks .noSuchSlice slice s.dev.sliceCount) s (execCacheDrainDone slice s) := by
  refine runSlice_completes ⟨fun d => by simp, fun d hd => ?_⟩ _
  grind [Dev.answerCacheOff_stored, Dev.event_stored, Dev.onSlice_stored]

theorem execMaintDone_completes (s : State) : Completes none s (execMaintDone s) := by
  have hrange (m : MaintOp) : Keeps fun d => if d.maintLeft m then d.maintainRange m.op m.first m.count else d :=
    Keeps.ite ⟨fun _ => Dev.maintainRange_shape _ _ _ _, fun _ => Dev.maintainRange_stored _ _ _ _⟩ keeps_self
  have hrun (m : MaintOp) := (Keeps.ite (c := fun d => d.maintLeft m = true) keeps_self keeps_maintEnd).comp (hrange m)
  refine run_completes ⟨fun d => ?_, fun d hd => ?_⟩
  · dsimp only
    cases d.regs.maintRun with
    | none => rfl
    | some m => exact (hrun m).shape d
  · dsimp only
    cases d.regs.maintRun with
    | none => exact hd
    | some m => exact (hrun m).stored d hd

/-! ### Commands of schedules -/

theorem execShadowCopyDone_completes (s : State) : Completes none s (execShadowCopyDone s) := by
  refine run_completes ⟨fun d => ?_, fun d hd => ?_⟩
  · dsimp only
    cases d.swap.copying with
    | none => rfl
    | some k => simp [Dev.shape, Dev.onSlices]
  · dsimp only
    cases d.swap.copying with
    | none => exact hd
    | some k => exact hd

theorem execFirmwareVariantChange_completes (s : State) : Completes none s (execFirmwareVariantChange s) := by
  refine run_completes ⟨fun d => by simp, fun d hd => ?_⟩
  grind [Dev.acceptSwap_stored, Dev.loadShadows_stored, Dev.bringRung_stored]

/-! ### Commands of the journal -/

theorem execCheckpointCopyTaken_completes (slice : Nat) (s : State) :
    Completes (lacks .noSuchSlice slice s.dev.sliceCount) s (execCheckpointCopyTaken slice s) :=
  runSlice_completes (keeps_onSlice _ _) _

theorem execTailAdvance_completes (slice : Nat) (s : State) :
    Completes (lacks .noSuchSlice slice s.dev.sliceCount) s (execTailAdvance slice s) :=
  runSlice_completes (keeps_onSlice _ _) _

/-! ### Commands of host memory accesses -/

theorem execCxlMemWrite_completes (port hpa tag : Nat) (data : Sector) (poison : Bool) (env : AccessEnv) (s : State) :
    Completes (lacks .noSuchPort port s.dev.sliceCount) s (execCxlMemWrite port hpa tag data poison env s) := by
  refine runPort_completes ⟨fun d => ?_, fun d hd => ?_⟩ _
  · dsimp only
    (repeat' split) <;> simp
  · grind [Dev.completeWrite_stored, Dev.discardWrite_stored, Dev.tagRefuses_stored, Dev.putWrite_stored,
      Dev.countForward_stored, Dev.count_stored, Dev.onPort_stored]

theorem execCacheClearingDone_completes (slice : Nat) (s : State) :
    Completes (lacks .noSuchSlice slice s.dev.sliceCount) s (execCacheClearingDone slice s) := by
  refine runSlice_completes ⟨fun d => by simp, fun d hd => ?_⟩ _
  dsimp only
  split
  · exact hd
  · exact Dev.retryWrites_stored _ _ (foldl_stored _ (fun _ _ h => Dev.serveRead_stored _ _ _ _ _ _ h) _ _
      (Dev.onSlice_stored _ _ _ hd))

theorem execCxlMemRead_completes (port hpa tag : Nat) (env : AccessEnv) (s : State) :
    Completes (lacks .noSuchPort port s.dev.sliceCount) s (execCxlMemRead port hpa tag env s) := by
  refine runPort_completes ⟨fun d => ?_, fun d hd => ?_⟩ _
  · dsimp only
    (repeat' split) <;> simp
  · grind [Dev.answerRead_stored, Dev.positionPoison_stored, Dev.takeRead_stored, Dev.countForward_stored,
      Dev.count_stored, Dev.onPort_stored]

/-! ### Commands of trims, flushes and work rings -/

theorem execGlobalPersistentFlush_completes (port : Nat) (s : State) :
    Completes (lacks .noSuchPort port s.dev.sliceCount) s (execGlobalPersistentFlush port s) := by
  refine runPort_completes ⟨fun d => by simp, fun d hd => ?_⟩ _
  dsimp only
  split
  · exact foldl_stored _ (fun _ _ h => Dev.count_stored _ _ _ _ h) _ _ (Dev.startFlush_stored _ _ _ _ hd)
  · exact hd

theorem execTrim_completes (slice : Nat) (s : State) :
    Completes (lacks .noSuchSlice slice s.dev.sliceCount) s (execTrim slice s) :=
  runSlice_completes ⟨fun d => by (repeat' split) <;> simp,
    fun d hd => by (repeat' split) <;> simp [hd]⟩ _

theorem execFlushComplete_completes (flush : Nat) (s : State) : Completes none s (execFlushComplete flush s) := by
  refine run_completes ⟨fun d => ?_, fun d hd => ?_⟩
  · grind [foldl_shape, Dev.titleFlushed_shape, Dev.closedForDebug_shape, Dev.descPart_shape, Dev.emit_shape, Dev.shape_upd]
  · have h := foldl_stored Dev.titleFlushed (fun _ _ h => Dev.titleFlushed_stored _ _ h)
    grind [Dev.closedForDebug_stored, Dev.descPart_stored, Dev.emit_stored, Dev.stored_mk, Dev.stored_pstore,
      Dev.stored_window]

theorem execCopy_completes (ring : Nat) (descriptor : BitVec 512) (host : HostData) (s : State) :
    Completes none s (execCopy ring descriptor host s) :=
  runRing_completes ⟨fun d => by simp, fun d hd => by simp [hd]⟩ _

theorem execInstall_completes (ring : Nat) (descriptor : BitVec 512) (host : HostData) (s : State) :
    Completes none s (execInstall ring descriptor host s) :=
  runRing_completes ⟨fun d => by simp, fun d hd => by simp [hd]⟩ _

theorem execHint_completes (ring : Nat) (descriptor : BitVec 512) (host : HostData) (s : State) :
    Completes none s (execHint ring descriptor host s) :=
  runRing_completes ⟨fun d => by simp, fun d hd => by simp [hd]⟩ _

theorem execPersist_completes (ring : Nat) (descriptor : BitVec 512) (host : HostData) (s : State) :
    Completes none s (execPersist ring descriptor host s) :=
  runRing_completes ⟨fun d => by simp, fun d hd => by simp [hd]⟩ _

theorem execVerify_completes (ring : Nat) (descriptor : BitVec 512) (host : HostData) (s : State) :
    Completes none s (execVerify ring descriptor host s) :=
  runRing_completes ⟨fun d => by simp, fun d hd => by simp [hd]⟩ _

theorem execZero_completes (ring : Nat) (descriptor : BitVec 512) (host : HostData) (s : State) :
    Completes none s (execZero ring descriptor host s) :=
  runRing_completes ⟨fun d => by simp, fun d hd => by simp [hd]⟩ _

theorem execTrimDescriptor_completes (ring : Nat) (descriptor : BitVec 512) (host : HostData) (s : State) :
    Completes none s (execTrimDescriptor ring descriptor host s) :=
  runRing_completes ⟨fun d => by simp, fun d hd => by simp [hd]⟩ _

theorem execInstallUnitLoaded_completes (ring slot unit : Nat) (data : List Byte) (s : State) :
    Completes none s (execInstallUnitLoaded ring slot unit data s) := by
  refine runRing_completes ⟨fun d => ?_, fun d hd => ?_⟩ _
  · dsimp only
    (repeat' split) <;> simp
  · have hpart {d : Dev} {x : Desc} {o : Nat} {v : Option Sector} {t : Option Nat} (h : d.Stored) :
        ((d.descMoved ring slot 64).descWrite ring x (x.dst + o) v t).Stored := by simp [h]
    dsimp only
    split
    · exact hd
    · split
      · exact hd
      · split
        · exact foldl_stored _ (fun _ _ => hpart) _ _ (Dev.countPkg_stored _ _ _ hd)
        · exact foldl_stored _ (fun _ _ => hpart) _ _
            (Dev.onDesc_stored _ _ _ _ (Dev.event_stored _ _ _ _ _ _ (Dev.countPkg_stored _ _ _ (Dev.countPkg_stored _ _
              _ hd))))

theorem execDescriptorComplete_completes (ring slot : Nat) (s : State) :
    Completes none s (execDescriptorComplete ring slot s) := by
  refine runRing_completes ⟨fun d => ?_, fun d hd => ?_⟩ _
  · dsimp only
    (repeat' split) <;> simp
  · grind [Dev.signals_stored, Dev.count_stored, Dev.onRing_stored, Dev.emit_stored, Dev.fabric_stored]

theorem execDescriptorFetchTimeout_completes (ring : Nat) (slot : Option Nat) (s : State) :
    Completes none s (execDescriptorFetchTimeout ring slot s) :=
  runRing_completes ⟨fun d => by dsimp only; (repeat' split) <;> simp,
    fun d hd => by dsimp only; (repeat' split) <;> simp [hd]⟩ _

theorem execStreamUnitLoaded_completes (entry unit : Nat) (data : List Byte) (s : State) :
    Completes none s (execStreamUnitLoaded entry unit data s) :=
  run_completes ⟨fun d => by simp, fun d hd => by simp [hd]⟩

/-! ### Commands of the medium -/

theorem execProgramComplete_completes (slice reach group bank : Nat) (pass : Bool) (s : State) :
    Completes (lacks .noSuchSlice slice s.dev.sliceCount) s (execProgramComplete slice reach group bank pass s) :=
  runSlice_completes ⟨fun d => by (repeat' split) <;> simp,
    fun d hd => by (repeat' split) <;> simp [hd]⟩ _

theorem execClearSegmentComplete_completes (slice reach group bank : Nat) (pass : Bool) (s : State) :
    Completes (lacks .noSuchSlice slice s.dev.sliceCount) s (execClearSegmentComplete slice reach group bank pass s) :=
  runSlice_completes ⟨fun d => by (repeat' split) <;> simp,
    fun d hd => by (repeat' split) <;> simp [hd]⟩ _

theorem execPageReadComplete_completes (slice flight : Nat) (errors : List Nat) (s : State) :
    Completes (lacks .noSuchSlice slice s.dev.sliceCount) s (execPageReadComplete slice flight errors s) :=
  runSlice_completes ⟨fun d => by (repeat' split) <;> simp,
    fun d hd => by (repeat' split) <;> simp [hd]⟩ _

theorem execDurableWriteComplete_completes (slice write : Nat) (s : State) :
    Completes (lacks .noSuchSlice slice s.dev.sliceCount) s (execDurableWriteComplete slice write s) := by
  refine runSlice_completes ⟨fun d => ?_, fun d hd => ?_⟩ _
  · dsimp only
    (repeat' split) <;> simp
  · grind [Dev.acks_stored, Dev.contractExceeded_stored, Dev.onSlice_stored]

/-! ### Commands of upkeep -/

theorem execSourceInvalidate_completes (slice slot : Nat) (s : State) :
    Completes (lacks .noSuchSlice slice s.dev.sliceCount) s (execSourceInvalidate slice slot s) := by
  refine runSlice_completes ⟨fun d => by simp, fun d hd => ?_⟩ _
  dsimp only
  split
  · exact Dev.checkPreserve_stored _ (Dev.finishReach_stored _ _ (Dev.onSlice_stored _ _ _ hd))
  · exact hd

theorem execSourceClearStart_completes (slice slot : Nat) (s : State) :
    Completes (lacks .noSuchSlice slice s.dev.sliceCount) s (execSourceClearStart slice slot s) :=
  runSlice_completes (keeps_onSlice _ _) _

theorem execVerifyComplete_completes (slice slot : Nat) (s : State) :
    Completes (lacks .noSuchSlice slice s.dev.sliceCount) s (execVerifyComplete slice slot s) :=
  runSlice_completes (keeps_onSlice _ _) _

theorem execDryTimeout_completes (slice : Nat) (s : State) :
    Completes (lacks .noSuchSlice slice s.dev.sliceCount) s (execDryTimeout slice s) :=
  runSlice_completes ⟨fun d => by simp, fun d hd => by simp [hd]⟩ _

/-! ### Commands of local DRAM -/

theorem execDramTrainingDone_completes (slice : Nat) (failures : List (Nat × Nat)) (densityGood : Bool) (s : State) :
    Completes (lacks .noSuchSlice slice s.dev.sliceCount) s (execDramTrainingDone slice failures densityGood s) := by
  refine runSlice_completes ⟨fun d => by simp, fun d hd => ?_⟩ _
  dsimp only
  split
  · exact hd
  · have hretire (l : List (Nat × Nat)) : Keeps fun d => l.foldl (fun d f => d.retireChannel slice f.1) d :=
      Keeps.foldl (fun _ => ⟨fun _ => Dev.retireChannel_shape _ _ _, fun _ => Dev.retireChannel_stored _ _ _⟩) l
    have htrained (f : Slice → Slice) (l : List (Nat × Nat)) := (hretire l).stored _ (Dev.onSlice_stored _ slice f
      (Dev.drawList_stored (d.drawList 8).2 8 (Dev.drawList_stored d 8 hd)))
    split
    · exact htrained _ _
    · exact Dev.sliceRecovery_stored _ _ _ (Dev.event_stored _ _ _ _ _ _ (htrained _ _))

theorem execProtectedSpaceFillDone_completes (slice : Nat) (s : State) :
    Completes (lacks .noSuchSlice slice s.dev.sliceCount) s (execProtectedSpaceFillDone slice s) :=
  runSlice_completes ⟨fun d => by simp, fun d hd => by simp [hd]⟩ _

theorem execDramRefresh_completes (slice channel bank : Nat) (s : State) :
    Completes (lacks .noSuchSlice slice s.dev.sliceCount) s (execDramRefresh slice channel bank s) :=
  runSlice_completes ⟨fun d => by simp, fun d hd => by simp [hd]⟩ _

theorem execForcedRefresh_completes (slice channel bank : Nat) (s : State) :
    Completes (lacks .noSuchSlice slice s.dev.sliceCount) s (execForcedRefresh slice channel bank s) :=
  runSlice_completes ⟨fun d => by simp, fun d hd => by simp [hd]⟩ _

theorem execRekeySweepEnd_completes (slice : Nat) (s : State) :
    Completes (lacks .noSuchSlice slice s.dev.sliceCount) s (execRekeySweepEnd slice s) :=
  runSlice_completes ⟨fun d => by (repeat' split) <;> simp,
    fun d hd => by (repeat' split) <;> simp [hd]⟩ _

/-! ### Commands of the power sequencer -/

theorem execAlwaysOnPowerOn_completes (s : State) : Completes none s (execAlwaysOnPowerOn s) :=
  run_completes (Keeps.ite ⟨fun _ => Dev.follow_shape _, fun _ hd => Dev.follow_stored _ hd⟩ keeps_self)

theorem execAonPowerOff_completes (s : State) : Completes none s (execAonPowerOff s) :=
  run_completes ⟨fun d => by simp, fun d hd => by simp [hd]⟩

theorem execResetNLow_completes (cut : List CutGroup) (s : State) : Completes none s (execResetNLow cut s) :=
  run_completes ⟨fun d => (Dev.powerDrop_shape _ _ _ _ _).trans (by simp [Dev.shape]),
    fun d hd => Dev.powerDrop_stored _ _ _ _ _ hd⟩

theorem execResetNHigh_completes (s : State) : Completes none s (execResetNHigh s) := by
  refine run_completes ⟨fun d => ?_, fun d hd => ?_⟩
  · dsimp only
    split
    · exact Dev.follow_shape _
    · rfl
  · dsimp only
    split
    · exact Dev.follow_stored _ hd
    · exact hd

theorem execPowerFail_completes (pfail : Bool) (cut : List CutGroup) (s : State) :
    Completes none s (execPowerFail pfail cut s) := by
  refine run_completes ⟨fun d => (Dev.powerDrop_shape _ _ _ _ _).trans ?_, fun d hd => Dev.powerDrop_stored _ _ _ _ _ hd⟩
  split <;> rfl

theorem execStartConditionMet_completes (s : State) : Completes none s (execStartConditionMet s) := by
  refine run_completes ⟨fun d => ?_, fun d hd => ?_⟩
  · dsimp only
    split
    · exact Dev.follow_shape _
    · rfl
  · dsimp only
    split
    · exact Dev.follow_stored _ hd
    · exact hd

theorem execBarrierRelease_completes (s : State) : Completes none s (execBarrierRelease s) := by
  refine run_completes ⟨fun d => (Dev.follow_shape _).trans ?_, fun d hd => Dev.follow_stored _ ?_⟩
  · have h (q : Sequencer) : ({ d with seq := q } : Dev).openBoot.shape = d.shape := Dev.openBoot_shape { d with seq := q }
    grind [Dev.shape_upd]
  · dsimp only
    (repeat' split) <;> simp [hd]

theorem execRailGood_completes (rail : Nat) (s : State) : Completes none s (execRailGood rail s) :=
  run_completes ⟨fun d => by (repeat' split) <;> simp [Dev.shape_upd],
    fun d hd => by simp [hd]⟩

theorem execRailRampTimeout_completes (rail : Nat) (s : State) : Completes none s (execRailRampTimeout rail s) :=
  run_completes ⟨fun d => by simp, fun d hd => by simp [hd]⟩

theorem execRailFailure_completes (rail : Nat) (s : State) : Completes none s (execRailFailure rail s) := by
  refine run_completes ⟨fun d => ?_, fun d hd => ?_⟩
  · dsimp only
    (repeat' split) <;> simp [Dev.shape_upd]
  · grind [Dev.halt_stored, Dev.clampVpp_stored, Dev.latchFault_stored, Dev.stored_mk, Dev.stored_pstore, Dev.stored_window]

theorem execRailShortDrop_completes (rail : Nat) (s : State) : Completes none s (execRailShortDrop rail s) := by
  refine run_completes ⟨fun d => ?_, fun d hd => ?_⟩
  · dsimp only
    (repeat' split) <;> simp [Dev.shape_upd]
  · grind [Dev.packageEvent_stored, Dev.countPkg_stored, Dev.stored_mk, Dev.stored_pstore, Dev.stored_window]

theorem execRailOff_completes (rail : Nat) (s : State) : Completes none s (execRailOff rail s) :=
  run_completes ⟨fun d => by (repeat' split) <;> simp [Dev.shape_upd],
    fun d hd => by simp [hd]⟩

theorem execRailOffTimeout_completes (rail : Nat) (s : State) : Completes none s (execRailOffTimeout rail s) :=
  run_completes ⟨fun d => by dsimp only; (repeat' split) <;> simp [Dev.shape_upd],
    fun d hd => by simp [hd]⟩

theorem execVppDischargeTimeout_completes (s : State) : Completes none s (execVppDischargeTimeout s) :=
  run_completes ⟨fun d => by (repeat' split) <;> simp [Dev.shape_upd],
    fun d hd => by simp [hd]⟩

theorem execVppClampRelease_completes (s : State) : Completes none s (execVppClampRelease s) :=
  run_completes ⟨fun d => by (repeat' split) <;> simp [Dev.shape_upd],
    fun d hd => by simp [hd]⟩

theorem execBarrierTimeout_completes (s : State) : Completes none s (execBarrierTimeout s) :=
  run_completes ⟨fun d => by simp, fun d hd => by simp [hd]⟩

theorem execExternalFault_completes (s : State) : Completes none s (execExternalFault s) :=
  run_completes ⟨fun d => by simp, fun d hd => by simp [hd]⟩

theorem execWatchdogExpiry_completes (s : State) : Completes none s (execWatchdogExpiry s) :=
  run_completes ⟨fun d => by simp, fun d hd => by simp [hd]⟩

/-! ### Commands of temperatures -/

theorem execThermalSample_completes (input : ThermalInput) (s : State) :
    Completes none s (execThermalSample input s) := by
  refine run_completes ⟨fun d => ?_, fun d hd => ?_⟩
  · have hwarn := foldl_shape Dev.warnGroup Dev.warnGroup_shape (List.range 3)
    have hage := foldl_shape Dev.ageSlice Dev.ageSlice_shape
    grind [Dev.takeSample_shape, Dev.riseEvents_shape, Dev.criticalRuns_shape, Dev.moveLevel_shape, Dev.addLife_shape,
      Dev.history_shape, Dev.retrainByTemp_shape, Dev.onSlices_shape, Dev.critical_shape, Dev.shape_upd]
  · have hwarn := foldl_stored Dev.warnGroup Dev.warnGroup_stored (List.range 3)
    have hage := foldl_stored Dev.ageSlice Dev.ageSlice_stored
    grind [Dev.takeSample_stored, Dev.riseEvents_stored, Dev.criticalRuns_stored, Dev.moveLevel_stored,
      Dev.addLife_stored, Dev.history_stored, Dev.retrainByTemp_stored, Dev.onSlices_stored, Dev.critical_stored,
      Dev.stored_mk, Dev.stored_pstore, Dev.stored_window]

theorem execDrowseThermalSample_completes (tdA thA : Option Nat) (s : State) :
    Completes none s (execDrowseThermalSample tdA thA s) := by
  refine run_completes ⟨fun d => ?_, fun d hd => ?_⟩
  · grind [Dev.criticalRuns_shape, Dev.halt_shape, Dev.latchFault_shape, Dev.shape_upd]
  · grind [Dev.criticalRuns_stored, Dev.halt_stored, Dev.latchFault_stored, Dev.stored_mk, Dev.stored_pstore,
      Dev.stored_window]

/-! ### Commands of starts -/

theorem execTickStart_completes (sentinels : List (List (Option Nat))) (formatInterrupted : Bool) (s : State) :
    Completes none s (execTickStart sentinels formatInterrupted s) := by
  have h := foldl_stored (fun d i => d.estimate i (sentinels.getD i [])) (fun _ _ h => Dev.estimate_stored _ _ _ h)
  refine run_completes ⟨fun d => by simp, fun d hd => ?_⟩
  dsimp only
  grind [Dev.firstTick_stored, Dev.repairCopies_stored, Dev.startImage_stored, Dev.startRoots_stored,
        Dev.format_stored, Dev.onSlices_stored, Dev.restoreMaps_stored, Dev.startTick_stored, Dev.loadShadows_stored,
        Dev.loadBootImage_stored, Dev.loadTarget_stored]

theorem execBootComplete_completes (s : State) : Completes none s (execBootComplete s) := by
  refine run_completes ⟨fun d => ?_, fun d hd => ?_⟩
  · grind [Dev.saveMirrors_shape, Dev.enterService_shape, Dev.dropRung_shape, Dev.shape_upd]
  · grind [Dev.saveMirrors_stored, Dev.enterService_stored, Dev.dropRung_stored,  Dev.stored_mk, Dev.stored_pstore,
      Dev.stored_window]

theorem execWakeEvent_completes (s : State) : Completes none s (execWakeEvent s) :=
  run_completes ⟨fun d => by dsimp only; (repeat' split) <;> simp [Dev.shape_upd],
    fun d hd => by simp [hd]⟩

theorem execOrderlyShutdown_completes (slice : Nat) (s : State) :
    Completes (lacks .noSuchSlice slice s.dev.sliceCount) s (execOrderlyShutdown slice s) :=
  runSlice_completes ⟨fun d => by (repeat' split) <;> simp,
    fun d hd => by (repeat' split) <;> simp [hd]⟩ _

/-! ### Commands of ticks and rounds -/

theorem execRoundBoundary_completes (selfCheckFails : List (Nat × Nat)) (s : State) :
    Completes none s (execRoundBoundary selfCheckFails s) :=
  run_completes ⟨fun d => by simp, fun d hd => by simp [hd]⟩

theorem execSnapshotLatch_completes (s : State) : Completes none s (execSnapshotLatch s) :=
  run_completes ⟨fun d => by simp, fun d hd => by simp [hd]⟩

theorem execTickBoundary_completes (env : TickEnv) (s : State) : Completes none s (execTickBoundary env s) := by
  have hround : Keeps fun d => (d.endTicks env).roundBoundary [] :=
    ⟨fun d => by simp, fun d hd => by simp [hd]⟩
  have hsteps : Keeps fun d => (List.range 3).foldl Dev.fwStep d.latchDue.storeStep :=
    (Keeps.foldl (fun _ => ⟨fun _ => Dev.fwStep_shape _ _, fun _ => Dev.fwStep_stored _ _⟩) _).comp
      ⟨fun d => by simp, fun d hd => by simp [hd]⟩
  have hrun := (Keeps.ite (c := fun d => (!(d.clock.on && d.mode.ticks)) = true) keeps_self
    ((keeps_nextTick env).comp hsteps)).comp hround
  exact run_completes (Keeps.ite keeps_self hrun)

theorem execSkippedTick_completes (s : State) : Completes none s (execSkippedTick s) := by
  refine run_completes ⟨fun d => ?_, fun d hd => ?_⟩
  · dsimp only
    split
    · simp [Dev.shape, Dev.onSlices]
    · rfl
  · dsimp only
    split
    · exact hd
    · exact hd

theorem execIdleExit_completes (s : State) : Completes none s (execIdleExit s) :=
  run_completes ⟨fun d => by (repeat' split) <;> simp [Dev.shape_upd],
    fun d hd => by simp [hd]⟩

theorem execAlarmPolicyAction_completes (slice : Nat) (s : State) :
    Completes (lacks .noSuchSlice slice s.dev.sliceCount) s (execAlarmPolicyAction slice s) := by
  refine runSlice_completes ⟨fun d => ?_, fun d hd => ?_⟩ _
  · dsimp only
    (repeat' split) <;> simp
  · grind [Dev.sliceRecovery_stored, Dev.halt_stored, Dev.latchFault_stored, Dev.countPkg_stored, Dev.onSlice_stored]

/-! ### Commands of registers -/

theorem execRegisterWrite_completes (agent : Agent) (port : Nat) (target : RegTarget) (size : Nat) (value : BitVec 64)
  (s : State) :
    Completes (lacksPort agent port s.dev.sliceCount) s (execRegisterWrite agent port target size value s) :=
  runReg_completes ⟨fun d => by (repeat' split) <;> simp,
    fun d hd => by (repeat' split) <;> simp [hd]⟩ _ _

theorem execMaintClean_completes (agent : Agent) (port : Nat) (value : Word) (s : State) :
    Completes (lacksPort agent port s.dev.sliceCount) s (execMaintClean agent port value s) :=
  runWrite_completes _ _ _ _

theorem execMaintInvalidate_completes (agent : Agent) (port : Nat) (value : Word) (s : State) :
    Completes (lacksPort agent port s.dev.sliceCount) s (execMaintInvalidate agent port value s) :=
  runWrite_completes _ _ _ _

theorem execMaintCleanInvalidate_completes (agent : Agent) (port : Nat) (value : Word) (s : State) :
    Completes (lacksPort agent port s.dev.sliceCount) s (execMaintCleanInvalidate agent port value s) :=
  runWrite_completes _ _ _ _

theorem execSetwayClean_completes (agent : Agent) (port : Nat) (value : Word) (s : State) :
    Completes (lacksPort agent port s.dev.sliceCount) s (execSetwayClean agent port value s) :=
  runWrite_completes _ _ _ _

theorem execSetwayInvalidate_completes (agent : Agent) (port : Nat) (value : Word) (s : State) :
    Completes (lacksPort agent port s.dev.sliceCount) s (execSetwayInvalidate agent port value s) :=
  runWrite_completes _ _ _ _

theorem execSetwayCleanInvalidate_completes (agent : Agent) (port : Nat) (value : Word) (s : State) :
    Completes (lacksPort agent port s.dev.sliceCount) s (execSetwayCleanInvalidate agent port value s) :=
  runWrite_completes _ _ _ _

theorem execCacheCmdEnable_completes (agent : Agent) (port : Nat) (s : State) :
    Completes (lacksPort agent port s.dev.sliceCount) s (execCacheCmdEnable agent port s) :=
  runWrite_completes _ _ _ _

theorem execDrainDisable_completes (agent : Agent) (port : Nat) (s : State) :
    Completes (lacksPort agent port s.dev.sliceCount) s (execDrainDisable agent port s) :=
  runWrite_completes _ _ _ _

theorem execDiscardDisable_completes (agent : Agent) (port : Nat) (s : State) :
    Completes (lacksPort agent port s.dev.sliceCount) s (execDiscardDisable agent port s) :=
  runWrite_completes _ _ _ _

theorem execSwapRequest_completes (agent : Agent) (port : Nat) (value : Word) (s : State) :
    Completes (lacksPort agent port s.dev.sliceCount) s (execSwapRequest agent port value s) :=
  runWrite_completes _ _ _ _

theorem execRetrainAll_completes (agent : Agent) (port : Nat) (value : Word) (s : State) :
    Completes (lacksPort agent port s.dev.sliceCount) s (execRetrainAll agent port value s) :=
  runWrite_completes _ _ _ _

theorem execMbAssignWrite_completes (agent : Agent) (port : Nat) (value : Word) (s : State) :
    Completes (lacksPort agent port s.dev.sliceCount) s (execMbAssignWrite agent port value s) :=
  runWrite_completes _ _ _ _

theorem execMbInWrite_completes (agent : Agent) (port channel : Nat) (value : Word) (parityFail : Bool) (s : State) :
    Completes ((lacks .noSuchChannel channel 16).orElse fun _ => lacksPort agent port s.dev.sliceCount) s (execMbInWrite
      agent port channel value parityFail s) :=
  (runReg_completes ⟨fun d => by simp, fun d hd => by simp [hd]⟩ _ _).guardIf _ _ _

theorem execMbOutRead_completes (agent : Agent) (port channel : Nat) (half : OutHalf) (parityFail : Bool) (s : State) :
    Completes ((lacks .noSuchChannel channel 16).orElse fun _ => lacksPort agent port s.dev.sliceCount) s (execMbOutRead
      agent port channel half parityFail s) :=
  (runReg_completes ⟨fun d => by (repeat' split) <;> simp,
    fun d hd => by (repeat' split) <;> simp [hd]⟩ _ _).guardIf _ _ _

theorem execMailboxDrop_completes (agent : Agent) (port channel : Nat) (value : Word) (s : State) :
    Completes ((lacks .noSuchChannel channel 16).orElse fun _ => lacksPort agent port s.dev.sliceCount) s
      (execMailboxDrop agent port channel value s) :=
  (runReg_completes ⟨fun d => by simp, fun d hd => by simp [hd]⟩ _ _).guardIf _ _ _

theorem execRingEnable_completes (agent : Agent) (port ring : Nat) (value : Word) (s : State) :
    Completes (lacksPort agent port s.dev.sliceCount) s (execRingEnable agent port ring value s) :=
  runRingWrite_completes _ _ _ _ _

theorem execRingDisable_completes (agent : Agent) (port ring : Nat) (value : Word) (s : State) :
    Completes (lacksPort agent port s.dev.sliceCount) s (execRingDisable agent port ring value s) :=
  runRingWrite_completes _ _ _ _ _

theorem execRingReset_completes (agent : Agent) (port ring : Nat) (value : Word) (s : State) :
    Completes (lacksPort agent port s.dev.sliceCount) s (execRingReset agent port ring value s) :=
  runRingWrite_completes _ _ _ _ _

theorem execRingDoorbell_completes (port ring : Nat) (value : Word) (s : State) :
    Completes (lacksPort .host port s.dev.sliceCount) s (execRingDoorbell port ring value s) :=
  runReg_completes ⟨fun d => by simp, fun d hd => by simp [hd]⟩ _ _

theorem execRingCplHeadWrite_completes (agent : Agent) (port ring : Nat) (value : Word) (s : State) :
    Completes (lacksPort agent port s.dev.sliceCount) s (execRingCplHeadWrite agent port ring value s) :=
  runRingWrite_completes _ _ _ _ _

theorem execHintWrite_completes (port size : Nat) (record : BitVec 64) (s : State) :
    Completes (lacksPort .host port s.dev.sliceCount) s (execHintWrite port size record s) :=
  runReg_completes ⟨fun d => by simp, fun d hd => by simp [hd]⟩ _ _

/-! ### Commands of requests -/

theorem execUndefinedOpcode_completes (channel : Nat) (s : State) :
    Completes (lacks .noSuchChannel channel 16) s (execUndefinedOpcode channel s) :=
  runChan_completes ⟨fun d => by (repeat' split) <;> simp,
    fun d hd => by (repeat' split) <;> simp [hd]⟩ _

theorem execMailboxTimeout_completes (channel : Nat) (s : State) :
    Completes (lacks .noSuchChannel channel 16) s (execMailboxTimeout channel s) := by
  refine runChan_completes ⟨fun d => ?_, fun d hd => ?_⟩ _
  · dsimp only
    (repeat' split) <;> simp
  · grind [Dev.resync_stored, Dev.respond_stored, Dev.countPkg_stored, Dev.causeInEmpty_stored, Dev.onChan_stored]

/-! ### Commands of schedules, regions and the cache by mailbox -/

theorem execIdentify_completes (channel : Nat) (s : State) :
    Completes (lacks .noSuchChannel channel 16) s (execIdentify channel s) :=
  runAnswer_completes

theorem execIdentifySlice_completes (channel : Nat) (s : State) :
    Completes (lacks .noSuchChannel channel 16) s (execIdentifySlice channel s) :=
  runAnswer_completes

theorem execImageLoad_completes (channel : Nat) (buffer : List Byte) (s : State) :
    Completes (lacks .noSuchChannel channel 16) s (execImageLoad channel buffer s) :=
  runCmd_completes fun _ => ⟨fun d => by simp, fun d hd => by simp [hd]⟩

theorem execImageStagingTimeout_completes (s : State) : Completes none s (execImageStagingTimeout s) :=
  run_completes ⟨fun d => by simp, fun d hd => by simp [hd]⟩

theorem execImageActivate_completes (channel : Nat) (s : State) :
    Completes (lacks .noSuchChannel channel 16) s (execImageActivate channel s) :=
  runCmd_completes fun q => ⟨fun d => by (repeat' split) <;> simp,
    fun d hd => by (repeat' split) <;> simp [hd]⟩

theorem execImageStatus_completes (channel : Nat) (s : State) :
    Completes (lacks .noSuchChannel channel 16) s (execImageStatus channel s) :=
  runAnswer_completes

theorem execSchedRead_completes (channel : Nat) (s : State) :
    Completes (lacks .noSuchChannel channel 16) s (execSchedRead channel s) :=
  runCmd_completes fun q => ⟨fun d => by dsimp only; (repeat' split) <;> simp,
    fun d hd => by dsimp only; (repeat' split) <;> simp [hd]⟩

theorem execSchedSwap_completes (channel : Nat) (s : State) :
    Completes (lacks .noSuchChannel channel 16) s (execSchedSwap channel s) :=
  runCmd_completes fun q => ⟨fun d => by (repeat' split) <;> simp,
    fun d hd => by (repeat' split) <;> simp [hd]⟩

theorem execContractReport_completes (channel : Nat) (s : State) :
    Completes (lacks .noSuchChannel channel 16) s (execContractReport channel s) := by
  refine runCmd_completes fun q => ⟨fun d => ?_, fun d hd => ?_⟩
  · grind [Dev.flushWord_shape]
  · grind [Dev.flushWord_stored]

theorem execRegionSet_completes (channel : Nat) (s : State) :
    Completes (lacks .noSuchChannel channel 16) s (execRegionSet channel s) :=
  runCmd_completes fun q => ⟨fun d => by dsimp only; (repeat' split) <;> simp,
    fun d hd => by dsimp only; (repeat' split) <;> simp [hd]⟩

theorem execRegionGet_completes (channel : Nat) (s : State) :
    Completes (lacks .noSuchChannel channel 16) s (execRegionGet channel s) :=
  runAnswer_completes

theorem execPortClassSet_completes (channel : Nat) (s : State) :
    Completes (lacks .noSuchChannel channel 16) s (execPortClassSet channel s) :=
  runCmd_completes fun q => ⟨fun d => by dsimp only; (repeat' split) <;> simp,
    fun d hd => by dsimp only; (repeat' split) <;> simp [hd]⟩

theorem execShadowRevert_completes (channel : Nat) (s : State) :
    Completes (lacks .noSuchChannel channel 16) s (execShadowRevert channel s) :=
  runCmd_completes fun q => ⟨fun d => by (repeat' split) <;> simp [Dev.shape_upd],
    fun d hd => by (repeat' split) <;> simp [hd]⟩

theorem execCacheMaint_completes (channel : Nat) (s : State) :
    Completes (lacks .noSuchChannel channel 16) s (execCacheMaint channel s) :=
  runCmd_completes fun q => ⟨fun d => by dsimp only; (repeat' split) <;> simp,
    fun d hd => by dsimp only; (repeat' split) <;> simp [hd]⟩

theorem execCacheDisable_completes (channel : Nat) (s : State) :
    Completes (lacks .noSuchChannel channel 16) s (execCacheDisable channel s) := by
  have hslice (d : Dev) (i : Nat) (discard : Bool) : Keeps fun d => if (d.slice i).cache.state != .on then d
      else d.onSlice i fun s => if discard then s.discardDisable else s.drainDisable d.fuses.dram4 d.round :=
    keeps_self.ite (keeps_onSlice _ _)
  refine runCmd_completes fun q => ⟨fun d => ?_, fun d hd => ?_⟩
  · dsimp only
    (repeat' split) <;> simp
  · dsimp only
    split
    · exact hd
    · split
      · exact hd
      · split
        · exact hd
        · exact Dev.await_stored _ _ _ (foldl_stored _ (fun d i h => (hslice d i _).stored d h) _ _ hd)

theorem execCacheEnable_completes (channel : Nat) (s : State) :
    Completes (lacks .noSuchChannel channel 16) s (execCacheEnable channel s) := by
  refine runCmd_completes fun q => ⟨fun d => ?_, fun d hd => ?_⟩
  · (repeat' split) <;> simp
  · split
    · exact hd
    · split
      · exact hd
      · exact foldl_stored _ (fun _ _ h => Dev.onSlice_stored _ _ _ h) _ _ hd

theorem execCacheStatus_completes (channel : Nat) (s : State) :
    Completes (lacks .noSuchChannel channel 16) s (execCacheStatus channel s) :=
  runAnswer_completes

/-! ### Commands of titles -/

theorem execTitleImport_completes (channel : Nat) (s : State) :
    Completes (lacks .noSuchChannel channel 16) s (execTitleImport channel s) :=
  runCmd_completes fun q => ⟨fun d => by dsimp only; (repeat' split) <;> simp,
    fun d hd => by dsimp only; (repeat' split) <;> simp [hd]⟩

theorem execTitleOpen_completes (channel : Nat) (s : State) :
    Completes (lacks .noSuchChannel channel 16) s (execTitleOpen channel s) := by
  refine runCmd_completes fun q => ⟨fun d => ?_, fun d hd => ?_⟩
  · dsimp only
    (repeat' split) <;> simp
  · grind [Dev.countPkg_stored, Dev.onTitle_stored, Dev.loadFrameKey_stored]

theorem execTitleClose_completes (channel : Nat) (s : State) :
    Completes (lacks .noSuchChannel channel 16) s (execTitleClose channel s) :=
  runCmd_completes fun q => ⟨fun d => by dsimp only; (repeat' split) <;> simp,
    fun d hd => by dsimp only; (repeat' split) <;> simp [hd]⟩

theorem execTitleStatus_completes (channel : Nat) (s : State) :
    Completes (lacks .noSuchChannel channel 16) s (execTitleStatus channel s) :=
  runAnswer_completes

theorem execTitleBindRing_completes (channel : Nat) (s : State) :
    Completes (lacks .noSuchChannel channel 16) s (execTitleBindRing channel s) :=
  runCmd_completes fun q => ⟨fun d => by dsimp only; (repeat' split) <;> simp,
    fun d hd => by dsimp only; (repeat' split) <;> simp [hd]⟩

theorem execTitleDelete_completes (channel : Nat) (s : State) :
    Completes (lacks .noSuchChannel channel 16) s (execTitleDelete channel s) :=
  runCmd_completes fun q => ⟨fun d => by dsimp only; (repeat' split) <;> simp,
    fun d hd => by dsimp only; (repeat' split) <;> simp [hd]⟩

theorem execDeviceKeyGet_completes (channel : Nat) (s : State) :
    Completes (lacks .noSuchChannel channel 16) s (execDeviceKeyGet channel s) :=
  runAnswer_completes

theorem execIdeKeySet_completes (channel : Nat) (s : State) :
    Completes (lacks .noSuchChannel channel 16) s (execIdeKeySet channel s) :=
  runCmd_completes fun q => ⟨fun d => by (repeat' split) <;> simp,
    fun d hd => by (repeat' split) <;> simp [hd]⟩

/-! ### Commands of health and transitions -/

theorem execHealthGet_completes (channel : Nat) (s : State) :
    Completes (lacks .noSuchChannel channel 16) s (execHealthGet channel s) := by
  refine runCmd_completes fun q => ⟨fun d => ?_, fun d hd => ?_⟩
  · grind [Dev.writeBuffer_shape, Dev.peakByte_shape, Dev.overProvisioning_shape, Dev.shape_upd]
  · grind [Dev.writeBuffer_stored, Dev.peakByte_stored, Dev.overProvisioning_stored, Dev.stored_mk, Dev.stored_pstore,
      Dev.stored_window]

theorem execRecorderRead_completes (channel : Nat) (s : State) :
    Completes (lacks .noSuchChannel channel 16) s (execRecorderRead channel s) :=
  runCmd_completes fun _ => ⟨fun d => by simp, fun d hd => by simp [hd]⟩

theorem execRecorderStatus_completes (channel : Nat) (s : State) :
    Completes (lacks .noSuchChannel channel 16) s (execRecorderStatus channel s) :=
  runAnswer_completes

theorem execRecorderClear_completes (channel : Nat) (pass : Bool) (s : State) :
    Completes (lacks .noSuchChannel channel 16) s (execRecorderClear channel pass s) := by
  refine runCmd_completes fun q => ⟨fun d => ?_, fun d hd => ?_⟩
  · grind [Dev.storeControl_shape, Dev.notify_shape, Dev.countPkg_shape, Dev.openGroup_shape, Dev.shape_upd]
  · grind [Dev.storeControl_stored, Dev.notify_stored, Dev.countPkg_stored, Dev.openGroup_stored, Dev.stored_mk,
      Dev.stored_pstore, Dev.stored_window]

theorem execLastGaspRead_completes (channel : Nat) (s : State) :
    Completes (lacks .noSuchChannel channel 16) s (execLastGaspRead channel s) :=
  runAnswer_completes

theorem execLifeGet_completes (channel : Nat) (s : State) :
    Completes (lacks .noSuchChannel channel 16) s (execLifeGet channel s) :=
  runCmd_completes fun _ => ⟨fun d => by simp, fun d hd => by simp [hd]⟩

theorem execNotifySet_completes (channel : Nat) (s : State) :
    Completes (lacks .noSuchChannel channel 16) s (execNotifySet channel s) :=
  runCmd_completes fun q => ⟨fun d => by simp,
    fun d hd => hd⟩

theorem execModeEnter_completes (channel : Nat) (s : State) :
    Completes (lacks .noSuchChannel channel 16) s (execModeEnter channel s) :=
  runCmd_completes fun q => ⟨fun d => by (repeat' split) <;> simp,
    fun d hd => by (repeat' split) <;> simp [hd]⟩

theorem execWarmReset_completes (channel : Nat) (s : State) :
    Completes (lacks .noSuchChannel channel 16) s (execWarmReset channel s) :=
  runCmd_completes fun q => ⟨fun d => by (repeat' split) <;> simp,
    fun d hd => by (repeat' split) <;> simp [hd]⟩

theorem execThermalStatus_completes (channel : Nat) (s : State) :
    Completes (lacks .noSuchChannel channel 16) s (execThermalStatus channel s) := by
  refine runCmd_completes fun q => ⟨fun d => ?_, fun d hd => ?_⟩
  · grind [Dev.thermalBytes_shape, Dev.draw_shape]
  · grind [Dev.thermalBytes_stored, Dev.draw_stored]

theorem execFaultStatus_completes (channel : Nat) (s : State) :
    Completes (lacks .noSuchChannel channel 16) s (execFaultStatus channel s) :=
  runCmd_completes fun _ => ⟨fun d => by simp, fun d hd => by simp [hd]⟩

theorem execFaultClear_completes (channel : Nat) (s : State) :
    Completes (lacks .noSuchChannel channel 16) s (execFaultClear channel s) :=
  runCmd_completes fun q => ⟨fun d => by dsimp only; (repeat' split) <;> simp [Dev.shape_upd],
    fun d hd => by dsimp only; (repeat' split) <;> simp [hd]⟩

/-! ### Commands of the cartridge -/

theorem execCartStatus_completes (channel : Nat) (s : State) :
    Completes (lacks .noSuchChannel channel 16) s (execCartStatus channel s) :=
  runAnswer_completes

theorem execCartPower_completes (channel : Nat) (s : State) :
    Completes (lacks .noSuchChannel channel 16) s (execCartPower channel s) := by
  refine runCmd_completes fun q => ⟨fun d => ?_, fun d hd => ?_⟩
  · dsimp only
    (repeat' split) <;> simp
  · grind [Dev.await_stored, Dev.notifyShutdown_stored, Dev.onCart_stored, Dev.notifyCart_stored, Dev.cartEnd_stored]

theorem execCartRefclkStart_completes (s : State) : Completes none s (execCartRefclkStart s) :=
  run_completes ⟨fun _ => rfl, fun _ hd => hd⟩

theorem execCartPerstRelease_completes (s : State) : Completes none s (execCartPerstRelease s) :=
  run_completes ⟨fun _ => rfl, fun _ hd => hd⟩

theorem execCartLinkUp_completes (width speed : Nat) (s : State) : Completes none s (execCartLinkUp width speed s) :=
  run_completes ⟨fun _ => rfl, fun _ hd => hd⟩

theorem execCartClkreqChange_completes (low : Bool) (s : State) : Completes none s (execCartClkreqChange low s) :=
  run_completes ⟨fun d => by simp, fun d hd => by simp [hd]⟩

theorem execCartShutdownDone_completes (s : State) : Completes none s (execCartShutdownDone s) :=
  run_completes ⟨fun _ => rfl, fun _ hd => hd⟩

theorem execCartRefclkStop_completes (s : State) : Completes none s (execCartRefclkStop s) :=
  run_completes ⟨fun _ => rfl, fun _ hd => hd⟩

theorem execCartPwrEnFall_completes (s : State) : Completes none s (execCartPwrEnFall s) :=
  run_completes (Keeps.ite (c := fun d => d.cart.step = 7)
    ⟨fun d => (keeps_answerWaiting _).shape (d.onCart _), fun d hd => (keeps_answerWaiting _).stored (d.onCart _) hd⟩
      keeps_self)

theorem execCardPresent_completes (s : State) : Completes none s (execCardPresent s) :=
  run_completes ⟨fun d => by simp, fun d hd => by simp [hd]⟩

theorem execCardRemoved_completes (s : State) : Completes none s (execCardRemoved s) := by
  refine run_completes ⟨fun d => by simp, fun d hd => ?_⟩
  grind [Dev.notifyCart_stored, Dev.event_stored, Dev.onCart_stored, Dev.cartEnd_stored]

theorem execCartFailure_completes (fault : CardFault) (s : State) : Completes none s (execCartFailure fault s) := by
  refine run_completes ⟨fun d => by simp, fun d hd => ?_⟩
  grind [Dev.notifyCart_stored, Dev.event_stored, Dev.onCart_stored, Dev.cartEnd_stored]

theorem execCartAuth_completes (channel : Nat) (card : CardInfo) (s : State) :
    Completes (lacks .noSuchChannel channel 16) s (execCartAuth channel card s) := by
  refine runCmd_completes fun q => ⟨fun d => ?_, fun d hd => ?_⟩
  · dsimp only
    (repeat' split) <;> simp
  · grind [Dev.authFailed_stored, Dev.authTalk_stored, Dev.draw_stored, Dev.countPkg_stored, Dev.onCart_stored]

theorem execCartManifestRead_completes (channel : Nat) (s : State) :
    Completes (lacks .noSuchChannel channel 16) s (execCartManifestRead channel s) :=
  runCmd_completes fun q => ⟨fun d => by (repeat' split) <;> simp,
    fun d hd => by (repeat' split) <;> simp [hd]⟩

theorem execCartTitleImport_completes (channel : Nat) (status : BitVec 16) (key : BitVec 256) (s : State) :
    Completes (lacks .noSuchChannel channel 16) s (execCartTitleImport channel status key s) := by
  refine runCmd_completes fun q => ⟨fun d => ?_, fun d hd => ?_⟩
  · dsimp only
    (repeat' split) <;> simp
  · grind [Dev.badRecord_stored, Dev.askTitleKey_stored, Dev.countPkg_stored, Dev.onTitle_stored]

theorem execCartStreamMap_completes (channel : Nat) (hashTable : List Byte) (s : State) :
    Completes (lacks .noSuchChannel channel 16) s (execCartStreamMap channel hashTable s) :=
  runCmd_completes fun q => ⟨fun d => by dsimp only; (repeat' split) <;> simp,
    fun d hd => by dsimp only; (repeat' split) <;> simp [hd]⟩

theorem execCardRequest_completes (request : CardReq) (s : State) : Completes none s (execCardRequest request s) :=
  run_completes ⟨fun d => by dsimp only; (repeat' split) <;> simp [Dev.shape_upd],
    fun d hd => by dsimp only; (repeat' split) <;> simp [hd]⟩

/-! ### Commands of firmware -/

theorem execFwStage_completes (channel : Nat) (buffer : List Byte) (s : State) :
    Completes (lacks .noSuchChannel channel 16) s (execFwStage channel buffer s) :=
  runCmd_completes fun _ => ⟨fun d => by simp, fun d hd => by simp [hd]⟩

theorem execFwActivate_completes (channel : Nat) (s : State) :
    Completes (lacks .noSuchChannel channel 16) s (execFwActivate channel s) :=
  runCmd_completes fun q => ⟨fun d => by dsimp only; (repeat' split) <;> simp,
    fun d hd => by dsimp only; (repeat' split) <;> simp [hd]⟩

theorem execFwInfo_completes (channel : Nat) (s : State) :
    Completes (lacks .noSuchChannel channel 16) s (execFwInfo channel s) :=
  runAnswer_completes

/-! ### Commands of security -/

theorem execLifecycleGet_completes (channel : Nat) (s : State) :
    Completes (lacks .noSuchChannel channel 16) s (execLifecycleGet channel s) :=
  runAnswer_completes

theorem execSecPolicySet_completes (channel : Nat) (s : State) :
    Completes (lacks .noSuchChannel channel 16) s (execSecPolicySet channel s) :=
  runCmd_completes fun q => ⟨fun d => by dsimp only; (repeat' split) <;> simp [Dev.shape_upd],
    fun d hd => by dsimp only; (repeat' split) <;> simp [hd]⟩

theorem execSecAlarmStatus_completes (channel : Nat) (s : State) :
    Completes (lacks .noSuchChannel channel 16) s (execSecAlarmStatus channel s) :=
  runAnswer_completes

theorem execSecAlarmClear_completes (channel : Nat) (s : State) :
    Completes (lacks .noSuchChannel channel 16) s (execSecAlarmClear channel s) :=
  runCmd_completes fun _ => ⟨fun _ => rfl, fun _ hd => hd⟩

theorem execRollbackRead_completes (channel : Nat) (s : State) :
    Completes (lacks .noSuchChannel channel 16) s (execRollbackRead channel s) :=
  runAnswer_completes

theorem execRollbackAdvance_completes (channel : Nat) (s : State) :
    Completes (lacks .noSuchChannel channel 16) s (execRollbackAdvance channel s) :=
  runCmd_completes fun q => ⟨fun d => by dsimp only; (repeat' split) <;> simp,
    fun d hd => by dsimp only; (repeat' split) <;> simp [hd]⟩

theorem execKeySlotWrite_completes (channel : Nat) (s : State) :
    Completes (lacks .noSuchChannel channel 16) s (execKeySlotWrite channel s) :=
  runCmd_completes fun q => ⟨fun d => by dsimp only; (repeat' split) <;> simp,
    fun d hd => by dsimp only; (repeat' split) <;> simp [hd]⟩

theorem execTestEnter_completes (channel : Nat) (s : State) :
    Completes (lacks .noSuchChannel channel 16) s (execTestEnter channel s) :=
  runCmd_completes fun q => ⟨fun d => by (repeat' split) <;> simp,
    fun d hd => by (repeat' split) <;> simp [hd]⟩

/-! ### Commands of counters -/

theorem execCounterSnapshot_completes (channel : Nat) (s : State) :
    Completes (lacks .noSuchChannel channel 16) s (execCounterSnapshot channel s) :=
  runCmd_completes fun q => ⟨fun d => by (repeat' split) <;> simp [Dev.shape_upd],
    fun d hd => by (repeat' split) <;> simp [hd]⟩

theorem execCounterRead_completes (channel : Nat) (s : State) :
    Completes (lacks .noSuchChannel channel 16) s (execCounterRead channel s) :=
  runAnswer_completes

theorem execBwWindowSet_completes (channel : Nat) (s : State) :
    Completes (lacks .noSuchChannel channel 16) s (execBwWindowSet channel s) :=
  runCmd_completes fun q => ⟨fun d => by dsimp only; (repeat' split) <;> simp [Dev.shape_upd],
    fun d hd => by dsimp only; (repeat' split) <;> simp [hd]⟩

theorem execBwWindowEnd_completes (s : State) : Completes none s (execBwWindowEnd s) :=
  run_completes (Keeps.ite (c := fun d => (d.atRoundBoundary && d.clock.round.toNat % (d.counters.windowNext.getD
    d.counters.window) == 0 && d.clock.round.toNat != d.counters.windowLast) = true) ⟨fun d => by simp [Dev.shape], fun d
    hd => hd⟩ keeps_self)

/-! ### Commands of the parameter store -/

theorem execPstoreRead_completes (channel : Nat) (correctedGroups : List Nat) (s : State) :
    Completes (lacks .noSuchChannel channel 16) s (execPstoreRead channel correctedGroups s) :=
  runCmd_completes fun q => ⟨fun d => by dsimp only; (repeat' split) <;> simp,
    fun d hd => by dsimp only; (repeat' split) <;> simp [hd]⟩

theorem execPstoreWrite_completes (channel : Nat) (s : State) :
    Completes (lacks .noSuchChannel channel 16) s (execPstoreWrite channel s) :=
  runCmd_completes fun q => ⟨fun d => by dsimp only; (repeat' split) <;> simp,
    fun d hd => by dsimp only; (repeat' split) <;> simp [hd]⟩

theorem execPstoreProgramDone_completes (pass : Bool) (s : State) : Completes none s (execPstoreProgramDone pass s) := by
  refine run_completes ⟨fun d => ?_, fun d hd => ?_⟩
  · have hopen := foldl_shape Dev.openGroup Dev.openGroup_shape
    grind [Dev.serveStore_shape, Dev.answerAccess_shape, Dev.countPkg_shape, Dev.shape_upd]
  · have hopen := foldl_stored Dev.openGroup Dev.openGroup_stored
    grind [Dev.serveStore_stored, Dev.answerAccess_stored, Dev.countPkg_stored, PStore.write_wf, Dev.stored_mk,
      Dev.stored_pstore, Dev.stored_window]

theorem execRepeatCountWrite_completes (good : Bool) (s : State) : Completes none s (execRepeatCountWrite good s) := by
  refine run_completes ⟨fun d => ?_, fun d hd => ?_⟩
  · grind [Dev.storeRepeats_shape, Dev.failRecorder_shape, Dev.countPkg_shape, Dev.openGroup_shape, Dev.shape_upd]
  · grind [Dev.storeRepeats_stored, Dev.failRecorder_stored, Dev.countPkg_stored, Dev.openGroup_stored, Dev.stored_mk,
      Dev.stored_pstore, Dev.stored_window]

theorem execMirrorSave_completes (s : State) : Completes none s (execMirrorSave s) :=
  run_completes ⟨fun d => by simp, fun d hd => by simp [hd]⟩

/-! ### Commands of the standard mailbox -/

theorem execIdentifyMemoryDevice_completes (port : Nat) (s : State) :
    Completes (lacks .noSuchPort port s.dev.sliceCount) s (execIdentifyMemoryDevice port s) :=
  runStd_completes ⟨fun _ => rfl, fun _ hd => hd⟩

theorem execGetHealthInfo_completes (port : Nat) (s : State) :
    Completes (lacks .noSuchPort port s.dev.sliceCount) s (execGetHealthInfo port s) :=
  runStd_completes ⟨fun d => by dsimp only; (repeat' split) <;> simp,
    fun d hd => by dsimp only; (repeat' split) <;> simp [hd]⟩

theorem execGetAlertConfiguration_completes (port : Nat) (s : State) :
    Completes (lacks .noSuchPort port s.dev.sliceCount) s (execGetAlertConfiguration port s) :=
  runStdAnswer_completes

theorem execSetAlertConfiguration_completes (port : Nat) (valid : BitVec 5) (values : List Int) (s : State) :
    Completes (lacks .noSuchPort port s.dev.sliceCount) s (execSetAlertConfiguration port valid values s) :=
  runStd_completes ⟨fun _ => rfl, fun _ hd => hd⟩

theorem execGetEventRecords_completes (port log : Nat) (s : State) :
    Completes (lacks .noSuchPort port s.dev.sliceCount) s (execGetEventRecords port log s) :=
  runStdAnswer_completes

theorem execClearEventRecords_completes (port log : Nat) (all : Bool) (handles : List Nat) (s : State) :
    Completes (lacks .noSuchPort port s.dev.sliceCount) s (execClearEventRecords port log all handles s) :=
  runStd_completes ⟨fun d => by (repeat' split) <;> simp [Dev.shape_upd],
    fun d hd => by (repeat' split) <;> simp [hd]⟩

theorem execGetEventInterruptPolicy_completes (port : Nat) (s : State) :
    Completes (lacks .noSuchPort port s.dev.sliceCount) s (execGetEventInterruptPolicy port s) :=
  runStdAnswer_completes

theorem execSetEventInterruptPolicy_completes (port : Nat) (policy : BitVec 32) (s : State) :
    Completes (lacks .noSuchPort port s.dev.sliceCount) s (execSetEventInterruptPolicy port policy s) :=
  runStd_completes ⟨fun d => by simp,
    fun d hd => hd⟩

theorem execGetSupportedLogs_completes (port : Nat) (s : State) :
    Completes (lacks .noSuchPort port s.dev.sliceCount) s (execGetSupportedLogs port s) :=
  runStdAnswer_completes

theorem execGetLog_completes (port : Nat) (uuid : BitVec 128) (offset length : Nat) (s : State) :
    Completes (lacks .noSuchPort port s.dev.sliceCount) s (execGetLog port uuid offset length s) :=
  runStdAnswer_completes

theorem execGetTimestamp_completes (port : Nat) (s : State) :
    Completes (lacks .noSuchPort port s.dev.sliceCount) s (execGetTimestamp port s) :=
  runStdAnswer_completes

theorem execSetTimestamp_completes (port : Nat) (value : BitVec 64) (s : State) :
    Completes (lacks .noSuchPort port s.dev.sliceCount) s (execSetTimestamp port value s) :=
  runStd_completes ⟨fun _ => rfl, fun _ hd => hd⟩

theorem execGetFwInfo_completes (port : Nat) (s : State) :
    Completes (lacks .noSuchPort port s.dev.sliceCount) s (execGetFwInfo port s) :=
  runStdAnswer_completes

theorem execUnsupportedStandardCommand_completes (port : Nat) (_opcode : BitVec 16) (s : State) :
    Completes (lacks .noSuchPort port s.dev.sliceCount) s (execUnsupportedStandardCommand port _opcode s) :=
  runStdAnswer_completes

/-! ### Commands of host ports -/

theorem execHdmDecoderCommit_completes (port decoder : Nat) (s : State) :
    Completes (lacks .noSuchPort port s.dev.sliceCount) s (execHdmDecoderCommit port decoder s) :=
  runPort_completes ⟨fun d => by simp, fun d hd => by simp [hd]⟩ _

theorem execHdmDecoderUncommit_completes (port decoder : Nat) (s : State) :
    Completes (lacks .noSuchPort port s.dev.sliceCount) s (execHdmDecoderUncommit port decoder s) :=
  runPort_completes ⟨fun d => by simp, fun d hd => by simp [hd]⟩ _

theorem execPortReset_completes (port : Nat) (s : State) :
    Completes (lacks .noSuchPort port s.dev.sliceCount) s (execPortReset port s) := by
  refine runPort_completes ⟨fun d => ?_, fun d hd => ?_⟩ _
  · grind [Dev.onPort_shape, Dev.forgetPort_shape, Dev.shape_upd]
  · grind [Dev.onPort_stored, Dev.forgetPort_stored, Dev.stored_mk, Dev.stored_pstore, Dev.stored_window]

theorem execHostLinkUp_completes (port width speed : Nat) (flit256 : Bool) (s : State) :
    Completes (lacks .noSuchPort port s.dev.sliceCount) s (execHostLinkUp port width speed flit256 s) :=
  runPort_completes ⟨fun d => by simp, fun d hd => by simp [hd]⟩ _

theorem execLinkL1Entry_completes (port : Nat) (s : State) :
    Completes (lacks .noSuchPort port s.dev.sliceCount) s (execLinkL1Entry port s) :=
  runPort_completes ⟨fun d => by simp, fun d hd => by simp [hd]⟩ _

theorem execLinkL1Exit_completes (port : Nat) (s : State) :
    Completes (lacks .noSuchPort port s.dev.sliceCount) s (execLinkL1Exit port s) := by
  refine runPort_completes ⟨fun d => ?_, fun d hd => ?_⟩ _
  · grind [Dev.onPort_shape, Dev.shape_upd]
  · grind [Dev.onPort_stored, Dev.stored_mk, Dev.stored_pstore, Dev.stored_window]

theorem execLinkRecovery_completes (port : Nat) (excluded : BitVec 16) (s : State) :
    Completes (lacks .noSuchPort port s.dev.sliceCount) s (execLinkRecovery port excluded s) := by
  refine runPort_completes ⟨fun d => by simp, fun d hd => ?_⟩ _
  grind [Dev.narrowPort_stored, Dev.onPort_stored, Dev.count_stored]

theorem execIdeIntegrityFailure_completes (port : Nat) (selective : Bool) (s : State) :
    Completes (lacks .noSuchPort port s.dev.sliceCount) s (execIdeIntegrityFailure port selective s) := by
  refine runPort_completes ⟨fun d => by simp, fun d hd => ?_⟩ _
  grind [Dev.alarm_stored, Dev.event_stored, Dev.countPkg_stored, Dev.onPort_stored]

/-! ### Commands of the boot port -/

theorem execRead_completes (address : BitVec 24) (length : Nat) (s : State) :
    Completes none s (execRead address length s) :=
  runXspiRead_completes _ _

theorem execFastRead_completes (address : BitVec 24) (length : Nat) (s : State) :
    Completes none s (execFastRead address length s) :=
  runXspiRead_completes _ _

theorem execReadSfdp_completes (address : BitVec 24) (length : Nat) (s : State) :
    Completes none s (execReadSfdp address length s) :=
  runXspiRead_completes _ _

theorem execReadStatus_completes (length : Nat) (s : State) : Completes none s (execReadStatus length s) :=
  runXspiRead_completes _ _

theorem execOctalRead_completes (address : BitVec 32) (length : Nat) (s : State) :
    Completes none s (execOctalRead address length s) :=
  runXspiRead_completes _ _

theorem execOctalReadStatus_completes (length : Nat) (s : State) : Completes none s (execOctalReadStatus length s) :=
  runXspiRead_completes _ _

theorem execWriteEnable_completes (s : State) : Completes none s (execWriteEnable s) :=
  runXspi_completes (keeps_onBoot _) _

theorem execWriteVolatileConfig_completes (address : BitVec 32) (value : Byte) (s : State) :
    Completes none s (execWriteVolatileConfig address value s) :=
  runXspi_completes ⟨fun d => by (repeat' split) <;> simp,
    fun d hd => by (repeat' split) <;> simp [hd]⟩ _

theorem execResetEnable_completes (s : State) : Completes none s (execResetEnable s) :=
  runXspi_completes (keeps_onBoot _) _

theorem execReset_completes (s : State) : Completes none s (execReset s) :=
  runXspi_completes (keeps_onBoot _) _

theorem execXspiIgnoredCommand_completes (_opcode : Byte) (s : State) :
    Completes none s (execXspiIgnoredCommand _opcode s) :=
  run_completes ⟨fun _ => rfl, fun _ hd => hd⟩

/-! ### Commands of the sideband -/

theorem execI3cAddressAssign_completes (how : I3cAssign) (address : BitVec 7) (s : State) :
    Completes none s (execI3cAddressAssign how address s) :=
  run_completes ⟨fun d => by (repeat' split) <;> simp,
    fun d hd => by (repeat' split) <;> simp [hd]⟩

theorem execI3cChannelWrite_completes (channel : Nat) (bytes : SidebandBytes) (s : State) :
    Completes (lacks .noSuchChannel channel 16) s (execI3cChannelWrite channel bytes s) :=
  runChannelTarget_completes ⟨fun d => by simp, fun d hd => by simp [hd]⟩ _

theorem execI3cChannelRead_completes (channel : SidebandRead) (s : State) :
    Completes (lacks .noSuchChannel channel.operand 16) s (execI3cChannelRead channel s) := by
  refine runChannelTarget_completes ⟨fun d => by simp, fun d hd => ?_⟩ _
  grind [Dev.dropOut_stored, Dev.emit_stored, Dev.onChan_stored]

theorem execRegWrite_completes (offset : BitVec 32) (value : SidebandValue) (s : State) :
    Completes none s (execRegWrite offset value s) :=
  runControl_completes ⟨fun _ => Dev.withOffset_shape _ _ _ fun _ => Dev.acceptRegister_shape _ _,
    fun _ hd => Dev.withOffset_stored _ _ _ (fun _ h => Dev.acceptRegister_stored _ _ h) hd⟩

theorem execRegAddr_completes (offset : BitVec 32) (s : State) : Completes none s (execRegAddr offset s) :=
  runControl_completes ⟨fun _ => Dev.withOffset_shape _ _ _ fun _ => Dev.acceptRegister_shape _ _,
    fun _ hd => Dev.withOffset_stored _ _ _ (fun _ h => Dev.acceptRegister_stored _ _ h) hd⟩

theorem execBufWrite_completes (offset : BitVec 16) (data : List Byte) (s : State) :
    Completes none s (execBufWrite offset data s) :=
  runControl_completes ⟨fun _ => rfl, fun _ hd => ⟨hd.1, memWrite_wf hd.2 _ _⟩⟩

theorem execBufAddr_completes (offset : BitVec 16) (s : State) : Completes none s (execBufAddr offset s) :=
  runControl_completes ⟨fun _ => rfl, fun _ hd => hd⟩

theorem execDrop_completes (channel : Byte) (s : State) : Completes none s (execDrop channel s) :=
  runControl_completes ⟨fun d => by simp, fun d hd => by simp [hd]⟩

theorem execI3cControlRead_completes (bytes : SidebandRead) (s : State) : Completes none s (execI3cControlRead bytes s) :=
  runControl_completes ⟨fun d => by simp, fun d hd => by simp [hd]⟩

/-! ### Commands of debug -/

theorem execBypass_completes (code : Byte) (s : State) : Completes none s (execBypass code s) :=
  runJtag_completes ⟨fun _ => Dev.bypass_shape _, fun _ => Dev.bypass_stored _⟩ _

theorem execIdcode_completes (s : State) : Completes none s (execIdcode s) :=
  runJtag_completes (keeps_emit _) _

theorem execUnlockStatus_completes (s : State) : Completes none s (execUnlockStatus s) :=
  runJtag_completes (keeps_emit _) _

theorem execFault_completes (s : State) : Completes none s (execFault s) :=
  runJtag_completes (keeps_emit _) _

theorem execExtest_completes (scan : List Bool) (s : State) : Completes none s (execExtest scan s) :=
  runJtag_completes ⟨fun d => by simp, fun d hd => by simp [hd]⟩ _

theorem execSamplePreload_completes (scan : List Bool) (s : State) : Completes none s (execSamplePreload scan s) :=
  runJtag_completes ⟨fun d => by simp, fun d hd => by simp [hd]⟩ _

theorem execChallenge_completes (s : State) : Completes none s (execChallenge s) :=
  runJtag_completes ⟨fun d => by simp, fun d hd => by
    simp [Dev.emit_stored _ _ (Dev.onDebug_stored _ _ (Dev.random_stored d hd))]⟩ _

theorem execToken_completes (bytes : List Byte) (s : State) : Completes none s (execToken bytes s) :=
  runJtag_completes ⟨fun d => by simp, fun d hd => by simp [hd]⟩ _

theorem execDapAccess_completes (write : Bool) (target : DapTarget) (value : BitVec 64) (s : State) :
    Completes none s (execDapAccess write target value s) := by
  refine runJtag_completes ⟨fun d => ?_, fun d hd => ?_⟩ _
  · dsimp only
    (repeat' split) <;> simp
  · grind [Dev.withScope_stored, Dev.debugRegister_stored, Dev.debugDpa_stored, Dev.debugWorking_stored,
      Dev.debugDram_stored, Dev.debugDenied_stored, Dev.debugOpaque_stored, Dev.debugProcessor_stored,
      Dev.debugTest_stored, Dev.bypass_stored]

/-! ### Every command -/

/-- Every command but LIFECYCLE_ADVANCE completes with an effect that keeps the package whole, or stops with the fault of the
unit that it names and the part lacks. -/
theorem exec_completes {c : Instr} (hc : ∀ k f, c ≠ .lifecycleAdvance k f) (s : State) :
    Completes (missing s.dev c) s (exec c s) := by
  cases c with
  | tickBoundary _ => exact execTickBoundary_completes _ _
  | checkpointCopyTaken _ => exact execCheckpointCopyTaken_completes _ _
  | rekeySweepEnd _ => exact execRekeySweepEnd_completes _ _
  | skippedTick => exact execSkippedTick_completes _
  | roundBoundary _ => exact execRoundBoundary_completes _ _
  | shadowCopyDone => exact execShadowCopyDone_completes _
  | dryTimeout _ => exact execDryTimeout_completes _ _
  | idleExit => exact execIdleExit_completes _
  | firmwareVariantChange => exact execFirmwareVariantChange_completes _
  | thermalSample _ => exact execThermalSample_completes _ _
  | cxlMemRead _ _ _ _ => exact execCxlMemRead_completes _ _ _ _ _
  | streamUnitLoaded _ _ _ => exact execStreamUnitLoaded_completes _ _ _ _
  | cxlMemWrite _ _ _ _ _ _ => exact execCxlMemWrite_completes _ _ _ _ _ _ _
  | alarmPolicyAction _ => exact execAlarmPolicyAction_completes _ _
  | pageReadComplete _ _ _ => exact execPageReadComplete_completes _ _ _ _
  | programComplete _ _ _ _ _ => exact execProgramComplete_completes _ _ _ _ _ _
  | durableWriteComplete _ _ => exact execDurableWriteComplete_completes _ _ _
  | trim _ => exact execTrim_completes _ _
  | clearSegmentComplete _ _ _ _ _ => exact execClearSegmentComplete_completes _ _ _ _ _ _
  | sourceInvalidate _ _ => exact execSourceInvalidate_completes _ _ _
  | sourceClearStart _ _ => exact execSourceClearStart_completes _ _ _
  | verifyComplete _ _ => exact execVerifyComplete_completes _ _ _
  | tailAdvance _ => exact execTailAdvance_completes _ _
  | hintWrite _ _ _ => exact execHintWrite_completes _ _ _ _
  | globalPersistentFlush _ => exact execGlobalPersistentFlush_completes _ _
  | flushComplete _ => exact execFlushComplete_completes _ _
  | cacheClearingDone _ => exact execCacheClearingDone_completes _ _
  | cacheDrainDone _ => exact execCacheDrainDone_completes _ _
  | maintDone => exact execMaintDone_completes _
  | maintClean _ _ _ => exact execMaintClean_completes _ _ _ _
  | maintInvalidate _ _ _ => exact execMaintInvalidate_completes _ _ _ _
  | maintCleanInvalidate _ _ _ => exact execMaintCleanInvalidate_completes _ _ _ _
  | setwayClean _ _ _ => exact execSetwayClean_completes _ _ _ _
  | setwayInvalidate _ _ _ => exact execSetwayInvalidate_completes _ _ _ _
  | setwayCleanInvalidate _ _ _ => exact execSetwayCleanInvalidate_completes _ _ _ _
  | cacheCmdEnable _ _ => exact execCacheCmdEnable_completes _ _ _
  | drainDisable _ _ => exact execDrainDisable_completes _ _ _
  | discardDisable _ _ => exact execDiscardDisable_completes _ _ _
  | swapRequest _ _ _ => exact execSwapRequest_completes _ _ _ _
  | retrainAll _ _ _ => exact execRetrainAll_completes _ _ _ _
  | registerWrite _ _ _ _ _ => exact execRegisterWrite_completes _ _ _ _ _ _
  | mbInWrite _ _ _ _ _ => exact execMbInWrite_completes _ _ _ _ _ _
  | mbOutRead _ _ _ _ _ => exact execMbOutRead_completes _ _ _ _ _ _
  | mailboxDrop _ _ _ _ => exact execMailboxDrop_completes _ _ _ _ _
  | mbAssignWrite _ _ _ => exact execMbAssignWrite_completes _ _ _ _
  | mailboxTimeout _ => exact execMailboxTimeout_completes _ _
  | ringEnable _ _ _ _ => exact execRingEnable_completes _ _ _ _ _
  | ringDisable _ _ _ _ => exact execRingDisable_completes _ _ _ _ _
  | ringReset _ _ _ _ => exact execRingReset_completes _ _ _ _ _
  | ringDoorbell _ _ _ => exact execRingDoorbell_completes _ _ _ _
  | ringCplHeadWrite _ _ _ _ => exact execRingCplHeadWrite_completes _ _ _ _ _
  | copy _ _ _ => exact execCopy_completes _ _ _ _
  | install _ _ _ => exact execInstall_completes _ _ _ _
  | installUnitLoaded _ _ _ _ => exact execInstallUnitLoaded_completes _ _ _ _ _
  | hint _ _ _ => exact execHint_completes _ _ _ _
  | persist _ _ _ => exact execPersist_completes _ _ _ _
  | verify _ _ _ => exact execVerify_completes _ _ _ _
  | zero _ _ _ => exact execZero_completes _ _ _ _
  | trimDescriptor _ _ _ => exact execTrimDescriptor_completes _ _ _ _
  | descriptorComplete _ _ => exact execDescriptorComplete_completes _ _ _
  | identifyMemoryDevice _ => exact execIdentifyMemoryDevice_completes _ _
  | getHealthInfo _ => exact execGetHealthInfo_completes _ _
  | getAlertConfiguration _ => exact execGetAlertConfiguration_completes _ _
  | setAlertConfiguration _ _ _ => exact execSetAlertConfiguration_completes _ _ _ _
  | getEventRecords _ _ => exact execGetEventRecords_completes _ _ _
  | clearEventRecords _ _ _ _ => exact execClearEventRecords_completes _ _ _ _ _
  | getEventInterruptPolicy _ => exact execGetEventInterruptPolicy_completes _ _
  | setEventInterruptPolicy _ _ => exact execSetEventInterruptPolicy_completes _ _ _
  | getSupportedLogs _ => exact execGetSupportedLogs_completes _ _
  | getLog _ _ _ _ => exact execGetLog_completes _ _ _ _ _
  | getTimestamp _ => exact execGetTimestamp_completes _ _
  | setTimestamp _ _ => exact execSetTimestamp_completes _ _ _
  | getFwInfo _ => exact execGetFwInfo_completes _ _
  | unsupportedStandardCommand _ opcode => exact execUnsupportedStandardCommand_completes _ opcode _
  | hdmDecoderCommit _ _ => exact execHdmDecoderCommit_completes _ _ _
  | hdmDecoderUncommit _ _ => exact execHdmDecoderUncommit_completes _ _ _
  | portReset _ => exact execPortReset_completes _ _
  | linkL1Entry _ => exact execLinkL1Entry_completes _ _
  | linkL1Exit _ => exact execLinkL1Exit_completes _ _
  | linkRecovery _ _ => exact execLinkRecovery_completes _ _ _
  | ideIntegrityFailure _ _ => exact execIdeIntegrityFailure_completes _ _ _
  | read _ _ => exact execRead_completes _ _ _
  | fastRead _ _ => exact execFastRead_completes _ _ _
  | readSfdp _ _ => exact execReadSfdp_completes _ _ _
  | readStatus _ => exact execReadStatus_completes _ _
  | octalRead _ _ => exact execOctalRead_completes _ _ _
  | octalReadStatus _ => exact execOctalReadStatus_completes _ _
  | writeEnable => exact execWriteEnable_completes _
  | writeVolatileConfig _ _ => exact execWriteVolatileConfig_completes _ _ _
  | resetEnable => exact execResetEnable_completes _
  | reset => exact execReset_completes _
  | xspiIgnoredCommand opcode => exact execXspiIgnoredCommand_completes opcode _
  | i3cAddressAssign _ _ => exact execI3cAddressAssign_completes _ _ _
  | i3cChannelWrite _ _ => exact execI3cChannelWrite_completes _ _ _
  | i3cChannelRead _ => exact execI3cChannelRead_completes _ _
  | regWrite _ _ => exact execRegWrite_completes _ _ _
  | regAddr _ => exact execRegAddr_completes _ _
  | bufWrite _ _ => exact execBufWrite_completes _ _ _
  | bufAddr _ => exact execBufAddr_completes _ _
  | drop _ => exact execDrop_completes _ _
  | i3cControlRead _ => exact execI3cControlRead_completes _ _
  | undefinedOpcode _ => exact execUndefinedOpcode_completes _ _
  | identify _ => exact execIdentify_completes _ _
  | identifySlice _ => exact execIdentifySlice_completes _ _
  | imageLoad _ _ => exact execImageLoad_completes _ _ _
  | imageStagingTimeout => exact execImageStagingTimeout_completes _
  | imageActivate _ => exact execImageActivate_completes _ _
  | imageStatus _ => exact execImageStatus_completes _ _
  | schedRead _ => exact execSchedRead_completes _ _
  | schedSwap _ => exact execSchedSwap_completes _ _
  | contractReport _ => exact execContractReport_completes _ _
  | regionSet _ => exact execRegionSet_completes _ _
  | regionGet _ => exact execRegionGet_completes _ _
  | portClassSet _ => exact execPortClassSet_completes _ _
  | shadowRevert _ => exact execShadowRevert_completes _ _
  | cacheMaint _ => exact execCacheMaint_completes _ _
  | cacheDisable _ => exact execCacheDisable_completes _ _
  | cacheEnable _ => exact execCacheEnable_completes _ _
  | cacheStatus _ => exact execCacheStatus_completes _ _
  | titleImport _ => exact execTitleImport_completes _ _
  | titleOpen _ => exact execTitleOpen_completes _ _
  | titleClose _ => exact execTitleClose_completes _ _
  | titleStatus _ => exact execTitleStatus_completes _ _
  | titleBindRing _ => exact execTitleBindRing_completes _ _
  | titleDelete _ => exact execTitleDelete_completes _ _
  | deviceKeyGet _ => exact execDeviceKeyGet_completes _ _
  | ideKeySet _ => exact execIdeKeySet_completes _ _
  | healthGet _ => exact execHealthGet_completes _ _
  | recorderRead _ => exact execRecorderRead_completes _ _
  | recorderStatus _ => exact execRecorderStatus_completes _ _
  | recorderClear _ _ => exact execRecorderClear_completes _ _ _
  | lastGaspRead _ => exact execLastGaspRead_completes _ _
  | lifeGet _ => exact execLifeGet_completes _ _
  | notifySet _ => exact execNotifySet_completes _ _
  | modeEnter _ => exact execModeEnter_completes _ _
  | orderlyShutdown _ => exact execOrderlyShutdown_completes _ _
  | warmReset _ => exact execWarmReset_completes _ _
  | thermalStatus _ => exact execThermalStatus_completes _ _
  | faultStatus _ => exact execFaultStatus_completes _ _
  | faultClear _ => exact execFaultClear_completes _ _
  | cartStatus _ => exact execCartStatus_completes _ _
  | cartPower _ => exact execCartPower_completes _ _
  | cartRefclkStart => exact execCartRefclkStart_completes _
  | cartPerstRelease => exact execCartPerstRelease_completes _
  | cartAuth _ _ => exact execCartAuth_completes _ _ _
  | cartManifestRead _ => exact execCartManifestRead_completes _ _
  | cartTitleImport _ _ _ => exact execCartTitleImport_completes _ _ _ _
  | cartStreamMap _ _ => exact execCartStreamMap_completes _ _ _
  | cardPresent => exact execCardPresent_completes _
  | cardRemoved => exact execCardRemoved_completes _
  | cartFailure _ => exact execCartFailure_completes _ _
  | cardRequest _ => exact execCardRequest_completes _ _
  | fwStage _ _ => exact execFwStage_completes _ _ _
  | fwActivate _ => exact execFwActivate_completes _ _
  | fwInfo _ => exact execFwInfo_completes _ _
  | lifecycleGet _ => exact execLifecycleGet_completes _ _
  | lifecycleAdvance _ _ => exact absurd rfl (hc _ _)
  | secPolicySet _ => exact execSecPolicySet_completes _ _
  | secAlarmStatus _ => exact execSecAlarmStatus_completes _ _
  | secAlarmClear _ => exact execSecAlarmClear_completes _ _
  | rollbackRead _ => exact execRollbackRead_completes _ _
  | rollbackAdvance _ => exact execRollbackAdvance_completes _ _
  | keySlotWrite _ => exact execKeySlotWrite_completes _ _
  | testEnter _ => exact execTestEnter_completes _ _
  | counterSnapshot _ => exact execCounterSnapshot_completes _ _
  | snapshotLatch => exact execSnapshotLatch_completes _
  | counterRead _ => exact execCounterRead_completes _ _
  | bwWindowSet _ => exact execBwWindowSet_completes _ _
  | bwWindowEnd => exact execBwWindowEnd_completes _
  | pstoreRead _ _ => exact execPstoreRead_completes _ _ _
  | pstoreWrite _ => exact execPstoreWrite_completes _ _
  | pstoreProgramDone _ => exact execPstoreProgramDone_completes _ _
  | repeatCountWrite _ => exact execRepeatCountWrite_completes _ _
  | mirrorSave => exact execMirrorSave_completes _
  | extest _ => exact execExtest_completes _ _
  | samplePreload _ => exact execSamplePreload_completes _ _
  | idcode => exact execIdcode_completes _
  | challenge => exact execChallenge_completes _
  | token _ => exact execToken_completes _ _
  | unlockStatus => exact execUnlockStatus_completes _
  | fault => exact execFault_completes _
  | dapAccess _ _ _ => exact execDapAccess_completes _ _ _ _
  | bypass _ => exact execBypass_completes _ _
  | alwaysOnPowerOn => exact execAlwaysOnPowerOn_completes _
  | aonPowerOff => exact execAonPowerOff_completes _
  | resetNLow _ => exact execResetNLow_completes _ _
  | resetNHigh => exact execResetNHigh_completes _
  | powerFail _ _ => exact execPowerFail_completes _ _ _
  | wakeEvent => exact execWakeEvent_completes _
  | startConditionMet => exact execStartConditionMet_completes _
  | railGood _ => exact execRailGood_completes _ _
  | railRampTimeout _ => exact execRailRampTimeout_completes _ _
  | railFailure _ => exact execRailFailure_completes _ _
  | railShortDrop _ => exact execRailShortDrop_completes _ _
  | railOffTimeout _ => exact execRailOffTimeout_completes _ _
  | vppDischargeTimeout => exact execVppDischargeTimeout_completes _
  | vppClampRelease => exact execVppClampRelease_completes _
  | barrierRelease => exact execBarrierRelease_completes _
  | barrierTimeout => exact execBarrierTimeout_completes _
  | externalFault => exact execExternalFault_completes _
  | watchdogExpiry => exact execWatchdogExpiry_completes _
  | dramTrainingDone _ _ _ => exact execDramTrainingDone_completes _ _ _ _
  | tickStart _ _ => exact execTickStart_completes _ _ _
  | bootComplete => exact execBootComplete_completes _
  | dramRefresh _ _ _ => exact execDramRefresh_completes _ _ _ _
  | forcedRefresh _ _ _ => exact execForcedRefresh_completes _ _ _ _
  | hostLinkUp _ _ _ _ => exact execHostLinkUp_completes _ _ _ _ _
  | cartLinkUp _ _ => exact execCartLinkUp_completes _ _ _
  | cartClkreqChange _ => exact execCartClkreqChange_completes _ _
  | cartShutdownDone => exact execCartShutdownDone_completes _
  | cartRefclkStop => exact execCartRefclkStop_completes _
  | cartPwrEnFall => exact execCartPwrEnFall_completes _
  | drowseThermalSample _ _ => exact execDrowseThermalSample_completes _ _ _
  | railOff _ => exact execRailOff_completes _ _
  | protectedSpaceFillDone _ => exact execProtectedSpaceFillDone_completes _ _
  | descriptorFetchTimeout _ _ => exact execDescriptorFetchTimeout_completes _ _ _

end Sys2Proof.Machine
end

section
/-!
SUPPORT. What holds of the whole machine: the queue, the faults of absent units, and what every step keeps (R18, R30, R312,
R319, R326, R351, R352, R384).
-/
namespace Sys2Proof.Machine

open Sys2Proof

/-! ### Serving a request, case by case -/

/-- Serving a channel leaves the package as it is or resynchronized, answers a refusal, or answers the command's own reply. -/
theorem Dev.serve_cases (d : Dev) (c op : Nat) (early : Dev → Req → Option Nat) (body : Dev → Req → Dev × Reply) :
    d.serve c op early body = d ∨ d.serve c op early body = d.resync c
      ∨ (∃ q rest r, d.serve c op early body = (d.takeRequest c rest).answer q r)
      ∨ ∃ q rest, d.serve c op early body
          = (body (d.takeRequest c rest) q).1.answer q (body (d.takeRequest c rest) q).2 := by
  unfold Dev.serve
  split
  · exact .inl rfl
  · split
    · exact .inr (.inl rfl)
    · split
      case h_1 q rest bad r _ _ =>
        split
        · exact .inl rfl
        · dsimp only
          split
          · exact .inr (.inr (.inl ⟨_, _, _, rfl⟩))
          · exact .inr (.inr (.inr ⟨_, _, rfl⟩))
      case h_2 => exact .inl rfl

/-! ### LIFECYCLE_ADVANCE -/

/-- The part and how many slices, ports, channels, title slots and firmware targets there are: the shape without the fuses. -/
def Dev.units (d : Dev) : Part × Nat × Nat × Nat × Nat × Nat :=
  (d.part, d.slices.length, d.ports.length, d.chans.length, d.titles.length, d.firmware.length)

theorem units_of_shape {d e : Dev} (h : d.shape = e.shape) : d.units = e.units := by
  simp only [Dev.shape, Prod.mk.injEq] at h
  simp [Dev.units, h]

theorem fuses_of_shape {d e : Dev} (h : d.shape = e.shape) : d.fuses = e.fuses := by
  simp only [Dev.shape, Prod.mk.injEq] at h
  exact h.2.1

/-- From `d` to `e` every unit stays, and the lifecycle state does not go back. -/
structure Dev.Grows (d e : Dev) : Prop where
  units : e.units = d.units
  lifecycle : d.fuses.lifecycle.code ≤ e.fuses.lifecycle.code

theorem Dev.Grows.of_shape {d e : Dev} (h : e.shape = d.shape) : d.Grows e :=
  ⟨units_of_shape h, Nat.le_of_eq (congrArg (fun f : Fuses => f.lifecycle.code) (fuses_of_shape h).symm)⟩

theorem Dev.Grows.trans {d e f : Dev} (h : d.Grows e) (h' : e.Grows f) : d.Grows f :=
  ⟨h'.units.trans h.units, Nat.le_trans h.lifecycle h'.lifecycle⟩

theorem Dev.fuseRoot_grows (d : Dev) (errors : BitVec 288) :
    d.Grows (d.fuseRoot errors).2 ∧ (d.fuseRoot errors).2.fuses.lifecycle = d.fuses.lifecycle := by
  unfold Dev.fuseRoot
  split
  · exact ⟨.of_shape rfl, rfl⟩
  · split
    · exact ⟨.of_shape rfl, rfl⟩
    · exact ⟨⟨rfl, Nat.le_refl _⟩, rfl⟩

theorem Dev.fuseLifecycle_grows {d : Dev} {next : Lifecycle} (h : d.fuses.lifecycle.code < next.code) :
    d.Grows (d.fuseLifecycle next) := ⟨rfl, Nat.le_of_lt h⟩

/-- The package when the root is fused, where a transition out of ANISE needs one. -/
def Dev.rooted (d : Dev) (next : Lifecycle) (errors : BitVec 288) : Bool × Dev :=
  if d.fuses.lifecycle == .anise && next != .clove then d.fuseRoot errors else (true, d)

theorem Dev.rooted_grows (d : Dev) (next : Lifecycle) (errors : BitVec 288) :
    d.Grows (d.rooted next errors).2 ∧ (d.rooted next errors).2.fuses.lifecycle = d.fuses.lifecycle := by
  unfold Dev.rooted
  split
  · exact d.fuseRoot_grows errors
  · exact ⟨.of_shape rfl, rfl⟩

/-- What a transition does once the root is fused. -/
theorem Dev.advance_eq (d : Dev) (next : Lifecycle) (errors : BitVec 288) (cut : FuseCut) :
    d.advance next errors cut
      = if cut == .afterRoot then ((d.rooted next errors).2.powerOff, .later)
        else if !(d.rooted next errors).1 then (d.rooted next errors).2.internalError
        else if cut == .afterLifecycle then (((d.rooted next errors).2.fuseLifecycle next).powerOff, .later)
        else ((((d.rooted next errors).2.fuseLifecycle next).recordLifecycle next).beginTransition .boot, done []) := rfl

theorem Dev.advance_grows {d : Dev} {next : Lifecycle} (errors : BitVec 288) (cut : FuseCut)
    (h : d.fuses.lifecycle.code < next.code) : d.Grows (d.advance next errors cut).1 := by
  obtain ⟨hroot, hlife⟩ := d.rooted_grows next errors
  have hfuse := hroot.trans (Dev.fuseLifecycle_grows (hlife ▸ h))
  rw [Dev.advance_eq]
  split
  · exact hroot.trans (.of_shape (Dev.powerOff_shape _))
  · split
    · exact hroot.trans (.of_shape (Dev.internalError_shape _))
    · split
      · exact hfuse.trans (.of_shape (Dev.powerOff_shape _))
      · exact hfuse.trans (.of_shape ((Dev.beginTransition_shape _ _).trans (Dev.recordLifecycle_shape _ _)))

/-- An effect of any command: every unit stays, the lifecycle state does not go back, and the memories stay canonical. -/
structure Sound (f : Dev → Dev) : Prop where
  grows : ∀ d : Dev, d.Grows (f d)
  stored : ∀ d : Dev, d.Stored → (f d).Stored

theorem Keeps.sound {f : Dev → Dev} (h : Keeps f) : Sound f := ⟨fun d => .of_shape (h.shape d), h.stored⟩

theorem serve_sound {c op : Nat} {early : Dev → Req → Option Nat} {body : Dev → Req → Dev × Reply}
    (h : ∀ q, Sound fun d => (body d q).1) : Sound fun d => d.serve c op early body := by
  refine ⟨fun d => ?_, fun d hd => Dev.serve_stored d c op early body (fun d q => (h q).stored d) hd⟩
  rcases d.serve_cases c op early body with he | he | ⟨q, rest, r, he⟩ | ⟨q, rest, he⟩ <;> rw [he]
  · exact .of_shape rfl
  · exact .of_shape (Dev.resync_shape _ _)
  · exact .of_shape ((Dev.answer_shape _ _ _).trans (Dev.takeRequest_shape _ _ _))
  · exact (Dev.Grows.of_shape (Dev.takeRequest_shape _ _ _)).trans
      (((h q).grows _).trans (.of_shape (Dev.answer_shape _ _ _)))

theorem execLifecycleAdvance_answers (channel : Nat) (fuses : FuseProgram) (s : State) :
    Answers Sound (lacks .noSuchChannel channel 16) s (execLifecycleAdvance channel fuses s) := by
  refine Answers.guardIf_none ⟨_, serve_sound fun q => ⟨fun d => ?_, fun d hd => ?_⟩, rfl⟩ _ _ _
  · dsimp only
    split
    · exact .of_shape rfl
    · split
      · exact .of_shape rfl
      · split
        · exact .of_shape rfl
        · split
          · exact .of_shape rfl
          case isFalse h => exact Dev.advance_grows _ _ (by simp at h; omega)
  · dsimp only
    split
    · exact hd
    · (repeat' split) <;> simp [hd]

/-- What any command answers. -/
theorem exec_answers (c : Instr) (s : State) : Answers Sound (missing s.dev c) s (exec c s) := by
  by_cases hc : ∀ k f, c ≠ .lifecycleAdvance k f
  · obtain ⟨f, hf, he⟩ := exec_completes hc s
    exact ⟨f, hf.sound, he⟩
  · obtain ⟨k, hk⟩ := Classical.not_forall.1 hc
    obtain ⟨f, hf⟩ := Classical.not_forall.1 hk
    obtain rfl := Classical.not_not.1 hf
    exact execLifecycleAdvance_answers k f s

/-- A command that completes has a sound effect, and leaves the queue as it was. -/
theorem exec_next {c : Instr} {s t : State} (h : exec c s = .next t) :
    ∃ f, Sound f ∧ t = { s with dev := settle (f s.dev) } := by
  obtain ⟨f, hf, he⟩ := exec_answers c s
  rw [h] at he
  cases hm : missing s.dev c with
  | none =>
    rw [hm] at he
    exact ⟨f, hf, run_next he.symm⟩
  | some e =>
    rw [hm] at he
    cases he

/-- A step is idle, or the command in front completes on the state with the queue's rest. -/
theorem step_next {s t : State} (h : step s = .next t) :
    t = s ∨ ∃ f, Sound f ∧ t.dev = settle (f s.dev) := by
  cases hp : s.pending with
  | nil =>
    rw [step, hp] at h
    cases h
    exact .inl rfl
  | cons c rest =>
    rw [step, hp] at h
    obtain ⟨f, hf, rfl⟩ := exec_next h
    exact .inr ⟨f, hf, rfl⟩

/-! ### The whole machine -/

/-- Settles O1: a step takes the command in front off the queue and runs it. -/
theorem stepRunsFrontCommand : Obligations.StepRunsFrontCommand := fun _ _ => rfl

/-- Settles O2: every command's frame puts the queue back as it was. -/
theorem queueOnlyLosesItsFront : Obligations.QueueOnlyLosesItsFront := by
  refine ⟨fun s hs => by rw [step, hs], fun c s t h => ?_⟩
  obtain ⟨f, -, rfl⟩ := exec_next h
  rfl

/-- Settles O3: the guards of a command's frame are the units that it names. -/
theorem commandsStopOnlyAtAbsentUnits : Obligations.CommandsStopOnlyAtAbsentUnits := by
  intro c s
  obtain ⟨f, -, he⟩ := exec_answers c s
  exact ⟨fun e hm => by rw [he, hm]; rfl, fun hm => ⟨_, by rw [he, hm]; rfl⟩⟩

theorem settle_pinsFollow (s : State) (d : Dev) : ({ s with dev := settle d } : State).PinsFollow :=
  (settle_pins d).trans (settle_levels d).symm

theorem settle_tickStands (s : State) (d : Dev) : ({ s with dev := settle d } : State).TickStands :=
  settle_clock d

theorem shaped_of_units {s t : State} (h : t.dev.units = s.dev.units) (hs : s.Shaped) : t.Shaped := by
  simp only [Dev.units, Prod.mk.injEq] at h
  obtain ⟨hpart, hslices, hports, hchans, htitles, hfirmware⟩ := h
  unfold State.Shaped Dev.sliceCount at *
  rw [hpart, hslices, hports, hchans, htitles, hfirmware]
  exact hs

theorem settle_units (d : Dev) : (settle d).units = d.units := units_of_shape (settle_shape d)

/-- Settles O4: a command ends settled, so its pins and its tick stand where they must, and no unit comes or goes. -/
theorem invariantKept : Obligations.InvariantKept := by
  intro s t hs ht
  rcases step_next ht with rfl | ⟨f, hf, hd⟩
  · exact hs
  · obtain ⟨-, -, hshaped⟩ := hs
    obtain ⟨d, pending⟩ := t
    cases hd
    exact ⟨settle_pinsFollow ⟨f s.dev, pending⟩ _, settle_tickStands ⟨f s.dev, pending⟩ _,
      shaped_of_units ((settle_units _).trans (hf.grows _).units) hshaped⟩

/-- Settles O6: no effect of a command leaves the canonical form, and settling does not touch the memories. -/
theorem memoryStaysCanonical : Obligations.MemoryStaysCanonical := by
  intro s t hs ht
  rcases step_next ht with rfl | ⟨f, hf, hd⟩
  · exact hs
  · unfold State.Canonical
    rw [hd]
    exact settle_stored _ (hf.stored _ hs)

/-- Settles O7: no effect of a command takes the lifecycle back, and those beside LIFECYCLE_ADVANCE keep the fuses. -/
theorem lifecycleNeverGoesBack : Obligations.LifecycleNeverGoesBack := by
  intro c s t h
  refine ⟨?_, ?_, fun hc => ?_⟩
  · obtain ⟨f, hf, rfl⟩ := exec_next h
    exact congrArg Prod.fst (hf.grows s.dev).units
  · obtain ⟨f, hf, rfl⟩ := exec_next h
    exact (hf.grows s.dev).lifecycle
  · obtain ⟨f, hf, he⟩ := exec_completes hc s
    rw [h] at he
    cases hm : missing s.dev c with
    | none =>
      rw [hm] at he
      rw [run_next he.symm]
      exact fuses_of_shape (hf.shape s.dev)
    | some e =>
      rw [hm] at he
      cases he

/-- Settles O5: reset is settled, has every unit, and the store as it leaves the factory is canonical. -/
theorem resetMeetsInvariant : Obligations.ResetMeetsInvariant := by
  refine ⟨⟨?_, fun _ => ⟨rfl, rfl, rfl⟩, ⟨rfl, rfl, rfl, rfl, rfl⟩⟩, factoryStore_wf, rfl⟩
  unfold State.PinsFollow
  decide +kernel

/-- A unit of a list of equal units is one of them, or the one that stands for a missing unit. -/
theorem getD_replicate {α : Type} (n i : Nat) (a b : α) :
    (List.replicate n a).getD i b = a ∨ (List.replicate n a).getD i b = b := by
  by_cases hi : i < n
  · exact .inl (by simp [hi])
  · exact .inr (by simp [hi])

/-- Settles O8: every unit of the reset state is at its reset value, and so are the stored keys and counters. -/
theorem resetState : Obligations.ResetState := by
  refine ⟨rfl, rfl, rfl, rfl, rfl, rfl, fun p => ?_, fun r => rfl, fun t => ?_, fun i => ?_, rfl, rfl, ?_, ?_⟩
  · rcases getD_replicate 2 p ({} : Port) {} with h | h <;> exact congrArg Port.link h
  · rcases getD_replicate 32 t ({} : Title) {} with h | h <;> exact congrArg Title.state h
  · rcases getD_replicate 2 i Slice.factory {} with h | h <;> exact congrArg (·.cache.state) h
  · decide +kernel
  · decide +kernel

end Sys2Proof.Machine
end

section
/-!
SUPPORT. The identity and schedule reports (R435–R440).
-/
namespace Sys2Proof.Machine

open Sys2Proof

/-! ### Identity (R435) -/

theorem Dev.takeRequest_hasSlice (d : Dev) (c i : Nat) (rest : List MbWord) :
    (d.takeRequest c rest).hasSlice i = d.hasSlice i := by
  unfold Dev.hasSlice
  rw [Dev.takeRequest_sliceCount]

theorem Dev.hasSlice_iff {d : Dev} {i : Nat} : d.hasSlice i = true ↔ i < d.sliceCount := decide_eq_true_iff

theorem Dev.hasSlice_eq_false {d : Dev} {i : Nat} (h : d.sliceCount ≤ i) : d.hasSlice i = false :=
  decide_eq_false (Nat.not_lt.2 h)

theorem Dev.takeRequest_identifyWords (d : Dev) (c : Nat) (rest : List MbWord) :
    (d.takeRequest c rest).identifyWords = d.identifyWords := by
  simp [Dev.identifyWords, Dev.takeRequest_deviceInfo, Dev.takeRequest_sliceCount, Dev.takeRequest_ringCount]

theorem Dev.takeRequest_identifySliceWords (d : Dev) (c i : Nat) (rest : List MbWord) :
    (d.takeRequest c rest).identifySliceWords i = d.identifySliceWords i := by
  simp [Dev.identifySliceWords, Dev.takeRequest_slice, Dev.takeRequest_port]

section
variable {s : State} {c : Nat} {q : Req} {rest : List MbWord}

theorem exec_identify (hask : s.dev.Asks c 0x0101 q rest) :
    exec (.identify c) s = .next (s.answered q rest id (done s.dev.identifyWords)) :=
  runAnswer_answered rfl hask (congrArg done (s.dev.takeRequest_identifyWords c rest))

section
variable (hask : s.dev.Asks c 0x0102 q rest)
include hask

theorem exec_identifySlice (hslice : q.f 1 0 3 < s.dev.sliceCount) :
    exec (.identifySlice c) s = .next (s.answered q rest id (done (s.dev.identifySliceWords (q.f 1 0 3)))) :=
  runAnswer_answered rfl hask
    (by simp [Dev.takeRequest_hasSlice, Dev.hasSlice_iff.2 hslice, Dev.takeRequest_identifySliceWords])

theorem exec_identifySlice_noSlice (hslice : s.dev.sliceCount ≤ q.f 1 0 3) :
    exec (.identifySlice c) s = .next (s.answered q rest id (badField 1 0)) :=
  runAnswer_answered rfl hask (by simp [Dev.takeRequest_hasSlice, Dev.hasSlice_eq_false hslice])

end

end

/-! ### Schedule status and contract (R437, R440) -/

section
variable {s : State} {c : Nat} {q : Req} {rest : List MbWord} {d : Dev} (hd : s.dev.takeRequest c rest = d)
include hd

theorem exec_imageStatus (hask : s.dev.Asks c 0x0203 q rest) :
    exec (.imageStatus c) s = .next (s.answered q rest id (done d.imageStatusWords)) :=
  runAnswer_answered hd hask rfl

section
variable (hask : s.dev.Asks c 0x0206 q rest)
include hask

theorem exec_contractReport_noSlice (hslice : d.sliceCount ≤ q.f 1 0 3) :
    exec (.contractReport c) s = .next (s.answered q rest id (badField 1 0)) :=
  runCmd_answered hd hask rfl (if_pos (by simp [Dev.hasSlice_eq_false hslice]))

/-- The contract words are answered with the word of the flush bound. -/
theorem exec_contractReport (hslice : q.f 1 0 3 < d.sliceCount) {w : Word} {f : Dev → Dev}
    (hw : d.flushWord (q.f 1 0 3) = (w, f d)) :
    exec (.contractReport c) s = .next (s.answered q rest f (done (d.contractWords (q.f 1 0 3) ++ [w]))) := by
  have hguard : ¬(!d.hasSlice (q.f 1 0 3)) = true := by simp [Dev.hasSlice_iff.2 hslice]
  exact runCmd_answered hd hask rfl (by rw [if_neg hguard, hw])

end

/-! ### SCHED_READ (R438) -/

section
variable (hask : s.dev.Asks c 0x0204 q rest)
include hask

theorem exec_schedRead_bufferTooSmall (hbuf : d.bufferSize q.channel < (if q.f 1 2 1 = 1 then 1024 else 96)) :
    exec (.schedRead c) s = .next (s.answered q rest id (fail 3)) :=
  runCmd_early hd hask (if_pos hbuf) (.inl rfl)

variable (hbuf : (if q.f 1 2 1 = 1 then 1024 else 96) ≤ d.bufferSize q.channel)
include hbuf

theorem exec_schedRead_noTable {y : Reply} (htable : d.namedTable q = .inr y) :
    exec (.schedRead c) s = .next (s.answered q rest id y) :=
  runCmd_answered hd hask (if_neg (Nat.not_lt.2 hbuf)) (by simp [htable])

variable {t : Table} (htable : d.namedTable q = .inl t)
include htable

theorem exec_schedRead_template (hkind : q.f 1 2 1 = 0) {r : List Word} (hr : t.templates[q.f 1 11 8]? = some r) :
    exec (.schedRead c) s
      = .next (s.answered q rest (fun d => d.writeBuffer q.channel (bytesOfWords r)) (doneBuffer [word 96])) :=
  runCmd_answered hd hask (if_neg (Nat.not_lt.2 hbuf)) (by simp [htable, hkind, hr])

theorem exec_schedRead_noTemplate (hkind : q.f 1 2 1 = 0) (hr : t.templates.length ≤ q.f 1 11 8) :
    exec (.schedRead c) s = .next (s.answered q rest id (badField 1 11)) :=
  runCmd_answered hd hask (if_neg (Nat.not_lt.2 hbuf)) (by simp [htable, hkind, List.getElem?_eq_none hr])

/-- A sequence is written to the buffer as its bytes, or open ones. -/
theorem exec_schedRead_sequence (hkind : q.f 1 2 1 = 1) {x : List Nat} (hx : t.sequences[q.f 1 11 8]? = some x)
    {b : List Byte} {f : Dev → Dev} (hb : d.sequenceBytes x = (b, f d)) :
    exec (.schedRead c) s
      = .next (s.answered q rest (fun d => (f d).writeBuffer q.channel b) (doneBuffer [word 1024])) :=
  runCmd_answered hd hask (if_neg (Nat.not_lt.2 hbuf)) (by simp [htable, hkind, hx, hb])

theorem exec_schedRead_noSequence (hkind : q.f 1 2 1 = 1) (hx : t.sequences.length ≤ q.f 1 11 8) :
    exec (.schedRead c) s = .next (s.answered q rest id (badField 1 11)) :=
  runCmd_answered hd hask (if_neg (Nat.not_lt.2 hbuf)) (by simp [htable, hkind, List.getElem?_eq_none hx])

end

end

/-- Settles O9: each report is the words of its request, and a sequence that a retired reach lacks is 1,024 free bytes. -/
theorem identityAndSchedulesReported : Obligations.IdentityAndSchedulesReported := by
  refine ⟨fun s c q rest => ⟨exec_identify, exec_identifySlice, exec_identifySlice_noSlice⟩, ?_⟩
  intro s c q rest d
  refine ⟨exec_imageStatus rfl, fun hask => ⟨exec_contractReport_noSlice rfl hask, fun hi hn => ?_, fun n hi hn hlt => ?_,
      fun n hi hn hge => ⟨Config.freeNat d.draws % 2 ^ 32, Nat.mod_lt _ (by decide), ?_⟩⟩,
    fun t hask ht => ⟨fun r hk hb hr => ?_, fun x hk hb hx hl => ?_,
      fun x hk hb hx hl => ⟨(List.range 1024).map fun k => BitVec.ofNat 8 (Config.freeNat (d.draws + k)), by simp, ?_⟩,
      fun hk hb hr => ?_, fun hk hb hx => ?_⟩,
    fun hask => ⟨fun y hy hb => exec_schedRead_noTable rfl hask hb hy, exec_schedRead_bufferTooSmall rfl hask⟩⟩
  · exact exec_contractReport (f := id) rfl hask hi (Dev.flushWord_none hn)
  · exact exec_contractReport (f := id) rfl hask hi (Dev.flushWord_some hn hlt)
  · exact exec_contractReport (f := fun d => { d with draws := d.draws + 1 }) rfl hask hi (Dev.flushWord_open hn hge)
  · exact exec_schedRead_template rfl hask (by simpa [hk] using hb) ht hk hr
  · exact exec_schedRead_sequence (f := id) rfl hask (by simpa [hk] using hb) ht hk hx (if_pos hl)
  · exact exec_schedRead_sequence (f := fun d => { d with draws := d.draws + 1024 }) rfl hask (by simpa [hk] using hb) ht
      hk hx (if_neg hl)
  · exact exec_schedRead_noTemplate rfl hask (by simpa [hk] using hb) ht hk hr
  · exact exec_schedRead_noSequence rfl hask (by simpa [hk] using hb) ht hk hx

end Sys2Proof.Machine
end

section
/-!
SUPPORT. The line-cache commands of the mailbox (R283–R289).
-/
namespace Sys2Proof.Machine

open Sys2Proof

theorem Dev.cacheState_on_or_off {d : Dev} {l : List Nat}
    (h : ∀ i, i ∈ l → (d.slice i).cache.state = .on ∨ (d.slice i).cache.state = .off) :
    (l.any fun i => (d.slice i).cache.state == .draining || (d.slice i).cache.state == .invalidating) = false := by
  rw [List.any_eq_false]
  intro i hi
  obtain h | h := h i hi <;> simp [h]

/-- R288: a drain, and a discard by a secure channel of slices that may discard, are not stopped early. -/
theorem cacheDisable_not_stopped {d : Dev} {q : Req}
    (h : q.f 1 8 1 = 0 ∨ q.secure = true ∧ q.named.all d.mayDiscard = true) :
    (if q.f 1 8 1 = 0 then none else if !q.secure then some 5 else if q.named.all d.mayDiscard then none else some 6)
      = (none : Option Nat) := by
  obtain hdrain | ⟨hsec, hmay⟩ := h
  · exact if_pos hdrain
  · simp only [hsec, hmay]
    simp

/-- Settles O12: each clause is the branch of its command that its hypotheses choose. -/
theorem lineCacheCommanded : Obligations.LineCacheCommanded := by
  intro s c q rest d
  have hd : s.dev.takeRequest c rest = d := rfl
  clear_value d
  refine ⟨fun e hask he => ?_, fun hask hres => ⟨fun hset hi hop => ?_, fun hset hi => ?_, fun hop hset => ?_,
      fun hset hop hrun hok => ?_, fun hset hop hrun hbad => ?_, fun hset hop hrun => ?_⟩,
    fun hask hdisc => ⟨fun hsec => ?_, fun hsec hmay => ?_⟩,
    fun hask hdisc => ⟨fun hunits => ?_, fun hunits => ⟨fun hinv => ?_, fun hinv => ⟨fun hwait => ?_, fun hwait => ?_⟩⟩⟩,
    fun hask hunits => ?_, fun hask hunits => ⟨fun hbusy => ?_, fun hrest => ?_⟩, fun hask hi => ?_, fun hask hi => ?_⟩
  · exact runCmd_answered hd hask rfl (by simp [he])
  · exact runCmd_answered hd hask rfl (by simp [hres, hset, Dev.hasSlice_iff.2 hi, hop])
  · exact runCmd_answered hd hask rfl (by simp [hres, hset, Dev.hasSlice_eq_false hi])
  · refine runCmd_answered (f := id) hd hask rfl ?_
    obtain hset | hi := hset
    · simp [hres, hset, hop]
    · simp [hres, hop, Dev.hasSlice_iff.2 hi]
  · exact runCmd_answered hd hask rfl (by simp [hres, hset, hop, hrun, hok])
  · exact runCmd_answered hd hask rfl (by simp [hres, hset, hop, hrun, hbad])
  · exact runCmd_answered hd hask rfl (by simp [hres, hset, hop, hrun])
  · exact runCmd_early hd hask (n := 5) (by simp [hdisc, hsec]) (by simp)
  · exact runCmd_early hd hask (n := 6) (by simp only [hmay]; simp [hdisc, hsec]) (by simp)
  · exact runCmd_answered hd hask (cacheDisable_not_stopped hdisc) (by simp only [hunits]; rfl)
  · exact runCmd_answered (f := id) hd hask (cacheDisable_not_stopped hdisc) (by simp only [hunits]; simp [hinv])
  · refine runCmd_answered (f := id) hd hask (cacheDisable_not_stopped hdisc) ?_
    rw [hunits, if_neg (by simp), if_neg (by simpa using hinv), hwait]
    rfl
  · refine runCmd_answered hd hask (cacheDisable_not_stopped hdisc) ?_
    rw [hunits, if_neg (by simp), if_neg (by simpa using hinv), if_neg (by rwa [List.isEmpty_iff])]
  · exact runCmd_answered hd hask rfl (by simp only [hunits]; rfl)
  · exact runCmd_answered (f := id) hd hask rfl (by simp only [hunits]; simp [hbusy])
  · exact runCmd_answered hd hask rfl (by simp only [hunits, Dev.cacheState_on_or_off hrest]; rfl)
  · exact runAnswer_answered hd hask (by simp [Dev.hasSlice_eq_false hi])
  · exact runAnswer_answered hd hask (by simp [Dev.hasSlice_iff.2 hi])
end Sys2Proof.Machine
end

section
/-!
SUPPORT. The title commands of the mailbox (R352–R358).
-/
namespace Sys2Proof.Machine

open Sys2Proof

theorem wbits_bit (w : Word) (lo : Nat) : wbits w lo 1 = 0 ∨ wbits w lo 1 = 1 := by
  unfold wbits bits
  omega

theorem wbits_bit_eq_zero {w : Word} {lo : Nat} (h : ¬ wbits w lo 1 = 1) : wbits w lo 1 = 0 :=
  (wbits_bit w lo).resolve_right h

theorem Req.f_bit (q : Req) (i lo : Nat) : q.f i lo 1 = 0 ∨ q.f i lo 1 = 1 := wbits_bit _ _

section
variable {s : State} {c : Nat} {q : Req} {rest : List MbWord} {d : Dev} {t : Nat}
  (hd : s.dev.takeRequest c rest = d) (ht : q.slot = t) (hask : s.dev.Asks c 0x0505 q rest)
  (hring : q.f 1 5 13 < d.ringCount)
  (hreg : q.f 1 18 1 = 1 → wbits (d.active.regionAttr.getD (q.f 1 19 6) 0) 10 1 = 1)
  (hst : q.f 1 18 1 = 0 → d.titleBusy t = false ∧ (d.title t).state = .opened)
include hd ht hask hring hreg hst

/-- Binding to a protected region or an open title goes by the binding that the ring has. -/
theorem exec_titleBindRing {f : Dev → Dev} {r : Reply}
    (hbody : (if (d.ring (q.f 1 5 13)).binding.isSome
          && (d.ring (q.f 1 5 13)).binding != some (if q.f 1 18 1 = 1 then .region (q.f 1 19 6) else .title t) then
        (d, fail 7)
      else (d.onRing (q.f 1 5 13) fun r => { r with
        binding := if q.f 1 25 1 = 1 then none else some (if q.f 1 18 1 = 1 then .region (q.f 1 19 6) else .title t) },
        done [])) = (f d, r)) :
    exec (.titleBindRing c) s = .next (s.answered q rest f r) := by
  refine runCmd_answered hd hask rfl ?_
  rw [← hbody, if_neg (Nat.not_le.2 hring), ht]
  obtain hbit | hbit := q.f_bit 1 18
  · obtain ⟨hbusy, hopen⟩ := hst hbit
    simp [hbit, hbusy, hopen]
  · have hg := hreg hbit
    rw [BitVec.ofNat_eq_ofNat] at hg
    simp [hbit, hg, -List.getD_eq_getElem?_getD]

end

/-- Settles O14: each clause is the branch of its command that its hypotheses choose. -/
theorem titlesCommanded : Obligations.TitlesCommanded := by
  intro s c q rest d t
  have hd : s.dev.takeRequest c rest = d := rfl
  have ht : q.slot = t := rfl
  clear_value d t
  refine ⟨fun hask => ⟨fun hbusy => ?_, fun hbusy hlife => ?_⟩,
    fun hask hbusy hlife => ⟨fun k hst hok hk => ?_, fun hst hok hk => ?_, fun hst => ?_⟩,
    fun hask hbusy hrun => ⟨fun hst => ?_, fun hst => ?_⟩, fun hask hbusy => ?_, fun hask hbusy => ?_,
    fun hask hbusy => ?_,
    fun hask => ⟨fun hring => ?_, fun hring hreg hg => ?_, fun hring hreg hbusy => ?_, fun hring hreg hbusy hst => ?_,
      fun hring hg hst hheld hother => ?_⟩, fun hask hring => ?_,
    fun hask => ⟨fun hbusy => ?_, fun hbusy hmode hst => ?_⟩,
    fun hask hbusy hmode => ⟨fun hst => ?_, fun hst hrun => ?_, fun hst => ?_⟩⟩
  · exact runCmd_answered hd hask rfl (by simp [ht, hbusy])
  · exact runCmd_answered hd hask rfl (by simp [ht, hbusy, hlife])
  · exact runCmd_answered hd hask rfl (by simp [ht, hbusy, hlife, hst, hok, hk, Dev.onTitle])
  · exact runCmd_answered hd hask rfl (by simp [ht, hbusy, hlife, hst, hok, hk])
  · exact runCmd_answered hd hask rfl (by simp [ht, hbusy, hlife, hst])
  · exact runCmd_answered hd hask rfl (by simp [ht, hbusy, hrun, hst])
  · exact runCmd_answered hd hask rfl (by simp [ht, hbusy, hrun, hst])
  · exact runCmd_answered hd hask rfl (if_pos (by simpa [ht, Option.isSome_iff_ne_none] using hbusy))
  · exact runAnswer_answered hd hask (by simp [ht, hbusy])
  · exact runAnswer_answered hd hask (by simp [ht, hbusy])
  · exact runCmd_answered hd hask rfl (if_pos hring)
  · exact runCmd_answered (f := id) hd hask rfl (by
      rw [if_neg (Nat.not_le.2 hring), if_pos (by simpa [hreg] using wbits_bit_eq_zero hg)]
      rfl)
  · exact runCmd_answered (f := id) hd hask rfl (by simp [ht, Nat.not_le.2 hring, hreg, hbusy])
  · exact runCmd_answered (f := id) hd hask rfl (by simp [ht, Nat.not_le.2 hring, hreg, hbusy, hst])
  · refine exec_titleBindRing (f := id) hd ht hask hring hg hst (if_pos ?_)
    rw [Bool.and_eq_true, bne_iff_ne]
    exact ⟨Option.isSome_iff_ne_none.2 hheld, hother⟩
  · intro ring region goal hg hst hheld
    refine exec_titleBindRing hd ht hask hring hg hst (if_neg ?_)
    rw [Bool.and_eq_true, bne_iff_ne]
    rintro ⟨hsome, hother⟩
    obtain hnone | hgoal := hheld
    · rw [hnone] at hsome
      cases hsome
    · exact hother hgoal
  · exact runCmd_answered hd hask rfl (if_pos (by simpa [ht, Option.isSome_iff_ne_none] using hbusy))
  · refine runCmd_answered (f := id) hd hask rfl ?_
    obtain hst | ⟨hst, hrun⟩ := hst <;> simp [*]
  · exact runCmd_answered hd hask rfl (by simp [ht, hbusy, hmode, hst])
  · exact runCmd_answered hd hask rfl (by simp [ht, hbusy, hmode, hst, hrun])
  · exact runCmd_answered (f := id) hd hask rfl (by simp [ht, hbusy, hst])
end Sys2Proof.Machine
end

section
/-!
SUPPORT. IDE keys, anti-rollback counters and key slots (R360–R363).
-/
namespace Sys2Proof.Machine

open Sys2Proof

/-- Settles O16: each clause is the branch of its command that its hypotheses choose. -/
theorem countersAndKeysWritten : Obligations.CountersAndKeysWritten := by
  refine ⟨fun s c q rest hask => ⟨fun hp => ?_, fun hp hsel => ?_, fun hp hsel => ?_⟩, ?_⟩
  · exact runCmd_answered rfl hask rfl (by simp [Dev.takeRequest_hasSlice, Dev.hasSlice_eq_false hp])
  · exact runCmd_answered (f := id) rfl hask rfl (by simp [Dev.takeRequest_hasSlice, Dev.hasSlice_iff.2 hp, hsel])
  · exact runCmd_answered rfl hask rfl (by
      simp [Dev.takeRequest_hasSlice, Dev.hasSlice_iff.2 hp, hsel, Port.setIdeKey, Dev.window])
  intro s c q rest d n
  have hd : s.dev.takeRequest c rest = d := rfl
  have hn : q.f 1 0 4 = n := rfl
  clear_value d n
  refine ⟨fun hask => ?_, fun hask => ⟨fun hlow => ?_, fun hlow hle => ?_, fun hlow hlt hseq => ?_, fun hlow hlt hseq => ?_⟩,
    fun hask hkind => ?_, ?_⟩
  · exact runAnswer_answered hd hask (by simp [hn])
  · exact runCmd_answered hd hask rfl (by simp [hn, hlow])
  · exact runCmd_answered hd hask rfl (by simp [hn, Nat.not_lt.2 hlow, hle])
  · exact runCmd_answered hd hask rfl (by
      simp only [hn]
      rw [if_neg (Nat.not_lt.2 hlow), if_neg (Nat.not_le.2 hlt), if_neg (Nat.not_le.2 hseq)])
  · exact runCmd_answered hd hask rfl (by
      simp only [hn]
      rw [if_neg (Nat.not_lt.2 hlow), if_neg (Nat.not_le.2 hlt), if_pos hseq]
      rfl)
  · exact runCmd_answered hd hask rfl (by simp [hkind, keyKind])
  intro count base hask hkind slot x y
  have hkind : keyKind (q.f 1 0 2) = some (count, base) := by
    obtain ⟨h, rfl, rfl⟩ | ⟨h, rfl, rfl⟩ | ⟨h, rfl, rfl⟩ := hkind <;> rw [h] <;> rfl
  have hs : q.f 1 2 2 = slot := rfl
  have hx : bytesAt d.window 0 48 = x := rfl
  have hy : bytesAt d.window 0x30 48 = y := rfl
  clear_value slot x y
  refine ⟨fun hslot => ?_, fun hslot hdel => ?_, fun hslot hdel hcurve => ?_, fun hslot hdel hcurve => ?_⟩
  · exact runCmd_answered hd hask rfl (by simp [hkind, hs, hslot])
  · exact runCmd_answered hd hask rfl (by simp [hkind, hs, Nat.not_le.2 hslot, hdel])
  · exact runCmd_answered hd hask rfl (by simp [hkind, hs, Nat.not_le.2 hslot, hdel, hx, hy, hcurve])
  · exact ⟨_, runCmd_answered hd hask rfl (by simp [hkind, hs, Nat.not_le.2 hslot, hdel, hx, hy, hcurve]; rfl)⟩
end Sys2Proof.Machine
end

section
/-!
SUPPORT. Health pages, the recorder and the life counters (R443–R452).
-/
namespace Sys2Proof.Machine

open Sys2Proof

theorem Dev.fit_of_lt {d : Dev} {n w : Nat} (h : n < 2 ^ w) : d.fit n w = (n, d) := if_pos h

theorem Dev.fit_of_ge {d : Dev} {n w : Nat} (h : 2 ^ w ≤ n) : d.fit n w = d.draw (2 ^ w) := if_neg (Nat.not_lt.2 h)

/-- The package after `n` more free values have been taken. -/
def Dev.drawn (d : Dev) (n : Nat) : Dev := { d with draws := d.draws + n }

theorem Dev.draw_eq (d : Dev) (m : Nat) : d.draw m = (Config.freeNat d.draws % m, d.drawn 1) := rfl

theorem Dev.drawn_drawn (d : Dev) (m n : Nat) : (d.drawn m).drawn n = d.drawn (m + n) := by
  simp [Dev.drawn, Nat.add_assoc]

theorem Dev.writeBuffer_drawn (d : Dev) (n c : Nat) (b : List Byte) :
    (d.drawn n).writeBuffer c b = (d.writeBuffer c b).drawn n := by
  unfold Dev.writeBuffer
  split <;> rfl

/-- A value fits its field, or an open one that fits stands for it. -/
theorem Dev.fit_eq (d : Dev) (n w : Nat) :
    ∃ k x, x < 2 ^ w ∧ (n < 2 ^ w → x = n) ∧ d.fit n w = (x, d.drawn k) := by
  by_cases h : n < 2 ^ w
  · exact ⟨0, n, h, fun _ => rfl, Dev.fit_of_lt h⟩
  · exact ⟨1, Config.freeNat d.draws % 2 ^ w, Nat.mod_lt _ (Nat.two_pow_pos w), fun h' => absurd h' h,
      Dev.fit_of_ge (Nat.not_lt.1 h)⟩

theorem Dev.sliceCount_le (d : Dev) : d.sliceCount ≤ 8 := by
  unfold Dev.sliceCount
  cases d.part <;> decide

/-! ### The channel of a request that is taken -/

theorem Dev.chanIrq_chan (d : Dev) (c v k : Nat) : (d.chanIrq c v).chan k = d.chan k :=
  congrArg (·.getD k {}) (d.chanIrq_chans c v)

theorem Dev.causeInEmpty_chan (d : Dev) (c k : Nat) :
    (d.causeInEmpty c).chan k
      = if c = k ∧ k < d.chans.length then { d.chan k with inEmpty := true } else d.chan k := by
  unfold Dev.causeInEmpty
  dsimp only
  split
  · rw [Dev.chanIrq_chan, Dev.onChan_chan]
  · rw [Dev.onChan_chan]

theorem Dev.takeRequest_chan (d : Dev) (c k : Nat) (rest : List MbWord) :
    (d.takeRequest c rest).chan k = if c = k ∧ k < d.chans.length then
      { d.chan k with inb := rest, inEmpty := rest.isEmpty || (d.chan k).inEmpty } else d.chan k := by
  have htake : ((d.onChan c fun ch => { ch with inb := rest }).countPkg (if c < 8 then 0 else 1) 1).chan k
      = if c = k ∧ k < d.chans.length then { d.chan k with inb := rest } else d.chan k := d.onChan_chan c k _
  unfold Dev.takeRequest
  dsimp only
  by_cases hrest : rest.isEmpty = true
  · rw [if_pos hrest, Dev.causeInEmpty_chan, htake]
    by_cases h : c = k ∧ k < d.chans.length
    · rw [if_pos h, if_pos h, if_pos ⟨h.1, by simpa [upd, Dev.onChan] using h.2⟩]
      simp [hrest]
    · rw [if_neg h, if_neg h, if_neg (by simpa [upd, Dev.onChan] using h)]
  · rw [if_neg hrest, htake]
    simp [hrest]

theorem Dev.takeRequest_mask (d : Dev) (c k : Nat) (rest : List MbWord) :
    ((d.takeRequest c rest).chan k).mask = (d.chan k).mask := by
  rw [Dev.takeRequest_chan]
  split <;> rfl

/-! ### The health page (R443) -/

/-- The peak of a group is its reading, or an open byte that counts one draw. -/
theorem Dev.peakByte_eq (d : Dev) (g : Nat) :
    ∃ k x, k ≤ 1 ∧ (∀ y, d.thermal.peaks.getD g none = some y → x = degreeByte y)
      ∧ d.peakByte g = (x, d.drawn k) := by
  unfold Dev.peakByte
  obtain h | ⟨y, h⟩ := Option.eq_none_or_eq_some (d.thermal.peaks.getD g none) <;> rw [h]
  · exact ⟨1, _, Nat.le_refl _, fun _ hy => by simp at hy, rfl⟩
  · exact ⟨0, degreeByte y, Nat.zero_le 1, fun _ hy => by rw [Option.some.inj hy], rfl⟩

theorem Dev.overProvisioning_formable {d : Dev} {i : Nat} (h : 8192 ≤ (d.slice i).upkeep.formable) :
    d.overProvisioning i = (1000 * (d.slice i).upkeep.formable / 8192 - 1000, d) :=
  if_pos (by omega)

theorem Dev.overProvisioning_open {d : Dev} {i : Nat} (h : (d.slice i).upkeep.formable < 8192) :
    d.overProvisioning i = d.draw (2 ^ 16) :=
  if_neg (by omega)

/-! ### The recorder (R444) -/

/-- The records start before the write position. -/
theorem PStore.recordStarts_lt {p : PStore} {limit fuel pos : Nat} {r : Nat × Nat}
    (h : r ∈ p.recordStarts limit fuel pos) : r.1 < limit := by
  induction fuel generalizing pos with
  | zero => cases h
  | succ fuel ih =>
    rw [PStore.recordStarts] at h
    split at h
    case isTrue => cases h
    case isFalse hpos =>
      dsimp only at h
      split at h
      · cases h
      · obtain rfl | h := List.mem_cons.1 h
        · exact Nat.not_le.1 hpos
        · exact ih h

/-- The records that the recorder holds: offset and length of each. -/
def Dev.recordsHeld (d : Dev) : List (Nat × Nat) := d.pstore.recordStarts d.recorder.writePos 2731 0

/-- The records from the offset of a RECORDER_READ on. -/
def Dev.recordsFrom (d : Dev) (q : Req) : List (Nat × Nat) := d.recordsHeld.filter fun r => decide (q.f 1 0 16 ≤ r.1)

/-- R444: a RECORDER_READ may start at the write position and at each record. -/
def Dev.recordStart (d : Dev) (q : Req) : Bool :=
  q.f 1 0 16 == d.recorder.writePos || d.recordsHeld.any (·.1 == q.f 1 0 16)

theorem Dev.recordStart_known {d : Dev} {q : Req} (h : ∃ r, r ∈ d.recordsHeld ∧ r.1 = q.f 1 0 16) :
    d.recordStart q = true := by
  obtain ⟨r, hr, hoff⟩ := h
  exact Bool.or_eq_true_iff.2 (.inr (List.any_eq_true.2 ⟨r, hr, beq_iff_eq.2 hoff⟩))

/-- What a RECORDER_READ with a start and room for its first record does: the whole records that fit go to the buffer. -/
def Dev.recordsReply (d : Dev) (q : Req) : Dev × Reply :=
  match d.pstore.takeRecords (q.f 1 16 16) (d.recordsFrom q) with
  | none => (d, fail 8)
  | some b => if d.bufferSize q.channel < b.length then (d, fail 3)
    else (d.writeBuffer q.channel b, doneBuffer [word (q.f 1 0 16 + b.length + b.length * 2 ^ 17),
      word (b2n d.recorder.full + 2 * b2n d.recorder.failed)])

/-- RECORDER_READ by the names of its parts. -/
theorem Dev.readRecords_eq (d : Dev) (q : Req) :
    d.readRecords q = if !d.recordStart q then (d, badField 1 0)
      else if (d.recordsFrom q).head?.any fun r => decide (q.f 1 16 16 < r.2) then (d, fail 3)
      else d.recordsReply q := by
  unfold Dev.readRecords Dev.recordStart Dev.recordsReply Dev.recordsFrom Dev.recordsHeld
  simp only [Bool.not_or, bne] <;> rfl

section
variable {d : Dev} {q : Req}

theorem Dev.readRecords_noStart (hend : q.f 1 0 16 ≠ d.recorder.writePos)
    (hoff : ∀ r, r ∈ d.recordsHeld → r.1 ≠ q.f 1 0 16) : d.readRecords q = (d, badField 1 0) := by
  have hstart : d.recordStart q = false := by simpa [Dev.recordStart, hend] using hoff
  rw [Dev.readRecords_eq, if_pos (by rw [hstart]; rfl)]

section
variable (hstart : d.recordStart q = true)
include hstart

theorem Dev.readRecords_noRoom {r : Nat × Nat} (hr : (d.recordsFrom q).head? = some r) (hroom : q.f 1 16 16 < r.2) :
    d.readRecords q = (d, fail 3) := by
  rw [Dev.readRecords_eq, if_neg (by simp [hstart]), if_pos (by simp [hr, hroom])]

variable (hroom : ∀ r, (d.recordsFrom q).head? = some r → r.2 ≤ q.f 1 16 16)
include hroom

/-- With room for the first record RECORDER_READ takes what it has room for. -/
theorem Dev.readRecords_take : d.readRecords q = d.recordsReply q := by
  have hhead : (d.recordsFrom q).head?.any (fun r => decide (q.f 1 16 16 < r.2)) = false := by
    rw [Option.any_eq_false_iff_get]
    intro h
    simpa using hroom _ (Option.some_get h).symm
  rw [Dev.readRecords_eq, if_neg (by simp [hstart]), if_neg (by simp [hhead])]

theorem Dev.readRecords_torn (hb : d.pstore.takeRecords (q.f 1 16 16) (d.recordsFrom q) = none) :
    d.readRecords q = (d, fail 8) := by
  rw [Dev.readRecords_take hstart hroom, Dev.recordsReply, hb]

variable {b : List Byte} (hb : d.pstore.takeRecords (q.f 1 16 16) (d.recordsFrom q) = some b)
include hb

theorem Dev.readRecords_bufferTooSmall (hbuf : d.bufferSize q.channel < b.length) : d.readRecords q = (d, fail 3) := by
  rw [Dev.readRecords_take hstart hroom, Dev.recordsReply, hb]
  exact if_pos hbuf

theorem Dev.readRecords_done (hbuf : b.length ≤ d.bufferSize q.channel) :
    d.readRecords q = (d.writeBuffer q.channel b, doneBuffer [word (q.f 1 0 16 + b.length + b.length * 2 ^ 17),
      word (b2n d.recorder.full + 2 * b2n d.recorder.failed)]) := by
  rw [Dev.readRecords_take hstart hroom, Dev.recordsReply, hb]
  exact if_neg (Nat.not_lt.2 hbuf)

end

/-- At the write position there is no record to read. -/
theorem Dev.readRecords_end (hoff : q.f 1 0 16 = d.recorder.writePos) :
    d.readRecords q = (d.writeBuffer q.channel [], doneBuffer [word d.recorder.writePos,
      word (b2n d.recorder.full + 2 * b2n d.recorder.failed)]) := by
  have hnone : d.recordsFrom q = [] :=
    List.filter_eq_nil_iff.2 fun r hr => by simpa [hoff] using PStore.recordStarts_lt hr
  have hstart : d.recordStart q = true := by simp [Dev.recordStart, hoff]
  have hread := Dev.readRecords_done (b := []) hstart (by simp [hnone]) (by rw [hnone]; rfl) (Nat.zero_le _)
  rwa [hoff] at hread

end

section
variable {s : State} {c : Nat} {q : Req} {rest : List MbWord} {d : Dev} (hd : s.dev.takeRequest c rest = d)
  (hask : s.dev.Asks c 0x0601 q rest)
include hd hask

theorem exec_healthGet_package (hi : q.f 1 0 4 = 15) (hbuf : 448 ≤ d.bufferSize q.channel) :
    ∃ (n : Nat) (peaks : List Nat), n ≤ 3 ∧ peaks.length = 3
      ∧ (∀ g x, g < 3 → d.thermal.peaks.getD g none = some x → peaks.getD g 0 = degreeByte x)
      ∧ exec (.healthGet c) s = .next (s.answered q rest (fun d =>
          { d.writeBuffer q.channel (({ d with draws := d.draws + n } : Dev).packageHealth peaks) with
            draws := d.draws + n + 3 }) (doneBuffer [word 448])) := by
  obtain ⟨k0, x0, h0, p0, e0⟩ := d.peakByte_eq 0
  obtain ⟨k1, x1, h1, p1, e1⟩ := (d.drawn k0).peakByte_eq 1
  obtain ⟨k2, x2, h2, p2, e2⟩ := (d.drawn (k0 + k1)).peakByte_eq 2
  refine ⟨k0 + k1 + k2, [x0, x1, x2], by omega, rfl, ?_, ?_⟩
  · intro g x hg hx
    obtain rfl | rfl | rfl : g = 0 ∨ g = 1 ∨ g = 2 := by omega
    · exact p0 x hx
    · exact p1 x hx
    · exact p2 x hx
  · refine runCmd_answered hd hask (if_neg (by simpa [hi] using hbuf)) ?_
    rw [if_pos hi]
    simp only [e0, e1, e2, Dev.drawn_drawn, Dev.writeBuffer_drawn]
    rfl

end

/-- What a RECORDER_CLEAR whose write does not hold leaves: a failed recorder with the group open, notified the first time. -/
def Dev.clearFailed (d : Dev) : Dev :=
  let x := (d.openGroup (0x140 / 8)).countPkg 16 1
  let y : Dev := { x with
    recorder := { x.recorder with failed := true }
    mirror := { x.mirror with recorderFailed := true } }
  if d.recorder.failed then y else y.notify 1 0x0681 []

theorem Dev.openGroup_recorder (d : Dev) (g : Nat) : (d.openGroup g).recorder = d.recorder := by
  unfold Dev.openGroup
  dsimp only
  split <;> rfl

theorem Dev.clearFailed_recorder (d : Dev) : d.clearFailed.recorder = { d.recorder with failed := true } := by
  unfold Dev.clearFailed
  dsimp only
  split <;> simp [Dev.openGroup_recorder]

theorem Dev.clearFailed_mirror (d : Dev) : d.clearFailed.mirror.recorderFailed = true := by
  unfold Dev.clearFailed
  dsimp only
  split <;> simp

section
variable {s : State} {c : Nat} {q : Req} {rest : List MbWord} {d : Dev} (hd : s.dev.takeRequest c rest = d)
  (hask : s.dev.Asks c 0x0604 q rest) (hgen : d.recorder.generation ≠ 0xFFFF)
include hd hask hgen

theorem exec_recorderClear_failed :
    exec (.recorderClear c false) s = .next (s.answered q rest Dev.clearFailed (fail 8)) :=
  runCmd_answered hd hask rfl (by simp [hgen, Dev.clearFailed, Dev.openGroup_recorder])

theorem exec_recorderClear_failed_state :
    (s.answered q rest Dev.clearFailed (fail 8)).dev.recorder = { d.recorder with failed := true }
      ∧ (s.answered q rest Dev.clearFailed (fail 8)).dev.mirror.recorderFailed = true := by
  rw [State.answered, Chan.front_channel hask.2.2.2.1, hd]
  constructor
  · exact (Dev.answer_recorder _ _ _).trans d.clearFailed_recorder
  · exact (congrArg Mirror.recorderFailed (Dev.answer_mirror _ _ _)).trans d.clearFailed_mirror

end

/-- Settles O17: each clause is the branch of its command that its hypotheses choose. -/
theorem healthReadAndChanged : Obligations.HealthReadAndChanged := by
  constructor
  · intro s c q rest d
    have hd : s.dev.takeRequest c rest = d := rfl
    clear_value d
    refine ⟨exec_healthGet_package hd, fun hask hi hbuf hform => ?_, fun hask hi hbuf hform => ?_,
      fun hask hi hslice hbuf => ?_, fun hask hbuf => ?_, fun hask hoff => ?_, ?_, ?_, fun hask => ?_,
      fun hask => ⟨fun b hb => ?_, fun hb => ?_⟩, fun hask => ?_⟩
    · have h15 : q.f 1 0 4 ≠ 15 := Nat.ne_of_lt (Nat.lt_of_lt_of_le hi (Nat.le_trans d.sliceCount_le (by decide)))
      refine runCmd_answered hd hask (if_neg (by simpa [h15] using hbuf)) ?_
      simp [h15, Dev.hasSlice_iff.2 hi, Dev.overProvisioning_formable hform]
    · have h15 : q.f 1 0 4 ≠ 15 := Nat.ne_of_lt (Nat.lt_of_lt_of_le hi (Nat.le_trans d.sliceCount_le (by decide)))
      refine ⟨Config.freeNat d.draws % 2 ^ 16, Nat.mod_lt _ (by decide),
        runCmd_answered hd hask (if_neg (by simpa [h15] using hbuf)) ?_⟩
      rw [if_neg h15, if_neg (by simp [Dev.hasSlice_iff.2 hi])]
      simp only [Dev.overProvisioning_open hform, Dev.draw_eq, Dev.writeBuffer_drawn]
      rfl
    · refine runCmd_answered (f := id) hd hask (if_neg (by simpa [hi] using hbuf)) ?_
      simp [hi, Dev.hasSlice_eq_false hslice]
    · exact runCmd_early hd hask (if_pos hbuf) (.inl rfl)
    · exact runCmd_answered hd hask rfl (Dev.readRecords_end hoff)
    · intro b hask off rs mine hoff hroom hb hbuf
      exact runCmd_answered hd hask rfl (Dev.readRecords_done (Dev.recordStart_known hoff) hroom hb hbuf)
    · intro hask off rs mine
      refine ⟨fun hend hoff => ?_, fun hoff => ⟨fun r hr hroom => ?_, fun hroom => ⟨fun hb => ?_, fun b hb hbuf => ?_⟩⟩⟩
      · exact runCmd_answered hd hask rfl (Dev.readRecords_noStart hend hoff)
      · exact runCmd_answered hd hask rfl (Dev.readRecords_noRoom (Dev.recordStart_known hoff) hr hroom)
      · exact runCmd_answered hd hask rfl (Dev.readRecords_torn (Dev.recordStart_known hoff) hroom hb)
      · exact runCmd_answered hd hask rfl (Dev.readRecords_bufferTooSmall (Dev.recordStart_known hoff) hroom hb hbuf)
    · exact runAnswer_answered hd hask rfl
    · exact runAnswer_answered hd hask (by simp [lastGaspAt, hb])
    · exact runAnswer_answered hd hask (by simp [lastGaspAt, hb])
    · obtain ⟨m, x, hx, hfx, ex⟩ := d.fit_eq d.thermalLifeUsed 16
      obtain ⟨n, y, hy, hfy, ey⟩ := (d.drawn m).fit_eq d.wearLifeUsed 16
      refine ⟨m + n, x, y, hx, hy, hfx, hfy, runCmd_answered (f := fun d => d.drawn (m + n)) hd hask rfl ?_⟩
      have ey : (d.drawn m).fit (d.drawn m).wearLifeUsed 16 = (y, (d.drawn m).drawn n) := ey
      simp only [ex, ey, Dev.drawn_drawn]
      rfl
  · intro s c q rest d
    have hd : s.dev.takeRequest c rest = d := rfl
    have hchan (hask : s.dev.Asks c 0x0607 q rest) : q.channel = c := Chan.front_channel hask.2.2.2.1
    refine ⟨fun pass hask hgen => ?_, fun hask hgen => ?_, fun hask hgen => ?_, fun hask => ?_⟩
    · exact runCmd_answered hd hask rfl (if_pos hgen)
    · exact runCmd_answered hd hask rfl (if_neg hgen)
    · obtain ⟨hrec, hfailed⟩ := exec_recorderClear_failed_state hd hask hgen
      exact ⟨_, _, exec_recorderClear_failed hd hask hgen, rfl, hrec, hfailed⟩
    · refine ⟨_, runCmd_answered hd hask rfl ?_, rfl⟩
      rw [hchan hask, ← hd, Dev.takeRequest_mask]
end Sys2Proof.Machine
end

section
/-!
SUPPORT. Transitions, temperatures and the fault latch (R452–R454).
-/
namespace Sys2Proof.Machine

open Sys2Proof

/-! ### Transitions (R452, R478) -/

theorem modeTarget_none {n : Nat} (h1 : n ≠ 1) (h8 : n ≠ 8) (h9 : n ≠ 9) : modeTarget n = none := by
  simp [modeTarget, h1, h8, h9]

theorem Dev.takeRequest_testAllowed (d : Dev) (c : Nat) (rest : List MbWord) (secure : Bool) :
    (d.takeRequest c rest).testAllowed secure = d.testAllowed secure := by
  simp [Dev.testAllowed]

theorem Dev.testAllowed_eq_false {d : Dev} {secure : Bool}
    (h : d.fuses.lifecycle = .mace ∨ d.fuses.lifecycle = .cumin ∧ secure = false) : d.testAllowed secure = false := by
  unfold Dev.testAllowed
  obtain h | ⟨h, hs⟩ := h <;> simp [*]

theorem Dev.testAllowed_eq_true {d : Dev} {secure : Bool}
    (h : d.fuses.lifecycle = .anise ∨ d.fuses.lifecycle = .cumin ∧ secure = true) : d.testAllowed secure = true := by
  unfold Dev.testAllowed
  obtain h | ⟨h, hs⟩ := h <;> simp [*]

/-! ### Temperatures (R452, R510) -/

/-- The byte `b` reports sensor `k` as R510 gives it; a sensor without a reading has an open byte. -/
def Dev.Reports (d : Dev) (k : Nat) (enabled : Bool) (b : Nat) : Prop :=
  (enabled = false → b = 0x80)
    ∧ (enabled = true → (d.sensor k).faulty = true → b = 0x81)
    ∧ ∀ x l, enabled = true → (d.sensor k).faulty = false → (d.sensor k).readings = x :: l → b = degreeByte x

theorem Dev.thermalByte_reports (d : Dev) (k : Nat) (enabled : Bool) :
    ∃ n b, d.Reports k enabled b ∧ d.thermalByte k enabled = (b, d.drawn n) := by
  unfold Dev.thermalByte Dev.Reports
  cases enabled with
  | false => exact ⟨0, 0x80, by simp, rfl⟩
  | true =>
    cases hfault : (d.sensor k).faulty with
    | true => exact ⟨0, 0x81, by simp, by simp [hfault, Dev.drawn]⟩
    | false =>
      cases hread : (d.sensor k).readings with
      | nil => exact ⟨1, Config.freeNat d.draws % 256, by simp, by simp [hfault, hread, Dev.draw_eq]⟩
      | cons x l => exact ⟨0, degreeByte x, by simp +contextual, by simp [hfault, hread, Dev.drawn]⟩

theorem Dev.thermalBytes_report (d : Dev) (l : List (Nat × Bool)) :
    ∃ n bs, bs.length = l.length ∧ (∀ i k e, l[i]? = some (k, e) → d.Reports k e (bs.getD i 0))
      ∧ d.thermalBytes l = (bs, d.drawn n) := by
  induction l generalizing d with
  | nil => exact ⟨0, [], rfl, by simp, rfl⟩
  | cons x l ih =>
    obtain ⟨m, b, hb, eb⟩ := d.thermalByte_reports x.1 x.2
    obtain ⟨n, bs, hlen, hbs, ebs⟩ := ih (d.drawn m)
    refine ⟨m + n, b :: bs, by rw [List.length_cons, List.length_cons, hlen], fun i k e hi => ?_, ?_⟩
    · cases i with
      | zero => obtain rfl := Option.some.inj hi; exact hb
      | succ i => exact hbs i k e hi
    · rw [Dev.thermalBytes, eb]
      simp only [ebs, Dev.drawn_drawn]

section
variable {s : State} {c : Nat} {q : Req} {rest : List MbWord} {d : Dev} (hd : s.dev.takeRequest c rest = d)
  (hask : s.dev.Asks c 0x0703 q rest)
include hd hask

theorem exec_thermalStatus :
    ∃ (n : Nat) (outer inner : List Nat) (top : Nat), outer.length = 4 ∧ inner.length = 36
      ∧ (∀ i, i < 4 → d.Reports (4 * d.sliceCount + i) (wbits d.active.thermSrc i 1 == 1) (outer.getD i 0))
      ∧ (∀ k, k < 36 → d.Reports k (decide (k < 4 * d.sliceCount)) (inner.getD k 0))
      ∧ (∀ e, hottest d.readings = some e → top = degreeByte e.2)
      ∧ exec (.thermalStatus c) s = .next (s.answered q rest (fun d => d.drawn n) (done
          (word (leAt ((outer ++ [top]).map (BitVec.ofNat 8)) 0 5 + d.rung * 2 ^ 40)
            :: wordsOf 6 (inner.map (BitVec.ofNat 8))))) := by
  obtain ⟨m, outer, hlo, ho, eo⟩ := d.thermalBytes_report
    ((List.range 4).map fun i => (4 * d.sliceCount + i, wbits d.active.thermSrc i 1 == 1))
  obtain ⟨n, inner, hli, hi, ei⟩ := (d.drawn m).thermalBytes_report
    ((List.range 36).map fun k => (k, decide (k < 4 * d.sliceCount)))
  have hrow (i : Nat) (h : i < 4) := ho i (4 * d.sliceCount + i) (wbits d.active.thermSrc i 1 == 1) (by simp [h])
  have hcol (k : Nat) (h : k < 36) : d.Reports k (decide (k < 4 * d.sliceCount)) (inner.getD k 0) :=
    hi k k (decide (k < 4 * d.sliceCount)) (by simp [h])
  cases htop : hottest d.readings with
  | some e =>
    have htop' : hottest (d.drawn (m + n)).readings = some e := htop
    refine ⟨m + n, outer, inner, degreeByte e.2, by simpa using hlo, by simpa using hli, hrow, hcol, by simp, ?_⟩
    refine runCmd_answered hd hask rfl ?_
    simp only [eo, ei, htop', Dev.drawn_drawn]
    rfl
  | none =>
    have htop' : hottest (d.drawn (m + n)).readings = none := htop
    refine ⟨m + n + 1, outer, inner, Config.freeNat (d.draws + (m + n)) % 256, by simpa using hlo, by simpa using hli,
      hrow, hcol, by simp, ?_⟩
    refine runCmd_answered hd hask rfl ?_
    simp only [eo, ei, htop', Dev.draw_eq, Dev.drawn_drawn]
    rfl

end

/-- Settles O18: each clause is the branch of its command that its hypotheses choose. -/
theorem transitionsAndFaults : Obligations.TransitionsAndFaults := by
  constructor
  · intro s c q rest d
    have hd : s.dev.takeRequest c rest = d := rfl
    have hallowed (secure : Bool) : d.testAllowed secure = s.dev.testAllowed secure :=
      s.dev.takeRequest_testAllowed c rest secure
    clear_value d
    refine ⟨fun m hask hrun hm => ?_, fun hask hm hrun => ?_, fun hask h1 h8 h9 => ?_, fun hask hrun => ?_, fun hask hrun => ?_,
      fun hask => ⟨fun hlife => ?_, fun hlife hrun => ?_, fun hlife hrun => ?_⟩⟩
    · have hmode : modeTarget (q.f 1 0 4) = some m := by
        obtain ⟨h, rfl⟩ | ⟨h, rfl⟩ | ⟨h, rfl⟩ := hm <;> rw [h] <;> rfl
      exact runCmd_answered hd hask rfl (by simp [hmode, hrun])
    · have hmode : ∃ m, modeTarget (q.f 1 0 4) = some m := by
        obtain h | h | h := hm <;> rw [h] <;> exact ⟨_, rfl⟩
      obtain ⟨m, hmode⟩ := hmode
      exact runCmd_answered hd hask rfl (by simp [hmode, hrun])
    · exact runCmd_answered hd hask rfl (by simp [modeTarget_none h1 h8 h9])
    · exact runCmd_answered hd hask rfl (by simp [hrun])
    · exact runCmd_answered hd hask rfl (by simp [hrun])
    · exact runCmd_early hd hask (n := 5) (by simp [hallowed, Dev.testAllowed_eq_false hlife]) (by simp)
    · exact runCmd_answered hd hask (if_pos (by rw [hallowed, Dev.testAllowed_eq_true hlife])) (by
        simp [hrun, Dev.beginTransition])
    · exact runCmd_answered hd hask (if_pos (by rw [hallowed, Dev.testAllowed_eq_true hlife])) (by simp [hrun])
  · intro s c q rest d
    have hd : s.dev.takeRequest c rest = d := rfl
    clear_value d
    refine ⟨fun hask => ?_, fun hask => ?_, fun hask hrest => ?_, fun hask hmode hlatch hrun => ?_,
      fun hask hmode hlatch hrun => ?_⟩
    · obtain ⟨n, outer, inner, top, hlo, hli, ho, hi, htop, hexec⟩ := exec_thermalStatus hd hask
      refine ⟨n, outer, inner, top, hlo, hli, fun i h => ?_, fun k h => ?_, htop, hexec⟩
      · obtain ⟨hoff, hfault, hread⟩ := ho i h
        exact ⟨fun hen => hoff (by simpa using hen), fun hen => hfault (by simpa using hen),
          fun x l hen => hread x l (by simpa using hen)⟩
      · obtain ⟨hoff, hfault, hread⟩ := hi k h
        exact ⟨fun hen => hoff (by simpa using hen), fun hen => hfault (by simpa using hen),
          fun x l hen => hread x l (by simpa using hen)⟩
    · obtain ⟨n, x, hx, hfit, ex⟩ := d.fit_eq d.seq.shortDrops 16
      exact ⟨n, x, hx, hfit, runCmd_answered (f := fun d => d.drawn n) hd hask rfl (by simp only [ex]; rfl)⟩
    · exact runCmd_answered hd hask rfl (if_neg (by simpa using hrest))
    · exact runCmd_answered hd hask rfl (by simp [hmode, hlatch, hrun])
    · refine runCmd_answered hd hask rfl ?_
      obtain ⟨t, ht⟩ := Option.ne_none_iff_exists'.1 hrun
      simp [hmode, hlatch, ht]
end Sys2Proof.Machine
end

section
/-!
SUPPORT. The cartridge commands of the mailbox (R455–R460).
-/
namespace Sys2Proof.Machine

open Sys2Proof

/-! ### CART_POWER (R456) -/

/-- R456: an unstarted power-off ends the card's service and goes on to the shutdown of the link or the fall of PERST_N. -/
def Dev.cartPowerOff (d : Dev) (q : Req) : Dev :=
  let e := if d.streaming then d.cartEnd.notifyCart d.cartEnd.cart.present true else d.cartEnd
  (if d.cart.linkUp then e.notifyShutdown d.cart.queues else e.onCart Cart.perstFalls).await q .cartOff

section
variable {s : State} {c : Nat} {q : Req} {rest : List MbWord} {d : Dev} (hd : s.dev.takeRequest c rest = d)
  (hask : s.dev.Asks c 0x0802 q rest) (hbusy : d.cartBusy = false)
include hd hask hbusy

theorem exec_cartPower_off (hoff : q.f 1 0 1 = 0) (hpwr : d.cart.pwrEn = true) (hstep : d.cart.step < 5) :
    exec (.cartPower c) s = .next (s.answered q rest (fun d => d.cartPowerOff q) .later) :=
  runCmd_answered hd hask rfl (by simp [hbusy, hoff, hpwr, Nat.not_le.2 hstep, Dev.cartPowerOff])

end

/-! ### CART_TITLE_IMPORT (R459) -/

theorem Cart.names_entry {c : Cart} {e : Nat} (h : c.serves = false ∨ e < c.entryCount) :
    (c.serves && decide (c.entryCount ≤ e)) = false := by
  obtain h | h := h <;> simp [h]

section
variable {s : State} {c : Nat} {q : Req} {rest : List MbWord} {d : Dev} (hd : s.dev.takeRequest c rest = d)
  {status : BitVec 16} {key : BitVec 256} (hask : s.dev.Asks c 0x0805 q rest)
  (hentry : (d.cart.serves && decide (d.cart.entryCount ≤ q.f 1 0 8)) = false)
include hd hask hentry

theorem exec_cartTitleImport_busy (hbusy : d.titleBusy (q.f 1 8 5) = true ∨ d.cartBusy = true) :
    exec (.cartTitleImport c status key) s = .next (s.answered q rest id (fail 1)) := by
  refine runCmd_answered hd hask rfl ?_
  rw [if_neg (by simp [hentry]), if_pos (by simpa using hbusy)]
  rfl

variable (hbusy : d.titleBusy (q.f 1 8 5) = false) (hcart : d.cartBusy = false)
include hbusy hcart

theorem exec_cartTitleImport_anise (hlife : d.fuses.lifecycle = .anise) :
    exec (.cartTitleImport c status key) s = .next (s.answered q rest id (fail 0x0E)) := by
  refine runCmd_answered hd hask rfl ?_
  rw [if_neg (by simp [hentry])]
  simp [hbusy, hcart, hlife]

variable (hlife : d.fuses.lifecycle ≠ .anise)
include hlife

theorem exec_cartTitleImport_otherState (hst : (d.title (q.f 1 8 5)).state ≠ .empty ∨ d.cart.serves = false) :
    exec (.cartTitleImport c status key) s = .next (s.answered q rest id (fail 7)) := by
  refine runCmd_answered (f := id) hd hask rfl ?_
  rw [if_neg (by simp [hentry])]
  by_cases hempty : (d.title (q.f 1 8 5)).state = .empty
  · simp [hbusy, hcart, hlife, hempty, hst.resolve_left (Classical.not_not.2 hempty)]
  · simp [hbusy, hcart, hlife, hempty]

variable (hst : (d.title (q.f 1 8 5)).state = .empty) (hserves : d.cart.serves = true)
include hst hserves

theorem exec_cartTitleImport_badRecord (hrec : d.recordOk d.window = false) :
    exec (.cartTitleImport c status key) s
      = .next (s.answered q rest (fun d => d.drawn 1) (.now 4 0 [word (Config.freeNat d.draws % 1024)])) := by
  refine runCmd_answered hd hask rfl ?_
  rw [if_neg (by simp [hentry])]
  simp [hbusy, hcart, hlife, hst, hserves, hrec, Dev.badRecord, Dev.draw_eq]

variable (hrec : d.recordOk d.window = true)
include hrec

theorem exec_cartTitleImport_denied (hbad : status ≠ 0) :
    exec (.cartTitleImport c status key) s = .next (s.answered q rest (fun d => d.askTitleKey (q.f 1 0 8)) (fail 5)) := by
  refine runCmd_answered hd hask rfl ?_
  rw [if_neg (by simp [hentry])]
  simpa [hbusy, hcart, hlife, hst, hserves, hrec] using fun h => absurd h hbad

theorem exec_cartTitleImport_installs (hgood : status = 0) :
    exec (.cartTitleImport c status key) s = .next (s.answered q rest (fun d =>
      ({ d.askTitleKey (q.f 1 0 8) with titles := upd d.titles (q.f 1 8 5) fun _ =>
          { state := .installed, key := d.rewrapped key, id := d.cart.titleId (q.f 1 0 8), ranges := recordRanges d.window }
        } : Dev).countPkg 16 1) (done [])) := by
  refine runCmd_answered hd hask rfl ?_
  rw [if_neg (by simp [hentry])]
  simp [hbusy, hcart, hlife, hst, hserves, hrec, hgood]
  rfl

end

/-! ### CART_STREAM_MAP (R460) -/

section
variable {s : State} {c : Nat} {q : Req} {rest : List MbWord} {d : Dev} (hd : s.dev.takeRequest c rest = d)
  {table : List Byte} (hask : s.dev.Asks c 0x0806 q rest)
  (hentry : (d.cart.serves && decide (d.cart.entryCount ≤ q.f 1 0 8)) = false)
include hd hask hentry

theorem exec_cartStreamMap_swapping (hswap : d.swapPending = true) :
    exec (.cartStreamMap c table) s = .next (s.answered q rest id (fail 0x0F)) := by
  refine runCmd_answered hd hask rfl ?_
  rw [if_neg (by simp [hentry]), if_pos hswap]
  rfl

variable (hswap : d.swapPending = false)
include hswap

theorem exec_cartStreamMap_busy (hbusy : d.images.storing ≠ none ∨ d.cartBusy = true) :
    exec (.cartStreamMap c table) s = .next (s.answered q rest id (fail 1)) := by
  refine runCmd_answered hd hask rfl ?_
  rw [if_neg (by simp [hentry]), if_neg (by simp [hswap]), if_pos (by simpa [Dev.shadowHeld_iff] using hbusy)]
  rfl

variable (hheld : d.images.storing = none) (hcart : d.cartBusy = false)
include hheld hcart

/-- What CART_STREAM_MAP finds of the title, the card and its entry decides the rest. -/
theorem exec_cartStreamMap {f : Dev → Dev} {r : Reply}
    (hslot : ∀ slot, ((List.range 32).find? fun t =>
        (d.title t).state != .empty && (d.title t).id == d.cart.titleId (q.f 1 0 8)) = slot →
      slot = none ∧ (f d, r) = (d, fail 7) ∨ ∃ t, slot = some t ∧
        (if !d.cart.serves || !d.cart.streamable (q.f 1 0 8) then (d, fail 7)
          else if (d.loadTable (q.f 1 0 8) table).2 != 0 then
            ((d.loadTable (q.f 1 0 8) table).1, fail (d.loadTable (q.f 1 0 8) table).2)
          else ((d.loadTable (q.f 1 0 8) table).1.mapStream (q.f 1 8 6) (q.f 1 0 8) t, done [])) = (f d, r)) :
    exec (.cartStreamMap c table) s = .next (s.answered q rest f r) := by
  refine runCmd_answered hd hask rfl ?_
  rw [if_neg (by simp [hentry]), if_neg (by simp [hswap]), if_neg (by simp [Dev.shadowHeld_eq_false hheld, hcart])]
  obtain ⟨hnone, hf⟩ | ⟨t, hsome, hf⟩ := hslot _ rfl
  · simp only [hnone, hf]
  · simp only [hsome, hf]

theorem exec_cartStreamMap_otherState
    (h : ((List.range 32).find? fun t => (d.title t).state != .empty && (d.title t).id == d.cart.titleId (q.f 1 0 8)) = none
      ∨ d.cart.serves = false ∨ d.cart.streamable (q.f 1 0 8) = false) :
    exec (.cartStreamMap c table) s = .next (s.answered q rest id (fail 7)) := by
  refine exec_cartStreamMap hd hask hentry hswap hheld hcart fun slot hslot => ?_
  cases slot with
  | none => exact .inl ⟨rfl, rfl⟩
  | some t =>
    obtain hnone | hcard := h
    · cases hnone.symm.trans hslot
    · exact .inr ⟨t, rfl, if_pos (by simpa using hcard)⟩

variable {t : Nat} (hslot : ((List.range 32).find? fun t =>
    (d.title t).state != .empty && (d.title t).id == d.cart.titleId (q.f 1 0 8)) = some t)
  (hserves : d.cart.serves = true) (hstream : d.cart.streamable (q.f 1 0 8) = true)
include hslot hserves hstream

theorem exec_cartStreamMap_failed (hfail : (d.loadTable (q.f 1 0 8) table).2 ≠ 0) :
    exec (.cartStreamMap c table) s = .next (s.answered q rest
      (fun d => (d.loadTable (q.f 1 0 8) table).1) (fail (d.loadTable (q.f 1 0 8) table).2)) :=
  exec_cartStreamMap hd hask hentry hswap hheld hcart fun _ h =>
    .inr ⟨t, h.symm.trans hslot, by simp [hserves, hstream, hfail]⟩

theorem exec_cartStreamMap_maps (hload : (d.loadTable (q.f 1 0 8) table).2 = 0) :
    exec (.cartStreamMap c table) s = .next (s.answered q rest
      (fun d => (d.loadTable (q.f 1 0 8) table).1.mapStream (q.f 1 8 6) (q.f 1 0 8) t) (done [])) :=
  exec_cartStreamMap hd hask hentry hswap hheld hcart fun _ h =>
    .inr ⟨t, h.symm.trans hslot, by simp [hserves, hstream, hload]⟩

end

/-- Settles O19: each clause is the branch of its command that its hypotheses choose. -/
theorem cartridgeCommanded : Obligations.CartridgeCommanded := by
  intro s c q rest d
  have hd : s.dev.takeRequest c rest = d := rfl
  clear_value d
  refine ⟨fun hask => ?_, fun hask hbusy => ?_,
    fun hask hbusy => ⟨fun hon hcard => ?_, fun hon hcard hpwr hstep => ?_, fun hon hcard hpwr hstep => ?_,
      fun hon hcard hstep => ?_, fun hoff hpwr hstep => ?_, fun hoff hpwr => ?_, exec_cartPower_off hd hask hbusy⟩,
    fun card hask hbusy hlink hready hanswers => ⟨fun hstep => ?_, fun k hstep => ?_⟩,
    fun card hask => ⟨fun hbusy => ?_, fun hbusy hlink => ?_, fun hbusy hlink hready hanswers => ?_⟩,
    fun hask => ⟨fun hserves hbuf => ?_, fun hserves => ?_, fun hserves hbuf => ?_⟩, ?_, ?_, ?_, ?_⟩
  · exact runAnswer_answered hd hask rfl
  · exact runCmd_answered hd hask rfl (if_pos hbusy)
  · exact runCmd_answered hd hask rfl (by simp [hbusy, hon, hcard])
  · exact runCmd_answered hd hask rfl (by simp [hbusy, hon, hcard, hpwr, Nat.not_le.2 hstep, Dev.onCart])
  · exact runCmd_answered hd hask rfl (by simp [hbusy, hon, hcard, hpwr, Nat.not_le.2 hstep])
  · exact runCmd_answered hd hask rfl (by simp [hbusy, hon, hcard, hstep])
  · exact runCmd_answered hd hask rfl (by simp [hbusy, hoff, hpwr, hstep])
  · exact runCmd_answered hd hask rfl (by simp [hbusy, hoff, hpwr])
  · exact runCmd_answered hd hask rfl (by simp [hbusy, hlink, hready, hanswers, hstep, manifestBytes, Dev.onCart])
  · exact runCmd_answered hd hask rfl (by simp [hbusy, hlink, hready, hanswers, hstep]; rfl)
  · exact runCmd_answered hd hask rfl (if_pos hbusy)
  · refine runCmd_answered (f := fun d => (d.authFailed 1 0x0C).1) hd hask rfl ?_
    rw [if_neg (by simp [hbusy]), if_pos (by simpa using hlink)]
    rfl
  · refine ⟨Config.freeNat d.draws % 6 + 1, Nat.le_add_left _ _, Nat.succ_le_of_lt (Nat.mod_lt _ (by decide)),
      runCmd_answered hd hask rfl ?_⟩
    simp [hbusy, hlink, hready, hanswers, Dev.draw_eq, Dev.drawn, Dev.authFailed]
  · exact runCmd_early hd hask (if_pos (by simp [hserves, hbuf])) (.inl rfl)
  · exact runCmd_answered hd hask (by simp [hserves]) (by simp [hserves])
  · exact runCmd_answered hd hask (by simp [hserves, Nat.not_lt.2 hbuf]) (by simp [hserves])
  · intro status key hask e t hserves he hbusy hcart hlife hst hrec
    have hentry := Cart.names_entry (.inr he)
    exact ⟨exec_cartTitleImport_denied hd hask hentry hbusy hcart hlife hst hserves hrec,
      exec_cartTitleImport_installs hd hask hentry hbusy hcart hlife hst hserves hrec⟩
  · intro status key hask e t
    refine ⟨fun hserves he => runCmd_answered hd hask rfl (if_pos (by simp [e, hserves, he])), fun he => ?_⟩
    have hentry := Cart.names_entry he
    exact ⟨exec_cartTitleImport_busy hd hask hentry, fun hbusy hcart => ⟨exec_cartTitleImport_anise hd hask hentry hbusy hcart,
      exec_cartTitleImport_otherState hd hask hentry hbusy hcart,
      fun hlife hst hserves hrec => ⟨_, exec_cartTitleImport_badRecord hd hask hentry hbusy hcart hlife hst hserves hrec⟩⟩⟩
  · intro table hask e slot
    refine ⟨fun hserves he => runCmd_answered hd hask rfl (if_pos (by simp [e, hserves, he])), fun he => ?_⟩
    have hentry := Cart.names_entry he
    refine ⟨exec_cartStreamMap_swapping hd hask hentry, exec_cartStreamMap_busy hd hask hentry,
      fun hswap hheld hcart => ⟨exec_cartStreamMap_otherState hd hask hentry hswap hheld hcart, fun hslot hserves hstream hfail => ?_⟩⟩
    obtain ⟨t, hslot⟩ := Option.ne_none_iff_exists'.1 hslot
    exact exec_cartStreamMap_failed hd hask hentry hswap hheld hcart hslot hserves hstream hfail
  · intro table t hask e hserves he hswap hheld hcart hslot hstream hload
    exact exec_cartStreamMap_maps hd hask (Cart.names_entry (.inr he)) hswap hheld hcart hslot hserves hstream hload
end Sys2Proof.Machine
end

section
/-!
SUPPORT. FW_STAGE, FW_ACTIVATE and FW_INFO (R461–R463).
-/
namespace Sys2Proof.Machine

open Sys2Proof

theorem Dev.fwBusy_eq_true {d : Dev} {t c : Nat} (h : ∃ e, (d.fwTarget t).staging = some e ∧ e.1 ≠ c) :
    d.fwBusy t c = true := by
  obtain ⟨e, he, hc⟩ := h
  simp [Dev.fwBusy, he, hc]

theorem Dev.fwBusy_eq_false {d : Dev} {t c : Nat} (h : ∀ e, (d.fwTarget t).staging = some e → e.1 = c) :
    d.fwBusy t c = false := by
  unfold Dev.fwBusy
  cases he : (d.fwTarget t).staging with
  | none => rfl
  | some e => simp [h e he]

/-- What the channel of `q` has staged of target `t`. -/
def Dev.ownPart (d : Dev) (q : Req) (t : Nat) : Option (List Byte) :=
  (d.fwTarget t).staging.bind fun e => if e.1 = q.channel then some e.2 else none

theorem Dev.ownPart_length {d : Dev} {q : Req} {t off : Nat} :
    (d.ownPart q t).map List.length = some off
      ↔ ((d.fwTarget t).staging.any fun e => e.1 == q.channel && decide (e.2.length = off)) = true := by
  unfold Dev.ownPart
  obtain he | ⟨⟨c, b⟩, he⟩ := Option.eq_none_or_eq_some (d.fwTarget t).staging
  · simp [he]
  · by_cases hc : c = q.channel <;> simp [he, hc]

/-! ### A part of an image (R461) -/

section
variable {d : Dev} {q : Req} (buffer : List Byte) (htarget : q.f 1 33 2 ≠ 3)
include htarget

theorem Dev.fwPart_misaligned (hoff : q.f 1 0 32 % 4096 ≠ 0) : d.fwPart q buffer = (d, badField 1 0) := by
  rw [Dev.fwPart, if_neg htarget, if_pos hoff]

variable (hoff : q.f 1 0 32 % 4096 = 0)
include hoff

theorem Dev.fwPart_uneven (hn : q.f 2 0 32 = 0 ∨ q.f 1 32 1 = 0 ∧ q.f 2 0 32 % 4096 ≠ 0) :
    d.fwPart q buffer = (d, badField 2 0) := by
  have hlast : q.f 1 32 1 = 0 → ¬q.f 1 32 1 = 1 := by omega
  rw [Dev.fwPart, if_neg htarget, if_neg (Classical.not_not.2 hoff), if_pos (hn.imp_right fun h => ⟨hlast h.1, h.2⟩)]

variable (hn : ¬(q.f 2 0 32 = 0 ∨ q.f 1 32 1 = 0 ∧ q.f 2 0 32 % 4096 ≠ 0))
include hn

/-- A part of a length that fits is checked against what its channel has staged. -/
theorem Dev.fwPart_placed :
    d.fwPart q buffer =
      if q.f 1 0 32 ≠ 0 ∧ (d.ownPart q (q.f 1 33 2)).map List.length ≠ some (q.f 1 0 32) then (d, badField 1 0)
      else if d.fwBusy (q.f 1 33 2) q.channel then (d, fail 1)
      else if 2 ^ 24 < q.f 1 0 32 + q.f 2 0 32 then d.fwRejected (q.f 1 33 2) 0x0803
      else match d.bufferBytes q buffer (q.f 2 0 32) with
        | none => (d, fail 9)
        | some b =>
          let staged := (if q.f 1 0 32 = 0 then [] else (d.ownPart q (q.f 1 33 2)).getD []) ++ b
          if q.f 1 32 1 = 1 then d.fwFinish (q.f 1 33 2) staged
          else (d.onFirmware (q.f 1 33 2) fun f => { f with staging := some (q.channel, staged) }, done []) := by
  have hlast : ¬q.f 1 32 1 = 1 → q.f 1 32 1 = 0 := (q.f_bit 1 32).resolve_right
  rw [Dev.fwPart, if_neg htarget, if_neg (Classical.not_not.2 hoff), if_neg (fun h => hn (h.imp_right fun h => ⟨hlast h.1, h.2⟩))]
    <;> rfl

theorem Dev.fwPart_misplaced (hfirst : q.f 1 0 32 ≠ 0)
    (hown : ((d.fwTarget (q.f 1 33 2)).staging.any fun e => e.1 == q.channel && decide (e.2.length = q.f 1 0 32)) = false) :
    d.fwPart q buffer = (d, badField 1 0) := by
  rw [Dev.fwPart_placed buffer htarget hoff hn, if_pos ⟨hfirst, fun h => by simp [Dev.ownPart_length.1 h] at hown⟩]

theorem Dev.fwPart_busy (hfirst : q.f 1 0 32 = 0)
    (hbusy : ∃ e, (d.fwTarget (q.f 1 33 2)).staging = some e ∧ e.1 ≠ q.channel) :
    d.fwPart q buffer = (d, fail 1) := by
  rw [Dev.fwPart_placed buffer htarget hoff hn, if_neg fun h => h.1 hfirst, if_pos (Dev.fwBusy_eq_true hbusy)]

variable (hown : q.f 1 0 32 ≠ 0 →
    ((d.fwTarget (q.f 1 33 2)).staging.any fun e => e.1 == q.channel && decide (e.2.length = q.f 1 0 32)) = true)
  (hfree : ∀ e, (d.fwTarget (q.f 1 33 2)).staging = some e → e.1 = q.channel)
include hown hfree

theorem Dev.fwPart_tooLong (hsize : 2 ^ 24 < q.f 1 0 32 + q.f 2 0 32) :
    d.fwPart q buffer = d.fwRejected (q.f 1 33 2) 0x0803 := by
  rw [Dev.fwPart_placed buffer htarget hoff hn, if_neg fun h => h.2 (Dev.ownPart_length.2 (hown h.1)),
    if_neg (by simp [Dev.fwBusy_eq_false hfree]), if_pos hsize]

variable (hsize : q.f 1 0 32 + q.f 2 0 32 ≤ 2 ^ 24)
include hsize

theorem Dev.fwPart_poisoned (hb : d.bufferBytes q buffer (q.f 2 0 32) = none) : d.fwPart q buffer = (d, fail 9) := by
  rw [Dev.fwPart_placed buffer htarget hoff hn, if_neg fun h => h.2 (Dev.ownPart_length.2 (hown h.1)),
    if_neg (by simp [Dev.fwBusy_eq_false hfree]), if_neg (Nat.not_lt.2 hsize), hb]

theorem Dev.fwPart_staged {b old : List Byte} (hb : d.bufferBytes q buffer (q.f 2 0 32) = some b)
    (hold : (if q.f 1 0 32 = 0 then [] else (d.ownPart q (q.f 1 33 2)).getD []) = old) :
    d.fwPart q buffer = if q.f 1 32 1 = 1 then d.fwFinish (q.f 1 33 2) (old ++ b)
      else (d.onFirmware (q.f 1 33 2) fun f => { f with staging := some (q.channel, old ++ b) }, done []) := by
  rw [Dev.fwPart_placed buffer htarget hoff hn, if_neg fun h => h.2 (Dev.ownPart_length.2 (hown h.1)),
    if_neg (by simp [Dev.fwBusy_eq_false hfree]), if_neg (Nat.not_lt.2 hsize), hb]
  simp only [hold]

end

/-- R434: a secure channel may activate every target. -/
theorem fwActivate_not_stopped {q : Req} (hsec : q.f 1 0 2 = 2 → q.secure = true) :
    (if q.f 1 0 2 = 2 ∧ !q.secure then some 5 else none) = (none : Option Nat) :=
  if_neg fun h => by simp [hsec h.1] at h

section
variable {s : State} {c : Nat} {q : Req} {rest : List MbWord} {d : Dev} (hd : s.dev.takeRequest c rest = d)
include hd

/-- A part that its channel may stage in its buffer is taken. -/
theorem exec_fwStage {buffer : List Byte} (hask : s.dev.Asks c 0x0901 q rest) (hbuf : q.f 2 0 32 ≤ d.bufferSize q.channel)
    (hsec : q.f 1 33 2 = 2 → q.secure = true) {f : Dev → Dev} {r : Reply} (hpart : d.fwPart q buffer = (f d, r)) :
    exec (.fwStage c buffer) s = .next (s.answered q rest f r) := by
  refine runCmd_answered hd hask ?_ hpart
  rw [if_neg (Nat.not_lt.2 hbuf), if_neg fun h => by simp [hsec h.1] at h]

end

/-- Settles O20: each clause is the branch of its command that its hypotheses choose. -/
theorem firmwareStagedAndActivated : Obligations.FirmwareStagedAndActivated := by
  intro s c q rest d
  have hd : s.dev.takeRequest c rest = d := rfl
  clear_value d
  refine ⟨?_, ?_, fun buffer hask hbuf ht => ?_, fun buffer hask hbuf ht hsec => ?_, ?_, fun hask => ?_⟩
  · intro buffer old b hask off t n hbuf ht hsec hoff hn heven hfree hold hsize hb
    have huneven : ¬(n = 0 ∨ q.f 1 32 1 = 0 ∧ n % 4096 ≠ 0) := by
      rintro (h | ⟨hlast, hodd⟩)
      · exact hn h
      · exact hodd (heven.resolve_left (by omega))
    have hown : off ≠ 0 → ((d.fwTarget t).staging.any fun e => e.1 == q.channel && decide (e.2.length = off)) = true := by
      intro hfirst
      obtain ⟨hst, hlen⟩ := hold.resolve_left fun h => hfirst h.1
      simp [hst, hlen]
    have hown' : (if off = 0 then [] else (d.ownPart q t).getD []) = old := by
      obtain ⟨hfirst, rfl⟩ | ⟨hst, hlen⟩ := hold
      · exact if_pos hfirst
      · split
        case isTrue hfirst => exact (List.eq_nil_of_length_eq_zero (hlen.trans hfirst)).symm
        case isFalse => simp [Dev.ownPart, hst]
    have hpart := Dev.fwPart_staged buffer ht hoff huneven hown hfree hsize hb hown'
    refine ⟨fun hlast => ?_, fun hlast hcheck => ?_, fun hlast hcheck => ?_⟩
    · exact exec_fwStage hd hask hbuf hsec (hpart.trans (if_neg (by omega)))
    · exact exec_fwStage hd hask hbuf hsec (hpart.trans ((if_pos hlast).trans (if_pos hcheck)))
    · exact exec_fwStage hd hask hbuf hsec (hpart.trans ((if_pos hlast).trans (if_neg hcheck)))
  · intro buffer hask off t n size mine uneven
    refine ⟨fun hbuf => runCmd_early hd hask (if_pos hbuf) (.inl rfl), fun hbuf ht hsec => ⟨fun hoff => ?_, fun hoff hn => ?_,
      fun hoff hn hfirst hown => ?_, fun hoff hn hbusy => ?_, fun hoff hn hown hfree => ⟨fun hsize => ?_, fun hsize hb => ?_⟩⟩⟩
    · exact exec_fwStage (f := id) hd hask hbuf hsec (Dev.fwPart_misaligned buffer ht hoff)
    · exact exec_fwStage (f := id) hd hask hbuf hsec (Dev.fwPart_uneven buffer ht hoff hn)
    · exact exec_fwStage (f := id) hd hask hbuf hsec (Dev.fwPart_misplaced buffer ht hoff hn hfirst hown)
    · exact exec_fwStage (f := id) hd hask hbuf hsec (Dev.fwPart_busy buffer ht (Nat.mod_eq_of_lt (Nat.lt_of_le_of_lt (Nat.le_of_eq hoff) (by decide)) |>.trans hoff) hn hoff hbusy)
    · exact exec_fwStage hd hask hbuf hsec (Dev.fwPart_tooLong buffer ht hoff hn hown hfree hsize)
    · exact exec_fwStage (f := id) hd hask hbuf hsec (Dev.fwPart_poisoned buffer ht hoff hn hown hfree hsize hb)
  · exact exec_fwStage (f := id) hd hask hbuf (by simp [ht]) (if_pos ht)
  · exact runCmd_early hd hask (n := 5) (by simp [Nat.not_lt.2 hbuf, ht, hsec]) (by simp)
  · intro hask t
    refine ⟨fun ht hsec => ?_, fun ht => ?_, fun ht hsec hbusy => ?_, fun ht hsec hfree hidle hst => ?_,
      fun b ht hsec hfree hidle hst => ?_⟩
    · exact runCmd_early hd hask (if_pos ⟨ht, by simp [hsec]⟩) (by simp)
    · exact runCmd_answered hd hask (if_neg fun h => by omega) (if_pos ht)
    · refine runCmd_answered (f := id) hd hask (fwActivate_not_stopped hsec) ?_
      rw [if_neg ht, if_pos (by simpa [Option.isSome_iff_ne_none] using hbusy)]
      rfl
    · refine runCmd_answered (f := id) hd hask (fwActivate_not_stopped hsec) ?_
      rw [if_neg ht, if_neg (by simp [t] at hfree hidle; simp [hfree, hidle]), hst]
      rfl
    · refine runCmd_answered hd hask (fwActivate_not_stopped hsec) ?_
      rw [if_neg ht, if_neg (by simp [t] at hfree hidle; simp [hfree, hidle]), hst]
      rfl
  · exact runAnswer_answered hd hask (by simp [Dev.fwWords])
end Sys2Proof.Machine
end

section
/-!
SUPPORT. The lifecycle and alarm commands (R351–R353, R384, R385).
-/
namespace Sys2Proof.Machine

open Sys2Proof

/-! ### The root of a part that leaves ANISE (R353) -/

/-- A root bank as it is read after the fuses `e` of a draw have come out wrong. -/
def Dev.burntBank (d : Dev) (e : BitVec 288) : RootBank :=
  let root : BitVec 256 := Config.drbg (d.draws + 1) ++ Config.drbg d.draws
  ⟨root ^^^ e.setWidth 256, BitVec.ofNat 32 (crc32c (leBytes 32 root.toNat)) ^^^ (e >>> 256).setWidth 32⟩

/-- The part after a root has been drawn into bank `i`. -/
def Dev.burn (d : Dev) (e : BitVec 288) (i : Nat) : Dev :=
  { d with
    draws := d.draws + 2
    fuses := { d.fuses with rootBanks := upd d.fuses.rootBanks i fun _ => some (d.burntBank e) } }

section
variable {d : Dev} {next : Lifecycle} {e : BitVec 288}

theorem Dev.rooted_kept
    (h : d.fuses.lifecycle ≠ .anise ∨ next = .clove ∨ ∃ b ∈ d.fuses.rootBanks, b.any RootBank.good = true) :
    d.rooted next e = (true, d) := by
  unfold Dev.rooted
  split
  case isFalse => rfl
  case isTrue hleave =>
    rw [Bool.and_eq_true, beq_iff_eq, bne_iff_ne] at hleave
    have hgood := (h.resolve_left (Classical.not_not.2 hleave.1)).resolve_left hleave.2
    exact if_pos (List.any_eq_true.2 hgood)

section
variable (hlife : d.fuses.lifecycle = .anise) (hnext : next ≠ .clove)
  (hbad : ∀ b ∈ d.fuses.rootBanks, b.any RootBank.good = false)
include hlife hnext hbad

theorem Dev.rooted_fuses : d.rooted next e = match d.fuses.rootBanks.findIdx? Option.isNone with
    | none => (false, d)
    | some i => ((d.burntBank e).good, d.burn e i) := by
  have hnone : (d.fuses.rootBanks.any fun b => b.any RootBank.good) = false :=
    List.any_eq_false.2 fun b hb => by simp [hbad b hb]
  rw [Dev.rooted, if_pos (by simp [hlife, hnext]), Dev.fuseRoot, if_neg (by simp [hnone])]
  cases d.fuses.rootBanks.findIdx? Option.isNone <;> rfl

theorem Dev.rooted_noBank (h : d.fuses.rootBanks.findIdx? Option.isNone = none) : d.rooted next e = (false, d) := by
  rw [Dev.rooted_fuses hlife hnext hbad, h]

theorem Dev.rooted_bank {i : Nat} (h : d.fuses.rootBanks.findIdx? Option.isNone = some i) :
    d.rooted next e = ((d.burntBank e).good, d.burn e i) := by
  rw [Dev.rooted_fuses hlife hnext hbad, h]

end

variable {x : Dev}

theorem Dev.advance_done (h : d.rooted next e = (true, x)) :
    d.advance next e .never = (((x.fuseLifecycle next).recordLifecycle next).beginTransition .boot, done []) := by
  rw [Dev.advance_eq, h]
  rfl

theorem Dev.advance_cutAfterLifecycle (h : d.rooted next e = (true, x)) :
    d.advance next e .afterLifecycle = ((x.fuseLifecycle next).powerOff, .later) := by
  rw [Dev.advance_eq, h]
  rfl

theorem Dev.advance_cutAfterRoot {ok : Bool} (h : d.rooted next e = (ok, x)) :
    d.advance next e .afterRoot = (x.powerOff, .later) := by
  rw [Dev.advance_eq, h]
  rfl

theorem Dev.advance_failed {cut : FuseCut} (h : d.rooted next e = (false, x)) (hcut : cut ≠ .afterRoot) :
    d.advance next e cut = (x.internalError.1, fail 0xFF) := by
  rw [Dev.advance_eq, h, if_neg (by simpa using hcut)]
  rfl

end

/-! ### LIFECYCLE_ADVANCE (R352) -/

theorem lifecycleOf_code {next : Lifecycle} (h : next ≠ .anise) : lifecycleOf next.code = some next := by
  cases next with
  | anise => exact absurd rfl h
  | _ => rfl

theorem lifecycleOf_field (q : Req) (h : q.f 1 0 2 ≠ 0) : ∃ next, lifecycleOf (q.f 1 0 2) = some next := by
  have hlt : q.f 1 0 2 < 4 := Nat.mod_lt _ (by decide)
  obtain h1 | h2 | h3 : q.f 1 0 2 = 1 ∨ q.f 1 0 2 = 2 ∨ q.f 1 0 2 = 3 := by omega
  · exact ⟨_, congrArg lifecycleOf h1⟩
  · exact ⟨_, congrArg lifecycleOf h2⟩
  · exact ⟨_, congrArg lifecycleOf h3⟩

section
variable {s : State} {c : Nat} {q : Req} {rest : List MbWord} {d : Dev} (hd : s.dev.takeRequest c rest = d)
  {e : BitVec 288} {cut : FuseCut} {next : Lifecycle} (hask : s.dev.Asks c 0x0A02 q rest)
  (hnext : lifecycleOf (q.f 1 0 2) = some next)
include hd hask hnext

theorem exec_lifecycleAdvance_otherDevice (hid : (q.w 2).toNat ≠ d.fuses.deviceId.toNat % 2 ^ 48) :
    exec (.lifecycleAdvance c ⟨e, cut⟩) s = .next (s.answered q rest id (badField 2 0)) :=
  runCmd_answered hd hask rfl (by simp only [hnext, if_pos hid]; rfl)

variable (hid : (q.w 2).toNat = d.fuses.deviceId.toNat % 2 ^ 48)
include hid

theorem exec_lifecycleAdvance_busy (hrun : d.transitioning = true) :
    exec (.lifecycleAdvance c ⟨e, cut⟩) s = .next (s.answered q rest id (fail 1)) :=
  runCmd_answered hd hask rfl (by simp only [hnext, if_neg (Classical.not_not.2 hid), hrun]; rfl)

variable (hrun : d.transitioning = false)
include hrun

theorem exec_lifecycleAdvance_notAllowed
    (hstate : next.code ≤ d.fuses.lifecycle.code ∨ next = .mace ∧ d.maceKeys = false) :
    exec (.lifecycleAdvance c ⟨e, cut⟩) s = .next (s.answered q rest id (fail 7)) := by
  refine runCmd_answered (f := id) hd hask rfl ?_
  simp only [hnext]
  rw [if_neg (Classical.not_not.2 hid), if_neg (by simp [hrun]), if_pos (by simpa using hstate)]
  rfl

theorem exec_lifecycleAdvance (hstate : d.fuses.lifecycle.code < next.code) (hkeys : next = .mace → d.maceKeys = true)
    {f : Dev → Dev} {r : Reply} (hadv : d.advance next e cut = (f d, r)) :
    exec (.lifecycleAdvance c ⟨e, cut⟩) s = .next (s.answered q rest f r) := by
  refine runCmd_answered hd hask rfl ?_
  simp only [hnext]
  rw [if_neg (Classical.not_not.2 hid), if_neg (by simp [hrun]), if_neg (by simpa [hstate] using hkeys), hadv]

end

section
variable {s : State} {c : Nat} {q : Req} {rest : List MbWord} {d : Dev} (hd : s.dev.takeRequest c rest = d)
  (hask : s.dev.Asks c 0x0A05 q rest)
include hd hask

/-- Clearing the alarms lets SEC_ALARM_N go high. -/
theorem exec_secAlarmClear_pin :
    (s.answered q rest (fun d => { d with alarms := { d.alarms with causes := 0, count := 0, asserted := false } })
      (done [])).dev.pins.secAlarmLow = false := by
  rw [State.answered, settle_pins, Chan.front_channel hask.2.2.2.1, hd]
  simp [Dev.levels]

end

/-- Settles O21: each clause is the branch of its command that its hypotheses choose. -/
theorem lifecycleAndAlarms : Obligations.LifecycleAndAlarms := by
  constructor
  · intro s c q rest d
    have hd : s.dev.takeRequest c rest = d := rfl
    clear_value d
    refine ⟨fun hask => ?_, fun e cut hask hzero => ?_, fun e cut hask hzero hid => ?_, ?_, fun e cut hask hzero hid hrun => ?_⟩
    · exact runAnswer_answered hd hask rfl
    · exact runCmd_answered hd hask rfl (by simp [hzero, lifecycleOf])
    · obtain ⟨next, hnext⟩ := lifecycleOf_field q hzero
      exact exec_lifecycleAdvance_otherDevice hd hask hnext hid
    · intro e cut next hask hcode hnew hid hrun
      have hnext : lifecycleOf (q.f 1 0 2) = some next := hcode ▸ lifecycleOf_code hnew
      refine ⟨exec_lifecycleAdvance_notAllowed hd hask hnext hid hrun, fun hstate hkeys => ?_⟩
      intro fused goesOn
      have hgo {prepare : Dev → Dev} (hroot : d.rooted next e = (true, prepare d)) : goesOn prepare := by
        refine ⟨?_, ?_, ?_⟩ <;> rintro rfl
        · exact exec_lifecycleAdvance hd hask hnext hid hrun hstate hkeys (Dev.advance_done hroot)
        · exact exec_lifecycleAdvance hd hask hnext hid hrun hstate hkeys (Dev.advance_cutAfterRoot hroot)
        · exact exec_lifecycleAdvance hd hask hnext hid hrun hstate hkeys (Dev.advance_cutAfterLifecycle hroot)
      refine ⟨fun hkept => hgo (Dev.rooted_kept hkept), fun hlife hclove hbad => ⟨fun i hi => ?_, fun hi hcut => ?_,
        fun hi hcut => ?_⟩⟩
      · intro root bank burn
        have hroot := Dev.rooted_bank (e := e) hlife hclove hbad hi
        have hbank : (d.burntBank e).good = bank.good := rfl
        rw [hbank] at hroot
        refine ⟨fun hgood => hgo (prepare := burn) (hgood ▸ hroot), fun hfail hcut => ?_, fun hfail hcut => ?_⟩
        · exact exec_lifecycleAdvance hd hask hnext hid hrun hstate hkeys (Dev.advance_failed (hfail ▸ hroot) hcut)
        · subst hcut
          exact exec_lifecycleAdvance hd hask hnext hid hrun hstate hkeys (Dev.advance_cutAfterRoot hroot)
      · exact exec_lifecycleAdvance hd hask hnext hid hrun hstate hkeys
          (Dev.advance_failed (Dev.rooted_noBank hlife hclove hbad hi) hcut)
      · subst hcut
        exact exec_lifecycleAdvance hd hask hnext hid hrun hstate hkeys
          (Dev.advance_cutAfterRoot (Dev.rooted_noBank hlife hclove hbad hi))
    · obtain ⟨next, hnext⟩ := lifecycleOf_field q hzero
      exact exec_lifecycleAdvance_busy hd hask hnext hid hrun
  · intro s c q rest d
    have hd : s.dev.takeRequest c rest = d := rfl
    clear_value d
    refine ⟨fun hask => ⟨fun hp => ?_, fun hp => ?_⟩, fun hask => ?_, fun hask => ?_⟩
    · exact runCmd_answered hd hask rfl (if_pos hp)
    · exact runCmd_answered hd hask rfl (if_neg hp)
    · exact runAnswer_answered hd hask rfl
    · exact ⟨_, runCmd_answered hd hask rfl rfl, rfl, exec_secAlarmClear_pin hd hask⟩
end Sys2Proof.Machine
end

section
/-!
SUPPORT. The counter commands (R476, R480).
-/
namespace Sys2Proof.Machine

open Sys2Proof

/-! ### COUNTER_READ (R476) -/

section
variable {s : State} {c : Nat} {q : Req} {rest : List MbWord} {d : Dev} (hd : s.dev.takeRequest c rest = d)
  (hask : s.dev.Asks c 0x0B02 q rest) (hcount : q.f 1 12 4 + 1 ≠ 16)
include hd hask hcount

theorem exec_counterRead_noSlice (hpkg : q.f 1 0 4 ≠ 15) (hslice : d.sliceCount ≤ q.f 1 0 4) :
    exec (.counterRead c) s = .next (s.answered q rest id (badField 1 0)) := by
  refine runAnswer_answered hd hask ?_
  rw [if_neg hcount, if_pos ⟨hpkg, by simp [Dev.hasSlice_eq_false hslice]⟩]

/-- The package and a slice that is there have a page, of 32 and of 160 counters. -/
theorem exec_counterRead (hunit : q.f 1 0 4 = 15 ∨ q.f 1 0 4 < d.sliceCount) :
    exec (.counterRead c) s = .next (s.answered q rest id
      (if (if q.f 1 0 4 = 15 then 32 else 160) < q.f 1 4 8 + (q.f 1 12 4 + 1) then badField 1 4
      else done ((rangeFrom (q.f 1 4 8) (q.f 1 12 4 + 1)).map fun k =>
        (if q.f 1 0 4 = 15 then (if q.f 1 16 1 = 1 then d.counters.snapshot else d.counters.package)
          else if q.f 1 16 1 = 1 then (d.slice (q.f 1 0 4)).snapshot else (d.slice (q.f 1 0 4)).counters).getD k 0))) := by
  refine runAnswer_answered hd hask ?_
  rw [if_neg hcount, if_neg]
  rintro ⟨hpkg, hslice⟩
  simp [Dev.hasSlice_iff.2 (hunit.resolve_left hpkg)] at hslice

end

/-- Settles O22: each clause is the branch of its command that its hypotheses choose. -/
theorem countersReported : Obligations.CountersReported := by
  intro s c q rest d
  have hd : s.dev.takeRequest c rest = d := rfl
  clear_value d
  refine ⟨fun hask hon => ?_, fun hask hoff => ?_, fun hask => ⟨fun hn => ?_, exec_counterRead_noSlice hd hask,
    fun hn hbeyond => ?_, fun hn hi hfit => ?_, fun hn hi hfit => ?_⟩, fun hask => ⟨fun hzero => ?_, fun hpos => ?_⟩⟩
  · exact runCmd_answered hd hask rfl (if_pos hon)
  · exact runCmd_answered hd hask rfl (by simp [hoff])
  · exact runAnswer_answered hd hask (if_pos hn)
  · have hne (hi : q.f 1 0 4 < d.sliceCount) : q.f 1 0 4 ≠ 15 := Nat.ne_of_lt (Nat.lt_of_lt_of_le hi (Nat.le_trans d.sliceCount_le (by decide)))
    rw [exec_counterRead hd hask hn (hbeyond.imp And.left And.left), if_pos]
    obtain ⟨hi, hlt⟩ | ⟨hi, hlt⟩ := hbeyond
    · rwa [if_pos hi]
    · rwa [if_neg (hne hi)]
  · rw [exec_counterRead hd hask hn (.inl hi), if_pos hi, if_neg (Nat.not_lt.2 hfit), if_pos hi]
  · have hne : q.f 1 0 4 ≠ 15 := Nat.ne_of_lt (Nat.lt_of_lt_of_le hi (Nat.le_trans d.sliceCount_le (by decide)))
    rw [exec_counterRead hd hask hn (.inr hi), if_neg hne, if_neg (Nat.not_lt.2 hfit), if_neg hne]
  · exact runCmd_answered hd hask rfl (if_pos hzero)
  · exact runCmd_answered hd hask rfl (if_neg hpos)
end Sys2Proof.Machine
end

section
/-!
SUPPORT. The parameter store's commands and its own programs and saves (R459, R520–R528, R534).
-/
namespace Sys2Proof.Machine

open Sys2Proof

/-- A command of the package ends in what its body makes of the package. -/
theorem run_after (s : State) {f : Dev → Dev} {d : Dev} (h : f s.dev = d) : run s f = .next (s.after d) := by
  rw [run_eq, h, State.after]

/-! ### PSTORE_READ and PSTORE_WRITE (R459) -/

theorem beyondStore_eq_true {a n : Nat} (h : 2 ^ 18 < a + n) : beyondStore a n = true := decide_eq_true h

theorem beyondStore_eq_false {a n : Nat} (h : a + n ≤ 2 ^ 18) : beyondStore a n = false := decide_eq_false (Nat.not_lt.2 h)

section
variable {s : State} {c : Nat} {q : Req} {rest : List MbWord} {d : Dev} (hd : s.dev.takeRequest c rest = d)
include hd

section
variable {g : List Nat} (hask : s.dev.Asks c 0x0C01 q rest) (hin : q.f 1 0 18 + (q.f 1 18 6 + 1) ≤ 2 ^ 18)
include hask hin

theorem exec_pstoreRead_denied (hopen : pstoreOpen false q.secure (q.f 1 0 18) (q.f 1 18 6 + 1) = false) :
    exec (.pstoreRead c g) s = .next (s.answered q rest id (fail 5)) :=
  runCmd_answered hd hask rfl (by simp [beyondStore_eq_false hin, hopen])

theorem exec_pstoreRead_joins (hopen : pstoreOpen false q.secure (q.f 1 0 18) (q.f 1 18 6 + 1) = true) :
    exec (.pstoreRead c g) s = .next (s.answered q rest (fun d =>
      d.addAccess ⟨q.f 1 0 18, [], false, some c, q.tag, q.opcode, q.f 1 18 6 + 1, true,
        (groupsOf (q.f 1 0 18) (q.f 1 18 6 + 1)).filter g.contains, none⟩) .later) :=
  runCmd_answered hd hask rfl (by simp [beyondStore_eq_false hin, hopen])

end

section
variable (hask : s.dev.Asks c 0x0C02 q rest) (hwords : q.words.length = 2 + ceilDiv (q.f 1 18 6 + 1) 6)
include hask hwords

theorem exec_pstoreWrite_beyond (hbeyond : 2 ^ 18 < q.f 1 0 18 + (q.f 1 18 6 + 1)) :
    exec (.pstoreWrite c) s = .next (s.answered q rest id (badField 1 0)) :=
  runCmd_answered hd hask (if_neg (Classical.not_not.2 hwords)) (if_pos (beyondStore_eq_true hbeyond))

variable (hin : q.f 1 0 18 + (q.f 1 18 6 + 1) ≤ 2 ^ 18)
include hin

theorem exec_pstoreWrite_unusedSet {e : Nat × Nat} (hset : unusedSet q (q.f 1 18 6 + 1) = some e) :
    exec (.pstoreWrite c) s = .next (s.answered q rest id (badField e.1 e.2)) :=
  runCmd_answered hd hask (if_neg (Classical.not_not.2 hwords)) (by simp [beyondStore_eq_false hin, hset])

variable (hset : unusedSet q (q.f 1 18 6 + 1) = none)
include hset

theorem exec_pstoreWrite_denied (hopen : pstoreOpen true q.secure (q.f 1 0 18) (q.f 1 18 6 + 1) = false) :
    exec (.pstoreWrite c) s = .next (s.answered q rest id (fail 5)) :=
  runCmd_answered hd hask (if_neg (Classical.not_not.2 hwords)) (by simp [beyondStore_eq_false hin, hset, hopen])

theorem exec_pstoreWrite_joins (hopen : pstoreOpen true q.secure (q.f 1 0 18) (q.f 1 18 6 + 1) = true) :
    exec (.pstoreWrite c) s = .next (s.answered q rest (fun d =>
      d.addAccess ⟨q.f 1 0 18, (bytesOfWords (q.words.drop 2)).take (q.f 1 18 6 + 1), false, some c, q.tag, q.opcode,
        q.f 1 18 6 + 1, false, [], none⟩) .later) :=
  runCmd_answered hd hask (if_neg (Classical.not_not.2 hwords)) (by simp [beyondStore_eq_false hin, hset, hopen])

end

end

/-! ### The store's programs and saves (R520, R528, R534) -/

section
variable {s : State}

section
variable {a : PAccess} {rest : List PAccess} (hq : s.dev.pstore.queue = a :: rest) (hwrite : a.isRead = false)
include hq hwrite

theorem exec_pstoreProgramDone_crosses (htwo : a.secondPage ≠ []) (hfirst : a.page2 = false) :
    exec (.pstoreProgramDone true) s = .next (s.after { s.dev with
      pstore := { s.dev.pstore.write a.page.1 a.page.2 with queue := { a with page2 := true } :: rest } }) :=
  show execPstoreProgramDone true s = _ from run_after s (by simp [hq, hwrite, htwo, hfirst])

theorem exec_pstoreProgramDone_ends (hlast : a.secondPage = [] ∨ a.page2 = true) :
    exec (.pstoreProgramDone true) s = .next (s.after
      (((({ s.dev with pstore := { s.dev.pstore.write a.page.1 a.page.2 with queue := rest } } : Dev).countPkg 16 1).answerAccess
        a 0 []).serveStore (rest.length + 1))) :=
  show execPstoreProgramDone true s = _ from run_after s (by simp [hq, hwrite, hlast])

theorem exec_pstoreProgramDone_fails :
    exec (.pstoreProgramDone false) s = .next (s.after
      (((((groupsOf a.page.1 a.page.2.length).foldl Dev.openGroup
        { s.dev with pstore := { s.dev.pstore with queue := rest } }).countPkg 16 1).answerAccess a 8 []).serveStore
          (rest.length + 1))) :=
  show execPstoreProgramDone false s = _ from run_after s (by simp [hq, hwrite])

end

theorem exec_pstoreProgramDone_idle {pass : Bool} (h : ∀ a, s.dev.pstore.queue.head? = some a → a.isRead = true) :
    exec (.pstoreProgramDone pass) s = .next (s.after s.dev) := by
  refine show execPstoreProgramDone pass s = _ from run_after s ?_
  cases hq : s.dev.pstore.queue with
  | nil => rfl
  | cons a rest => simp [h a (by simp [hq])]

theorem exec_repeatCountWrite_stopped (hmode : s.dev.mode.ticks = false) (good : Bool) :
    exec (.repeatCountWrite good) s = .next (s.after s.dev) :=
  show execRepeatCountWrite good s = _ from run_after s (by simp [hmode])

theorem exec_repeatCountWrite_stores (hmode : s.dev.mode.ticks = true) {good : Bool}
    (h : good = true ∨ s.dev.recorder.repeatDirty = false ∨ s.dev.recorder.failed = true) :
    exec (.repeatCountWrite good) s = .next (s.after s.dev.storeRepeats) := by
  refine show execRepeatCountWrite good s = _ from run_after s ?_
  obtain h | h | h := h <;> simp [hmode, h]

theorem exec_repeatCountWrite_fails (hmode : s.dev.mode.ticks = true) (hdirty : s.dev.recorder.repeatDirty = true)
    (hgood : s.dev.recorder.failed = false) :
    exec (.repeatCountWrite false) s = .next (s.after
      ((({ s.dev with recorder := { s.dev.recorder with repeatDirty := false } } : Dev).openGroup
        (0x2002 + s.dev.mirror.newestOffset)).countPkg 16 1).failRecorder) := by
  refine show execRepeatCountWrite false s = _ from run_after s ?_
  have hgroup : 0x2000 + s.dev.mirror.newestOffset + 2 = 0x2002 + s.dev.mirror.newestOffset := by omega
  simp [hmode, hdirty, hgood, hgroup]

theorem exec_mirrorSave_saves (hmode : s.dev.mode.ticks = true) (hclock : s.dev.mirror.lifeClock ≠ 0)
    (hdue : s.dev.mirror.lifeClock % 1048576 = 0) (hold : s.dev.mirrorCurrent = false) :
    exec .mirrorSave s = .next (s.after (s.dev.saveMirrors false)) :=
  show execMirrorSave s = _ from run_after s (by simp [hmode, hclock, hdue, hold])

theorem exec_mirrorSave_notDue (h : s.dev.mode.ticks = false ∨ s.dev.mirror.lifeClock = 0
      ∨ s.dev.mirror.lifeClock % 1048576 ≠ 0 ∨ s.dev.mirrorCurrent = true) :
    exec .mirrorSave s = .next (s.after s.dev) := by
  refine show execMirrorSave s = _ from run_after s (if_neg ?_)
  obtain h | h | h | h := h <;> simp [h]

end

/-- Settles O23: each clause is the branch of its command that its hypotheses choose. -/
theorem storeAccessed : Obligations.StoreAccessed := by
  constructor
  · intro s c q rest a n
    refine ⟨fun g hask => ⟨fun hbeyond => ?_, exec_pstoreRead_denied rfl hask, exec_pstoreRead_joins rfl hask⟩,
      fun hask hwords => ?_, fun hask hwords => ⟨exec_pstoreWrite_beyond rfl hask hwords,
        fun e hin => exec_pstoreWrite_unusedSet rfl hask hwords hin, exec_pstoreWrite_denied rfl hask hwords,
        exec_pstoreWrite_joins rfl hask hwords⟩⟩
    · exact runCmd_answered rfl hask rfl (if_pos (beyondStore_eq_true hbeyond))
    · exact runCmd_early rfl hask (if_pos hwords) (.inl rfl)
  · intro s
    refine ⟨fun a rest hq hwrite => ⟨exec_pstoreProgramDone_crosses hq hwrite, exec_pstoreProgramDone_ends hq hwrite,
      exec_pstoreProgramDone_fails hq hwrite⟩, fun pass h => exec_pstoreProgramDone_idle h,
      fun hmode good => ⟨exec_repeatCountWrite_stopped hmode good, exec_mirrorSave_notDue (.inl hmode)⟩,
      fun hmode h => exec_repeatCountWrite_stores hmode (.inr h), fun hmode => exec_repeatCountWrite_stores hmode (.inl rfl),
      exec_repeatCountWrite_fails, exec_mirrorSave_saves, fun h => exec_mirrorSave_notDue (.inr h)⟩
end Sys2Proof.Machine
end

section
/-!
SUPPORT. Every command of the summary: what refuses it and what makes it wait (R402–R407, R425–R429).
-/
namespace Sys2Proof.Machine

open Sys2Proof

/-- Every command of the summary serves its channel under its opcode; those of `ownChecks` alone have a check of their own. -/
theorem exec_mailboxRow {i : Instr} {c op : Nat} (h : mailboxRow i = some (c, op)) :
    ∃ (early : Dev → Req → Option Nat) (body : Dev → Req → Dev × Reply),
      (op ∉ ownChecks → early = noEarly) ∧ ∀ s, exec i s = runCmd c op s early body := by
  unfold mailboxRow at h
  split at h
  case h_60 => cases h
  all_goals
    obtain ⟨rfl, rfl⟩ := Prod.mk.inj (Option.some.inj h)
    refine ⟨_, _, ?_, fun s => rfl⟩
    simp [ownChecks]

theorem ownChecks_not_secureOnly : ∀ op ∈ ownChecks, ∀ r ∈ cmdSpec op, r.2.1 = false := by decide

/-! ### Refusals (R429) -/

section
variable {d : Dev} {q : Req} {r : CmdSpec}

theorem Dev.refusal_poisoned (e : Option Nat) : d.refusal q true r e = some (fail 9) := rfl

theorem Dev.refusal_length (e : Option Nat) (h : q.words.length - 1 < r.2.2.2.1 ∨ r.2.2.2.2.1 < q.words.length - 1) :
    d.refusal q false r e = some (fail 3) := by
  rw [Dev.refusal, if_neg Bool.false_ne_true, if_pos (by simpa using h)]

theorem Dev.refusal_notSecure (hleast : r.2.2.2.1 ≤ q.words.length - 1) (hmost : q.words.length - 1 ≤ r.2.2.2.2.1)
    (hsec : r.2.1 = true) (hq : q.secure = false) : d.refusal q false r none = some (fail 5) := by
  rw [Dev.refusal, if_neg Bool.false_ne_true, if_neg (by simp [hleast, hmost]), if_neg (by simp), if_pos (by simp [hsec, hq])]

/-- What R429 refuses is refused whatever the command's own check finds, though perhaps for that. -/
theorem Dev.refusal_early {bad : Bool} {y : Reply} (h : d.refusal q bad r none = some y) (e : Option Nat) :
    ∃ st ws, st ≠ 0 ∧ d.refusal q bad r e = some (.now st 0 ws) := by
  unfold Dev.refusal at h ⊢
  dsimp only at h ⊢
  split
  case isTrue => exact ⟨9, [], by decide, rfl⟩
  case isFalse hbad =>
    split
    case isTrue => exact ⟨3, [], by decide, rfl⟩
    case isFalse hlen =>
      split
      case isTrue => exact ⟨3, [], by decide, rfl⟩
      case isFalse =>
        split
        case isTrue => exact ⟨5, [], by decide, rfl⟩
        case isFalse hkind =>
          split
          case isTrue => exact ⟨0x0E, [], by decide, rfl⟩
          case isFalse hclove =>
            split
            case isTrue => exact ⟨6, [], by decide, rfl⟩
            case isFalse hmode =>
              rw [if_neg hbad, if_neg hlen, if_neg (by simp),
                if_neg (fun h => hkind (by simp at h; simp [h])), if_neg hclove,
                if_neg (fun h => hmode (by simp at h; simp [h]))] at h
              obtain ⟨x, hx, rfl⟩ := Option.map_eq_some_iff.1 h
              exact ⟨4, [word (x.1 + x.2 * 16)], by decide, by rw [hx]; rfl⟩

end

/-- Settles O24: the command's own check has no say before the kind of the channel, and none where there is none. -/
theorem refusalsHaveNoEffect : Obligations.RefusalsHaveNoEffect := by
  intro i s c op q rest bad r hrow hc hs hy hf ho hr d n
  obtain ⟨early, body, hown, hexec⟩ := exec_mailboxRow hrow
  rw [hexec]
  refine ⟨fun hbad => ?_, fun hbad hlen => ?_, fun hbad hleast hmost hsec hq => ?_, fun y hy' hop => ?_, fun y hy' => ?_⟩
  · subst hbad
    exact runCmd_refused hc hs hy hf ho hr (Dev.refusal_poisoned _) body
  · subst hbad
    exact runCmd_refused hc hs hy hf ho hr (Dev.refusal_length _ hlen) body
  · subst hbad
    have hnone : op ∉ ownChecks := fun hop => by simp [ownChecks_not_secureOnly op hop r hr] at hsec
    rw [hown hnone]
    exact runCmd_refused hc hs hy hf ho hr (Dev.refusal_notSecure hleast hmost hsec hq) body
  · rw [hown hop]
    exact runCmd_refused hc hs hy hf ho hr hy' body
  · obtain ⟨st, ws, hst, hrefusal⟩ := Dev.refusal_early hy' (early d q)
    exact ⟨st, ws, hst, runCmd_refused hc hs hy hf ho hr hrefusal body⟩

/-! ### Requests that wait (R402–R405, R425) -/

section
variable {s : State} {c op : Nat} {early : Dev → Req → Option Nat} {body : Dev → Req → Dev × Reply} (hc : c < 16)
include hc

theorem runCmd_unserved (hs : s.dev.serving c = false) : runCmd c op s early body = .next (s.after s.dev) := by
  simp [runCmd, runChan_eq hc, Dev.serve, hs, State.after]

variable (hs : s.dev.serving c = true)
include hs

theorem runCmd_resync (hy : (s.dev.chan c).resync = true) : runCmd c op s early body = .next (s.after (s.dev.resync c)) := by
  simp [runCmd, runChan_eq hc, Dev.serve, hs, hy, State.after]

variable (hy : (s.dev.chan c).resync = false)
include hy

theorem runCmd_noRequest (hf : (s.dev.chan c).front c = none) : runCmd c op s early body = .next (s.after s.dev) := by
  simp [runCmd, runChan_eq hc, Dev.serve, hs, hy, hf, State.after]

theorem runCmd_otherRequest {q : Req} {rest : List MbWord} {bad : Bool} (hf : (s.dev.chan c).front c = some (q, rest, bad))
    (ho : q.opcode ≠ op) : runCmd c op s early body = .next (s.after s.dev) := by
  cases hr : cmdSpec op <;> simp [runCmd, runChan_eq hc, Dev.serve, hs, hy, hf, hr, ho, State.after]

end

theorem Dev.serving_storeBusy {d : Dev} {c : Nat} {q : Req} {rest : List MbWord} {bad : Bool}
    (hw : d.pstore.writing ≠ none) (hf : (d.chan c).front c = some (q, rest, bad)) (ho : q.opcode ∈ storeOpcodes) :
    d.serving c = false := by
  have hwaits : d.awaitsStore c = true := by
    simpa [Dev.awaitsStore, hf, ho] using Option.isSome_iff_ne_none.2 hw
  simp [Dev.serving, hwaits]

section
variable {s : State} {c : Nat} (hc : c < 16)
include hc

theorem exec_undefinedOpcode_unserved (hs : s.dev.serving c = false) :
    exec (.undefinedOpcode c) s = .next (s.after s.dev) := by
  simp [exec, execUndefinedOpcode, runChan_eq hc, hs, State.after]

variable (hs : s.dev.serving c = true)
include hs

theorem exec_undefinedOpcode_resync (hy : (s.dev.chan c).resync = true) :
    exec (.undefinedOpcode c) s = .next (s.after (s.dev.resync c)) := by
  simp [exec, execUndefinedOpcode, runChan_eq hc, hs, hy, State.after]

theorem exec_undefinedOpcode_waits (hy : (s.dev.chan c).resync = false)
    (hf : (s.dev.chan c).front c = none
      ∨ ∃ q rest bad, (s.dev.chan c).front c = some (q, rest, bad) ∧ cmdSpec q.opcode ≠ none) :
    exec (.undefinedOpcode c) s = .next (s.after s.dev) := by
  obtain hf | ⟨q, rest, bad, hf, ho⟩ := hf
  · simp [exec, execUndefinedOpcode, runChan_eq hc, hs, hy, hf, State.after]
  · simp [exec, execUndefinedOpcode, runChan_eq hc, hs, hy, hf, Option.isSome_iff_ne_none, ho, State.after]

end

/-- Settles O25: every command of the summary serves its channel, and `Dev.serve` starts with what makes a request wait. -/
theorem requestsWait : Obligations.RequestsWait := by
  refine ⟨fun i s c op hrow hc => ?_, fun d c q rest bad => Dev.serving_storeBusy, fun s c hc =>
    ⟨exec_undefinedOpcode_unserved hc, exec_undefinedOpcode_resync hc, exec_undefinedOpcode_waits hc⟩⟩
  obtain ⟨early, body, -, hexec⟩ := exec_mailboxRow hrow
  rw [hexec]
  exact ⟨runCmd_unserved hc, runCmd_resync hc, runCmd_noRequest hc, fun q rest bad hs hy => runCmd_otherRequest hc hs hy⟩

/-! ### Time-outs (R405, R437) -/

section
variable {s : State} {c : Nat} (hc : c < 16)
include hc

theorem exec_mailboxTimeout_unserved (hs : s.dev.serving c = false) :
    exec (.mailboxTimeout c) s = .next (s.after s.dev) := by
  simp [exec, execMailboxTimeout, runChan_eq hc, hs, State.after]

variable (hs : s.dev.serving c = true)
include hs

theorem exec_mailboxTimeout_resync (hy : (s.dev.chan c).resync = true) :
    exec (.mailboxTimeout c) s = .next (s.after (s.dev.resync c)) := by
  simp [exec, execMailboxTimeout, runChan_eq hc, hs, hy, State.after]

variable (hy : (s.dev.chan c).resync = false)
include hy

theorem exec_mailboxTimeout_nothing (h : (s.dev.chan c).inb = [] ∨ ∃ e, (s.dev.chan c).front c = some e) :
    exec (.mailboxTimeout c) s = .next (s.after s.dev) := by
  obtain h | ⟨e, h⟩ := h
  · simp [exec, execMailboxTimeout, runChan_eq hc, hs, hy, h, State.after]
  · simp [exec, execMailboxTimeout, runChan_eq hc, hs, hy, h, State.after]

theorem exec_mailboxTimeout {h : MbWord} {l : List MbWord} (hin : (s.dev.chan c).inb = h :: l)
    (hf : (s.dev.chan c).front c = none) :
    exec (.mailboxTimeout c) s = .next (s.after
      (((((s.dev.onChan c fun ch => { ch with inb := [], inbLeft := 0 }).causeInEmpty c).countPkg 4 1).respond c
        (wbits h.word 32 16) (wbits h.word 12 16) 0 0x0C []))) := by
  simp [exec, execMailboxTimeout, runChan_eq hc, hs, hy, hin, hf, State.after]

end

/-- Settles O27: the time-out acts only on a message that is not whole. -/
theorem timeoutsAnswered : Obligations.TimeoutsAnswered := by
  refine ⟨fun s c h l hc hs hy => exec_mailboxTimeout hc hs hy,
    fun s c hc => ⟨exec_mailboxTimeout_unserved hc, exec_mailboxTimeout_resync hc, exec_mailboxTimeout_nothing hc⟩,
    fun s hmode => ?_, fun s hmode => ?_⟩
  · exact show execImageStagingTimeout s = _ from run_after s (by simp [hmode])
  · exact show execImageStagingTimeout s = _ from run_after s (if_pos hmode)
end Sys2Proof.Machine
end

section
/-!
SUPPORT. Taking a request may leave an interrupt waiting (R402, R423).
-/
namespace Sys2Proof.Machine

open Sys2Proof

/-- A channel that interrupts when its inbound FIFO is empty, under a vector that the host has not enabled. -/
def emptyingChannel : Dev := { chans := { inEmptyEn := true } :: List.replicate 15 {} }

/-- Its last request leaves the masked vector waiting. -/
theorem emptyingChannel_waiting : (emptyingChannel.takeRequest 0 []).msix.waiting = [(0, 0)] := by decide

/-- Refutes O28: the interrupt for in_empty waits in the MSI-X state where its vector is masked, so more than the channel, the
counters and the outputs changes. -/
theorem not_requestTakenAndAnswered : ¬ Obligations.RequestTakenAndAnswered := by
  intro ⟨htake, _⟩
  obtain ⟨-, -, -, -, hframe⟩ := htake emptyingChannel 0 [] (by decide)
  have hmsix := congrArg (fun d => d.msix.waiting) hframe
  exact absurd (emptyingChannel_waiting.symm.trans hmsix) (by decide)
end Sys2Proof.Machine
end

section
/-!
SUPPORT. The commands of the boot port (R323–R327).
-/
namespace Sys2Proof.Machine

open Sys2Proof

section
variable {s : State} {m : Option XspiMode} {f : Dev → Dev} {d : Dev}

/-- A boot-port command that is served ends in what its body makes of the package. -/
theorem runXspi_after (hr : s.dev.bootReady = true) (hm : m.all (· == s.dev.boot.proto) = true) (h : f s.dev = d) :
    runXspi m s f = .next (s.after d) := by
  rw [runXspi_eq hr hm, h, State.after]

/-- One that is not served floats the data lines. -/
theorem runXspi_floats (h : s.dev.bootReady = false ∨ m.all (· == s.dev.boot.proto) = false) :
    runXspi m s f = .next (s.after (s.dev.emit .xspiFloat)) := by
  rw [runXspi, run_eq, if_neg, State.after]
  obtain h | h := h <;> simp [h]

theorem runXspiRead_after {p : XspiMode} {bytes : Dev → List Byte} {b : List Byte} (hr : s.dev.bootReady = true)
    (hp : s.dev.boot.proto = p) (hb : bytes s.dev = b) :
    runXspiRead p s bytes = .next (s.after
      (({ s.dev with boot := { s.dev.boot with writeEnabled := false, resetArmed := false } } : Dev).emit (.xspi b))) :=
  runXspi_after hr (by simp [hp]) (by rw [hb]; rfl)

theorem runXspiRead_floats {p : XspiMode} {bytes : Dev → List Byte}
    (h : s.dev.bootReady = false ∨ s.dev.boot.proto ≠ p) :
    runXspiRead p s bytes = .next (s.after (s.dev.emit .xspiFloat)) :=
  runXspi_floats (h.imp_right fun hp => by simpa using Ne.symm hp)

end

theorem Dev.imageBytes_eq (d : Dev) (a n : Nat) :
    d.imageBytes a n = (List.range n).map fun k => d.boot.image.getD (a + k) 0xFF := by
  simp [Dev.imageBytes, rangeFrom, Function.comp_def]

theorem protoOf_none {v : Byte} (h : v ≠ 0xE7 ∧ v ≠ 0xFF) : protoOf v = none := by
  rw [protoOf, if_neg h.1, if_neg h.2]

/-- Settles O29: a served read ends Write Enable and an armed reset and returns its bytes. -/
theorem bootPortServes : Obligations.BootPortServes := by
  unfold Obligations.BootPortServes exec
  refine ⟨fun s hr => ⟨fun hp a n => ⟨?_, ?_, ?_, ?_⟩, fun hp a n => ⟨?_, ?_⟩⟩, fun s hr => ⟨?_, fun hwe => ⟨?_, ?_⟩, ?_, fun harm => ?_, fun harm => ?_⟩⟩
  · exact runXspiRead_after hr hp (s.dev.imageBytes_eq _ _)
  · exact runXspiRead_after hr hp (s.dev.imageBytes_eq _ _)
  · exact runXspiRead_after hr hp (by simp [rangeFrom, Function.comp_def])
  · exact runXspiRead_after hr hp rfl
  · exact runXspiRead_after hr hp (s.dev.imageBytes_eq _ _)
  · exact runXspiRead_after hr hp rfl
  · exact runXspi_after hr rfl rfl
  · exact runXspi_after hr rfl (by simp [protoOf, hwe]; rfl)
  · exact runXspi_after hr rfl (by simp [protoOf, hwe]; rfl)
  · exact runXspi_after hr rfl rfl
  · exact runXspi_after hr rfl (by simp [Dev.onBoot, BootPort.endCommand, harm])
  · exact runXspi_after hr rfl (by simp [Dev.onBoot, BootPort.endCommand, harm])

/-- Settles O30: what is not served floats the lines, and so does a configuration write that does not take. -/
theorem bootPortIgnores : Obligations.BootPortIgnores := by
  unfold Obligations.BootPortIgnores exec
  intro s floated
  refine ⟨fun op => ?_, fun hr a b v n => ?_, fun hp a n => ?_, fun hp a n => ?_, fun a v h => ?_⟩
  · exact run_after s rfl
  · exact ⟨runXspiRead_floats (.inl hr), runXspiRead_floats (.inl hr), runXspiRead_floats (.inl hr),
      runXspiRead_floats (.inl hr), runXspiRead_floats (.inl hr), runXspiRead_floats (.inl hr), runXspi_floats (.inl hr),
      runXspi_floats (.inl hr), runXspi_floats (.inl hr), runXspi_floats (.inl hr)⟩
  · have hother : s.dev.boot.proto ≠ .single := by simp [hp]
    exact ⟨runXspiRead_floats (.inr hother), runXspiRead_floats (.inr hother), runXspiRead_floats (.inr hother),
      runXspiRead_floats (.inr hother)⟩
  · have hother : s.dev.boot.proto ≠ .octal := by simp [hp]
    exact ⟨runXspiRead_floats (.inr hother), runXspiRead_floats (.inr hother)⟩
  · by_cases hr : s.dev.bootReady = true
    · refine runXspi_after hr rfl ?_
      cases hv : protoOf v with
      | none => rfl
      | some m =>
        have hguard : ¬(s.dev.boot.writeEnabled && a == 0) = true := by
          obtain h | h | h := h
          · simp [h]
          · simpa using fun _ => h
          · simp [protoOf_none h] at hv
        exact if_neg hguard
    · exact runXspi_floats (.inl (Bool.eq_false_iff.2 hr))
end Sys2Proof.Machine
end

section
/-!
SUPPORT. The secure sideband (R409–R413).
-/
namespace Sys2Proof.Machine

open Sys2Proof

/-! ### Words and their bytes -/

theorem byteAt_cons (b : Byte) (l : List Byte) (off : Nat) : byteAt (b :: l) (off + 1) = byteAt l off := rfl

theorem leAt_cons (b : Byte) (l : List Byte) (off n : Nat) : leAt (b :: l) (off + 1) n = leAt l off n := by
  induction n generalizing off with
  | zero => rfl
  | succ n ih => rw [leAt, leAt, byteAt_cons, ih]

/-- The value of little-endian bytes is the value written, as far as it fits. -/
theorem leAt_leBytes (n v : Nat) : leAt (leBytes n v) 0 n = v % 256 ^ n := by
  induction n generalizing v with
  | zero => exact (Nat.mod_one v).symm
  | succ n ih =>
    have hfirst : byteAt (leBytes (n + 1) v) 0 = v % 256 := rfl
    rw [leAt, hfirst, leBytes, Nat.zero_add, ← Nat.zero_add 1, leAt_cons, ih, Nat.pow_succ, Nat.mul_comm (256 ^ n),
      Nat.mod_mul]

theorem leBytes_length (n v : Nat) : (leBytes n v).length = n := by
  induction n generalizing v with
  | zero => rfl
  | succ n ih => rw [leBytes, List.length_cons, ih]

theorem word_leAt_leBytes (w : Word) : word (leAt (leBytes 6 w.toNat) 0 6) = w := by
  rw [leAt_leBytes, Nat.mod_eq_of_lt (Nat.lt_of_lt_of_le w.isLt (by decide))]
  rw [word, BitVec.ofNat_toNat, BitVec.setWidth_eq]

/-! ### Addresses and targets (R409) -/

theorem assignedTarget_setdasa : ∀ k < 9, assignedTarget (.setdasa (BitVec.ofNat 7 (0x30 + k))) = some k := by decide

theorem staticAddress_range : ∀ t < 9, 0x30 ≤ (staticAddress t).toNat ∧ (staticAddress t).toNat ≤ 0x38 := by decide

theorem assignedTarget_setdasa_none {x : BitVec 7} (h : x.toNat < 0x30 ∨ 0x38 < x.toNat) :
    assignedTarget (.setdasa x) = none := by
  refine List.find?_eq_none.2 fun t ht hx => ?_
  have hrange := staticAddress_range t (List.mem_range.1 ht)
  rw [beq_iff_eq.1 hx] at hrange
  omega

theorem assignedTarget_eq_some {k : Nat} {how : I3cAssign} (hk : k < 9)
    (h : how = .setdasa (BitVec.ofNat 7 (0x30 + k)) ∨ how = .entdaa k) : assignedTarget how = some k := by
  obtain rfl | rfl := h
  · exact assignedTarget_setdasa k hk
  · exact if_pos hk

theorem assignedTarget_eq_none {x : BitVec 7} {k : Nat} {how : I3cAssign}
    (h : how = .setdasa x ∧ (x.toNat < 0x30 ∨ 0x38 < x.toNat) ∨ how = .entdaa k ∧ 9 ≤ k) : assignedTarget how = none := by
  obtain ⟨rfl, hx⟩ | ⟨rfl, hk⟩ := h
  · exact assignedTarget_setdasa_none hx
  · exact if_neg (Nat.not_lt.2 hk)

theorem Dev.registerWaits_iff {d : Dev} : d.registerWaits = true ↔ ∃ a ∈ d.pstore.queue, a.register ≠ none := by
  simp [Dev.registerWaits, Option.isSome_iff_ne_none]

theorem Dev.registerWaits_eq_false {d : Dev} (h : ∀ a ∈ d.pstore.queue, a.register = none) : d.registerWaits = false := by
  simpa [Dev.registerWaits, Option.isSome_iff_ne_none] using h

/-! ### Transfers -/

section
variable {s : State} {f : Dev → Dev} {d : Dev}

theorem runControl_unheard (h : s.dev.targetUp 0 = false ∨ ∃ a ∈ s.dev.pstore.queue, a.register ≠ none) :
    runControl s f = .next (s.after (s.dev.emit .i3cNack)) := by
  obtain h | h := h
  · simp [runControl, runTarget, run_eq, h, State.after]
  · simp [runControl, runTarget, run_eq, Dev.registerWaits_iff.2 h, State.after]

theorem runControl_after (h : s.dev.targetUp 0 = true) (hw : ∀ a ∈ s.dev.pstore.queue, a.register = none)
    (hf : f s.dev = d) : runControl s f = .next (s.after d) := by
  rw [runControl_eq h (Dev.registerWaits_eq_false hw), hf, State.after]

section
variable {c : Nat}

theorem runChannelTarget_after (hc : 8 ≤ c) (hc' : c < 16) (h : s.dev.targetUp (c - 7) = true) (hf : f s.dev = d) :
    runChannelTarget c s f = .next (s.after d) := by
  rw [runChannelTarget_eq hc hc' h, hf, State.after]

theorem runChannelTarget_nack (hc : c < 16)
    (h : c < 8 ∨ s.dev.targetUp (c - 7) = false ∨ f s.dev = s.dev.emit .i3cNack) :
    runChannelTarget c s f = .next (s.after (s.dev.emit .i3cNack)) := by
  rw [runChannelTarget, guardIf, if_pos (decide_eq_true hc), run_eq, State.after]
  obtain h | h | h := h
  · rw [if_neg (by simp [Nat.not_le.2 h])]
  · rw [if_neg (by simp [h])]
  · rw [h, ite_self]

end

end

theorem Dev.takeWords_word {d : Dev} {c : Nat} (hroom : d.inboundFull c = false) (w : Word) (bad : List Nat) :
    d.takeWords c bad 7 0 (leBytes 6 w.toNat) = d.appendInbound c w (decide (0 ∈ bad)) := by
  have hlen : (leBytes 6 w.toNat).length = 6 := leBytes_length _ _
  have hne : (leBytes 6 w.toNat).isEmpty = false := rfl
  rw [Dev.takeWords, if_neg (by simp [hne]), if_neg (by simp [hlen, hroom]), word_leAt_leBytes,
    List.drop_of_length_le (Nat.le_of_eq hlen), Dev.takeWords, if_pos List.isEmpty_nil, List.contains_eq_mem]

theorem Dev.withOffset_reported {d : Dev} {off : BitVec 32} (h : off.toNat % 8 ≠ 0 ∨ 0x4000000 ≤ off.toNat)
    (f : Dev → Dev) : d.withOffset off f = d.report .secure 0 off.toNat 2 := by
  refine if_neg fun hguard => ?_
  rw [Bool.and_eq_true, decide_eq_true_iff, decide_eq_true_iff] at hguard
  omega

theorem Dev.withOffset_reached {d : Dev} {off : BitVec 32} (h : off.toNat % 8 = 0) (hlt : off.toNat < 0x4000000)
    (f : Dev → Dev) : d.withOffset off f = f d :=
  if_pos (by simp [h, hlt])

/-- Bytes written into the buffer window stand there up to its end. -/
theorem memByte_window {m : List Host.Cell} (h : Memory.wf m = true) (off : Nat) (b : List Byte) (a : Nat) :
    memByte (memWrite m off (b.take (4096 - off))) a
      = if off ≤ a ∧ a < off + b.length ∧ a < 4096 then b.getD (a - off) 0 else memByte m a := by
  split
  case isTrue hin =>
    obtain ⟨k, rfl⟩ := Nat.exists_eq_add_of_le hin.1
    rw [memByte_memWrite_inside h _ _ _ (by rw [List.length_take]; omega)]
    rw [Nat.add_sub_cancel_left, List.getD_eq_getElem?_getD, List.getD_eq_getElem?_getD,
      List.getElem?_take_of_lt (by omega)]
  case isFalse hout =>
    exact memByte_memWrite_outside h _ _ _ (by rw [List.length_take]; omega)

/-- Settles O31: a transfer reaches a target that is up, and its effect is the branch that the clause chooses. -/
theorem sidebandTransfers : Obligations.SidebandTransfers := by
  unfold Obligations.SidebandTransfers exec
  refine ⟨fun s => ⟨fun k how a hmode hk hhow => ?_, fun x k how a hmode hhow => ?_, fun how a hmode => ?_,
      fun c w bad hc hc' hup hroom => ?_, fun c b bad hc hc' hup hroom => ?_, fun c b bad hc hc' hup hfull => ?_,
      fun c b bad hc hno => ?_, fun hno off v at_ b c n bad bads => ⟨?_, ?_, ?_, ?_, ?_, ?_⟩,
      fun c bad hc hc' hup hmsg => ?_, fun c bad hc hno => ?_⟩,
    fun s hup hidle => ⟨fun off v bad hal hlt => ⟨fun hq => ⟨?_, ?_⟩, fun hq => ⟨?_, ?_⟩⟩,
      fun off v bad hoff => ⟨?_, ?_⟩, fun off b hwf => ?_, fun off => ?_, fun c => ⟨fun hc => ?_, fun hc => ?_⟩,
      fun n bad hbuf => ?_, fun n bad hbuf => ?_⟩⟩
  · exact run_after s (by simp [hmode, assignedTarget_eq_some hk hhow, Dev.onI3c])
  · exact run_after s (by simp [hmode, assignedTarget_eq_none hhow])
  · exact run_after s (by simp [hmode])
  · exact runChannelTarget_after hc hc' hup (by simp [hroom, leBytes_length, Dev.takeWords_word])
  · exact runChannelTarget_after hc hc' hup (by simp [hroom])
  · exact runChannelTarget_after hc hc' hup (by simp [hfull])
  · exact runChannelTarget_nack hc (hno.imp_right .inl)
  · exact runControl_unheard hno
  · exact runControl_unheard hno
  · exact runControl_unheard hno
  · exact runControl_unheard hno
  · exact runControl_unheard hno
  · exact runControl_unheard hno
  · exact runChannelTarget_after hc hc' hup (by simp [hmsg])
  · exact runChannelTarget_nack hc (hno.imp_right (.imp_right fun h => by simp [h]))
  · exact runControl_after hup hidle (by simp [Dev.withOffset_reached hal hlt, Dev.acceptRegister, hq, Dev.performRegister])
  · exact runControl_after hup hidle (by simp [Dev.withOffset_reached hal hlt, Dev.acceptRegister, hq, Dev.performRegister])
  · exact runControl_after hup hidle (by simp [Dev.withOffset_reached hal hlt, Dev.acceptRegister, hq])
  · exact runControl_after hup hidle (by simp [Dev.withOffset_reached hal hlt, Dev.acceptRegister, hq])
  · exact runControl_after hup hidle (Dev.withOffset_reported hoff _)
  · exact runControl_after hup hidle (Dev.withOffset_reported hoff _)
  · exact ⟨_, runControl_after hup hidle rfl, rfl, memByte_window hwf off.toNat b⟩
  · exact runControl_after hup hidle rfl
  · exact runControl_after hup hidle (if_pos hc)
  · exact runControl_after hup hidle (if_neg hc)
  · exact runControl_after hup hidle (by simp [hbuf, rangeFrom, Function.comp_def])
  · exact runControl_after hup hidle (by simp [hbuf])
end Sys2Proof.Machine
end

section
/-!
SUPPORT. The JTAG port, the unlock by token and the debug access port (R376, R380–R383, R386).
-/
namespace Sys2Proof.Machine

open Sys2Proof

/-- The package with JTAG instruction `code` selected. -/
def Dev.selecting (d : Dev) (code : Nat) : Dev := d.onDebug fun g => { g with selected := BitVec.ofNat 8 code }

section
variable {s : State} {code : Nat} {f : Dev → Dev} {d : Dev}

theorem runJtag_off (h : s.dev.mode = .off) : runJtag code s f = .next (s.after s.dev) := by
  simp [runJtag, run_eq, h, State.after]

theorem runJtag_after (h : s.dev.mode ≠ .off) (hf : f (s.dev.selecting code) = d) :
    runJtag code s f = .next (s.after d) := by
  rw [runJtag_eq h, State.after, ← hf, Dev.selecting]

end

theorem Dev.inScope_eq {d : Dev} {letter : Nat} : d.inScope letter = (d.mode.ticks && bitAt d.debugScope letter) := rfl

/-! ### Instructions that only answer (R380) -/

/-- The boundary register shifts out an open value. -/
theorem Dev.boundaryScan_eq (d : Dev) (scan : List Bool) :
    ∃ v, v < 2 ^ scan.length ∧ d.boundaryScan scan
      = ({ d with dbg := { d.dbg with boundary := scan }, draws := d.draws + 1 } : Dev).emit (.jtag scan.length v) :=
  ⟨Config.freeNat d.draws % 2 ^ scan.length, Nat.mod_lt _ (Nat.two_pow_pos _), rfl⟩

/-- Settles O32: every instruction runs but in OFF, and the boundary scan in its scope. -/
theorem jtagAnswers : Obligations.JtagAnswers := by
  unfold Obligations.JtagAnswers exec
  refine ⟨fun s hoff code scan b w x v => ⟨runJtag_off hoff, runJtag_off hoff, runJtag_off hoff, runJtag_off hoff,
    runJtag_off hoff, runJtag_off hoff, runJtag_off hoff, runJtag_off hoff, runJtag_off hoff⟩, ?_⟩
  intro s hmode on
  refine ⟨fun code => runJtag_after hmode rfl, runJtag_after hmode rfl, runJtag_after hmode rfl, runJtag_after hmode rfl,
    fun scan hticks hscope => ⟨?_, fun htest => ?_⟩, fun scan hno => ?_, fun scan hno => ?_⟩
  · obtain ⟨v, hv, hscan⟩ := (s.dev.selecting 1).boundaryScan_eq scan
    have hin : (s.dev.selecting 1).inScope 0 = true := Bool.and_eq_true_iff.2 ⟨hticks, hscope⟩
    exact ⟨v, hv, runJtag_after hmode ((if_pos hin).trans hscan)⟩
  · obtain ⟨v, hv, hscan⟩ := (s.dev.selecting 0).boundaryScan_eq scan
    have hin : (s.dev.selecting 0).inScope 0 = true := Bool.and_eq_true_iff.2 ⟨hticks, hscope⟩
    have hmode' : (s.dev.selecting 0).mode = .test := htest
    exact ⟨v, hv, runJtag_after hmode ((if_pos (by rw [hin, hmode']; rfl)).trans hscan)⟩
  · have hout : (s.dev.selecting 1).inScope 0 = false := Bool.and_eq_false_iff.2 hno
    exact runJtag_after hmode (if_neg (by rw [hout]; exact Bool.false_ne_true))
  · refine runJtag_after hmode (if_neg ?_)
    rw [Dev.inScope_eq, Bool.and_eq_true, Bool.and_eq_true, beq_iff_eq]
    rintro ⟨⟨-, hscope⟩, htest⟩
    exact hno.elim (fun h => h htest) fun h => by simp [show bitAt (s.dev.selecting 0).debugScope 0 = false from h] at hscope

/-! ### Unlock (R381–R383) -/

theorem Dev.closeForDebug_eq :
    Dev.closeForDebug = fun (d : Dev) t => if (d.title t).state = .opened then
        (d.closeFlush t).2.onDebug fun g => { g with closing := g.closing ++ [((d.closeFlush t).1, t)] }
      else d := by
  funext d t
  unfold Dev.closeForDebug
  simp only [beq_iff_eq]

theorem Dev.unlock_now {d : Dev} {scope : Nat}
    (h : d.fuses.lifecycle ≠ .mace ∨ d.titles.any (·.state == .opened) = false) :
    d.unlock scope = (d.onDebug fun g => { g with unlocked := true, scope := BitVec.ofNat 8 scope }).countPkg 10 1 := by
  refine if_neg ?_
  rw [Bool.and_eq_true, beq_iff_eq]
  rintro ⟨hlife, hopen⟩
  exact h.elim (fun h => h hlife) fun h => by simp [h] at hopen

theorem Dev.unlock_closes {d : Dev} {scope : Nat} (hlife : d.fuses.lifecycle = .mace)
    (hopen : d.titles.any (·.state == .opened) = true) :
    d.unlock scope = (List.range 32).foldl Dev.closeForDebug
      (d.onDebug fun g => { g with granted := some (BitVec.ofNat 8 scope), closing := [] }) :=
  if_pos (by rw [hlife, hopen]; rfl)

/-- A failed token counts, and leaves the rest of the debug state. -/
theorem Dev.tokenFailed_dbg (d : Dev) : d.tokenFailed.dbg = { d.dbg with failures := d.dbg.failures + 1 } := by
  unfold Dev.tokenFailed
  dsimp only
  split <;> simp

section
variable {s : State} {b : List Byte} (hmode : s.dev.mode ≠ .off)
include hmode

theorem exec_token_ends (h : 8 ≤ s.dev.dbg.failures ∨ s.dev.debugOpen = true ∨ s.dev.mode.ticks = false) :
    execToken b s = .next (s.after (s.dev.onDebug fun g => { g with selected := 0x11, nonce := none })) := by
  refine runJtag_after hmode (if_pos ?_)
  change (s.dev.debugOpen || decide (8 ≤ s.dev.dbg.failures) || !s.dev.mode.ticks) = true
  obtain h | h | h := h <;> simp [h]

variable (hticks : s.dev.mode.ticks = true) (hlocked : s.dev.debugOpen = false) (hfew : s.dev.dbg.failures < 8)
include hticks hlocked hfew

/-- A token that is needed and heard unlocks or fails. -/
theorem exec_token :
    execToken b s = .next (s.after (
      if s.dev.tokenOk b then (s.dev.onDebug fun g => { g with selected := 0x11, nonce := none }).unlock (s.dev.grantedScope b)
      else (s.dev.onDebug fun g => { g with selected := 0x11, nonce := none }).tokenFailed)) := by
  refine runJtag_after hmode (if_neg ?_)
  change ¬(s.dev.debugOpen || decide (8 ≤ s.dev.dbg.failures) || !s.dev.mode.ticks) = true
  simp [hticks, hlocked, hfew]

end

/-- Settles O33: a token that is needed and heard unlocks the port, closes the titles or counts a failure. -/
theorem debugUnlocked : Obligations.DebugUnlocked := by
  unfold Obligations.DebugUnlocked exec
  intro s hmode
  refine ⟨⟨_, runJtag_after hmode rfl⟩, fun b hticks hlocked hfew => ?_, fun b => exec_token_ends hmode⟩
  intro d
  have htoken : execToken b s = .next (s.after (
      if s.dev.tokenOk b then d.unlock (s.dev.grantedScope b) else d.tokenFailed)) :=
    exec_token hmode hticks hlocked hfew
  refine ⟨fun hok => ?_, fun hbad => ?_⟩
  · rw [if_pos hok] at htoken
    refine ⟨fun h => ?_, fun hlife hopen => ?_⟩
    · rw [Dev.unlock_now (d := d) h] at htoken
      exact htoken
    · rw [Dev.unlock_closes (d := d) hlife hopen, Dev.closeForDebug_eq] at htoken
      exact htoken
  · rw [if_neg (by simp [hbad])] at htoken
    have hdbg : (s.after d.tokenFailed).dev.dbg = { d.dbg with failures := d.dbg.failures + 1 } := d.tokenFailed_dbg
    exact ⟨_, htoken, rfl, congrArg Debug.failures hdbg, congrArg Debug.nonce hdbg,
      (congrArg Debug.unlocked hdbg).trans rfl, (congrArg Debug.scope hdbg).trans rfl⟩

/-! ### The debug access port (R376, R386) -/

theorem sget?_sset {α : Type} (m : Sparse α) (k j : Nat) (v : α) :
    sget? (sset m k v) j = if k = j then some v else sget? m j := by
  induction m with
  | nil => rfl
  | cons x m ih =>
    obtain ⟨i, w⟩ := x
    rw [sset]
    split
    · rfl
    · split
      case isTrue h => subst h; by_cases hj : k = j <;> simp [sget?, hj]
      case isFalse h =>
        rw [sget?, sget?, ih]
        by_cases hi : i = j
        · rw [if_pos hi, if_pos hi, if_neg (by omega)]
        · rw [if_neg hi, if_neg hi]

/-- Cells written from an address on are read back. -/
theorem sget_foldl_sset {α : Type} (m : Sparse α) (a n : Nat) (g : Nat → α) {k : Nat} (hk : k < n) (x : α) :
    sget ((List.range n).foldl (fun m k => sset m (a + k) (g k)) m) (a + k) x = g k := by
  induction n with
  | zero => omega
  | succ n ih =>
    rw [List.range_succ, List.foldl_append, List.foldl_cons, List.foldl_nil, sget, sget?_sset]
    by_cases h : n = k
    · rw [if_pos (by rw [h]), h, Option.getD_some]
    · rw [if_neg (by omega)]
      exact ih (by omega)

/-- The working memory with 8 bytes written at an address. -/
def Dev.workingWith (d : Dev) (a : Nat) (v : BitVec 64) : Sparse Byte :=
  (List.range 8).foldl (fun m k => sset m (a / 8 * 8 + k) ((leBytes 8 v.toNat).getD k 0)) d.working

theorem Dev.debugWorking_writes {d : Dev} {a : Nat} (ha : a < 2 ^ 27) (hhalt : d.dbg.halted = true) (v : BitVec 64) :
    d.debugWorking true a v = ({ d with working := d.workingWith a v } : Dev).emit (.dap 0) := by
  rw [Dev.debugWorking, if_neg (by omega), if_pos rfl]
  simp only [hhalt, if_true]
  rfl

/-- What debug has written is what it reads. -/
theorem Dev.debugWorking_reads {d e : Dev} {a : Nat} (ha : a < 2 ^ 27) {v : BitVec 64}
    (hwritten : d.working = e.workingWith a v) :
    d.debugWorking false a 0 = ({ d with draws := d.draws + 1 } : Dev).emit (.dap v) := by
  have hbytes (x : Nat) : ((List.range 8).map fun k => sget d.working (a / 8 * 8 + k) ((leBytes 8 x).getD k 0))
      = leBytes 8 v.toNat := by
    refine List.ext_getElem (by simp [leBytes_length]) fun k hk hk' => ?_
    have hk8 : k < 8 := by simpa using hk
    rw [List.getElem_map, List.getElem_range, hwritten, Dev.workingWith, sget_foldl_sset _ _ _ _ hk8,
      List.getD_eq_getElem?_getD, List.getElem?_eq_getElem hk', Option.getD_some]
  have hvalue : BitVec.ofNat 64 (leAt (leBytes 8 v.toNat) 0 8) = v := by
    rw [leAt_leBytes, Nat.mod_eq_of_lt (Nat.lt_of_lt_of_le v.isLt (by decide)), BitVec.ofNat_toNat, BitVec.setWidth_eq]
  rw [Dev.debugWorking, if_neg (by omega), if_neg Bool.false_ne_true]
  simp only [Dev.draw_eq]
  have hread (x : Nat) := congrArg (fun b => BitVec.ofNat 64 (leAt b 0 8)) (hbytes x)
  simp only [hvalue] at hread
  exact congrArg (fun x => (d.drawn 1).emit (.dap x)) (hread _)

theorem Dev.withScope_in {d : Dev} {letter : Nat} {f : Dev → Dev} (hticks : d.mode.ticks = true)
    (h : bitAt d.debugScope letter = true) : d.withScope letter f = f d :=
  if_pos (Bool.and_eq_true_iff.2 ⟨hticks, h⟩)

theorem Dev.withScope_out {d : Dev} {letter : Nat} {f : Dev → Dev} (h : bitAt d.debugScope letter = false) :
    d.withScope letter f = d.emit (.dap 0) := by
  refine if_neg ?_
  rw [Dev.inScope_eq, h, Bool.and_false]
  exact Bool.false_ne_true

theorem Dev.debugDpa_denied {d : Dev} {a : Nat} {w : Bool} {v : BitVec 64} (ha : a / 8 * 8 < d.capacity)
    (h : d.lineProtected (d.active.classify 0 (a / 8 * 8)) (a / 8 * 8) = true
      ∨ (d.slice (d.sliceOf (a / 8 * 8))).lineMarked (lineOf (d.frameOf (a / 8 * 8)) (subOf (a / 8 * 8))) = true) :
    d.debugDpa w a v = d.debugDenied.alarm 3 none 0 := by
  rw [Dev.debugDpa, if_neg (Nat.not_le.2 ha), if_pos (Bool.or_eq_true_iff.2 h)]

theorem Dev.debugProcessor_none {d : Dev} {n : Nat} (h : 3 ≤ n) : d.debugProcessor n = d.emit (.dap 0) := by
  have hact (g : Debug) : g.act n = g := by
    rw [Debug.act, if_neg (by omega), if_neg (by omega)]
  simp only [Dev.debugProcessor, hact]
  rw [if_neg (by omega)]
  rfl

theorem Dev.debugProcessor_eq {d : Dev} {n : Nat} (h : n < 3) : d.debugProcessor n
    = ({ d.onDebug (fun g => { g with halted := decide (n ≠ 0) }) with
      working := if n = 1 then d.working else [] } : Dev).emit (.dap 0) := by
  obtain rfl | rfl | rfl : n = 0 ∨ n = 1 ∨ n = 2 := by omega
  all_goals rfl

theorem Dev.debugTest_refused {d : Dev} (h : d.mode.isService = false ∧ d.mode ≠ .recovery ∨ d.transitioning = true) :
    d.debugTest = d.emit (.dap 0) := by
  refine congrArg (Dev.emit · (.dap 0)) (if_neg ?_)
  obtain ⟨hserv, hrec⟩ | htrans := h
  · simp [hserv, hrec]
  · simp [htrans]

theorem Dev.debugTest_enters {d : Dev} (h : d.mode.isService = true ∨ d.mode = .recovery) (htrans : d.transitioning = false) :
    d.debugTest = ({ d with transition := some ⟨.test, 1⟩ } : Dev).emit (.dap 0) := by
  refine congrArg (Dev.emit · (.dap 0)) (if_pos ?_)
  obtain h | h := h <;> simp [h, htrans]

/-- What a debug access does to a target, where the port is not bypassed. -/
def Dev.dapTarget (d : Dev) (w : Bool) (target : DapTarget) (v : BitVec 64) : Dev :=
  match target with
  | .register a => d.withScope 1 fun d => d.debugRegister w a v
  | .dpa a => d.withScope (if w then 3 else 2) fun d => d.debugDpa w a v
  | .workingMemory a => d.withScope (if w then 3 else 2) fun d => d.debugWorking w a v
  | .sliceDram i a => d.debugDram w (if w then 3 else 2) i a v
  | .fuses => d.debugDenied
  | .securityCore _ => if d.fuses.lifecycle == .anise then d.debugOpaque w else d.debugDenied
  | .keyRegisters _ => d.debugDenied
  | .processor action => d.withScope 4 fun d => d.debugProcessor action
  | .testEnter => d.withScope 5 Dev.debugTest

section
variable {s : State} {w : Bool} {target : DapTarget} {v : BitVec 64} (hmode : s.dev.mode ≠ .off)
include hmode

theorem exec_dapAccess_bypassed (h : s.dev.mode.ticks = false ∨ s.dev.debugScope = 0) :
    exec (.dapAccess w target v) s = .next (s.after ((s.dev.selecting 0x20).emit (.jtag 1 0))) := by
  refine show execDapAccess w target v s = _ from runJtag_after hmode (if_pos ?_)
  change (!s.dev.mode.ticks || decide (s.dev.debugScope = 0)) = true
  obtain h | h := h <;> simp [h]

variable (hticks : s.dev.mode.ticks = true) (hscope : s.dev.debugScope ≠ 0)
include hticks hscope

theorem exec_dapAccess :
    exec (.dapAccess w target v) s = .next (s.after ((s.dev.selecting 0x20).dapTarget w target v)) := by
  refine show execDapAccess w target v s = _ from runJtag_after hmode (if_neg ?_)
  change ¬(!s.dev.mode.ticks || decide (s.dev.debugScope = 0)) = true
  simp [hticks, hscope]

end

/-- Settles O34: within its scope an access does what its target is for; elsewhere it reads zeros. -/
theorem debugAccess : Obligations.DebugAccess := by
  intro s w v hmode d
  refine ⟨fun target => exec_dapAccess_bypassed hmode, fun hticks hscope => ?_⟩
  have hrun {w : Bool} {target : DapTarget} {v : BitVec 64} {e : Dev} (h : d.dapTarget w target v = e) :
      exec (.dapAccess w target v) s = .next (s.after e) := h ▸ exec_dapAccess hmode hticks hscope
  have hreach {letter : Nat} {f : Dev → Dev} (h : bitAt s.dev.debugScope letter = true) : d.withScope letter f = f d :=
    Dev.withScope_in (d := d) hticks h
  have hzero {letter : Nat} {f : Dev → Dev} (h : bitAt s.dev.debugScope letter = false) :
      d.withScope letter f = d.emit (.dap 0) := Dev.withScope_out (d := d) h
  refine ⟨fun a hin => hrun ?_, fun a hin => ⟨hrun ?_, fun ha hprot => hrun ?_, hrun ?_, fun ha => hrun ?_⟩,
    fun a ha hhalt hread hwrite => ?_, fun a hout => ⟨hrun ?_, hrun ?_⟩, fun a hout => hrun ?_, fun n hout => hrun ?_,
    fun hout => hrun ?_, fun a hlife => hrun (if_pos (beq_iff_eq.2 hlife)), fun i a hout => hrun (if_neg ?_),
    fun on => hrun rfl, hrun rfl, fun a hlife => hrun (if_neg fun h => hlife (beq_iff_eq.1 h)), fun n hin hn => hrun ?_,
    fun hin hserv htrans => hrun ?_⟩
  · simp only [Dev.dapTarget, hreach hin]
  · simp only [Dev.dapTarget, hreach hin]
  · simp only [Dev.dapTarget, hreach hin, Dev.debugDpa_denied ha hprot, Dev.debugDenied]
  · simp only [Dev.dapTarget, hreach hin]
  · rw [Dev.dapTarget, Dev.debugDram, if_pos ⟨rfl, Nat.le_add_right _ _, Nat.add_lt_add_left ha _⟩, hreach hin]
    exact congrArg (d.debugWorking w · v) (Nat.add_sub_cancel_left _ _)
  · let t := s.after (({ d with working := d.workingWith a v } : Dev).emit (.dap 0))
    have hwrites : d.dapTarget true (.workingMemory a) v = ({ d with working := d.workingWith a v } : Dev).emit (.dap 0) := by
      simp only [Dev.dapTarget, if_true, hreach hwrite, Dev.debugWorking_writes (d := d) ha hhalt]
    refine ⟨t, hrun hwrites, ?_⟩
    have hscope' : (t.dev.selecting 0x20).withScope 2 (fun d => d.debugWorking false a 0) = t.dev.debugWorking false a 0 :=
      Dev.withScope_in (d := t.dev.selecting 0x20) hticks hread
    have hreads : (t.dev.selecting 0x20).dapTarget false (.workingMemory a) 0
        = ({ t.dev with draws := t.dev.draws + 1 } : Dev).emit (.dap v) :=
      hscope'.trans (Dev.debugWorking_reads (e := d) ha rfl)
    rw [exec_dapAccess (s := t) hmode hticks hscope, hreads]
  · simp only [Dev.dapTarget, hzero hout]
  · simp only [Dev.dapTarget, hzero hout]
  · simp only [Dev.dapTarget, hzero hout]
  · obtain hin | hin := Bool.eq_false_or_eq_true (bitAt s.dev.debugScope 4)
    · have hn : 3 ≤ n := hout.resolve_left (by simp [hin])
      simp only [Dev.dapTarget, hreach hin, Dev.debugProcessor_none hn]
    · simp only [Dev.dapTarget, hzero hin]
  · obtain hin | hin := Bool.eq_false_or_eq_true (bitAt s.dev.debugScope 5)
    · have hno := hout.resolve_left (by simp [hin])
      simp only [Dev.dapTarget, hreach hin, Dev.debugTest_refused (d := d) hno]
    · simp only [Dev.dapTarget, hzero hin]
  · rintro ⟨hi, hlow, hhigh⟩
    exact hout.elim (fun h => h hi) fun h => h.elim (Nat.not_lt.2 hlow) (Nat.not_le.2 hhigh)
  · simp only [Dev.dapTarget, hreach hin, Dev.debugProcessor_eq hn]
  · simp only [Dev.dapTarget, hreach hin, Dev.debugTest_enters (d := d) hserv htrans]
end Sys2Proof.Machine
end

section
/-!
SUPPORT. The standard mailbox of a port (R299, R304–R311, R546).
-/
namespace Sys2Proof.Machine

open Sys2Proof

section
variable {s : State} {p : Nat} (hp : p < s.dev.sliceCount)
include hp

theorem runStd_unlinked (hr : s.dev.reached .host p = false) {f : Dev → Dev × Nat × List Nat} :
    runStd p s f = .next (s.after s.dev) := by
  rw [runStd, runPort_eq hp, if_neg (by simp [hr]), State.after]

theorem runStdAnswer_unlinked (hr : s.dev.reached .host p = false) {f : Dev → Nat × List Nat} :
    runStdAnswer p s f = .next (s.after s.dev) := runStd_unlinked hp hr

variable (hr : s.dev.reached .host p = true)
include hr

theorem runStd_replies {f : Dev → Dev × Nat × List Nat} {d : Dev} {code : Nat} {fields : List Nat}
    (h : f s.dev = (d, code, fields)) : runStd p s f = .next (s.after (d.stdReply p code fields)) := by
  rw [runStd, runPort_eq hp, if_pos hr, h, State.after]

theorem runStdAnswer_replies {f : Dev → Nat × List Nat} {code : Nat} {fields : List Nat} (h : f s.dev = (code, fields)) :
    runStdAnswer p s f = .next (s.after (s.dev.stdReply p code fields)) :=
  runStd_replies hp hr (by rw [h])

end

theorem Dev.stdReply_std (d : Dev) (p code : Nat) (fields : List Nat) : (d.stdReply p code fields).std = d.std := by
  unfold Dev.stdReply Dev.mailboxInterrupt
  split <;> rfl

/-! ### Health (R546) -/

section
variable {s : State} {p : Nat} (hp : p < s.dev.sliceCount) (hr : s.dev.reached .host p = true)
include hp hr

theorem exec_getHealthInfo :
    ∃ n temp, n ≤ 1 ∧ exec (.getHealthInfo p) s
        = .next (s.after ((s.dev.drawn n).stdReply p 0
          [s.dev.stdHealth, s.dev.stdMedia, s.dev.stdAdditional, min 100 (s.dev.lifeUsed / 100), temp,
            s.dev.mirror.dirtyShutdowns, s.dev.correctedVolatile, s.dev.correctedPersistent]))
      ∧ ∀ q, s.dev.internalHigh = some q → temp = (BitVec.ofInt 16 (q / 4)).toNat := by
  cases hq : s.dev.internalHigh with
  | some q =>
    refine ⟨0, (BitVec.ofInt 16 (q / 4)).toNat, Nat.zero_le 1, show execGetHealthInfo p s = _ from runStd_replies hp hr ?_, fun _ h => by
      rw [Option.some.inj h]⟩
    simp only [hq]
    rfl
  | none =>
    refine ⟨1, Config.freeNat s.dev.draws % 2 ^ 16, Nat.le_refl _,
      show execGetHealthInfo p s = _ from runStd_replies hp hr ?_, fun _ h => by cases h⟩
    simp only [hq]
    rfl

end

/-! ### Event records (R307) -/

/-- The package with these records left in a log, and its overflow count. -/
def Dev.withRecords (d : Dev) (l : Nat) (kept : List LogRec) (overflow : Nat) : Dev :=
  { d with std := { d.std with logs := upd d.std.logs l fun g => { g with records := kept, overflow := overflow } } }

theorem Dev.withRecords_log {d : Dev} {l : Nat} {g : EvLog} (hg : d.std.logs[l]? = some g) (kept : List LogRec) (o : Nat) :
    (d.withRecords l kept o).std.logs[l]? = some { g with records := kept, overflow := o } := by
  simp [Dev.withRecords, upd, hg]

theorem Dev.withRecords_other {d : Dev} {l m : Nat} (h : m ≠ l) (kept : List LogRec) (o : Nat) :
    (d.withRecords l kept o).std.logs[m]? = d.std.logs[m]? := by
  simp [Dev.withRecords, upd, List.getElem?_modify, Ne.symm h]

section
variable {s : State} {p : Nat} (hp : p < s.dev.sliceCount) (hr : s.dev.reached .host p = true) {l : Nat}
include hp hr

theorem exec_clearEventRecords_noLog (hl : s.dev.std.logs[l]? = none) (all : Bool) (hs : List Nat) :
    exec (.clearEventRecords p l all hs) s = .next (s.after (s.dev.stdReply p 2 [])) :=
  show execClearEventRecords p l all hs s = _ from runStd_replies hp hr (by simp only [hl])

variable {g : EvLog} (hl : s.dev.std.logs[l]? = some g)
include hl

theorem exec_clearEventRecords_badHandle {hs : List Nat} {h : Nat} (hmem : h ∈ hs)
    (hno : ∀ r, r ∈ g.records → r.handle ≠ h) :
    exec (.clearEventRecords p l false hs) s = .next (s.after (s.dev.stdReply p 0xE [])) := by
  refine show execClearEventRecords p l false hs s = _ from runStd_replies hp hr ?_
  have hbad : hs.all (fun h => g.records.any (·.handle == h)) = false := by
    rw [List.all_eq_false]
    exact ⟨h, hmem, by simpa using hno⟩
  simp only [hl, hbad]
  rfl

/-- The records that are kept, and the overflow count, which clearing any resets. -/
theorem exec_clearEventRecords {all : Bool} {hs : List Nat} {kept : List LogRec}
    (hkept : (if all then [] else g.records.filter fun r => !hs.contains r.handle) = kept)
    (hheld : all = true ∨ ∀ h, h ∈ hs → ∃ r, r ∈ g.records ∧ r.handle = h) :
    exec (.clearEventRecords p l all hs) s = .next (s.after
      ((s.dev.withRecords l kept (if kept.length < g.records.length then 0 else g.overflow)).stdReply p 0 [])) := by
  refine show execClearEventRecords p l all hs s = _ from runStd_replies hp hr ?_
  have hgood : (!all && !hs.all fun h => g.records.any (·.handle == h)) = false := by
    obtain rfl | hheld := hheld
    · rfl
    · have hall : (hs.all fun h => g.records.any (·.handle == h)) = true := by simpa using hheld
      rw [hall, Bool.not_true, Bool.and_false]
  simp only [hl, hgood, hkept]
  rfl

end

/-- The state after a standard command that leaves `d`, and its standard mailbox. -/
theorem stdReply_after_std (s : State) (d : Dev) (p code : Nat) (fields : List Nat) :
    (s.after (d.stdReply p code fields)).dev.std = d.std := d.stdReply_std p code fields

/-- Dropping records with a handle that the log holds makes it shorter. -/
theorem filter_handles_length {records : List LogRec} {hs : List Nat}
    (h : ∀ h, h ∈ hs → ∃ r, r ∈ records ∧ r.handle = h) :
    (records.filter fun r => !hs.contains r.handle).length < records.length ↔ hs ≠ [] := by
  rw [List.length_filter_lt_length_iff_exists]
  constructor
  · rintro ⟨r, -, hr⟩ rfl
    simp at hr
  · intro hne
    obtain ⟨x, hx⟩ := List.exists_mem_of_ne_nil hs hne
    obtain ⟨r, hr, rfl⟩ := h x hx
    exact ⟨r, hr, by simpa using hx⟩

/-- Settles O35: a linked port answers with what the package holds, and the commands that write change that alone. -/
theorem standardMailbox : Obligations.StandardMailbox := by
  refine ⟨?_, ?_, ?_⟩
  · unfold exec
    intro s p hp hr
    exact ⟨runStd_unlinked hp hr, runStd_unlinked hp hr, runStdAnswer_unlinked hp hr, runStdAnswer_unlinked hp hr,
      runStdAnswer_unlinked hp hr, runStdAnswer_unlinked hp hr, runStdAnswer_unlinked hp hr,
      fun l => runStdAnswer_unlinked hp hr, fun u off n => runStdAnswer_unlinked hp hr,
      fun op => runStdAnswer_unlinked hp hr, fun m v => runStd_unlinked hp hr,
      fun v => runStd_unlinked hp hr, fun v => runStd_unlinked hp hr, fun l all hs => runStd_unlinked hp hr⟩
  · intro s p hp hr d reply
    refine ⟨?_, exec_getHealthInfo hp hr, ?_, fun l g hg => ?_, fun l hl => ?_, ?_, ?_, fun u off n hu hn => ?_,
      fun u off n hbad => ?_, ?_, ?_, fun op => ?_⟩ <;> unfold exec
    · exact ⟨_, runStd_replies hp hr rfl⟩
    · exact runStdAnswer_replies hp hr rfl
    · exact runStdAnswer_replies hp hr (by simp only [d] at hg; simp only [hg])
    · exact runStdAnswer_replies hp hr (by simp only [d] at hl; simp only [hl])
    · exact runStdAnswer_replies hp hr rfl
    · exact runStdAnswer_replies hp hr rfl
    · exact runStdAnswer_replies hp hr (by simp [hu, hn, rangeFrom, Function.comp_def])
    · refine runStdAnswer_replies hp hr (if_neg ?_)
      rintro ⟨hu, hn⟩
      exact hbad.elim (fun h => h hu) (Nat.not_lt.2 hn)
    · exact runStdAnswer_replies hp hr rfl
    · exact runStdAnswer_replies hp hr rfl
    · exact runStdAnswer_replies hp hr rfl
  · intro s p hp hr d
    refine ⟨fun valid values => ?_, fun v => ?_, fun v => ?_, fun l g hg => ?_,
      fun l all hs hl => exec_clearEventRecords_noLog hp hr hl all hs,
      fun l g hs h hg hmem hno => exec_clearEventRecords_badHandle hp hr hg hmem hno, fun l g hs hg hheld => ?_⟩
    · refine ⟨_, show execSetAlertConfiguration p valid values s = _ from runStd_replies hp hr rfl, ?_, fun i hi => ?_⟩
      · rw [stdReply_after_std]
      · rw [stdReply_after_std]
        simp [d, hi]
    · exact show execSetTimestamp p v s = _ from runStd_replies hp hr rfl
    · exact show execSetEventInterruptPolicy p v s = _ from runStd_replies hp hr rfl
    · refine ⟨_, exec_clearEventRecords hp hr hg (kept := []) rfl (.inl rfl), ?_,
        ⟨if 0 < g.records.length then 0 else g.overflow, ?_, ?_, ?_⟩, fun m hm => ?_⟩
      · rw [stdReply_after_std]
        rfl
      · rw [stdReply_after_std, Dev.withRecords_log hg]
        rfl
      · exact fun h => if_pos (List.length_pos_iff.2 h)
      · rintro h
        rw [h]
        rfl
      · rw [stdReply_after_std, Dev.withRecords_other hm]
    · refine ⟨_, exec_clearEventRecords hp hr hg rfl (.inr hheld), ?_, ?_, fun m hm => ?_⟩
      · rw [stdReply_after_std]
        rfl
      · rw [stdReply_after_std, Dev.withRecords_log hg]
        simp only [Bool.false_eq_true, if_false, filter_handles_length hheld]
        rw [ite_not]
      · rw [stdReply_after_std, Dev.withRecords_other hm]
end Sys2Proof.Machine
end

section
/-!
SUPPORT. The decoders of a host port and its link (R296, R300, R313–R318).
-/
namespace Sys2Proof.Machine

open Sys2Proof

theorem runPort_after {s : State} {p : Nat} (hp : p < s.dev.sliceCount) {f : Dev → Dev} {d : Dev} (h : f s.dev = d) :
    runPort p s f = .next (s.after d) := by rw [runPort_eq hp, h, State.after]

/-! ### Decoders (R300) -/

theorem Port.mayUncommit_iff {x : Port} {n : Nat} : x.mayUncommit n = true ↔
    (x.decoders.getD n {}).lockOnCommit = false ∧ ∀ y, y ∈ x.decoders.drop (n + 1) → y.committed = false := by
  simp only [Port.mayUncommit, Bool.and_eq_true, Bool.not_eq_true', List.all_eq_true]

/-- Settles O37: each command acts on its decoder alone, under the condition of R300. -/
theorem decodersCommitted : Obligations.DecodersCommitted := by
  refine ⟨fun s p n hp hr => ⟨?_, ?_⟩, fun s p n hp hr => ⟨fun hc => ?_, fun hc => ?_, fun hl hy => ?_, fun hlocked => ?_⟩⟩
    <;> unfold exec
  · exact runPort_after hp (if_pos (by rw [hr]; rfl))
  · exact runPort_after hp (if_neg (by simp [hr]))
  · exact runPort_after hp (if_neg (by simp only [hr, hc]; decide))
  · exact runPort_after hp (if_pos (by rw [hc, Bool.or_true]))
  · exact runPort_after hp (if_pos (by rw [hr, Port.mayUncommit_iff.2 ⟨hl, hy⟩]; rfl))
  · refine runPort_after hp (if_neg ?_)
    rw [hr, Bool.true_and, Port.mayUncommit_iff]
    rintro ⟨hl, hy⟩
    obtain hlock | ⟨y, hmem, hc⟩ := hlocked
    · exact Bool.false_ne_true (hl.symm.trans hlock)
    · exact Bool.false_ne_true ((hy y hmem).symm.trans hc)

/-! ### Links (R313–R315) -/

theorem exec_hostLinkUp {s : State} {p : Nat} (hp : p < s.dev.sliceCount) (w v : Nat) (f : Bool) :
    exec (.hostLinkUp p w v f) s = .next (s.after
      (if s.dev.mode.ticks = true ∧ (s.dev.port p).link = .down ∧ (s.dev.port p).trains w v f = true then
        s.dev.onPort p fun x => { x with
          link := .l0, width := w, speed := v, flit256 := f, activeInRound := true, cdat := some s.dev.cdatEntry }
      else s.dev)) :=
  runPort_after hp (by simp only [Bool.and_eq_true, beq_iff_eq, and_assoc])

theorem exec_linkL1Entry {s : State} {p : Nat} (hp : p < s.dev.sliceCount) :
    exec (.linkL1Entry p) s = .next (s.after (if s.dev.mode.ticks = true ∧ (s.dev.port p).link = .l0 then
      s.dev.onPort p fun x => { x with link := .l1 } else s.dev)) :=
  runPort_after hp (by simp only [Bool.and_eq_true, beq_iff_eq])

theorem exec_linkL1Exit_elsewhere {s : State} {p : Nat} (hp : p < s.dev.sliceCount)
    (h : s.dev.mode.ticks = false ∨ (s.dev.port p).link ≠ .l1) :
    exec (.linkL1Exit p) s = .next (s.after s.dev) := by
  refine runPort_after hp (if_neg ?_)
  rw [Bool.and_eq_true, beq_iff_eq]
  rintro ⟨ht, hl⟩
  exact h.elim (fun h => Bool.false_ne_true (h.symm.trans ht)) (· hl)

/-- The package after the link of a port wakes, which ends IDLE (R314). -/
def Dev.wakeLink (d : Dev) (p : Nat) : Dev :=
  { d.onPort p (fun x => { x with link := .l0, activeInRound := true }) with
    regs := { d.regs with idleExit := d.regs.idleExit || d.mode == .idle } }

theorem exec_linkL1Exit {s : State} {p : Nat} (hp : p < s.dev.sliceCount) (ht : s.dev.mode.ticks = true)
    (hl : (s.dev.port p).link = .l1) : exec (.linkL1Exit p) s = .next (s.after (s.dev.wakeLink p)) := by
  refine runPort_after hp ((if_pos (by rw [ht, hl]; rfl)).trans ?_)
  unfold Dev.wakeLink
  by_cases hm : s.dev.mode = .idle
  · rw [if_pos (show _ = true by rw [Dev.onPort_mode, hm]; rfl), hm]
    simp
  · rw [if_neg (by rw [Dev.onPort_mode]; simpa using hm), beq_eq_false_iff_ne.2 hm, Bool.or_false]
    rfl

/-! ### Port reset (R316) -/

theorem Slice.forget_map (p : Nat) (rings : List Nat) (x : Slice) : (x.forget p rings).map = x.map := rfl

/-- A field of a slice that a change of every slice leaves alone. -/
theorem getD_map_field {α β : Type} {l : List α} {f : α → α} {g : α → β} (h : ∀ x, g (f x) = g x) (i : Nat) (x : α) :
    g ((l.map f).getD i x) = g (l.getD i x) := by
  rw [List.getD_eq_getElem?_getD, List.getD_eq_getElem?_getD, List.getElem?_map]
  cases l[i]? with
  | none => rfl
  | some y => exact h y

/-- What a port reset leaves of the package. -/
def Dev.resetPort (d : Dev) (p : Nat) : Dev :=
  { (d.forgetPort p (d.ringsOf p)).onPort p Port.ownReset with
    rings := d.rings.filter fun e => !(d.ringsOf p).contains e.1
    msix := ⟨d.msix.enabled.filter (·.1 != p), d.msix.waiting.filter (·.1 != p), d.msix.entries.filter (·.port != p)⟩ }

theorem exec_portReset {s : State} {p : Nat} (hp : p < s.dev.sliceCount) (ht : s.dev.mode.ticks = true) :
    exec (.portReset p) s = .next (s.after (s.dev.resetPort p)) :=
  runPort_after hp (if_neg (by rw [ht]; decide))

theorem Dev.resetPort_port (d : Dev) (p k : Nat) : (d.resetPort p).port k
    = if p = k ∧ k < d.ports.length then Port.ownReset { d.port k with reads := [], writes := [] } else d.port k := by
  have h : (d.resetPort p).port k = (((d.onPort p fun x => { x with reads := [], writes := [] }).onPort p Port.ownReset).port k) := rfl
  rw [h, Dev.onPort_port, Dev.onPort_port]
  simp only [Dev.onPort, upd, List.length_modify]
  by_cases hk : p = k ∧ k < d.ports.length
  · simp only [if_pos hk]
  · simp only [if_neg hk]

/-- A listed value stands in the list under its key. -/
theorem mem_of_sget? {α : Type} {m : Sparse α} {k : Nat} {v : α} (h : sget? m k = some v) : (k, v) ∈ m := by
  induction m with
  | nil => cases h
  | cons x m ih =>
    rw [sget?] at h
    split at h
    next hk => rw [← hk, ← Option.some.inj h]; exact List.mem_cons_self
    · exact List.mem_cons_of_mem _ (ih h)

/-- What is listed once the keys outside `p` are dropped. -/
theorem sget?_filter_key {α : Type} (m : Sparse α) (p : Nat → Bool) (k : Nat) :
    sget? (m.filter fun e => p e.1) k = if p k = true then sget? m k else none := by
  induction m with
  | nil => simp [sget?]
  | cons x m ih =>
    rw [List.filter_cons]
    by_cases hk : x.1 = k
    · subst hk
      by_cases hp : p x.1 = true
      · rw [if_pos hp, if_pos hp, sget?, sget?, if_pos rfl, if_pos rfl]
      · rw [if_neg hp, ih, if_neg hp, if_neg hp]
    · rw [sget?, if_neg hk, ← ih]
      split
      · rw [sget?, if_neg hk]
      · rfl

/-- A ring of the port that is reset is back to its reset state, DISABLED. -/
theorem Dev.resetPort_ring (d : Dev) (p r : Nat) (hr : (d.ring r).hostPort = p) :
    ((d.resetPort p).ring r).state = .disabled := by
  show (sget (d.rings.filter fun e => !(d.ringsOf p).contains e.1) r {}).state = .disabled
  rw [sget, sget?_filter_key _ fun k => !(d.ringsOf p).contains k]
  cases h : sget? d.rings r with
  | none => simp
  | some x =>
    have hx : x.hostPort = p := by simpa [Dev.ring, sget, h] using hr
    have hmem : r ∈ d.ringsOf p :=
      List.mem_map.2 ⟨(r, x), List.mem_filter.2 ⟨mem_of_sget? h, by simpa using hx⟩, rfl⟩
    rw [if_neg (by simpa using hmem)]
    rfl

/-! ### Recovery and integrity failures (R317, R318) -/

section
variable {s : State} {p : Nat} (hp : p < s.dev.sliceCount)
include hp

theorem exec_link_down (h : s.dev.mode.ticks = false ∨ (s.dev.port p).link = .down) :
    (∀ lanes, exec (.linkRecovery p lanes) s = .next (s.after s.dev))
    ∧ ∀ sel, exec (.ideIntegrityFailure p sel) s = .next (s.after s.dev) := by
  refine ⟨fun lanes => ?_, fun sel => ?_⟩ <;> unfold exec
  · exact runPort_after hp (if_pos (by obtain h | h := h <;> simp [h]))
  · exact runPort_after hp (if_neg (by obtain h | h := h <;> simp [h]))

variable (ht : s.dev.mode.ticks = true) (hl : (s.dev.port p).link ≠ .down)
include ht hl

/-- A recovery is counted, kept with its lanes, and narrows the port at the third. -/
theorem exec_linkRecovery {lanes : BitVec 16} {recent : List (Nat × BitVec 16)} {counted : Dev}
    (hrecent : ((s.dev.port p).recoveries.filter fun e => decide (s.dev.lifeClock < e.1 + 1024)) = recent)
    (hcounted : ((s.dev.count p 111 1).onPort p fun x => { x with recoveries := recent ++ [(s.dev.lifeClock, lanes)] })
      = counted) :
    exec (.linkRecovery p lanes) s = .next (s.after
      (if lanes ≠ 0 ∧ 3 ≤ (recent.filter (fun e => e.2 == lanes)).length + 1 then counted.narrowPort p lanes else counted)) := by
  subst hrecent hcounted
  refine runPort_after hp ((if_neg (by simp [ht, hl])).trans ?_)
  refine ite_cond_congr (propext ?_)
  rw [Bool.and_eq_true, bne_iff_ne, decide_eq_true_eq, List.filter_append, List.length_append,
    List.filter_cons_of_pos (by simp), List.filter_nil, List.length_singleton]
  rfl

theorem exec_ideIntegrityFailure (sel : Bool) : exec (.ideIntegrityFailure p sel) s = .next (s.after
    (if (s.dev.port p).ideKeys.any (·.selector % 2 == b2n sel) = true then
      (((s.dev.onPort p fun x => { x with ideInsecure := upd x.ideInsecure (b2n sel) fun _ => true }).countPkg 13 1).event
        0x0402 p (b2n sel) p []).alarm 2 none 0
    else s.dev)) :=
  runPort_after hp (by simp [ht, hl])

end

/-- Settles O38: the link moves as R313 to R315 say, a port reset touches its own port, and failures are counted. -/
theorem linksAndPortReset : Obligations.LinksAndPortReset := by
  refine ⟨fun s p hp hlen ht => ⟨fun w v f hl hv => ?_, fun w v f h => ?_, fun h => ?_, fun h => ?_, fun h => ?_,
      fun h => ⟨_, exec_linkL1Exit hp ht h, ?_, rfl⟩, _, exec_portReset hp ht, ?_⟩,
    fun s p hp ht => ⟨runPort_after hp (if_pos (by rw [ht]; rfl)), ?_, exec_linkL1Exit_elsewhere hp (.inl ht), fun w v f => ?_⟩,
    fun s p hp h => exec_link_down hp h, fun s p hp ht hl => ⟨?_, fun sel h => ?_, fun sel h => ?_⟩⟩
  · rw [exec_hostLinkUp hp, if_pos ⟨ht, hl, hv⟩]
    rfl
  · rw [exec_hostLinkUp hp, if_neg]
    rintro ⟨-, hl, hv⟩
    exact h.elim (· hl) fun h => Bool.false_ne_true (h.symm.trans hv)
  · rw [exec_linkL1Entry hp, if_neg fun ⟨_, hl⟩ => h hl]
  · exact exec_linkL1Exit_elsewhere hp (.inr h)
  · rw [exec_linkL1Entry hp, if_pos ⟨ht, h⟩]
  · show ((s.dev.onPort p _).port p).link = _
    rw [Dev.onPort_port, if_pos ⟨rfl, hlen⟩]
  · have hport (k : Nat) : (s.after (s.dev.resetPort p)).dev.port k = (s.dev.resetPort p).port k := rfl
    simp only [hport, Dev.resetPort_port, true_and, if_pos hlen]
    refine ⟨rfl, rfl, rfl, rfl, rfl, rfl, rfl, s.dev.resetPort_ring p, fun k hk => if_neg fun h => hk h.1.symm, rfl, rfl,
      fun i => ⟨?_, ?_⟩⟩
    · exact getD_map_field (f := Slice.forget p (s.dev.ringsOf p)) (g := fun x : Slice => x.cache.lines) (fun _ => rfl) i {}
    · exact getD_map_field (g := Slice.map) (Slice.forget_map p (s.dev.ringsOf p)) i {}
  · rw [exec_linkL1Entry hp, if_neg (by simp [ht])]
  · rw [exec_hostLinkUp hp, if_neg (by simp [ht])]
  · intro lanes recent counted same
    refine ⟨fun h => ?_, fun h0 h3 => ?_⟩ <;> rw [exec_linkRecovery hp ht hl (recent := recent) (counted := counted) rfl rfl]
    · rw [if_neg]
      rintro ⟨h0, h3⟩
      exact h.elim h0 fun h => absurd h3 (Nat.not_le.2 h)
    · rw [if_pos ⟨h0, h3⟩]
  · rw [exec_ideIntegrityFailure hp ht hl, if_neg (by simpa using h)]
  · rw [exec_ideIntegrityFailure hp ht hl, if_pos (by simpa using h)]
end Sys2Proof.Machine
end

section
/-!
SUPPORT. The fields of a word, and the command registers of a slice, of MAINT_CMD and of SWAP_CTRL (R5, R179, R283–R289, R391).
-/
namespace Sys2Proof.Machine

open Sys2Proof

/-! ### Fields of a word -/

theorem bits_eq (v lo width : Nat) : bits v lo width = v / 2 ^ lo % 2 ^ width := by
  rw [bits, Nat.shiftRight_eq_div_pow]

/-- A value with one field set: what stands below it, the field, and what stands above it. -/
theorem setBits_eq (v lo width x : Nat) :
    setBits v lo width x = v % 2 ^ lo + 2 ^ lo * (x % 2 ^ width + 2 ^ width * (v / 2 ^ lo / 2 ^ width)) := by
  rw [setBits, bits_eq, Nat.shiftLeft_eq, Nat.shiftLeft_eq, Nat.mul_add, Nat.mul_comm (v / 2 ^ lo % 2 ^ width),
    Nat.mul_comm (x % 2 ^ width)]
  have h : v = v % 2 ^ lo + 2 ^ lo * (v / 2 ^ lo % 2 ^ width) + 2 ^ lo * (2 ^ width * (v / 2 ^ lo / 2 ^ width)) := by
    rw [Nat.add_assoc, ← Nat.mul_add, Nat.mod_add_div, Nat.mod_add_div]
  generalize 2 ^ lo * (v / 2 ^ lo % 2 ^ width) = b at *
  generalize 2 ^ lo * (2 ^ width * (v / 2 ^ lo / 2 ^ width)) = c at *
  omega

theorem bits_setBits_same (v lo width x : Nat) : bits (setBits v lo width x) lo width = x % 2 ^ width := by
  rw [bits_eq, setBits_eq, Nat.add_mul_div_left _ _ (Nat.two_pow_pos lo), Nat.div_eq_of_lt (Nat.mod_lt _ (Nat.two_pow_pos lo)),
    Nat.zero_add, Nat.add_mul_mod_self_left, Nat.mod_mod]

theorem bits_setBits_below {v lo width x lo' width' : Nat} (h : lo' + width' ≤ lo) :
    bits (setBits v lo width x) lo' width' = bits v lo' width' := by
  obtain ⟨k, rfl⟩ := Nat.exists_eq_add_of_le h
  rw [bits_eq, bits_eq, ← Nat.mod_mul_right_div_self, ← Nat.mod_mul_right_div_self v, ← Nat.pow_add, setBits_eq,
    ← Nat.mod_mod_of_dvd _ (Nat.pow_dvd_pow 2 (Nat.le_add_right (lo' + width') k)), Nat.add_mul_mod_self_left, Nat.mod_mod,
    Nat.mod_mod_of_dvd _ (Nat.pow_dvd_pow 2 (Nat.le_add_right (lo' + width') k))]

theorem bits_setBits_above {v lo width x lo' width' : Nat} (h : lo + width ≤ lo') :
    bits (setBits v lo width x) lo' width' = bits v lo' width' := by
  obtain ⟨k, rfl⟩ := Nat.exists_eq_add_of_le h
  have hhigh : setBits v lo width x / 2 ^ lo / 2 ^ width = v / 2 ^ lo / 2 ^ width := by
    rw [setBits_eq, Nat.add_mul_div_left _ _ (Nat.two_pow_pos lo),
      Nat.div_eq_of_lt (Nat.mod_lt _ (Nat.two_pow_pos lo)), Nat.zero_add,
      Nat.add_mul_div_left _ _ (Nat.two_pow_pos width), Nat.div_eq_of_lt (Nat.mod_lt _ (Nat.two_pow_pos width)), Nat.zero_add]
  rw [bits_eq, bits_eq, Nat.pow_add, Nat.pow_add, ← Nat.div_div_eq_div_mul, ← Nat.div_div_eq_div_mul, hhigh,
    ← Nat.div_div_eq_div_mul, ← Nat.div_div_eq_div_mul]

theorem wbits_withField (v : Word) {lo width : Nat} (x : Nat) (h : lo + width ≤ 48) :
    wbits (withField v lo width x) lo width = x % 2 ^ width := by
  rw [withField, wbits_word _ h, ← bits_eq, bits_setBits_same]

theorem wbits_withField_other (v : Word) {lo width lo' width' : Nat} (x : Nat) (h : lo' + width' ≤ 48)
    (hd : lo' + width' ≤ lo ∨ lo + width ≤ lo') : wbits (withField v lo width x) lo' width' = wbits v lo' width' := by
  rw [withField, wbits_word _ h, ← bits_eq]
  exact hd.elim bits_setBits_below bits_setBits_above

/-! ### Register accesses -/

theorem word_setWidth (v : Word) : (v.setWidth 64).setWidth 48 = v := by
  apply BitVec.eq_of_toNat_eq
  rw [BitVec.toNat_setWidth, BitVec.toNat_setWidth, Nat.mod_eq_of_lt (a := v.toNat) (by have := v.isLt; omega),
    Nat.mod_eq_of_lt v.isLt]

section
variable {s : State} {a : Agent} {p : Nat} (hp : a = .host → p < s.dev.sliceCount)
include hp

theorem runReg_unreached (hr : s.dev.reached a p = false) {f : Dev → Dev} : runReg a p s f = .next (s.after s.dev) := by
  have hport : (a != .host || decide (p < s.dev.sliceCount)) = true := by
    cases a <;> simp [hp]
  rw [runReg, hport]
  exact run_after s (if_neg (by simp [hr]))

variable (hr : s.dev.reached a p = true)
include hr

theorem runReg_after {f : Dev → Dev} {d : Dev} (h : f s.dev = d) : runReg a p s f = .next (s.after d) := by
  rw [runReg_eq hp hr, h, State.after]

/-- A write of a register of the global page. -/
theorem runWrite_global {off : Nat} {v : Word} {d : Dev} (hoff : off < 0x10000) (h8 : off % 8 = 0)
    (h : s.dev.writeGlobal a p off v = d) : runWrite a p off v s = .next (s.after d) := by
  refine runReg_after hp hr ?_
  have hm : s.dev.mapped off = true := by simp [Dev.mapped, show off < 0x40000 by omega]
  rw [Dev.writeAccess, Dev.writeSlot, hm, word_setWidth]
  simp [h8, hoff, h]

/-- A write of a register of the selected slice. -/
theorem runWrite_slice {off : Nat} {v : Word} {d : Dev} (hoff : 0x20000 ≤ off ∧ off < 0x30000) (h8 : off % 8 = 0)
    (hsel : (s.dev.selOf a).slice < s.dev.sliceCount)
    (h : s.dev.writeSlice a (s.dev.selOf a).slice (off - 0x20000) v = d) : runWrite a p off v s = .next (s.after d) := by
  refine runReg_after hp hr ?_
  have hm : s.dev.mapped off = true := by simp [Dev.mapped, show off < 0x40000 by omega]
  have hs : s.dev.selects (s.dev.selOf a) (off / 0x10000) = true := by
    rw [Dev.selects, show off / 0x10000 = 2 by omega]
    simp [hsel]
  rw [Dev.writeAccess, Dev.writeSlot, hm, hs, word_setWidth]
  simp [h8, show ¬ off < 0x10000 by omega, show ¬ off < 0x20000 by omega, show off < 0x40000 by omega, hoff.2, h]

/-- Without a selected slice the access is reported (R391). -/
theorem runWrite_unselected {off : Nat} {v : Word} (hoff : 0x20000 ≤ off ∧ off < 0x30000) (h8 : off % 8 = 0)
    (hsel : s.dev.sliceCount ≤ (s.dev.selOf a).slice) : runWrite a p off v s = .next (s.after (s.dev.report a p off 5)) := by
  refine runReg_after hp hr ?_
  have hm : s.dev.mapped off = true := by simp [Dev.mapped, show off < 0x40000 by omega]
  have hs : s.dev.selects (s.dev.selOf a) (off / 0x10000) = false := by
    simp [Dev.selects, Nat.not_lt.2 hsel]
  rw [Dev.writeAccess, Dev.writeSlot, hm, hs]
  simp [h8, show ¬ off < 0x10000 by omega, show ¬ off < 0x20000 by omega, show off < 0x40000 by omega]

end

/-! ### The commands of the registers -/

/-- MAINT_CMD: the flags written 1 go, and the operation starts. -/
theorem Dev.writeGlobal_maint (d : Dev) (a : Agent) (p : Nat) (v : Word) (op : Nat) (hop : op < 4) :
    d.writeGlobal a p 0x410 (withField v 0 2 op) = ({ d with regs := { d.regs with
        maintDone := d.regs.maintDone && wbits v 3 1 == 0
        maintDenied := d.regs.maintDenied && wbits v 4 1 == 0 } } : Dev).startMaint (secureAgent a) op
      d.regs.maintBase.toNat (d.regs.maintLines.toNat + 1) := by
  have h0 : wbits (withField v 0 2 op) 0 2 = op := (wbits_withField v op (by decide)).trans (Nat.mod_eq_of_lt hop)
  have h3 : wbits (withField v 0 2 op) 3 1 = wbits v 3 1 := wbits_withField_other _ _ (by decide) (.inr (by decide))
  have h4 : wbits (withField v 0 2 op) 4 1 = wbits v 4 1 := wbits_withField_other _ _ (by decide) (.inr (by decide))
  rw [← h3, ← h4]
  simp [Dev.writeGlobal, h0]

/-- CACHE_SETWAY: the set and the way named, one or all, with the operation. -/
theorem Dev.writeSlice_setway (d : Dev) (a : Agent) (i : Nat) (v : Word) {op : Nat} (hop : op < 4) (h : op ≠ 0) :
    d.writeSlice a i 0x310 (withField v 17 2 op)
      = d.setway (secureAgent a) i (wbits v 0 12) (wbits v 12 4) (wbits v 16 1 == 1) op := by
  have h17 : wbits (withField v 17 2 op) 17 2 = op := (wbits_withField v op (by decide)).trans (Nat.mod_eq_of_lt hop)
  have h0 : wbits (withField v 17 2 op) 0 12 = wbits v 0 12 := wbits_withField_other _ _ (by decide) (.inl (by decide))
  have h12 : wbits (withField v 17 2 op) 12 4 = wbits v 12 4 := wbits_withField_other _ _ (by decide) (.inl (by decide))
  have h16 : wbits (withField v 17 2 op) 16 1 = wbits v 16 1 := wbits_withField_other _ _ (by decide) (.inl (by decide))
  rw [← h0, ← h12, ← h16]
  simp [Dev.writeSlice, Dev.writeSetway, h17, h]

/-- The retraining of every channel that works, under the threshold written. -/
theorem Dev.writeSlice_retrain (d : Dev) (a : Agent) (i : Nat) (v : Word) :
    d.writeSlice a i 0x608 (withField v 8 1 1) = d.onSlice i fun x =>
      let th := if wbits v 0 8 = 0 then x.dram.oscThreshold else wbits v 0 8
      { x with dram := ({ x.dram with oscThreshold := th } : Dram).makeDue 0xFF } := by
  have h8 : wbits (withField v 8 1 1) 8 1 = 1 := wbits_withField _ _ (by decide)
  have h0 : wbits (withField v 8 1 1) 0 8 = wbits v 0 8 := wbits_withField_other _ _ (by decide) (.inl (by decide))
  simp only [Dev.writeSlice, Dram.configure, h8, h0]
  by_cases hv : wbits v 0 8 = 0
  · simp [hv]
  · simp [hv, Nat.one_le_iff_ne_zero.2 hv]

/-- SWAP_CTRL with its request bit: the refusal shown is cleared where the write says so. -/
theorem Dev.writeGlobal_swap (d : Dev) (a : Agent) (p : Nat) (v : Word) :
    d.writeGlobal a p 0x28 (withField v 0 1 1)
      = let e := { d with swap := { d.swap with refused := d.swap.refused && wbits v 2 1 == 0 } }
        if d.swapPending then { e with swap := { e.swap with refused := true } }.report a p 0x28 3
        else if !d.clock.on then { e with swap := { e.swap with refused := true } }
        else e.acceptSwap .all := by
  have h0 : wbits (withField v 0 1 1) 0 1 = 1 := wbits_withField _ _ (by decide)
  have h2 : wbits (withField v 0 1 1) 2 1 = wbits v 2 1 := wbits_withField_other _ _ (by decide) (.inr (by decide))
  have hp (e : Dev) (b : Bool) : Dev.swapPending { e with swap := { e.swap with refused := b } } = e.swapPending := rfl
  simp only [Dev.writeGlobal, Dev.writeSwap, h0, h2]
  obtain hb | hb := wbits_bit v 2
  · simp [hb]
  · simp [hb, hp]

/-- Settles O40: each command writes its field of its register, which starts what the rules say. -/
theorem commandRegisters : Obligations.CommandRegisters := by
  refine ⟨fun s a p v hp hr => ?_, fun s a p v hp hr => ?_, fun s a p v hp hr => ⟨fun hs hc => ?_, fun hs => ?_, fun hs hc => ?_⟩⟩
  · refine ⟨?_, ?_, ?_, ?_, ?_, ?_, ?_, ?_, ?_, ?_, ?_⟩ <;> exact runReg_unreached hp hr
  · refine ⟨?_, ?_, ?_, fun hsel => ⟨?_, ?_, ?_, ?_, ?_, ?_, ?_⟩, fun hsel => ⟨?_, ?_, ?_, ?_, ?_, ?_, ?_⟩⟩ <;> unfold exec
    · exact runWrite_global hp hr (by decide) rfl (Dev.writeGlobal_maint _ _ _ _ 1 (by decide))
    · exact runWrite_global hp hr (by decide) rfl (Dev.writeGlobal_maint _ _ _ _ 2 (by decide))
    · exact runWrite_global hp hr (by decide) rfl (Dev.writeGlobal_maint _ _ _ _ 3 (by decide))
    · exact runWrite_slice hp hr (by decide) rfl hsel (Dev.writeSlice_setway _ _ _ _ (by decide) (by decide))
    · exact runWrite_slice hp hr (by decide) rfl hsel (Dev.writeSlice_setway _ _ _ _ (by decide) (by decide))
    · exact runWrite_slice hp hr (by decide) rfl hsel (Dev.writeSlice_setway _ _ _ _ (by decide) (by decide))
    · exact runWrite_slice hp hr (by decide) rfl hsel rfl
    · exact runWrite_slice hp hr (by decide) rfl hsel rfl
    · exact runWrite_slice hp hr (by decide) rfl hsel rfl
    · exact runWrite_slice hp hr (by decide) rfl hsel (Dev.writeSlice_retrain _ _ _ _)
    all_goals exact runWrite_unselected hp hr (by decide) rfl hsel
  · refine runWrite_global hp hr (by decide) rfl ((s.dev.writeGlobal_swap a p v).trans ?_)
    simp [hs, hc, Dev.acceptSwap, Dev.swapWait]
  · refine runWrite_global hp hr (by decide) rfl ((s.dev.writeGlobal_swap a p v).trans ?_)
    simp [hs]
  · refine runWrite_global hp hr (by decide) rfl ((s.dev.writeGlobal_swap a p v).trans ?_)
    simp [hs, hc]
end Sys2Proof.Machine
end

section
/-!
SUPPORT. The FIFOs of a mailbox channel by register (R402–R408).
-/
namespace Sys2Proof.Machine

open Sys2Proof

/-- The offset of a register of a mailbox channel lies in the channel's page. -/
theorem chanOffset {c k : Nat} (hc : c < 16) (hk : k < 0x1000) :
    let off := 0x10000 + 0x1000 * c + k
    ¬ off < 0x10000 ∧ off < 0x20000 ∧ (off - 0x10000) / 0x1000 = c ∧ off % 0x1000 = k := by
  dsimp only
  omega

section
variable {c k : Nat} (hc : c < 16) (hk : k < 0x1000) (d : Dev) (a : Agent) (p : Nat)
include hc hk

theorem Dev.readSlot_chan (h8 : k % 8 = 0) (bad : Bool) :
    d.readAccess a p (d.selOf a) (0x10000 + 0x1000 * c + k) 8 bad
      = (((d.readChan a p c k bad).1.1.toNat, (d.readChan a p c k bad).1.2), (d.readChan a p c k bad).2) := by
  obtain ⟨hlow, hhigh, hdiv, hmod⟩ := chanOffset hc hk
  have hm : d.mapped (0x10000 + 0x1000 * c + k) = true := by
    simp only [Dev.mapped, Bool.or_eq_true, decide_eq_true_eq]
    omega
  simp only [Dev.readAccess, Dev.readSlot, hm, hdiv, hmod, if_neg hlow, if_pos hhigh]
  simp [show (0x10000 + 0x1000 * c + k) % 8 = 0 by omega]

theorem Dev.readAccess_half (h8 : k / 8 = 1) (h4 : k % 4 = 0) (bad : Bool) :
    d.readAccess a p (d.selOf a) (0x10000 + 0x1000 * c + k) 4 bad
      = d.readOut a p c (if k % 8 = 0 then .low else .high) bad := by
  obtain ⟨hlow, hhigh, hdiv, hmod⟩ := chanOffset hc hk
  have hm : d.mapped (0x10000 + 0x1000 * c + k) = true := by
    simp only [Dev.mapped, Bool.or_eq_true, decide_eq_true_eq]
    omega
  have hout : inMbOut (0x10000 + 0x1000 * c + k) = true := by
    simp only [inMbOut, hmod, h8, Bool.and_eq_true, decide_eq_true_eq, beq_self_eq_true, and_true]
    omega
  have h4' : (0x10000 + 0x1000 * c + k) % 4 = 0 := by omega
  have h8' : (0x10000 + 0x1000 * c + k) % 8 = k % 8 := by omega
  simp [Dev.readAccess, hm, hdiv, hout, h4', h8']

end

/-! ### The outbound FIFO -/

/-- A channel whose held half is dropped keeps its FIFOs. -/
theorem Dev.freed_chan (d : Dev) (c : Nat) :
    ((d.onChan c fun ch => { ch with heldHalf := none }).chan c) = { d.chan c with heldHalf := none }
      ∨ ((d.onChan c fun ch => { ch with heldHalf := none }).chan c) = d.chan c := by
  rw [Dev.onChan_chan]
  split
  · exact .inl rfl
  · exact .inr rfl

theorem Dev.freed_outb (d : Dev) (c : Nat) :
    ((d.onChan c fun ch => { ch with heldHalf := none }).chan c).outb = (d.chan c).outb := by
  obtain h | h := d.freed_chan c <;> rw [h]

theorem Dev.freed_inboundFull (d : Dev) (c : Nat) :
    (d.onChan c fun ch => { ch with heldHalf := none }).inboundFull c = d.inboundFull c := by
  rw [Dev.inboundFull, Dev.inboundFull]
  obtain h | h := d.freed_chan c <;> rw [h]

theorem Dev.popOutbound_cons {d : Dev} {c : Nat} {w : MbWord} {rest : List MbWord} (h : (d.chan c).outb = w :: rest) (bad : Bool) :
    d.popOutbound c bad = ((w.word, w.bad || bad),
      (d.onChan c fun ch => { ch with outb := rest, outPoison := ch.outPoison || (w.bad || bad) }).pump c) := by
  rw [Dev.popOutbound, h]

theorem Dev.popOutbound_nil {d : Dev} {c : Nat} (h : (d.chan c).outb = []) (bad : Bool) :
    d.popOutbound c bad = ((0, false), d.onChan c fun ch => { ch with underrun := true }) := by
  rw [Dev.popOutbound, h]

theorem Dev.onChan_onChan (d : Dev) (c : Nat) (f g : Chan → Chan) :
    (d.onChan c f).onChan c g = d.onChan c fun ch => g (f ch) := by
  simp only [Dev.onChan, upd, List.modify_modify_eq]
  rfl

section
variable {s : State} {a : Agent} {p c : Nat} (hp : a = .host → p < s.dev.sliceCount) (hc : c < 16)
include hp hc

theorem exec_mbAccess_unreached (hr : s.dev.reached a p = false) :
    (∀ v bad, exec (.mbInWrite a p c v bad) s = .next (s.after s.dev))
    ∧ (∀ half bad, exec (.mbOutRead a p c half bad) s = .next (s.after s.dev))
    ∧ ∀ v, exec (.mailboxDrop a p c v) s = .next (s.after s.dev) := by
  refine ⟨fun v bad => ?_, fun half bad => ?_, fun v => ?_⟩ <;> unfold exec
  · exact (if_pos (decide_eq_true hc)).trans (runReg_unreached hp hr)
  · exact (if_pos (decide_eq_true hc)).trans (runReg_unreached hp hr)
  · exact (if_pos (decide_eq_true hc)).trans (runReg_unreached hp hr)

variable (hr : s.dev.reached a p = true)
include hr

theorem exec_mbInWrite {v : Word} {bad : Bool} {d : Dev} (h : s.dev.writeChan a p c 0 v bad = d) :
    exec (.mbInWrite a p c v bad) s = .next (s.after d) :=
  (if_pos (decide_eq_true hc)).trans (runReg_after hp hr h)

theorem exec_mailboxDrop {v : Word} {d : Dev} (h : s.dev.writeChan a p c 0x18 (withField v 0 1 1) false = d) :
    exec (.mailboxDrop a p c v) s = .next (s.after d) :=
  (if_pos (decide_eq_true hc)).trans (runReg_after hp hr h)

theorem exec_mbOutRead {half : OutHalf} {bad : Bool} {r : Nat × Bool} {d : Dev} (h : s.dev.readOut a p c half bad = (r, d)) :
    exec (.mbOutRead a p c half bad) s = .next (s.after (d.emit (.readData (BitVec.ofNat 64 r.1) (r.2 && a == .host)))) := by
  refine (if_pos (decide_eq_true hc)).trans (runReg_after hp hr ?_)
  cases half with
  | full =>
    have hfull : s.dev.readAccess a p (s.dev.selOf a) (0x10000 + 0x1000 * c + 0x08) 8 bad = s.dev.readOut a p c .full bad := by
      rw [Dev.readSlot_chan hc (by decide) _ _ _ rfl]
      cases hreason : s.dev.chanReason a p c <;> simp [Dev.readOut, Dev.readChan, hreason]
    simp only [hfull, h]
  | low => simp only [Dev.readAccess_half hc (show 0x08 < 0x1000 by decide) s.dev a p rfl rfl, h, if_true]
  | high =>
    have hhigh := Dev.readAccess_half hc (show 0x0C < 0x1000 by decide) s.dev a p rfl rfl bad
    simp only [Nat.add_assoc] at hhigh ⊢
    simp [hhigh, h]

end

theorem exec_mbOutRead_word {s : State} {a : Agent} {p c : Nat} (hp : a = .host → p < s.dev.sliceCount) (hc : c < 16)
    (hr : s.dev.reached a p = true) {half : OutHalf} {bad : Bool} {r : Nat × Bool} {d : Dev} {v : BitVec 64}
    {b : Bool} (h : s.dev.readOut a p c half bad = (r, d)) (hv : BitVec.ofNat 64 r.1 = v) (hb : (r.2 && a == .host) = b) :
    exec (.mbOutRead a p c half bad) s = .next (s.after (d.emit (.readData v b))) := by
  rw [exec_mbOutRead hp hc hr h, hv, hb]

section
variable {d : Dev} {a : Agent} {p c : Nat} (hn : d.chanReason a p c = none)
include hn

theorem Dev.readOut_full {bad : Bool} {r : Word × Bool} {e : Dev}
    (h : (d.onChan c fun ch => { ch with heldHalf := none }).popOutbound c bad = (r, e)) :
    d.readOut a p c .full bad = ((r.1.toNat, r.2), e) := by
  simp [Dev.readOut, Dev.readChan, hn, h]

theorem Dev.readOut_low {bad : Bool} {r : Word × Bool} {e : Dev} (h : d.popOutbound c bad = (r, e)) :
    d.readOut a p c .low bad
      = ((wbits r.1 0 32, r.2), e.onChan c fun ch => { ch with heldHalf := some (wbits r.1 32 16) }) := by
  simp [Dev.readOut, hn, h]

/-- DROP takes the enables and the vector, and drops for the agent that writes it. -/
theorem Dev.writeChan_drop (v : Word) : d.writeChan a p c 0x18 (withField v 0 1 1) false
    = ((d.onChan c fun ch => { ch with heldHalf := none }).onChan c fun ch =>
        { ch with inEmptyEn := wbits v 1 1 == 1, outReadyEn := wbits v 2 1 == 1, vector := wbits v 3 11 }).dropFor a c := by
  have h0 : wbits (withField v 0 1 1) 0 1 = 1 := wbits_withField _ _ (by decide)
  have h1 : wbits (withField v 0 1 1) 1 1 = wbits v 1 1 := wbits_withField_other _ _ (by decide) (.inr (by decide))
  have h2 : wbits (withField v 0 1 1) 2 1 = wbits v 2 1 := wbits_withField_other _ _ (by decide) (.inr (by decide))
  have h3 : wbits (withField v 0 1 1) 3 11 = wbits v 3 11 := wbits_withField_other _ _ (by decide) (.inr (by decide))
  rw [Dev.writeChan, hn]
  simp [h0, h1, h2, h3]

end

section
variable {s : State} {a : Agent} {p c : Nat} (hp : a = .host → p < s.dev.sliceCount) (hc : c < 16)
  (hr : s.dev.reached a p = true) (hn : s.dev.chanReason a p c = none)
include hp hc hr hn

theorem exec_mbOutRead_full {w : MbWord} {rest : List MbWord} (hout : (s.dev.chan c).outb = w :: rest) (bad : Bool) :
    exec (.mbOutRead a p c .full bad) s = .next (s.after
      ((((s.dev.onChan c fun ch => { ch with heldHalf := none }).onChan c fun ch =>
        { ch with outb := rest, outPoison := ch.outPoison || (w.bad || bad) }).pump c).emit
        (.readData (w.word.setWidth 64) ((w.bad || bad) && a == .host)))) :=
  exec_mbOutRead_word hp hc hr (Dev.readOut_full hn (Dev.popOutbound_cons ((s.dev.freed_outb c).trans hout) bad))
    (BitVec.ofNat_toNat 64 w.word) rfl

theorem exec_mbOutRead_full_empty (hout : (s.dev.chan c).outb = []) (bad : Bool) :
    exec (.mbOutRead a p c .full bad) s = .next (s.after
      (((s.dev.onChan c fun ch => { ch with heldHalf := none }).onChan c fun ch => { ch with underrun := true }).emit
        (.readData 0 false))) :=
  exec_mbOutRead_word hp hc hr (Dev.readOut_full hn (Dev.popOutbound_nil ((s.dev.freed_outb c).trans hout) bad)) rfl rfl

theorem exec_mbOutRead_low {w : MbWord} {rest : List MbWord} (hout : (s.dev.chan c).outb = w :: rest) (bad : Bool) :
    exec (.mbOutRead a p c .low bad) s = .next (s.after
      ((((s.dev.onChan c fun ch => { ch with outb := rest, outPoison := ch.outPoison || (w.bad || bad) }).pump c).onChan c
        fun ch => { ch with heldHalf := some (wbits w.word 32 16) }).emit
        (.readData (BitVec.ofNat 64 (wbits w.word 0 32)) ((w.bad || bad) && a == .host)))) := by
  have hlow := Dev.readOut_low hn (Dev.popOutbound_cons hout bad)
  rw [exec_mbOutRead hp hc hr hlow]

theorem exec_mbOutRead_low_empty (hout : (s.dev.chan c).outb = []) (bad : Bool) :
    exec (.mbOutRead a p c .low bad) s = .next (s.after
      ((s.dev.onChan c fun ch => { ch with underrun := true, heldHalf := some 0 }).emit (.readData 0 false))) := by
  have hlow := Dev.readOut_low hn (Dev.popOutbound_nil hout bad)
  rw [Dev.onChan_onChan] at hlow
  exact exec_mbOutRead_word hp hc hr hlow rfl rfl

theorem exec_mbOutRead_high (bad : Bool) : exec (.mbOutRead a p c .high bad) s = .next (s.after
    ((s.dev.onChan c fun ch => { ch with heldHalf := none }).emit
      (.readData (BitVec.ofNat 64 ((s.dev.chan c).heldHalf.getD 0)) false))) := by
  have hhigh : s.dev.readOut a p c .high bad
      = (((s.dev.chan c).heldHalf.getD 0, false), s.dev.onChan c fun ch => { ch with heldHalf := none }) := by
    rw [Dev.readOut, hn]
  exact exec_mbOutRead_word hp hc hr hhigh rfl rfl

end

/-- Settles O41: each access is one of R402 to R408, on the channel that its offset names. -/
theorem mailboxFifosAccessed : Obligations.MailboxFifosAccessed := by
  refine ⟨fun s a p c hp hc hr => exec_mbAccess_unreached hp hc hr, fun s a p c hp hc hr => ⟨fun hn => ?_, fun r hn => ?_⟩⟩
  · refine ⟨fun v bad hf => exec_mbInWrite hp hc hr ?_, fun v bad hf => ⟨fun ha => exec_mbInWrite hp hc hr ?_, fun ha =>
      exec_mbInWrite hp hc hr ?_⟩, fun w rest bad hout hlen => ?_, fun bad hout hlen => ?_, fun w rest bad hout hlen => ?_,
      fun bad hout hlen => ?_, fun bad => ?_,
      fun v => ⟨fun ha => exec_mailboxDrop hp hc hr ?_, fun ha => exec_mailboxDrop hp hc hr ?_⟩⟩
    · rw [Dev.writeChan, hn]
      simp [Dev.pushInbound, Dev.freed_inboundFull, hf]
    · rw [Dev.writeChan, hn]
      simp [Dev.pushInbound, Dev.freed_inboundFull, hf, ha]
    · rw [Dev.writeChan, hn]
      simp [Dev.pushInbound, Dev.freed_inboundFull, hf, ha]
    · exact exec_mbOutRead_full hp hc hr hn hout bad
    · exact exec_mbOutRead_full_empty hp hc hr hn hout bad
    · exact exec_mbOutRead_low hp hc hr hn hout bad
    · exact exec_mbOutRead_low_empty hp hc hr hn hout bad
    · exact exec_mbOutRead_high hp hc hr hn bad
    · rw [Dev.writeChan_drop hn, Dev.dropFor, if_neg (by simpa using ha)]
    · rw [Dev.writeChan_drop hn, Dev.dropFor, if_pos (by simpa using ha)]
      rfl
  · refine ⟨fun v bad => exec_mbInWrite hp hc hr ?_, fun half bad => ?_,
      fun v => exec_mailboxDrop hp hc hr ?_⟩
    · simp only [Dev.writeChan, hn, Nat.add_zero]
    · have hread : s.dev.readOut a p c half bad = ((0, false), s.dev) := by simp only [Dev.readOut, hn]
      exact exec_mbOutRead_word hp hc hr hread rfl rfl
    · simp only [Dev.writeChan, hn]
end Sys2Proof.Machine
end

section
/-!
SUPPORT. Work rings: their place in the package, and RING_CTRL (R415–R418).
-/
namespace Sys2Proof.Machine

open Sys2Proof

/-! ### Reading a ring after a write -/

theorem sget?_sdel {α : Type} (m : Sparse α) (k j : Nat) : sget? (sdel m k) j = if j = k then none else sget? m j := by
  rw [sdel, sget?_filter_key m (· != k)]
  by_cases h : j = k <;> simp [h]

theorem Dev.onRing_ring (d : Dev) (n k : Nat) (f : Ring → Ring) :
    (d.onRing n f).ring k = if k = n then f (d.ring n) else d.ring k := by
  have hring (e : Dev) (j : Nat) : e.ring j = (sget? e.rings j).getD {} := rfl
  rw [hring (d.onRing n f), hring d k]
  by_cases h : f (d.ring n) = {}
  · have hdel : (d.onRing n f).rings = sdel d.rings n := if_pos h
    rw [hdel, sget?_sdel]
    split
    · rw [h]
      rfl
    · rfl
  · have hset : (d.onRing n f).rings = sset d.rings n (f (d.ring n)) := if_neg h
    rw [hset, sget?_sset]
    by_cases hk : n = k
    · simp [hk]
    · rw [if_neg hk, if_neg (Ne.symm hk)]

theorem Dev.onRing_same (d : Dev) (n : Nat) (f : Ring → Ring) : (d.onRing n f).ring n = f (d.ring n) := by
  rw [Dev.onRing_ring, if_pos rfl]

theorem Dev.onRing_congr {d : Dev} {n : Nat} {f g : Ring → Ring} (h : f (d.ring n) = g (d.ring n)) : d.onRing n f = d.onRing n g := by
  rw [Dev.onRing, Dev.onRing, h]

theorem Dev.report_ring (d : Dev) (a : Agent) (p off r n : Nat) : (d.report a p off r).ring n = d.ring n := by
  rw [Dev.ring, Dev.ring, Dev.report_rings]

theorem Dev.ringCount_le (d : Dev) : d.ringCount ≤ 8192 := by
  have := d.sliceCount_le
  unfold Dev.ringCount
  omega

/-! ### Fields of RING_CTRL -/

theorem getLsbD_of_wbits {v w : Word} {i : Nat} (h : wbits v i 1 = wbits w i 1) : v.getLsbD i = w.getLsbD i := by
  rw [wbits, wbits, bits_eq, bits_eq, Nat.pow_one] at h
  rw [BitVec.getLsbD, BitVec.getLsbD, Nat.testBit_eq_decide_div_mod_eq, Nat.testBit_eq_decide_div_mod_eq, h]

/-- Setting a bit outside a mask leaves the masked word. -/
theorem masked_withField_bit (v : Word) {lo m : Nat} (x : Nat) (hlo : lo < 48) (hm : (word m).getLsbD lo = false) :
    masked (withField v lo 1 x) m = masked v m := by
  refine BitVec.eq_of_getLsbD_eq fun i hi => ?_
  rw [masked, masked, BitVec.getLsbD_and, BitVec.getLsbD_and]
  obtain hlt | rfl | hgt := Nat.lt_trichotomy i lo
  · rw [getLsbD_of_wbits (wbits_withField_other v x hi (.inl hlt))]
  · rw [hm, Bool.and_false, Bool.and_false]
  · rw [getLsbD_of_wbits (wbits_withField_other v x hi (.inr hgt))]

/-- A ring with the configuration that a write of RING_CTRL carries. -/
def Ring.configured (r : Ring) (v : Word) : Ring :=
  { r with
    sizeLog2 := if 6 ≤ wbits v 0 5 ∧ wbits v 0 5 ≤ 16 then wbits v 0 5 else r.sizeLog2
    hostPort := wbits v 6 3
    vector := wbits v 9 11
    irqEnable := wbits v 20 1 == 1 }

/-- The fields of a RING_CTRL write beside enable (bit 5) and reset (bit 21). -/
structure SameRingFields (v w : Word) : Prop where
  configured : ∀ r : Ring, r.configured w = r.configured v
  masked : masked w ringFields = masked v ringFields

/-- RING_CTRL after its configuration is taken, or its change refused: the package and the word's command. -/
def Dev.takeRingCtrl (d : Dev) (a : Agent) (p off n : Nat) (v : Word) : Dev :=
  if (d.ring n).state = .disabled then d.onRing n fun r => r.configured v
  else if Machine.masked v ringFields = Machine.masked (d.ring n).ctrl ringFields then d
  else d.report a p off 6

theorem Dev.writeRingCtrl_eq (d : Dev) (a : Agent) (p off n : Nat) (v : Word) : d.writeRingCtrl a p off n v =
    if wbits v 21 1 = 1 then (d.takeRingCtrl a p off n v).onRing n Ring.resetRing
    else if wbits v 5 1 = 1 then (d.takeRingCtrl a p off n v).onRing n Ring.enableRing
    else (d.takeRingCtrl a p off n v).onRing n Ring.disableRing := by
  simp [Dev.writeRingCtrl, Dev.takeRingCtrl, Ring.configured]

theorem Dev.takeRingCtrl_congr (d : Dev) (a : Agent) (p off n : Nat) {v w : Word} (h : SameRingFields v w) :
    d.takeRingCtrl a p off n w = d.takeRingCtrl a p off n v := by
  simp only [Dev.takeRingCtrl, h.configured, h.masked]

theorem sameRingFields_withField {v : Word} {lo : Nat} (x : Nat) (hlo : lo = 5 ∨ lo = 21) :
    SameRingFields v (withField v lo 1 x) := by
  have hsame {k width : Nat} (h : k + width ≤ 48) (hd : k + width ≤ lo ∨ lo + 1 ≤ k) :
      wbits (withField v lo 1 x) k width = wbits v k width := wbits_withField_other v x h hd
  refine ⟨fun r => ?_, masked_withField_bit v x (by omega) ?_⟩
  · rw [Ring.configured, hsame (k := 0) (by decide) (by omega), hsame (k := 6) (by decide) (by omega),
      hsame (k := 9) (by decide) (by omega), hsame (k := 20) (by decide) (by omega)]
    rfl
  · obtain rfl | rfl := hlo <;> decide

theorem SameRingFields.trans {v w x : Word} (h : SameRingFields v w) (h' : SameRingFields w x) : SameRingFields v x :=
  ⟨fun r => (h'.configured r).trans (h.configured r), h'.masked.trans h.masked⟩

/-! ### Writes of ring registers -/

section
variable {s : State} {a : Agent} {p n : Nat} (hp : a = .host → p < s.dev.sliceCount)
include hp

theorem runRingWrite_away (h : s.dev.ringCount ≤ n ∨ s.dev.reached a p = false) (off : Nat) (v : Word) :
    runRingWrite a p n off v s = .next (s.after s.dev) := by
  obtain hr | hr := Bool.eq_false_or_eq_true (s.dev.reached a p)
  · obtain h | h := h
    · exact runReg_after hp hr (if_neg (Nat.not_lt.2 h))
    · exact absurd (h.symm.trans hr) Bool.false_ne_true
  · exact runReg_unreached hp hr

variable (hn : n < s.dev.ringCount) (hr : s.dev.reached a p = true)
include hn hr

theorem runRingWrite_after {k : Nat} {v : Word} {d : Dev} (hk : k < 0x40) (h8 : k % 8 = 0)
    (h : s.dev.writeRing a p (0x1000000 + 0x40 * n + k) n v = d) : runRingWrite a p n k v s = .next (s.after d) := by
  refine runReg_after hp hr ((if_pos hn).trans ?_)
  have hle := s.dev.ringCount_le
  have hat : ringAt (0x1000000 + 0x40 * n + k) = n := by
    rw [ringAt, if_pos (by omega)]
    omega
  have hm : s.dev.mapped (0x1000000 + 0x40 * n + k) = true := by
    simp only [Dev.mapped, inRings, hat, Bool.or_eq_true, Bool.and_eq_true, decide_eq_true_eq]
    omega
  rw [Dev.writeAccess, Dev.writeSlot, hm, hat, word_setWidth, h]
  simp only [Bool.not_true, Bool.false_eq_true, if_false, decide_true, Bool.true_and, decide_eq_true_eq]
  rw [if_pos (by omega), if_neg (by omega), if_neg (by omega), if_neg (by omega), if_neg (by omega), if_pos (by omega)]

theorem runRingCtrl {v : Word} {d : Dev}
    (h : s.dev.writeRingCtrl a p (0x1000000 + 0x40 * n + 0x10) n v = d) :
    runRingWrite a p n 0x10 v s = .next (s.after d) := by
  refine runRingWrite_after hp hn hr (by decide) rfl ?_
  rw [Dev.writeRing, show (0x1000000 + 0x40 * n + 0x10) % 0x40 = 0x10 by omega]
  exact h

theorem exec_ringEnable (v : Word) : exec (.ringEnable a p n v) s = .next (s.after
    ((s.dev.takeRingCtrl a p (0x1000000 + 0x40 * n + 0x10) n v).onRing n Ring.enableRing)) := by
  refine runRingCtrl hp hn hr ?_
  have h21 : wbits (withField (withField v 21 1 0) 5 1 1) 21 1 = 0 :=
    (wbits_withField_other _ _ (by decide) (.inr (by decide))).trans (wbits_withField v 0 (by decide))
  have h5 : wbits (withField (withField v 21 1 0) 5 1 1) 5 1 = 1 := wbits_withField _ _ (by decide)
  rw [Dev.writeRingCtrl_eq, h21, h5, Dev.takeRingCtrl_congr _ _ _ _ _
    ((sameRingFields_withField 0 (.inr rfl)).trans (sameRingFields_withField 1 (.inl rfl)))]
  rfl

theorem exec_ringDisable (v : Word) : exec (.ringDisable a p n v) s = .next (s.after
    ((s.dev.takeRingCtrl a p (0x1000000 + 0x40 * n + 0x10) n v).onRing n Ring.disableRing)) := by
  refine runRingCtrl hp hn hr ?_
  have h21 : wbits (withField (withField v 21 1 0) 5 1 0) 21 1 = 0 :=
    (wbits_withField_other _ _ (by decide) (.inr (by decide))).trans (wbits_withField v 0 (by decide))
  have h5 : wbits (withField (withField v 21 1 0) 5 1 0) 5 1 = 0 := wbits_withField _ _ (by decide)
  rw [Dev.writeRingCtrl_eq, h21, h5, Dev.takeRingCtrl_congr _ _ _ _ _
    ((sameRingFields_withField 0 (.inr rfl)).trans (sameRingFields_withField 0 (.inl rfl)))]
  rfl

theorem exec_ringReset (v : Word) : exec (.ringReset a p n v) s = .next (s.after
    ((s.dev.takeRingCtrl a p (0x1000000 + 0x40 * n + 0x10) n v).onRing n Ring.resetRing)) := by
  refine runRingCtrl hp hn hr ?_
  have h21 : wbits (withField v 21 1 1) 21 1 = 1 := wbits_withField _ _ (by decide)
  rw [Dev.writeRingCtrl_eq, h21, Dev.takeRingCtrl_congr _ _ _ _ _ (sameRingFields_withField 1 (.inr rfl))]
  rfl

theorem exec_ringCplHeadWrite (v : Word) : exec (.ringCplHeadWrite a p n v) s
    = .next (s.after (s.dev.onRing n fun x => { x with consumed := BitVec.ofNat 32 (wbits v 0 32) })) := by
  refine runRingWrite_after hp hn hr (by decide) rfl ?_
  rw [Dev.writeRing, show (0x1000000 + 0x40 * n + 0x20) % 0x40 = 0x20 by omega]
  rfl

end

section
variable {s : State} {p n : Nat} (hp : p < s.dev.sliceCount)
include hp

theorem exec_ringDoorbell_away (h : s.dev.ringCount ≤ n ∨ s.dev.reached .host p = false) (v : Word) :
    exec (.ringDoorbell p n v) s = .next (s.after s.dev) := by
  obtain hr | hr := Bool.eq_false_or_eq_true (s.dev.reached .host p)
  · obtain h | h := h
    · exact runReg_after (fun _ => hp) hr (if_neg (Nat.not_lt.2 h))
    · exact absurd (h.symm.trans hr) Bool.false_ne_true
  · exact runReg_unreached (fun _ => hp) hr

theorem exec_ringDoorbell (hn : n < s.dev.ringCount) (hr : s.dev.reached .host p = true) (v : Word) :
    exec (.ringDoorbell p n v) s = .next (s.after (s.dev.doorbell p n (wbits v 0 32))) := by
  refine runReg_after (fun _ => hp) hr ((if_pos hn).trans ?_)
  have hle := s.dev.ringCount_le
  have hat : ringAt (0x2000000 + 0x1000 * n) = n := by
    rw [ringAt, if_neg (by omega)]
    omega
  have hm : s.dev.mapped (0x2000000 + 0x1000 * n) = true := by
    simp only [Dev.mapped, inRings, hat, Bool.or_eq_true, Bool.and_eq_true, decide_eq_true_eq]
    omega
  rw [Dev.writeAccess, Dev.writeSlot, hm, hat, word_setWidth]
  simp only [Bool.not_true, Bool.false_eq_true, if_false, decide_true, Bool.true_and, decide_eq_true_eq, beq_self_eq_true,
    Bool.and_true]
  rw [if_pos (by omega), if_neg (by omega), if_neg (by omega), if_neg (by omega), if_neg (by omega), if_neg (by omega),
    if_neg (by omega), if_pos (by omega)]

end

/-- A command of a ring that is not DISABLED acts on the package with the refused change reported. -/
theorem Dev.takeRingCtrl_busy {d : Dev} {n : Nat} (h : (d.ring n).state ≠ .disabled) (a : Agent) (p off : Nat) (v : Word) :
    d.takeRingCtrl a p off n v
      = if Machine.masked v ringFields = Machine.masked (d.ring n).ctrl ringFields then d else d.report a p off 6 := if_neg h

theorem Dev.takeRingCtrl_ring_busy {d : Dev} {n : Nat} (h : (d.ring n).state ≠ .disabled) (a : Agent) (p off : Nat) (v : Word) :
    (d.takeRingCtrl a p off n v).ring n = d.ring n := by
  rw [Dev.takeRingCtrl_busy h]
  split
  · rfl
  · rw [Dev.report_ring]

/-- A command of a DISABLED ring changes that ring alone, from the configuration written. -/
theorem ringCommand_idle {s : State} {i : Instr} {a : Agent} {p off n : Nat} {v : Word} {f : Ring → Ring}
    (h : exec i s = .next (s.after ((s.dev.takeRingCtrl a p off n v).onRing n f))) (hd : (s.dev.ring n).state = .disabled) :
    ∃ t, exec i s = .next t ∧ (t = s.after { s.dev with rings := t.dev.rings } ∧ ∀ k, k ≠ n → t.dev.ring k = s.dev.ring k)
      ∧ t.dev.ring n = f ((s.dev.ring n).configured v) := by
  rw [Dev.takeRingCtrl, if_pos hd] at h
  refine ⟨_, h, ⟨rfl, fun k hk => ?_⟩, ?_⟩
  · show ((Dev.onRing _ n f).ring k) = _
    rw [Dev.onRing_ring, if_neg hk, Dev.onRing_ring, if_neg hk]
  · show ((Dev.onRing _ n f).ring n) = _
    rw [Dev.onRing_same, Dev.onRing_same]

/-- Settles O42: RING_CTRL takes its fields or reports them, and then acts on its ring; the doorbell moves it or stops it. -/
theorem ringsConfigured : Obligations.RingsConfigured := by
  refine ⟨fun s a p n v hp h => ⟨?_, ?_, ?_, ?_, fun ha => ?_⟩, fun s a p n v hp hn hr => ⟨fun hs => ?_, fun hs hrun => ?_,
    fun hs => ?_, fun hs => ?_, fun hs => ?_, fun hs => ?_, fun hs => ?_, ?_, fun ha hs hport => ⟨fun hsize => ?_, fun hsize => ?_⟩,
    fun ha hs => ?_⟩⟩
  · exact runRingWrite_away hp h _ _
  · exact runRingWrite_away hp h _ _
  · exact runRingWrite_away hp h _ _
  · exact runRingWrite_away hp h _ _
  · subst ha
    exact exec_ringDoorbell_away (hp rfl) h v
  · rw [exec_ringEnable hp hn hr, ← Dev.takeRingCtrl_busy hs]
    rw [Dev.onRing_congr (g := fun x => x)]
    rw [Dev.takeRingCtrl_ring_busy hs, Ring.enableRing, if_neg (by simpa using hs)]
  · rw [exec_ringDisable hp hn hr, ← Dev.takeRingCtrl_busy hs]
    rw [Dev.onRing_congr (g := fun x => x)]
    rw [Dev.takeRingCtrl_ring_busy hs, Ring.disableRing, if_neg (by simpa using hrun)]
  · obtain ⟨t, ht, halone, hring⟩ := ringCommand_idle (exec_ringDisable hp hn hr v) hs
    refine ⟨t, ht, halone, hring.trans (if_neg ?_)⟩
    rw [show ((s.dev.ring n).configured v).state = _ from hs]
    decide
  · obtain ⟨t, ht, halone, hring⟩ := ringCommand_idle (exec_ringEnable hp hn hr v) hs
    refine ⟨t, ht, halone, hring.trans (if_pos ?_)⟩
    rw [show ((s.dev.ring n).configured v).state = _ from hs]
    rfl
  · exact ringCommand_idle (exec_ringReset hp hn hr v) hs
  · have hbusy : (s.dev.ring n).state ≠ .disabled := by rw [hs]; decide
    rw [exec_ringDisable hp hn hr, ← Dev.takeRingCtrl_busy hbusy]
    rw [Dev.onRing_congr (g := fun x => ({ x.abort with state := .draining, enable := false } : Ring).settle)]
    rw [Dev.takeRingCtrl_ring_busy hbusy, Ring.disableRing, if_pos (by rw [hs]; rfl)]
  · rw [exec_ringReset hp hn hr, ← Dev.takeRingCtrl_busy hs]
    rfl
  · exact exec_ringCplHeadWrite hp hn hr v
  · subst ha
    rw [exec_ringDoorbell (hp rfl) hn hr, Dev.doorbell, if_neg (by simp [hs, hport]), if_neg (Nat.not_lt.2 hsize)]
  · subst ha
    rw [exec_ringDoorbell (hp rfl) hn hr, Dev.doorbell, if_neg (by simp [hs, hport]), if_pos hsize]
  · subst ha
    rw [exec_ringDoorbell (hp rfl) hn hr, Dev.doorbell, if_pos]
    obtain hs | hs := hs
    · simp [hs]
    · simp [Ne.symm hs]
end Sys2Proof.Machine
end

section
/-!
SUPPORT. Descriptors as a ring fetches, checks and starts them (R419–R422).
-/
namespace Sys2Proof.Machine

open Sys2Proof

theorem runRing_after {s : State} {n : Nat} (hn : n < s.dev.ringCount) {f : Dev → Dev} {d : Dev} (h : f s.dev = d) :
    runRing n s f = .next (s.after d) := run_after s ((if_pos hn).trans h)

theorem runRing_away {s : State} {n : Nat} (hn : s.dev.ringCount ≤ n) {f : Dev → Dev} :
    runRing n s f = .next (s.after s.dev) := run_after s (if_neg (Nat.not_lt.2 hn))

/-! ### Fetching -/

/-- A descriptor as it is fetched into its slot, not yet started. -/
def Ring.fetchedDesc (r : Ring) (raw : BitVec 512) : Desc :=
  { slot := r.fetched.toNat % r.size, raw := raw, started := false, status := none, pending := 0, moved := 0
    dropped := 0, poisoned := 0, firstPoison := none, flush := none }

/-- The package after a ring has fetched its next descriptor. -/
def Dev.fetchDesc (d : Dev) (n : Nat) (raw : BitVec 512) : Dev :=
  ((d.fabric 64 (d.ring n).hostPort (n / 1024)).onRing n fun r => { r with
    fetched := r.fetched + 1, descs := r.descs ++ [(d.ring n).fetchedDesc raw] }).count (n / 1024) 112 1

theorem Dev.fabric_rings (d : Dev) (bytes src dst : Nat) : (d.fabric bytes src dst).rings = d.rings := by
  unfold Dev.fabric
  induction route d.sliceCount src dst generalizing d with
  | nil => rfl
  | cons hop hops ih => exact ih _

theorem Dev.fetchDesc_ring (d : Dev) (n : Nat) (raw : BitVec 512) :
    (d.fetchDesc n raw).ring n = { d.ring n with
      fetched := (d.ring n).fetched + 1, descs := (d.ring n).descs ++ [(d.ring n).fetchedDesc raw] } := by
  have hfab : (d.fabric 64 (d.ring n).hostPort (n / 1024)).ring n = d.ring n := by
    rw [Dev.ring, Dev.ring, Dev.fabric_rings]
  have hcount (e : Dev) (i : Nat) : (e.count i 112 1).ring n = e.ring n := rfl
  rw [Dev.fetchDesc, hcount, Dev.onRing_same, hfab]

/-- The fetch as a change of the ring in place: the fabric's bytes leave the ring alone. -/
theorem Dev.fetchDesc_eq (d : Dev) (n : Nat) (raw : BitVec 512) : d.fetchDesc n raw
    = ((d.fabric 64 (d.ring n).hostPort (n / 1024)).onRing n fun r => { r with
        fetched := r.fetched + 1, descs := r.descs ++ [r.fetchedDesc raw] }).count (n / 1024) 112 1 := by
  have hfab : (d.fabric 64 (d.ring n).hostPort (n / 1024)).ring n = d.ring n := by
    rw [Dev.ring, Dev.ring, Dev.fabric_rings]
  exact congrArg (fun e : Dev => e.count (n / 1024) 112 1) (Dev.onRing_congr (by rw [hfab]))

/-- Fetching one more neither makes room nor moves the descriptor in front. -/
theorem Ring.mayStart_fetched {r : Ring} (h : r.descs ≠ []) (raw : BitVec 512) (y : Desc) :
    ({ r with fetched := r.fetched + 1, descs := r.descs ++ [r.fetchedDesc raw] } : Ring).mayStart y = r.mayStart y := by
  obtain ⟨z, zs, hz⟩ := List.exists_cons_of_ne_nil h
  simp [Ring.mayStart, Ring.room, Ring.size, Ring.fetchedDesc, hz]
  rfl

/-! ### One command of a descriptor -/

/-- Starts the oldest descriptor that waits, when it is the one in the word and may start. -/
def Dev.startDesc (d : Dev) (n : Nat) (raw : BitVec 512) (host : HostData) : Dev :=
  match (d.ring n).descs.find? (!·.started) with
  | none => d
  | some x => if x.raw == raw && (d.ring n).mayStart x then d.runDesc n x host else d

theorem Dev.startDesc_of {d : Dev} {n : Nat} {x : Desc} (hx : (d.ring n).descs.find? (!·.started) = some x) (raw : BitVec 512)
    (host : HostData) :
    d.startDesc n raw host = if x.raw = raw ∧ (d.ring n).mayStart x = true then d.runDesc n x host else d := by
  simp [Dev.startDesc, hx]

theorem Dev.descriptor_other {d : Dev} {op n : Nat} {raw : BitVec 512} (host : HostData)
    (h : (d.ring n).state ≠ .running ∨ rawOpcode raw ≠ op ∧ 1 ≤ rawOpcode raw ∧ rawOpcode raw ≤ 7) :
    d.descriptor op n raw host = d := by
  refine if_pos ?_
  obtain h | ⟨h, h1, h7⟩ := h
  · simp [h]
  · simp [h, h1, h7]

theorem Dev.descriptor_idle {d : Dev} {n : Nat}
    (h : (d.ring n).state ≠ .running ∨ (d.ring n).descs = [] ∧ (d.ring n).posted = 0) (raw : BitVec 512) (host : HostData)
    (op : Nat) : d.descriptor op n raw host = d := by
  obtain h | ⟨hnone, hposted⟩ := h
  · exact Dev.descriptor_other host (.inl h)
  · simp [Dev.descriptor, hnone, hposted]

section
variable {d : Dev} {op n : Nat} {raw : BitVec 512} {host : HostData} (hrun : (d.ring n).state = .running)
  (hop : rawOpcode raw = op ∨ rawOpcode raw = 0 ∨ 7 < rawOpcode raw)
include hrun hop

theorem Dev.descriptor_runs : d.descriptor op n raw host
    = if ((d.ring n).descs.find? (!·.started)).any (fun x => x.raw == raw && (d.ring n).mayStart x) then d.startDesc n raw host
      else if (d.ring n).posted = 0 ∨ 16 ≤ ((d.ring n).descs.filter (!·.started)).length then d
      else if host.badFetch then d.stopRing n 9
      else (d.fetchDesc n raw).startDesc n raw host := by
  have hgo : ((d.ring n).state != .running || (rawOpcode raw != op && decide (1 ≤ rawOpcode raw) && decide (rawOpcode raw ≤ 7)))
      = false := by
    rw [hrun, Bool.or_eq_false_iff]
    refine ⟨rfl, ?_⟩
    obtain h | h | h := hop
    · simp [h]
    · simp [h]
    · simp [h]
  refine (if_neg (by rw [hgo]; decide)).trans ?_
  simp only [Bool.or_eq_true, decide_eq_true_eq]
  rfl

theorem Dev.descriptor_starts {y : Desc} (hy : (d.ring n).descs.find? (!·.started) = some y) (hraw : y.raw = raw)
    (hmay : (d.ring n).mayStart y = true) : d.descriptor op n raw host = d.runDesc n y host := by
  rw [Dev.descriptor_runs hrun hop, if_pos (by simp [hy, hraw, hmay]), Dev.startDesc_of hy, if_pos ⟨hraw, hmay⟩]

/-- With one descriptor posted more, a ring that may not start the one in front fetches ahead. -/
theorem Dev.descriptor_waits {y : Desc} (hy : (d.ring n).descs.find? (!·.started) = some y)
    (hmay : (d.ring n).mayStart y = false) : d.descriptor op n raw host
      = if (d.ring n).posted = 0 ∨ 16 ≤ ((d.ring n).descs.filter (!·.started)).length then d
        else if host.badFetch then d.stopRing n 9
        else d.fetchDesc n raw := by
  have hy' : ((d.fetchDesc n raw).ring n).descs.find? (!·.started) = some y := by
    rw [Dev.fetchDesc_ring, List.find?_append, hy]
    rfl
  have hmay' : ((d.fetchDesc n raw).ring n).mayStart y = false := by
    rw [Dev.fetchDesc_ring]
    exact (Ring.mayStart_fetched (List.ne_nil_of_mem (List.mem_of_find?_eq_some hy)) raw y).trans hmay
  rw [Dev.descriptor_runs hrun hop, hy, Dev.startDesc_of hy', hmay']
  simp only [Option.any_some, hmay, Bool.and_false, Bool.false_eq_true, if_false, and_false]

/-- A ring with none ahead fetches the descriptor that is posted and runs it. -/
theorem Dev.descriptor_first (hnone : (d.ring n).descs = []) (hposted : (d.ring n).posted ≠ 0) :
    d.descriptor op n raw host = if host.badFetch then d.stopRing n 9
      else (d.fetchDesc n raw).runDesc n ((d.ring n).fetchedDesc raw) host := by
  have hx : ((d.fetchDesc n raw).ring n).descs.find? (!·.started) = some ((d.ring n).fetchedDesc raw) := by
    rw [Dev.fetchDesc_ring, hnone]
    rfl
  have hmay : ((d.fetchDesc n raw).ring n).mayStart ((d.ring n).fetchedDesc raw) = true := by
    rw [Dev.fetchDesc_ring, hnone]
    simp [Ring.mayStart, Ring.fetchedDesc]
  have hwait : ¬((d.ring n).posted = 0 ∨ 16 ≤ (List.filter (fun z : Desc => !z.started) []).length) := by simp [hposted]
  rw [Dev.descriptor_runs hrun hop, hnone, Dev.startDesc_of hx, hmay, if_neg hwait]
  have hraw : ((d.ring n).fetchedDesc raw).raw = raw := rfl
  simp only [List.find?_nil, Option.any_none, Bool.false_eq_true, if_false, and_true, hraw, if_true]

end

/-! ### A check that ends a descriptor (R422) -/

/-- The checks look at the ring's binding, and at nothing else of the rings. -/
theorem Dev.descStatus_onDesc (d : Dev) (n slot : Nat) (f : Desc → Desc) (x : Desc) (host : HostData) :
    (d.onDesc n slot f).descStatus ((d.onDesc n slot f).ring n) x host = d.descStatus (d.ring n) x host := by
  rw [Dev.onDesc, Dev.onRing_same]
  rfl

theorem Dev.onDesc_descs (d : Dev) (n slot : Nat) (f : Desc → Desc) :
    ((d.onDesc n slot f).ring n).descs = updWhere (fun x => x.slot == slot) f (d.ring n).descs := by
  rw [Dev.onDesc, Dev.onRing_same]

/-- A descriptor that a check ends has started, carries the status, and is the ring's only one as before. -/
theorem Dev.runDesc_ended {d : Dev} {n st : Nat} {x : Desc} {host : HostData} (hst : d.descStatus (d.ring n) x host = some st)
    (hdescs : (d.ring n).descs = [x]) (hp : x.pending = 0) :
    ((d.runDesc n x host).ring n).descs = [{ x with started := true, status := some st }] := by
  have hend : ((((d.onDesc n x.slot fun y => { y with started := true }).descEnd n x.slot st)).ring n).descs
      = [{ x with started := true, status := some st }] := by
    rw [Dev.descEnd, Dev.onDesc_descs, Dev.onDesc_descs, hdescs]
    simp [updWhere, hp]
  have halarm (e : Dev) (i : Nat) : (((e.count i 132 1).alarm 3 (some i) 0).ring n).descs = (e.ring n).descs := by
    rw [Dev.ring, Dev.alarm_rings]
    rfl
  simp only [Dev.runDesc, Dev.descStatus_onDesc, hst]
  split
  · rw [halarm, hend]
  · exact hend

theorem Dev.descStatus_odd {d : Dev} {r : Ring} {x : Desc} {host : HostData} (h : rawOpcode x.raw = 0 ∨ 7 < rawOpcode x.raw) :
    d.descStatus r x host = some 2 := if_pos h

/-- Settles O43: the word's opcode picks the command, which starts what waits or fetches what is posted. -/
theorem descriptorsStarted : Obligations.DescriptorsStarted := by
  refine ⟨fun s n raw host h => ?_, fun s n raw host => ?_, fun s n k raw host y hn => ?_,
    fun s n raw host hn hrun hnone hposted => ?_⟩
  · have hd (op : Nat) : runRing n s (fun d => d.descriptor op n raw host) = .next (s.after s.dev) := by
      obtain hlt | hle := Nat.lt_or_ge n s.dev.ringCount
      · exact runRing_after hlt (Dev.descriptor_idle (h.resolve_left (Nat.not_le.2 hlt)) raw host op)
      · exact runRing_away hle
    exact ⟨hd 1, hd 2, hd 3, hd 4, hd 5, hd 6, hd 7⟩
  · intro op h1 h7
    have hd (k : Nat) (hk : op ≠ k) : runRing n s (fun d => d.descriptor k n raw host) = .next (s.after s.dev) := by
      obtain hlt | hle := Nat.lt_or_ge n s.dev.ringCount
      · exact runRing_after hlt (Dev.descriptor_other host (.inr ⟨hk, h1, h7⟩))
      · exact runRing_away hle
    exact ⟨hd 1, hd 2, hd 3, hd 4, hd 5, hd 6, hd 7⟩
  · intro r hrun hy runs hk
    have hruns {d : Dev} (h : ∀ op, rawOpcode raw = op → s.dev.descriptor op n raw host = d) : runs (s.after d) := by
      have hd (op : Nat) (hop : rawOpcode raw = op) : runRing n s (fun d => d.descriptor op n raw host) = .next (s.after d) :=
        runRing_after hn (h op hop)
      exact ⟨hd 1, hd 2, hd 3, hd 4, hd 5, hd 6, hd 7⟩
    have hwaits (hmay : (s.dev.ring n).mayStart y = false) (op : Nat) (hop : rawOpcode raw = op) :=
      Dev.descriptor_waits (host := host) hrun (.inl hop) hy hmay
    have hno (hp : (s.dev.ring n).posted ≠ 0) (h16 : k < 16) :
        ¬((s.dev.ring n).posted = 0 ∨ 16 ≤ ((s.dev.ring n).descs.filter fun z => !z.started).length) :=
      fun h => h.elim hp fun h => Nat.not_le.2 (hk ▸ h16) h
    refine ⟨fun hraw hmay => hruns fun op hop => Dev.descriptor_starts hrun (.inl hop) hy hraw hmay,
      fun hmay => ⟨fun h => hruns fun op hop => (hwaits hmay op hop).trans (if_pos (hk ▸ h)),
        fun hp h16 hbad => hruns fun op hop => ?_, fun hp h16 hbad => hruns fun op hop => ?_⟩⟩
    · rw [hwaits hmay op hop, if_neg (hno hp h16), if_pos hbad]
    · rw [hwaits hmay op hop, if_neg (hno hp h16), if_neg (by simp [hbad]), Dev.fetchDesc_eq]
      rfl
  · intro r op x d odd
    have hd {e : Dev} (h : (if host.badFetch = true then s.dev.stopRing n 9 else d.runDesc n x host) = e) (k : Nat)
        (hk : op = k ∨ odd) : runRing n s (fun d => d.descriptor k n raw host) = .next (s.after e) :=
      runRing_after hn ((Dev.descriptor_first hrun hk hnone hposted).trans h)
    have hdescs : (d.ring n).descs = [x] := by
      show ((s.dev.fetchDesc n raw).ring n).descs = [x]
      rw [Dev.fetchDesc_ring, hnone]
      rfl
    refine ⟨fun hbad => ?_, fun hbad => ?_⟩
    · intro t
      have hd := hd (if_neg (by simp [hbad]))
      exact ⟨hd 1, hd 2, hd 3, hd 4, hd 5, hd 6, hd 7, fun st hst => Dev.runDesc_ended hst hdescs rfl,
        fun hodd => Dev.runDesc_ended (Dev.descStatus_odd hodd) hdescs rfl⟩
    · intro t
      have hd := hd (if_pos hbad)
      exact ⟨hd 1, hd 2, hd 3, hd 4, hd 5, hd 6, hd 7⟩
end Sys2Proof.Machine
end

section
/-!
SUPPORT. How descriptors end, and the units of an INSTALL (R420, R421, R472).
-/
namespace Sys2Proof.Machine

open Sys2Proof

section
variable {s : State} {n slot : Nat} (hn : n < s.dev.ringCount)
include hn

/-! ### DESCRIPTOR_COMPLETE -/

theorem exec_descriptorComplete_idle
    (h : ∀ x, (s.dev.ring n).descs.find? (·.slot == slot) = some x → x.started = false ∨ x.status = none) :
    exec (.descriptorComplete n slot) s = .next (s.after s.dev) := by
  refine show execDescriptorComplete n slot s = _ from runRing_after hn ?_
  cases hx : (s.dev.ring n).descs.find? (·.slot == slot) with
  | none => simp only [hx]
  | some x =>
    cases hst : x.status with
    | none => simp only [hx, hst]
    | some st =>
      have hstart : x.started = false := (h x hx).resolve_right (by simp [hst])
      simp [hx, hst, hstart]

section
variable {st : Nat} {x : Desc} (hx : (s.dev.ring n).descs.find? (·.slot == slot) = some x) (hst : x.status = some st)
  (hstart : x.started = true)
include hx hst hstart

theorem exec_descriptorComplete_held (hroom : (s.dev.ring n).room = false) :
    exec (.descriptorComplete n slot) s = .next (s.after (s.dev.count (n / 1024) 119 1)) :=
  show execDescriptorComplete n slot s = _ from runRing_after hn (by simp only [hx, hst, hstart, hroom]; rfl)

theorem exec_descriptorComplete {e : Dev} (hroom : (s.dev.ring n).room = true)
    (he : ((((((s.dev.fabric 16 (n / 1024) (s.dev.ring n).hostPort).emit
        (.hostWrite (s.dev.ring n).hostPort
          ((s.dev.ring n).cplBase * 4096 + 16 * ((s.dev.ring n).written.toNat % (s.dev.ring n).size))
          (leBytes 4 (x.field 4 4)
            ++ [BitVec.ofNat 8 st, BitVec.ofNat 8 (b2n ((s.dev.ring n).written.toNat / (s.dev.ring n).size % 2 == 0))]
            ++ leBytes 2 x.slot ++ leBytes 8 x.result))).onRing n fun r =>
          ({ r with written := r.written + 1, descs := r.descs.filter (·.slot != slot) } : Ring).settle).count (n / 1024)
            (statusCounter st) 1).count (n / 1024) 117 (x.moved / 256))) = e) :
    exec (.descriptorComplete n slot) s = .next (s.after
      (if x.flag 0 && (s.dev.ring n).irqEnable then e.signals [((s.dev.ring n).hostPort, (s.dev.ring n).vector)] else e)) := by
  subst he
  exact show execDescriptorComplete n slot s = _ from runRing_after hn (by simp only [hx, hst, hstart, hroom]; rfl)

end

/-! ### DESCRIPTOR_FETCH_TIMEOUT -/

theorem exec_fetchTimeout :
    exec (.descriptorFetchTimeout n none) s = .next (s.after
      (if (s.dev.ring n).state = .running ∧ (s.dev.ring n).posted ≠ 0 then s.dev.stopRing n 0x0C else s.dev)) :=
  show execDescriptorFetchTimeout n none s = _ from runRing_after hn (by simp)

theorem exec_dataTimeout_idle
    (h : ∀ x, (s.dev.ring n).descs.find? (·.slot == slot) = some x → x.started = false ∨ x.status ≠ none) :
    exec (.descriptorFetchTimeout n (some slot)) s = .next (s.after s.dev) := by
  refine show execDescriptorFetchTimeout n (some slot) s = _ from runRing_after hn ?_
  cases hx : (s.dev.ring n).descs.find? (·.slot == slot) with
  | none => simp only [hx]
  | some x =>
    simp only [hx]
    refine if_neg ?_
    rw [Bool.and_eq_true, Option.isNone_iff_eq_none]
    rintro ⟨hstart, hst⟩
    exact (h x hx).elim (fun h => Bool.false_ne_true (h.symm.trans hstart)) (· hst)

theorem exec_dataTimeout {x : Desc} (hx : (s.dev.ring n).descs.find? (·.slot == slot) = some x) (hstart : x.started = true)
    (hst : x.status = none) :
    exec (.descriptorFetchTimeout n (some slot)) s = .next (s.after (s.dev.descEnd n slot 0x0C)) :=
  show execDescriptorFetchTimeout n (some slot) s = _ from runRing_after hn (by simp only [hx, hstart, hst]; rfl)

/-! ### INSTALL_UNIT_LOADED -/

theorem exec_installUnitLoaded_idle {unit : Nat} {data : List Byte}
    (h : ∀ x, (s.dev.ring n).descs.find? (·.slot == slot) = some x →
      x.field 0 2 ≠ 2 ∨ x.started = false ∨ x.status ≠ none ∨ x.units.contains unit = false) :
    exec (.installUnitLoaded n slot unit data) s = .next (s.after s.dev) := by
  refine show execInstallUnitLoaded n slot unit data s = _ from runRing_after hn ?_
  cases hx : (s.dev.ring n).descs.find? (·.slot == slot) with
  | none => rfl
  | some x =>
    refine if_pos ?_
    obtain h | h | h | h := h x hx
    · simp [h]
    · simp [h]
    · simp [Option.isSome_iff_ne_none.2 h]
    · rw [h]
      simp

section
variable {unit : Nat} {data : List Byte} {x : Desc} {offsets : List Nat} {d : Dev}
  (hx : (s.dev.ring n).descs.find? (·.slot == slot) = some x) (hop : x.field 0 2 = 2) (hstart : x.started = true)
  (hst : x.status = none) (hunit : x.units.contains unit = true)
  (hoffsets : (((List.range (x.len / 64)).map fun k => 64 * k).filter fun o => (x.src + o) / unitBytes == unit) = offsets)
  (hd : s.dev.countPkg 31 (data.length / 256) = d)
include hx hop hstart hst hunit hoffsets hd

theorem exec_installUnitLoaded_good (hdigest : bytesAt (s.dev.cart.tableOf (x.field 36 1)) (48 * unit) 48 = sha384 data) :
    exec (.installUnitLoaded n slot unit data) s = .next (s.after (offsets.foldl (fun d o =>
      (d.descMoved n slot 64).descWrite n x (x.dst + o)
        (some (decryptSector (s.dev.titleKey (x.field 32 1)) unit data (x.src + o))) (some (x.field 32 1))) d)) := by
  subst hoffsets hd
  refine show execInstallUnitLoaded n slot unit data s = _ from runRing_after hn ?_
  simp only [hx, hop, hstart, hst, hunit, hdigest, beq_self_eq_true, if_true]
  rfl

theorem exec_installUnitLoaded_bad (hdigest : bytesAt (s.dev.cart.tableOf (x.field 36 1)) (48 * unit) 48 ≠ sha384 data) :
    exec (.installUnitLoaded n slot unit data) s = .next (s.after (offsets.foldl (fun d o =>
      (d.descMoved n slot 64).descWrite n x (x.dst + o) none (some (x.field 32 1)))
      (((d.countPkg 30 1).event 0x0604 0xFF 2 0xFF ([BitVec.ofNat 8 (x.field 36 1), 0, 0, 0] ++ leBytes 4 unit)).onDesc n slot
        fun x => { x with poisoned := x.poisoned + offsets.length }))) := by
  subst hoffsets hd
  refine show execInstallUnitLoaded n slot unit data s = _ from runRing_after hn ?_
  simp only [hx, hop, hstart, hst, hunit, beq_eq_false_iff_ne.2 hdigest]
  rfl

end

end

/-- Settles O44: each command acts on the descriptor in its slot, in the state that it ends. -/
theorem descriptorsEnded : Obligations.DescriptorsEnded := by
  refine ⟨fun s n hle => ⟨fun slot => ?_, fun slot => ?_, fun slot unit data => ?_⟩, fun s n hn => ⟨fun slot st x hx hst hstart =>
      ⟨fun hroom => exec_descriptorComplete hn hx hst hstart hroom rfl, exec_descriptorComplete_held hn hx hst hstart⟩,
    fun slot h => exec_descriptorComplete_idle hn h, fun h => ?_, fun slot h => exec_dataTimeout_idle hn h,
    fun slot unit data h => exec_installUnitLoaded_idle hn h, fun hrun hposted => ?_,
    fun slot x hx hstart hst => exec_dataTimeout hn hx hstart hst, fun slot unit data x hx hop hstart hst hunit => ⟨
      exec_installUnitLoaded_good hn hx hop hstart hst hunit rfl rfl,
      exec_installUnitLoaded_bad hn hx hop hstart hst hunit rfl rfl⟩⟩⟩
  · exact show execDescriptorComplete n slot s = _ from runRing_away hle
  · exact show execDescriptorFetchTimeout n slot s = _ from runRing_away hle
  · exact show execInstallUnitLoaded n slot unit data s = _ from runRing_away hle
  · rw [exec_fetchTimeout hn, if_neg]
    rintro ⟨hrun, hposted⟩
    exact h.elim (· hrun) hposted
  · rw [exec_fetchTimeout hn, if_pos ⟨hrun, hposted⟩]
end Sys2Proof.Machine
end

section
/-!
SUPPORT. Flushes and what they wait for, and the units of the stream (R273, R365, R366, R472).
-/
namespace Sys2Proof.Machine

open Sys2Proof

/-- A property that each step of a fold keeps holds at its end. -/
theorem foldl_invariant {α β : Type} {P : β → Prop} {f : β → α → β} (h : ∀ b a, P b → P (f b a)) (l : List α) {b : β} (hb : P b) :
    P (l.foldl f b) := by
  induction l generalizing b with
  | nil => exact hb
  | cons a l ih => exact ih (h b a hb)

/-- A list reads as the default at and above its length. -/
theorem getD_of_length_le {α : Type} {l : List α} {i : Nat} {x : α} (h : l.length ≤ i) : l.getD i x = x := by
  rw [List.getD_eq_getElem?_getD, List.getElem?_eq_none h, Option.getD_none]

/-! ### What a flush covers -/

/-- One slice of a flush's start: what the slice becomes, and the frames and entries that the flush waits for in it. -/
def coverStep (p : Nat → Nat → Bool) (acc : Dev × List (Nat × Nat) × List (Nat × Nat)) (i : Nat) :
    Dev × List (Nat × Nat) × List (Nat × Nat) :=
  let c := (acc.1.slice i).cover acc.1.fuses.dram4 acc.1.round i (p i)
  (acc.1.onSlice i fun _ => c.1, acc.2.1 ++ c.2.1, acc.2.2 ++ c.2.2)

/-- The first `k` slices of a flush's start. -/
def Dev.covered (d : Dev) (p : Nat → Nat → Bool) (k : Nat) : Dev × List (Nat × Nat) × List (Nat × Nat) :=
  (List.range k).foldl (coverStep p) (d, [], [])

theorem Dev.startFlush_eq (d : Dev) (host : Option Nat) (desc : Option (Nat × Nat)) (p : Nat → Nat → Bool) :
    d.startFlush host desc p = (d.nextFlush, { (d.covered p d.sliceCount).1 with
      nextFlush := d.nextFlush + 1
      flushes := (d.covered p d.sliceCount).1.flushes
        ++ [⟨d.nextFlush, host, desc, (d.covered p d.sliceCount).2.1, (d.covered p d.sliceCount).2.2⟩] }) := rfl

theorem Dev.covered_succ (d : Dev) (p : Nat → Nat → Bool) (k : Nat) : d.covered p (k + 1) = coverStep p (d.covered p k) k := by
  rw [Dev.covered, List.range_succ, List.foldl_append]
  rfl

theorem Dev.covered_flushes (d : Dev) (p : Nat → Nat → Bool) (k : Nat) : (d.covered p k).1.flushes = d.flushes :=
  foldl_invariant (P := fun acc : Dev × List (Nat × Nat) × List (Nat × Nat) => acc.1.flushes = d.flushes)
    (f := coverStep p) (fun _ _ h => h) _ rfl

theorem Dev.covered_part (d : Dev) (p : Nat → Nat → Bool) (k : Nat) : (d.covered p k).1.part = d.part :=
  foldl_invariant (P := fun acc : Dev × List (Nat × Nat) × List (Nat × Nat) => acc.1.part = d.part)
    (f := coverStep p) (fun _ _ h => h) _ rfl

/-- What a flush must wait for in slice `i`: every frame with dirty data outside a fold, with an overflow line or with a fold
in flight, and the newest journal entry that is not durable. -/
def Slice.Awaited (x : Slice) (i : Nat) (frames entries : List (Nat × Nat)) : Prop :=
  (∀ lfn, ((∃ e, e ∈ x.basin.entries ∧ e.lfn = lfn ∧ e.dirty &&& ~~~ e.folding ≠ 0)
      ∨ (∃ l, l ∈ x.basin.overflow ∧ l.frame = lfn)
      ∨ ∃ w, w ∈ x.flow.rewrites ∧ w.fold = true ∧ w.done = false ∧ w.lfn = lfn) → (i, lfn) ∈ frames)
  ∧ (x.journal.durable < x.journal.next → (i, x.journal.next - 1) ∈ entries)

theorem Slice.Awaited.append {x : Slice} {i : Nat} {frames entries : List (Nat × Nat)} (h : x.Awaited i frames entries)
    (fs es : List (Nat × Nat)) : x.Awaited i (frames ++ fs) (entries ++ es) := by
  obtain ⟨hframes, hentries⟩ := h
  exact ⟨fun lfn hl => List.mem_append_left _ (hframes lfn hl), fun hj => List.mem_append_left _ (hentries hj)⟩

theorem Slice.awaited_empty (i : Nat) (frames entries : List (Nat × Nat)) : ({} : Slice).Awaited i frames entries := by
  refine ⟨?_, fun h => absurd h (by decide)⟩
  rintro lfn (⟨e, he, -⟩ | ⟨l, hl, -⟩ | ⟨w, hw, -⟩)
  · cases he
  · cases hl
  · cases hw

/-- Covering a slice names all of it. -/
theorem Slice.cover_awaited (x : Slice) (dram4 : Bool) (round i : Nat) :
    ((x.cover dram4 round i fun _ => true).1).Awaited i (x.cover dram4 round i fun _ => true).2.1
      (x.cover dram4 round i fun _ => true).2.2 := by
  refine ⟨?_, fun h => ?_⟩
  · rintro lfn (⟨e, he, rfl, hd⟩ | ⟨l, hl, rfl⟩ | ⟨w, hw, hf, hn, rfl⟩)
    · exact List.mem_append_left _ (List.mem_append_right _ (List.mem_map.2 ⟨e, List.mem_filter.2 ⟨he, by simpa using hd⟩, rfl⟩))
    · exact List.mem_append_right _ (List.mem_map.2 ⟨l, List.mem_filter.2 ⟨List.mem_append_left _ (List.mem_append_left _ hl), rfl⟩, rfl⟩)
    · exact List.mem_append_left _ (List.mem_append_left _ (List.mem_map.2 ⟨w, List.mem_filter.2 ⟨hw, by simp [hf, hn]⟩, rfl⟩))
  · have hentries : (x.cover dram4 round i fun _ => true).2.2 = _ := if_pos h
    rw [hentries]
    exact List.mem_singleton_self _

theorem Dev.covered_awaited (d : Dev) (k : Nat) : ∀ i, i < k →
    ((d.covered (fun _ _ => true) k).1.slice i).Awaited i (d.covered (fun _ _ => true) k).2.1
      (d.covered (fun _ _ => true) k).2.2 := by
  induction k with
  | zero => exact fun i hi => absurd hi (Nat.not_lt_zero i)
  | succ k ih =>
    intro i hi
    rw [Dev.covered_succ]
    generalize hacc : d.covered (fun _ _ => true) k = acc at ih ⊢
    have hslice : (coverStep (fun _ _ => true) acc k).1.slice i
        = if k = i ∧ i < acc.1.slices.length then ((acc.1.slice k).cover acc.1.fuses.dram4 acc.1.round k fun _ => true).1
          else acc.1.slice i := Dev.onSlice_slice _ _ _ _
    rw [hslice]
    split
    next h =>
      rw [← h.1]
      obtain ⟨hframes, hentries⟩ := (acc.1.slice k).cover_awaited acc.1.fuses.dram4 acc.1.round k
      exact ⟨fun lfn hl => List.mem_append_right _ (hframes lfn hl), fun hj => List.mem_append_right _ (hentries hj)⟩
    next h =>
      obtain hlt | rfl := Nat.lt_or_eq_of_le (Nat.lt_succ_iff.1 hi)
      · exact (ih i hlt).append _ _
      · have hout : acc.1.slice i = {} := getD_of_length_le (Nat.not_lt.1 fun hlen => h ⟨rfl, hlen⟩)
        rw [hout]
        exact Slice.awaited_empty _ _ _

/-! ### The end of a flush -/

theorem Dev.onRing_titles_dbg (d : Dev) (l : List (Nat × Ring)) (f : Ring → Ring) :
    (l.foldl (fun d e => d.onRing e.1 f) d).titles = d.titles ∧ (l.foldl (fun d e => d.onRing e.1 f) d).dbg = d.dbg :=
  foldl_invariant (P := fun e : Dev => e.titles = d.titles ∧ e.dbg = d.dbg) (f := fun d e => d.onRing e.1 f)
    (fun _ _ h => h) l ⟨rfl, rfl⟩

theorem Dev.shutTitle_dbg (d : Dev) (t : Nat) : (d.shutTitle t).dbg = d.dbg := (d.onRing_titles_dbg _ _).2

/-- A title once shut is not open. -/
theorem Dev.shutTitle_title (d : Dev) (t k : Nat) (h : t = k ∨ (d.title k).state ≠ .opened) :
    ((d.shutTitle t).title k).state ≠ .opened := by
  have htitles : ((d.shutTitle t)).titles
      = upd d.titles t fun x => if x.state == .opened then { x with state := .installed } else x :=
    congrArg (upd · t _) (d.onRing_titles_dbg _ _).1
  rw [Dev.title, htitles, getD_upd]
  split
  · split
    · exact TitleState.noConfusion
    next hs => simpa using hs
  next hk =>
    obtain rfl | h := h
    · have hout : d.titles.getD t {} = {} := getD_of_length_le (Nat.not_lt.1 fun hlen => hk ⟨rfl, hlen⟩)
      rw [hout]
      decide
    · exact h

theorem Dev.queueTrims_titles_dbg (d : Dev) (base size : Nat) (ack : Option Ack) :
    (d.queueTrims base size ack).1.titles = d.titles ∧ (d.queueTrims base size ack).1.dbg = d.dbg := by
  refine foldl_invariant (P := fun acc : Dev × Nat => acc.1.titles = d.titles ∧ acc.1.dbg = d.dbg) (fun acc i h => ?_) _ ⟨rfl, rfl⟩
  dsimp only
  split
  · exact h
  · exact h

theorem Dev.trimTitle_titles_dbg (d : Dev) (t : Nat) :
    (d.trimTitle t).1.titles = d.titles ∧ (d.trimTitle t).1.dbg = d.dbg := by
  refine foldl_invariant (P := fun acc : Dev × Nat => acc.1.titles = d.titles ∧ acc.1.dbg = d.dbg) (fun acc r h => ?_) _ ⟨rfl, rfl⟩
  obtain ⟨ht, hg⟩ := Dev.queueTrims_titles_dbg acc.1 r.1 r.2 (some (.title t))
  exact ⟨ht.trans h.1, hg.trans h.2⟩

/-- Going on with a title command keeps the debug state, and opens no title. -/
theorem Dev.titleFlushed_keeps (d : Dev) (w : Waiter) : (d.titleFlushed w).dbg = d.dbg
    ∧ ∀ k, (d.title k).state ≠ .opened → ((d.titleFlushed w).title k).state ≠ .opened := by
  cases hw : w.what with
  | flush id t delete =>
    have hshut (k : Nat) (h : (d.title k).state ≠ .opened) := d.shutTitle_title t k (.inr h)
    simp only [Dev.titleFlushed, hw]
    split
    · obtain ⟨ht, hg⟩ := (d.shutTitle t).trimTitle_titles_dbg t
      refine ⟨hg.trans (d.shutTitle_dbg t), fun k h => ?_⟩
      rw [Dev.title]
      exact ht ▸ hshut k h
    · refine ⟨(Dev.respond_dbg _ _ _ _ _ _ _).trans (d.shutTitle_dbg t), fun k h => ?_⟩
      rw [Dev.title, Dev.respond_titles]
      exact hshut k h
  | maint => simp [Dev.titleFlushed, hw]
  | cacheOff ss disc => simp [Dev.titleFlushed, hw]
  | trims t n => simp [Dev.titleFlushed, hw]
  | cartOff => simp [Dev.titleFlushed, hw]
  | swap => simp [Dev.titleFlushed, hw]
  | firmware t => simp [Dev.titleFlushed, hw]

theorem foldl_shutTitle_dbg (d : Dev) (l : List (Nat × Nat)) : (l.foldl (fun d e => d.shutTitle e.2) d).dbg = d.dbg :=
  foldl_keeps Dev.dbg _ (fun d e => d.shutTitle_dbg e.2) l d

/-- No title of the list is open once all of them are shut. -/
theorem foldl_shutTitle_title (d : Dev) (l : List (Nat × Nat)) (k : Nat)
    (h : (∃ x, x ∈ l ∧ x.2 = k) ∨ (d.title k).state ≠ .opened) :
    ((l.foldl (fun d e => d.shutTitle e.2) d).title k).state ≠ .opened := by
  induction l generalizing d with
  | nil => exact h.resolve_left (by rintro ⟨x, hx, -⟩; cases hx)
  | cons y l ih =>
    refine ih _ ?_
    obtain ⟨x, hx, hk⟩ | h := h
    · obtain rfl | hx := List.mem_cons.1 hx
      · exact .inr (d.shutTitle_title x.2 k (.inl hk))
      · exact .inl ⟨x, hx, hk⟩
    · exact .inr (d.shutTitle_title y.2 k (.inr h))

/-- With the last title that an accepted token waits for, debug is unlocked. -/
theorem Dev.closedForDebug_unlocks {d : Dev} {n : Nat} {scope : BitVec 8} (hg : d.dbg.granted = some scope)
    (hc : ∀ x, x ∈ d.dbg.closing → x.1 = n) :
    (d.closedForDebug n).dbg = { d.dbg with closing := [], unlocked := true, scope := scope, granted := none }
    ∧ ∀ x, x ∈ d.dbg.closing → ((d.closedForDebug n).title x.2).state ≠ .opened := by
  have hall : d.dbg.closing.filter (·.1 == n) = d.dbg.closing := List.filter_eq_self.2 fun x hx => by simp [hc x hx]
  have hnone : d.dbg.closing.filter (fun x => !(x.1 == n)) = [] := List.filter_eq_nil_iff.2 fun x hx => by simp [hc x hx]
  have hend : d.closedForDebug n
      = ({ d.dbg.closing.foldl (fun d e => d.shutTitle e.2) d with
          dbg := { d.dbg with closing := [], unlocked := true, scope := scope, granted := none } } : Dev).countPkg 10 1 := by
    have hdbg := foldl_shutTitle_dbg d d.dbg.closing
    simp only [Dev.closedForDebug, List.partition_eq_filter_filter, Function.comp_def, hall, hnone, hdbg, hg, List.isEmpty_nil,
      if_true]
  rw [hend]
  exact ⟨rfl, fun x hx => foldl_shutTitle_title d _ x.2 (.inl ⟨x, hx, rfl⟩)⟩

/-- The package as a completed flush leaves it before the title commands that wait go on. -/
def Dev.endFlush (d : Dev) (f : Flush) : Dev :=
  let a := { d with flushes := d.flushes.filter (·.id != f.id) }
  let b := match f.host with
    | some p => a.emit (.flushDone p f.id)
    | none => a
  let c := match f.desc with
    | some (r, n) => b.descPart r n
    | none => b
  c.closedForDebug f.id

/-- Whether a command of a title waits for this flush. -/
def Waiter.forFlush (n : Nat) (w : Waiter) : Bool :=
  match w.what with
  | .flush id _ _ => id == n
  | _ => false

section
variable {s : State} {f : Flush} (hf : s.dev.flushes.find? (·.id == f.id) = some f)
include hf

theorem exec_flushComplete_early (hr : s.dev.flushReady f = false) :
    exec (.flushComplete f.id) s = .next (s.after s.dev) :=
  show execFlushComplete f.id s = _ from run_after s (by simp [hf, hr])

theorem exec_flushComplete (hr : s.dev.flushReady f = true) :
    exec (.flushComplete f.id) s = .next (s.after
      (((s.dev.endFlush f).waiters.filter (Waiter.forFlush f.id)).foldl Dev.titleFlushed (s.dev.endFlush f))) := by
  refine show execFlushComplete f.id s = _ from run_after s ?_
  simp only [hf, hr]
  rfl

end

/-- What a flush does before the debug port's titles close leaves the debug state. -/
theorem Dev.endFlush_unlocks {d : Dev} {f : Flush} {scope : BitVec 8} (hg : d.dbg.granted = some scope)
    (hc : ∀ x, x ∈ d.dbg.closing → x.1 = f.id) :
    (d.endFlush f).dbg = { d.dbg with closing := [], unlocked := true, scope := scope, granted := none }
    ∧ ∀ x, x ∈ d.dbg.closing → ((d.endFlush f).title x.2).state ≠ .opened := by
  obtain ⟨id, host, desc, frames, entries⟩ := f
  cases host <;> cases desc
  all_goals exact Dev.closedForDebug_unlocks hg hc

theorem foldl_titleFlushed_dbg (d : Dev) (l : List Waiter) : (l.foldl Dev.titleFlushed d).dbg = d.dbg :=
  foldl_keeps Dev.dbg _ (fun d w => (d.titleFlushed_keeps w).1) l d

theorem foldl_titleFlushed_title (d : Dev) (l : List Waiter) (k : Nat) (h : (d.title k).state ≠ .opened) :
    ((l.foldl Dev.titleFlushed d).title k).state ≠ .opened :=
  foldl_invariant (P := fun e : Dev => (e.title k).state ≠ .opened) (fun e w he => (e.titleFlushed_keeps w).2 k he) l h

/-! ### The commands of the family -/

theorem exec_globalPersistentFlush {s : State} {p : Nat} (hp : p < s.dev.sliceCount) (hport : s.dev.portServes p = true)
    (hservice : s.dev.mode.isService = true) :
    exec (.globalPersistentFlush p) s = .next (s.after ((List.range s.dev.sliceCount).foldl (fun d i => d.count i 46 1)
      (s.dev.startFlush (some p) none fun _ _ => true).2)) := by
  have hunits : (s.dev.startFlush (some p) none fun _ _ => true).2.sliceCount = s.dev.sliceCount := by
    have hpart := s.dev.covered_part (fun _ _ => true) s.dev.sliceCount
    rw [Dev.startFlush_eq]
    exact congrArg Part.slices hpart
  refine show execGlobalPersistentFlush p s = _ from runPort_after hp ((if_pos (by simp [hport, hservice])).trans ?_)
  simp only [hunits]

section
variable {s : State} {entry unit : Nat} {data : List Byte} {mine : List StreamWait} {c : Cart}
  (hmine : s.dev.cart.streamWaits.filter (s.dev.waitsFor entry unit) = mine)
include hmine

theorem exec_streamUnitLoaded_idle (hm : mine = []) :
    exec (.streamUnitLoaded entry unit data) s = .next (s.after s.dev) := by
  subst hm
  exact show execStreamUnitLoaded entry unit data s = _ from run_after s (if_pos (by rw [hmine]; rfl))

variable (hm : mine ≠ []) (hc : { s.dev.cart with streamWaits := s.dev.cart.streamWaits.filter fun w => !mine.contains w } = c)
include hm hc

theorem exec_streamUnitLoaded_good (hdigest : bytesAt (s.dev.cart.tableOf entry) (48 * unit) 48 = sha384 data) :
    exec (.streamUnitLoaded entry unit data) s = .next (s.after (mine.foldl
      (Dev.serveStreamed unit (s.dev.cart.contentLength entry) data)
      { ({ s.dev with cart := c } : Dev).countPkg 31 (data.length / 256) with
        cart := { c with stream := (if 128 ≤ c.stream.length then c.stream.tail else c.stream) ++ [(entry, unit, data)] } })) := by
  subst hc hmine
  refine show execStreamUnitLoaded entry unit data s = _ from run_after s ((if_neg (by simpa using hm)).trans ?_)
  exact if_pos (beq_iff_eq.2 hdigest)

theorem exec_streamUnitLoaded_bad (hdigest : bytesAt (s.dev.cart.tableOf entry) (48 * unit) 48 ≠ sha384 data) :
    exec (.streamUnitLoaded entry unit data) s = .next (s.after (mine.foldl
      (fun d w => d.answerRead w.port w.tag (d.waitClass w) none)
      (((({ s.dev with cart := c } : Dev).countPkg 31 (data.length / 256)).countPkg 30 1).event 0x0604 0xFF 1 0xFF
        ([BitVec.ofNat 8 entry, 0, 0, 0] ++ leBytes 4 unit)))) := by
  subst hc hmine
  refine show execStreamUnitLoaded entry unit data s = _ from run_after s ((if_neg (by simpa using hm)).trans ?_)
  exact if_neg (by rwa [beq_iff_eq])

end

/-- Settles O46: a flush names all that it waits for, its end goes on with what waits, and a unit serves the reads that wait. -/
theorem flushesAndStreams : Obligations.FlushesAndStreams := by
  intro s
  refine ⟨fun p hp hport hservice => ?_, fun p hp h => ?_, fun n hn => ?_, fun f hf => ?_, fun entry unit data => ?_⟩
  · refine ⟨exec_globalPersistentFlush hp hport hservice, ⟨s.dev.nextFlush, some p, none,
        (s.dev.covered (fun _ _ => true) s.dev.sliceCount).2.1, (s.dev.covered (fun _ _ => true) s.dev.sliceCount).2.2⟩,
      ?_, rfl, rfl, rfl, fun i hi => s.dev.covered_awaited _ i hi⟩
    rw [Dev.startFlush_eq, Dev.covered_flushes]
  · refine show execGlobalPersistentFlush p s = _ from runPort_after hp (if_neg ?_)
    obtain h | h := h <;> simp [h]
  · exact show execFlushComplete n s = _ from run_after s (by simp only [hn])
  · refine ⟨exec_flushComplete_early hf, exec_flushComplete hf, fun scope hr hg hc => ⟨_, exec_flushComplete hf hr, ?_⟩⟩
    obtain ⟨hdbg, htitles⟩ := Dev.endFlush_unlocks (d := s.dev) (f := f) hg hc
    have hend : ((((s.dev.endFlush f).waiters.filter (Waiter.forFlush f.id)).foldl Dev.titleFlushed (s.dev.endFlush f))).dbg
        = { s.dev.dbg with closing := [], unlocked := true, scope := scope, granted := none } :=
      (foldl_titleFlushed_dbg _ _).trans hdbg
    refine ⟨congrArg Debug.unlocked hend, congrArg Debug.scope hend, congrArg Debug.granted hend, fun x hx => ?_⟩
    exact (foldl_titleFlushed_title _ _ x.2 (htitles x hx))
  · refine ⟨fun hm => ?_, fun hm hdigest => ?_, fun hm hdigest => ?_⟩
    · exact exec_streamUnitLoaded_idle rfl hm
    · exact exec_streamUnitLoaded_good rfl hm rfl hdigest
    · exact exec_streamUnitLoaded_bad rfl hm rfl hdigest
end Sys2Proof.Machine
end

section
/-!
SUPPORT. The medium's completions (R45–R47, R60–R65, R74–R76, R142, R247).
-/
namespace Sys2Proof.Machine

open Sys2Proof

theorem runSlice_after {s : State} {i : Nat} (hi : i < s.dev.sliceCount) {f : Dev → Dev} {d : Dev} (h : f s.dev = d) :
    runSlice i s f = .next (s.after d) := by rw [runSlice_eq hi, h, State.after]

/-- A field of a slice that a change of one slice leaves alone. -/
theorem Dev.onSlice_field {α : Type} {g : Slice → α} (d : Dev) (i k : Nat) {f : Slice → Slice} (h : ∀ x, g (f x) = g x) :
    g ((d.onSlice i f).slice k) = g (d.slice k) := by
  rw [Dev.onSlice_slice]
  split
  · exact h _
  · rfl

theorem Dev.onSlice_self {d : Dev} {i : Nat} (hi : i < d.slices.length) (f : Slice → Slice) :
    (d.onSlice i f).slice i = f (d.slice i) := by
  rw [Dev.onSlice_slice, if_pos ⟨rfl, hi⟩]

theorem upd_congr {α : Type} {l : List α} {i : Nat} {f g : α → α} {x : α} (h : f (l.getD i x) = g (l.getD i x)) :
    upd l i f = upd l i g := by
  refine List.ext_getElem? fun k => ?_
  rw [upd, upd, List.getElem?_modify, List.getElem?_modify]
  by_cases hk : i = k
  · subst hk
    rw [List.getD_eq_getElem?_getD] at h
    cases hx : l[i]? with
    | none => rfl
    | some y => simpa [hx] using h
  · simp [hk]

theorem Dev.onSlice_congr {d : Dev} {i : Nat} {f g : Slice → Slice} (h : f (d.slice i) = g (d.slice i)) :
    d.onSlice i f = d.onSlice i g := by
  rw [Dev.onSlice, Dev.onSlice, upd_congr h]

/-- A change that leaves the slice as it is changes nothing. -/
theorem Dev.onSlice_unchanged {d : Dev} {i : Nat} {f : Slice → Slice} (h : f (d.slice i) = d.slice i) : d.onSlice i f = d := by
  rw [Dev.onSlice_congr (g := id) h, Dev.onSlice, upd, List.modify_id]

/-! ### What fails keeps the time -/

theorem Dev.recountFormable_clock (d : Dev) (i : Nat) : (d.recountFormable i).clock = d.clock := by
  simp only [Dev.recountFormable]
  split <;> rfl

theorem Dev.contractExceeded_clock (d : Dev) (i reason cls : Nat) : (d.contractExceeded i reason cls).clock = d.clock := by
  rw [Dev.contractExceeded]
  split
  · rfl
  · exact Dev.event_clock _ _ _ _ _ _

theorem Dev.retireReach_clock (d : Dev) (i r reason : Nat) : (d.retireReach i r reason).clock = d.clock := by
  simp only [Dev.retireReach]
  split
  · rfl
  · split
    · split
      · rw [Dev.recountFormable_clock, Dev.event_clock, Dev.onSlice_clock]
      · rfl
    · rw [Dev.recountFormable_clock, Dev.contractExceeded_clock, Dev.event_clock, Dev.onSlice_clock, Dev.onSlice_clock]

theorem Dev.retireBank_clock (d : Dev) (i bank reason : Nat) : (d.retireBank i bank reason).clock = d.clock := by
  simp only [Dev.retireBank]
  split
  · rfl
  · split
    · rw [Dev.retireReach_clock, Dev.recountFormable_clock, Dev.event_clock]
      rfl
    · rw [Dev.recountFormable_clock, Dev.event_clock]
      rfl

theorem Dev.bankFault_clock (d : Dev) (i bank : Nat) (program : Bool) : (d.bankFault i bank program).clock = d.clock := by
  have hbank (e : Dev) (c : Prop) [Decidable c] (reason : Nat) (he : e.clock = d.clock) :
      (if c then e.retireBank i bank reason else e).clock = d.clock := by
    split
    · rw [Dev.retireBank_clock, he]
    · exact he
  exact hbank _ _ _ rfl

theorem Dev.retireBlock_clock (d : Dev) (i : Nat) (c : Clear) (reason : Nat) : (d.retireBlock i c reason).clock = d.clock := by
  simp only [Dev.retireBlock]
  split
  · split
    · split
      · rfl
      · rw [Dev.event_clock, Dev.onSlice_clock]
    · rfl
  · split
    · rfl
    · rw [Dev.recountFormable_clock, Dev.event_clock, Dev.onSlice_clock]

/-! ### Reads (R60–R65) -/

section
variable {s : State} {i n : Nat} (hi : i < s.dev.sliceCount)
include hi

theorem exec_pageReadComplete_none (h : (s.dev.slice i).flow.flights.find? (·.id == n) = none) (errors : List Nat) :
    exec (.pageReadComplete i n errors) s = .next (s.after s.dev) :=
  show execPageReadComplete i n errors s = _ from runSlice_after hi (by simp only [h])

variable {f : Flight} (h : (s.dev.slice i).flow.flights.find? (·.id == n) = some f) {errors : List Nat}
include h

theorem exec_pageReadComplete {d : Dev} (hd : s.dev.endRead i f errors = d) :
    exec (.pageReadComplete i n errors) s = .next (s.after (d.settleMedium i)) :=
  show execPageReadComplete i n errors s = _ from runSlice_after hi (by simp only [h, hd])

end

/-- The package with a read taken out of flight. -/
def Dev.landed (d : Dev) (i : Nat) (f : Flight) : Dev :=
  d.onSlice i fun x => { x with flow := { x.flow with
    flights := x.flow.flights.filter (·.id != f.id)
    queue := x.flow.queue.filter fun q => !f.kept.contains q
    tow := x.flow.tow.filter fun q => !f.kept.contains q } }

theorem Dev.endRead_eq (d : Dev) (i : Nat) (f : Flight) (errors : List Nat) : d.endRead i f errors =
    match decodeClass ((d.slice i).transferred f) errors, (d.slice i).transferred f with
    | .clean, some (.page p) => (d.landed i f).goodRead i f.req f.cls p 0
    | .corrected n, some (.page p) => (d.landed i f).goodRead i f.req f.cls p n
    | .uncorrectable, _ => (d.landed i f).badRead i f.req
    | .cleared, _ => (d.landed i f).voidRead i f.req 2
    | _, _ => (d.landed i f).voidRead i f.req 1 := rfl

section
variable {d : Dev} {i : Nat} {f : Flight} {errors : List Nat}

theorem Dev.endRead_clean {p : Page} (h : decodeClass ((d.slice i).transferred f) errors = .clean)
    (hp : (d.slice i).transferred f = some (.page p)) : d.endRead i f errors = (d.landed i f).goodRead i f.req f.cls p 0 := by
  rw [Dev.endRead_eq, h, hp]

theorem Dev.endRead_corrected {p : Page} {n : Nat} (h : decodeClass ((d.slice i).transferred f) errors = .corrected n)
    (hp : (d.slice i).transferred f = some (.page p)) : d.endRead i f errors = (d.landed i f).goodRead i f.req f.cls p n := by
  rw [Dev.endRead_eq, h, hp]

theorem Dev.endRead_uncorrectable (h : decodeClass ((d.slice i).transferred f) errors = .uncorrectable) :
    d.endRead i f errors = (d.landed i f).badRead i f.req := by
  rw [Dev.endRead_eq, h]

theorem Dev.endRead_cleared (h : decodeClass ((d.slice i).transferred f) errors = .cleared) :
    d.endRead i f errors = (d.landed i f).voidRead i f.req 2 := by
  rw [Dev.endRead_eq, h]

theorem Dev.endRead_torn (h : decodeClass ((d.slice i).transferred f) errors = .torn) :
    d.endRead i f errors = (d.landed i f).voidRead i f.req 1 := by
  rw [Dev.endRead_eq, h]

end

/-! ### Programs (R45, R46) -/

section
variable {s : State} {i r g b : Nat} (hi : i < s.dev.sliceCount)
include hi

theorem exec_programComplete_none
    (h : (s.dev.slice i).flow.chambers.find? (fun c => c.programming && c.reach == r && c.group == g && c.bank == b) = none)
    (pass : Bool) : exec (.programComplete i r g b pass) s = .next (s.after s.dev) :=
  show execProgramComplete i r g b pass s = _ from runSlice_after hi (by simp only [h])

/-- A program ends at the bank that the command names. -/
theorem exec_programComplete {c : Chamber} {pass : Bool} {d : Dev}
    (h : (s.dev.slice i).flow.chambers.find? (fun c => c.programming && c.reach == r && c.group == g && c.bank == b) = some c)
    (hd : c.reach = r → c.group = g → c.bank = b → s.dev.endProgram i c pass = d) :
    exec (.programComplete i r g b pass) s = .next (s.after (d.settleMedium i)) := by
  have hc := List.find?_some h
  simp only [Bool.and_eq_true, beq_iff_eq] at hc
  obtain ⟨⟨⟨-, hr⟩, hg⟩, hb⟩ := hc
  exact show execProgramComplete i r g b pass s = _ from runSlice_after hi (by simp only [h, hd hr hg hb])

/-! ### Clears (R47) -/

theorem exec_clearSegment_none
    (h : (s.dev.slice i).flow.clears.find? (fun c => c.running && c.reach == r && c.group == g && c.bank == b) = none)
    (pass : Bool) : exec (.clearSegmentComplete i r g b pass) s = .next (s.after s.dev) :=
  show execClearSegmentComplete i r g b pass s = _ from runSlice_after hi (by simp only [h])

theorem exec_clearSegment {c : Clear} {pass : Bool} {d : Dev}
    (h : (s.dev.slice i).flow.clears.find? (fun c => c.running && c.reach == r && c.group == g && c.bank == b) = some c)
    (hd : c.reach = r → c.group = g → c.bank = b → s.dev.endSegment i c pass = d) :
    exec (.clearSegmentComplete i r g b pass) s = .next (s.after (d.settleMedium i)) := by
  have hc := List.find?_some h
  simp only [Bool.and_eq_true, beq_iff_eq] at hc
  obtain ⟨⟨⟨-, hr⟩, hg⟩, hb⟩ := hc
  exact show execClearSegmentComplete i r g b pass s = _ from runSlice_after hi (by simp only [h, hd hr hg hb])

end

/-- The package with a block retired where its wear calls for it. -/
def Dev.worn (d : Dev) (i : Nat) (c : Clear) : Dev := if 500000 ≤ (d.slice i).clearWear c then d.retireBlock i c 1 else d

theorem Dev.worn_clock (d : Dev) (i : Nat) (c : Clear) : (d.worn i c).clock = d.clock := by
  rw [Dev.worn]
  split
  · exact Dev.retireBlock_clock _ _ _ _
  · rfl

/-- The end of a clear's last segment. -/
def Dev.clearEnded (d : Dev) (i : Nat) (c : Clear) (round : Nat) : Dev :=
  ((d.onSlice i fun x => x.leaveRoot c round).onSlice i fun x =>
    ((if c.lent = true ∨ c.root.isSome = true then x else x.finishClearing c.slot).adjustPools).releaseDonors).finishReach i

/-- The package without a clear that has ended. -/
def Dev.withoutClear (d : Dev) (i : Nat) (c : Clear) : Dev :=
  d.onSlice i fun x => { x with flow := { x.flow with clears := x.flow.clears.erase c } }

theorem Dev.endSegment_more {d : Dev} {i : Nat} {c : Clear} (h : 2 ≤ c.left) : d.endSegment i c true
    = (d.onSlice i fun x => { x with flow := { x.flow with
        clears := updWhere (· == c) (fun (c : Clear) => { c with running := false, left := c.left - 1 }) x.flow.clears } }).onSlice i
      fun x => x.leaveRoot c d.round := by
  have hlast : ((!true) || decide (c.left ≤ 1)) = false := by simp; omega
  simp only [Dev.endSegment, hlast]
  rfl

theorem Dev.endSegment_last {d : Dev} {i : Nat} {c : Clear} {pass : Bool} (h : pass = true → c.left ≤ 1) : d.endSegment i c pass
    = (((if pass then d.withoutClear i c else (((d.withoutClear i c).count i 71 1).retireBlock i c 2).bankFault i
        (bankNo c.reach c.group c.bank) true).worn i c).clearEnded i c d.round) := by
  have hlast : (!pass || decide (c.left ≤ 1)) = true := by
    cases pass with
    | false => rfl
    | true => simpa using h rfl
  have hround : ((if pass then d.withoutClear i c else (((d.withoutClear i c).count i 71 1).retireBlock i c 2).bankFault i
        (bankNo c.reach c.group c.bank) true).worn i c).round = d.round := by
    rw [Dev.round, Dev.worn_clock]
    split
    · rfl
    · rw [Dev.bankFault_clock, Dev.retireBlock_clock]
      rfl
  rw [← hround]
  simp only [Dev.endSegment, hlast, if_true, Bool.true_and, Bool.or_eq_true, decide_eq_true_eq]
  rfl

/-! ### Durable writes (R142) -/

section
variable {s : State} {i : Nat} (hi : i < s.dev.sliceCount)
include hi

theorem exec_durableWriteComplete_none {n : Nat} (h : (s.dev.slice i).flow.durables.find? (·.id == n) = none) :
    exec (.durableWriteComplete i n) s = .next (s.after s.dev) :=
  show execDurableWriteComplete i n s = _ from runSlice_after hi (by simp only [h])

variable {w : Durable} (h : (s.dev.slice i).flow.durables.find? (·.id == w.id) = some w)
include h

theorem exec_durableWriteComplete_early
    (hw : (s.dev.slice i).journal.durable ≤ w.entry ∨ (s.dev.slice i).behind w = true) :
    exec (.durableWriteComplete i w.id) s = .next (s.after s.dev) := by
  refine show execDurableWriteComplete i w.id s = _ from runSlice_after hi ?_
  simp only [h]
  exact if_pos (by simpa using hw)

theorem exec_durableWriteComplete (hentry : w.entry < (s.dev.slice i).journal.durable)
    (hbehind : (s.dev.slice i).behind w = false) :
    exec (.durableWriteComplete i w.id) s = .next (s.after
      ((match ((s.dev.slice i).lateClasses s.dev.now w).find? (s.dev.hasDurableBound i) with
        | some c => (s.dev.onSlice i fun x =>
            { x with flow := { x.flow with durables := x.flow.durables.filter (·.id != w.id) } }).contractExceeded i 4 c
        | none => s.dev.onSlice i fun x =>
            { x with flow := { x.flow with durables := x.flow.durables.filter (·.id != w.id) } }).acks w.acks)) := by
  refine show execDurableWriteComplete i w.id s = _ from runSlice_after hi ?_
  simp only [h]
  refine (if_neg (by simp [hentry, hbehind])).trans ?_
  have hbound : (s.dev.onSlice i fun x =>
      { x with flow := { x.flow with durables := x.flow.durables.filter (·.id != w.id) } }).hasDurableBound i
        = s.dev.hasDurableBound i := by
    have hsource : ((s.dev.onSlice i fun x =>
        { x with flow := { x.flow with durables := x.flow.durables.filter (·.id != w.id) } }).slice i).source
          = (s.dev.slice i).source := Dev.onSlice_field (g := Slice.source) _ _ _ fun _ => rfl
    have hrec : ((s.dev.onSlice i fun x =>
        { x with flow := { x.flow with durables := x.flow.durables.filter (·.id != w.id) } }).slice i).inRecovery
          = (s.dev.slice i).inRecovery := Dev.onSlice_field (g := Slice.inRecovery) _ _ _ fun _ => rfl
    funext c
    simp only [Dev.hasDurableBound, Dev.declaresDurable, hsource, hrec]
    rfl
  rw [hbound]
  rfl

end

/-! ### Verify (R247) -/

theorem Slice.onSlot_slot (x : Slice) (k : Nat) (f : Slot → Slot) : (x.onSlot k f).slot k = f (x.slot k) := by
  have hslot (y : Slice) : y.slot k = (sget? y.slots k).getD {} := rfl
  rw [hslot (x.onSlot k f)]
  by_cases h : f (x.slot k) = {}
  · have hdel : (x.onSlot k f).slots = sdel x.slots k := if_pos h
    rw [hdel, sget?_sdel, if_pos rfl, h]
    rfl
  · have hset : (x.onSlot k f).slots = sset x.slots k (f (x.slot k)) := if_neg h
    rw [hset, sget?_sset, if_pos rfl]
    rfl

theorem Slice.log_slots (x : Slice) (e : JEntry) : (x.log e).slots = x.slots := by
  refine foldl_invariant (P := fun y : Slice => y.slots = x.slots) (fun y u hy => ?_) _ rfl
  split
  · exact hy
  · split
    · exact hy
    · exact hy

theorem Slice.returnParity_slots (x : Slice) (k age : Nat) : (x.returnParity k age).slots = x.slots :=
  foldl_invariant (P := fun y : Slice => y.slots = x.slots) (f := fun y l => y.log (.parity l false))
    (fun y l hy => (y.log_slots _).trans hy) _ rfl

theorem Slice.applyReports_slots (x : Slice) (k : Nat) : (x.applyReports k).slots = x.slots := by
  have hqueue (y : Slice) : (y.queueReported k).slots = y.slots := by
    rw [Slice.queueReported]
    split <;> rfl
  refine (hqueue _).trans (foldl_invariant (P := fun y : Slice => y.slots = x.slots) (fun y pos hy => ?_) _ rfl)
  split
  · rw [Slice.queueFrame]
    split
    · exact hy
    · exact hy
  · exact hy

/-- A slot whose verify pass has ended. -/
def Slice.verifyDone (x : Slice) (k : Nat) : Bool :=
  (x.slot k).state == .closed && x.upkeep.verifyQ.contains k && x.verifyEnded k && x.marksCommitted k

/-- The slice with that slot VERIFIED. -/
def Slice.verified (x : Slice) (k round : Nat) : Slice :=
  let y := ((x.onSlot k fun e => { e with state := .verified }).log
    (.state k .verified (x.slot k).writePos)).returnParity k round
  ({ y with upkeep := { y.upkeep with
      verifyQ := y.upkeep.verifyQ.filter (· != k)
      verifyCur := y.upkeep.verifyCur.filter fun e => e.1 / 64 != k
      marked := y.upkeep.marked.filter (·.1 != k) } } : Slice).applyReports k

theorem Slice.verified_slot (x : Slice) (k round : Nat) : ((x.verified k round).slot k).state = .verified := by
  have hslots : (x.verified k round).slots = (x.onSlot k fun e => { e with state := .verified }).slots :=
    (Slice.applyReports_slots _ k).trans ((Slice.returnParity_slots _ k round).trans (Slice.log_slots _ _))
  rw [Slice.slot, hslots]
  exact congrArg Slot.state (x.onSlot_slot k fun e => { e with state := .verified })

section
variable {s : State} {i k : Nat} (hi : i < s.dev.sliceCount)
include hi

theorem exec_verifyComplete : exec (.verifyComplete i k) s
    = .next (s.after (s.dev.onSlice i fun x => if x.verifyDone k then x.verified k s.dev.round else x)) :=
  show execVerifyComplete i k s = _ from runSlice_after hi rfl

theorem exec_verifyComplete_done (hk : (s.dev.slice i).verifyDone k = true) : exec (.verifyComplete i k) s
    = .next (s.after (s.dev.onSlice i fun x => x.verified k s.dev.round)) := by
  have hdone : (s.dev.onSlice i fun x => if x.verifyDone k then x.verified k s.dev.round else x)
      = s.dev.onSlice i fun x => x.verified k s.dev.round := Dev.onSlice_congr (if_pos hk)
  rw [exec_verifyComplete hi, hdone]

theorem exec_verifyComplete_early (hk : (s.dev.slice i).verifyDone k = false) :
    exec (.verifyComplete i k) s = .next (s.after s.dev) := by
  have hsame : (s.dev.onSlice i fun x => if x.verifyDone k then x.verified k s.dev.round else x) = s.dev :=
    Dev.onSlice_unchanged (if_neg (by simp [hk]))
  rw [exec_verifyComplete hi, hsame]

end

/-- A slice with a slot that has ended its pass is one of the part. -/
theorem Dev.slice_of_verifyDone {d : Dev} {i k : Nat} (hk : (d.slice i).verifyDone k = true) : i < d.slices.length := by
  refine Nat.not_le.1 fun hlen => ?_
  have hout : d.slice i = {} := getD_of_length_le hlen
  rw [hout] at hk
  have hidle : ({} : Slice).verifyDone k = false := rfl
  exact Bool.false_ne_true (hidle.symm.trans hk)

/-- Settles O47: each completion finds what it ends, and the outcome picks the effect. -/
theorem mediaCompletions : Obligations.MediaCompletions := by
  refine ⟨fun s i n hi => ⟨exec_pageReadComplete_none hi, fun f errors hf => ?_⟩, fun s i hi => ⟨fun r g b =>
    ⟨exec_programComplete_none hi, fun c hc => ?_⟩, fun r g b => ⟨exec_clearSegment_none hi, fun c hc => ?_⟩,
    fun n => exec_durableWriteComplete_none hi, fun w hw => ?_, fun k hclosed hq hend hmarks => ?_, fun k h => ?_⟩⟩
  · have hends := fun {d : Dev} (hd : s.dev.endRead i f errors = d) => exec_pageReadComplete hi hf hd
    refine ⟨fun p hp => ⟨fun hclass => hends ?_, fun k hclass => hends ?_⟩, fun hclass => ?_, fun hclass => hends ?_,
      fun hclass => hends ?_⟩
    · exact Dev.endRead_clean hclass hp
    · exact Dev.endRead_corrected hclass hp
    · refine ⟨fun hq => hends ?_, fun hq ha => hends ?_, fun hq ha => hends ?_⟩ <;> rw [Dev.endRead_uncorrectable hclass, Dev.badRead]
      · rw [if_pos hq]
        rfl
      · rw [if_neg (by simp [hq]), if_pos ha]
        rfl
      · rw [if_neg (by simp [hq]), if_neg (Nat.not_lt.2 ha)]
        rfl
    · exact Dev.endRead_cleared hclass
    · exact Dev.endRead_torn hclass
  · refine ⟨fun hslot => ⟨exec_programComplete hi hc fun hr hg hb => ?_, exec_programComplete hi hc fun hr hg hb => ?_⟩,
      fun hslot => ⟨exec_programComplete hi hc fun hr hg hb => ?_, exec_programComplete hi hc fun hr hg hb => ?_⟩⟩
    · exact (if_neg (Nat.not_le.2 hslot)).trans (if_pos rfl)
    · subst hr hg hb
      exact (if_neg (Nat.not_le.2 hslot)).trans (if_neg Bool.false_ne_true)
    · exact (if_pos hslot).trans (if_pos rfl)
    · subst hr hg hb
      exact (if_pos hslot).trans (if_neg Bool.false_ne_true)
  · refine ⟨fun hleft => exec_clearSegment hi hc fun _ _ _ => Dev.endSegment_more hleft, fun hleft =>
      exec_clearSegment hi hc fun _ _ _ => Dev.endSegment_last fun _ => hleft, exec_clearSegment hi hc fun hr hg hb => ?_⟩
    subst hr hg hb
    exact Dev.endSegment_last fun h => absurd h Bool.false_ne_true
  · refine ⟨exec_durableWriteComplete_early hi hw, fun hentry hbehind => ⟨fun hlate => ?_, fun k hlate => ?_⟩⟩
    · have hlate' : ((s.dev.slice i).lateClasses s.dev.now w).find? (s.dev.hasDurableBound i) = none := hlate
      rw [exec_durableWriteComplete hi hw hentry hbehind, hlate']
    · have hlate' : ((s.dev.slice i).lateClasses s.dev.now w).find? (s.dev.hasDurableBound i) = some k := hlate
      rw [exec_durableWriteComplete hi hw hentry hbehind, hlate']
  · have hk : (s.dev.slice i).verifyDone k = true := by simp [Slice.verifyDone, hclosed, hend, hmarks, List.contains_iff_mem.1 hq]
    refine ⟨exec_verifyComplete_done hi hk, _, exec_verifyComplete_done hi hk, ?_⟩
    show (((s.dev.onSlice i fun x => x.verified k s.dev.round).slice i).slot k).state = .verified
    rw [Dev.onSlice_self (Dev.slice_of_verifyDone hk)]
    exact Slice.verified_slot _ _ _
  · refine exec_verifyComplete_early hi ?_
    rw [Slice.verifyDone]
    obtain h | h | h | h := h
    · rw [beq_eq_false_iff_ne.2 h]
      rfl
    · rw [h, Bool.and_false]
      rfl
    · rw [h, Bool.and_false]
      rfl
    · rw [h, Bool.and_false]
end Sys2Proof.Machine
end

section
/-!
SUPPORT. Trims, sources, checkpoint copies, the tail of the journal and DRY (R211, R212, R218, R223, R225, R236, R244).
-/
namespace Sys2Proof.Machine

open Sys2Proof

/-- A command that changes one slice by a function of that slice. -/
theorem runSlice_change {s : State} {i : Nat} (hi : i < s.dev.sliceCount) {f g : Slice → Slice}
    (h : f (s.dev.slice i) = g (s.dev.slice i)) :
    runSlice i s (fun d => d.onSlice i f) = .next (s.after (s.dev.onSlice i g)) :=
  runSlice_after hi (Dev.onSlice_congr h)

theorem runSlice_unchanged {s : State} {i : Nat} (hi : i < s.dev.sliceCount) {f : Slice → Slice}
    (h : f (s.dev.slice i) = s.dev.slice i) : runSlice i s (fun d => d.onSlice i f) = .next (s.after s.dev) :=
  runSlice_after hi (Dev.onSlice_unchanged h)

section
variable {s : State} {i : Nat} (hi : i < s.dev.sliceCount)
include hi

/-! ### TRIM (R211) -/

theorem exec_trim_none (h : (s.dev.slice i).flow.trims.find? (fun t => !(s.dev.slice i).trimWaits t) = none) :
    exec (.trim i) s = .next (s.after s.dev) :=
  show execTrim i s = _ from runSlice_after hi (by simp only [h])

theorem exec_trim {t : TrimReq} (h : (s.dev.slice i).flow.trims.find? (fun t => !(s.dev.slice i).trimWaits t) = some t) :
    exec (.trim i) s = .next (s.after (match t.ack with
      | some a => if s.dev.trimDurable i t then (s.dev.onSlice i fun x => x.trimNow t).onSlice i fun y =>
          y.owe (s.dev.slice i).journal.next t.first 6 [a] else (s.dev.onSlice i fun x => x.trimNow t).ack a
      | none => s.dev.onSlice i fun x => x.trimNow t)) :=
  show execTrim i s = _ from runSlice_after hi (by simp only [h] <;> rfl)

/-! ### Sources (R212, R236) -/

theorem exec_sourceInvalidate {k : Nat} (h : ((s.dev.slice i).slot k).state = .closed ∨ ((s.dev.slice i).slot k).state = .verified)
    (hsource : (s.dev.slice i).isSource k = true) (hvalid : ((s.dev.slice i).slot k).valid = 0)
    (hmoving : (s.dev.slice i).moving k = false) :
    exec (.sourceInvalidate i k) s = .next (s.after (((s.dev.onSlice i fun x =>
      let x := x.startClearing k s.dev.round
      { x with upkeep := { x.upkeep with
        victim := x.upkeep.victim.filter (· != k)
        staticVictim := x.upkeep.staticVictim.filter (· != k)
        refreshQ := x.upkeep.refreshQ.filter (· != k)
        refreshFirst := x.upkeep.refreshFirst.filter (· != k)
        refreshReported := x.upkeep.refreshReported.filter (· != k)
        marked := x.upkeep.marked.filter (·.1 != k) } }).finishReach i).checkPreserve)) :=
  show execSourceInvalidate i k s = _ from runSlice_after hi (if_pos (by
    have hstate : (((s.dev.slice i).slot k).state == .closed || ((s.dev.slice i).slot k).state == .verified) = true := by
      simpa using h
    rw [hstate, hsource, hvalid, hmoving]
    rfl))

theorem exec_sourceInvalidate_early {k : Nat}
    (h : ((s.dev.slice i).slot k).state ≠ .closed ∧ ((s.dev.slice i).slot k).state ≠ .verified
      ∨ (s.dev.slice i).isSource k = false ∨ ((s.dev.slice i).slot k).valid ≠ 0 ∨ (s.dev.slice i).moving k = true) :
    exec (.sourceInvalidate i k) s = .next (s.after s.dev) := by
  refine show execSourceInvalidate i k s = _ from runSlice_after hi (if_neg ?_)
  simp only [Bool.and_eq_true, Bool.or_eq_true, beq_iff_eq, Bool.not_eq_true']
  rintro ⟨⟨⟨hstate, hsource⟩, hvalid⟩, hmoving⟩
  obtain ⟨hclosed, hverified⟩ | h | h | h := h
  · exact hstate.elim hclosed hverified
  · exact Bool.false_ne_true (h.symm.trans hsource)
  · exact h hvalid
  · exact Bool.false_ne_true (hmoving.symm.trans h)

theorem exec_sourceClearStart {k : Nat} (hstate : ((s.dev.slice i).slot k).state = .clearing)
    (hentry : ((s.dev.slice i).slot k).clearEntry < (s.dev.slice i).journal.durable) (hreads : (s.dev.slice i).readsHold k = false) :
    exec (.sourceClearStart i k) s = .next (s.after (s.dev.onSlice i fun x => { x with flow := { x.flow with
      clears := updWhere (fun (c : Clear) => c.slot == k && !c.lent) (fun c => { c with ready := true }) x.flow.clears } })) :=
  show execSourceClearStart i k s = _ from runSlice_change hi (if_pos (by simp [hstate, hentry, hreads]))

theorem exec_sourceClearStart_early {k : Nat}
    (h : ((s.dev.slice i).slot k).state ≠ .clearing
      ∨ (s.dev.slice i).journal.durable ≤ ((s.dev.slice i).slot k).clearEntry ∨ (s.dev.slice i).readsHold k = true) :
    exec (.sourceClearStart i k) s = .next (s.after s.dev) := by
  refine show execSourceClearStart i k s = _ from runSlice_unchanged hi (if_neg ?_)
  simp only [Bool.and_eq_true, beq_iff_eq, decide_eq_true_eq, Bool.not_eq_true']
  rintro ⟨⟨hstate, hentry⟩, hreads⟩
  obtain h | h | h := h
  · exact h hstate
  · exact absurd hentry (Nat.not_lt.2 h)
  · exact Bool.false_ne_true (hreads.symm.trans h)

/-! ### The tail of the journal (R223, R225) -/

theorem exec_tailAdvance {k : Nat} (hk : (s.dev.slice i).tailSlot = some k) (hon : s.dev.clock.on = true)
    (hbefore : (s.dev.slice i).sys.chain.takeWhile (· != k) ≠ []) (hroot : (s.dev.slice i).sys.rootWrite = none) :
    exec (.tailAdvance i) s = .next (s.after (s.dev.onSlice i fun x =>
      x.writeRoot false (x.sys.chain.takeWhile (· != k)) s.dev.round)) := by
  refine show execTailAdvance i s = _ from runSlice_after hi (Dev.onSlice_congr ?_)
  simp only [hk, hon, hroot, List.isEmpty_eq_false_iff.2 hbefore]
  rfl

theorem exec_tailAdvance_early (h : s.dev.clock.on = false ∨ (s.dev.slice i).sys.rootWrite ≠ none
      ∨ ∀ k, (s.dev.slice i).tailSlot = some k → (s.dev.slice i).sys.chain.takeWhile (· != k) = []) :
    exec (.tailAdvance i) s = .next (s.after s.dev) := by
  refine show execTailAdvance i s = _ from runSlice_after hi (Dev.onSlice_unchanged ?_)
  cases hk : (s.dev.slice i).tailSlot with
  | none => rfl
  | some k =>
    refine if_pos ?_
    obtain h | h | h := h
    · rw [h, Bool.not_false, Bool.or_true, Bool.true_or]
    · rw [Option.isSome_iff_ne_none.2 h, Bool.or_true]
    · rw [h k hk]
      rfl

end

theorem Slice.rootPassed_some {x : Slice} {w : RootWrite} (h : x.sys.rootWrite = some w) (round : Nat) :
    x.rootPassed round = w.drop.foldl (fun y k => y.startClearing k round) { x with sys := { x.sys with
      root := some w.record, rootWrite := none, rootHold := false
      chain := x.sys.chain.filter fun k => !w.drop.contains k
      pages := x.sys.pages.filter fun p => !p.slot.any w.drop.contains } } := by
  rw [Slice.rootPassed, h]

/-- Settles O48: each command acts where its condition holds, and else leaves the package as it is. -/
theorem upkeepAdvanced : Obligations.UpkeepAdvanced := by
  intro s i hi
  refine ⟨exec_trim_none hi, fun t ht => ⟨fun ha => ?_, fun a ha hd => ?_, fun a ha hd => ?_⟩,
    fun k h hs hv hm => exec_sourceInvalidate hi h hs hv hm, fun k h => exec_sourceInvalidate_early hi h,
    fun k h he hr => exec_sourceClearStart hi h he hr, fun k h => exec_sourceClearStart_early hi h, fun segment c hc => ?_,
    fun hc => ?_, fun k hk hon hbefore hroot => ?_, fun w round hw => Slice.rootPassed_some hw round, fun h => ?_,
    fun hdry hrounds => ?_, fun h => ?_⟩
  · rw [exec_trim hi ht, ha]
  · rw [exec_trim hi ht, ha]
    simp only [hd, Bool.false_eq_true, if_false]
  · rw [exec_trim hi ht, ha]
    simp only [hd, if_true]
  · exact show execCheckpointCopyTaken i s = _ from runSlice_change hi (by simp only [hc])
  · exact show execCheckpointCopyTaken i s = _ from runSlice_unchanged hi (by simp only [hc])
  · exact exec_tailAdvance hi hk hon hbefore hroot
  · exact exec_tailAdvance_early hi h
  · exact show execDryTimeout i s = _ from runSlice_after hi (if_pos (by simp [hdry, hrounds]))
  · refine show execDryTimeout i s = _ from runSlice_after hi (if_neg ?_)
    obtain h | h := h <;> simp [h]
end Sys2Proof.Machine
end

section
/-!
SUPPORT. The ends of cache clearing, of a drain and of a range operation (R272, R284, R286–R288).
-/
namespace Sys2Proof.Machine

open Sys2Proof

/-! ### Clearing -/

section
variable {s : State} {i : Nat} (hi : i < s.dev.sliceCount)
include hi

theorem exec_cacheClearingDone (h : (s.dev.slice i).cache.state = .invalidating) :
    exec (.cacheClearingDone i) s = .next (s.after
      (((s.dev.slice i).flow.heldReads.foldl (fun d r => d.serveRead r.port r.tag r.dpa r.cls ⟨false, false⟩)
        (s.dev.onSlice i fun x =>
          { x with cache := { x.cache with state := .on }, flow := { x.flow with heldReads := [] } })).retryWrites i)) :=
  show execCacheClearingDone i s = _ from runSlice_after hi (if_neg (by simp [h]))

theorem exec_cacheClearingDone_idle (h : (s.dev.slice i).cache.state ≠ .invalidating) :
    exec (.cacheClearingDone i) s = .next (s.after s.dev) :=
  show execCacheClearingDone i s = _ from runSlice_after hi (if_pos (by simpa using h))

end

/-! ### Draining (R288) -/

/-- The slice with every dirty line offered to the basin. -/
def Dev.cleaned (d : Dev) (i : Nat) : Slice := (d.slice i).drain d.fuses.dram4 d.round fun _ => true

/-- The slice with its cache OFF and every way cleared. -/
def Slice.cacheOff (x : Slice) : Slice :=
  ({ x with cache := { x.cache.clear .off with enableAtTick := false, discarding := false } } : Slice).count 137 1

/-- The package with the cache of a slice OFF, and what a discard dropped recorded. -/
def Dev.cacheDrained (d : Dev) (i : Nat) : Dev :=
  if (d.slice i).cache.discarding then
    (d.onSlice i fun _ => (d.cleaned i).cacheOff).event 0x0301 i 0 0xFF (p6 (d.slice i).cache.discarded)
  else d.onSlice i fun _ => (d.cleaned i).cacheOff

section
variable {s : State} {i : Nat} (hi : i < s.dev.sliceCount)
include hi

theorem exec_cacheDrainDone (h : (s.dev.slice i).cache.state = .draining)
    (hclean : (s.dev.cleaned i).cache.lines.all (·.dirty == 0) = true) :
    exec (.cacheDrainDone i) s = .next (s.after (s.dev.cacheDrained i).answerCacheOff) := by
  refine show execCacheDrainDone i s = _ from runSlice_after hi ((if_pos ?_).trans rfl)
  rw [Bool.and_eq_true, beq_iff_eq]
  exact ⟨h, hclean⟩

theorem exec_cacheDrainDone_early
    (h : (s.dev.slice i).cache.state ≠ .draining ∨ (s.dev.cleaned i).cache.lines.all (·.dirty == 0) = false) :
    exec (.cacheDrainDone i) s = .next (s.after s.dev) := by
  refine show execCacheDrainDone i s = _ from runSlice_after hi (if_neg ?_)
  rw [Bool.and_eq_true, beq_iff_eq]
  rintro ⟨hstate, hclean⟩
  exact h.elim (· hstate) fun h => Bool.false_ne_true (h.symm.trans hclean)

end

/-- Answering the commands that wait changes no slice, no active group and no title. -/
theorem Dev.answerCacheOff_frame (d : Dev) :
    d.answerCacheOff.slices = d.slices ∧ d.answerCacheOff.active = d.active ∧ d.answerCacheOff.titles = d.titles := by
  refine foldl_invariant (P := fun e : Dev => e.slices = d.slices ∧ e.active = d.active ∧ e.titles = d.titles)
    (fun e w he => ?_) d.waiters ⟨rfl, rfl, rfl⟩
  split
  · split
    · rw [Dev.respond_slices, Dev.respond_active, Dev.respond_titles]
      exact he
    · exact he
  · exact he

theorem Dev.cacheDrained_frame (d : Dev) (i : Nat) :
    (d.cacheDrained i).slices = (d.onSlice i fun _ => (d.cleaned i).cacheOff).slices
    ∧ (d.cacheDrained i).active = d.active ∧ (d.cacheDrained i).titles = d.titles := by
  unfold Dev.cacheDrained
  split
  · rw [Dev.event_slices, Dev.event_active, Dev.event_titles]
    exact ⟨rfl, rfl, rfl⟩
  · exact ⟨rfl, rfl, rfl⟩

/-! ### MAINT_DONE (R284) -/

section
variable {s : State} {m : MaintOp} (h : s.dev.regs.maintRun = some m) {d : Dev}
  (hd : (if s.dev.maintLeft m then s.dev.maintainRange m.op m.first m.count else s.dev) = d)
include h hd

theorem exec_maintDone_left (hleft : d.maintLeft m = true) : exec .maintDone s = .next (s.after d) :=
  show execMaintDone s = _ from run_after s (by simp only [h, hd, hleft, if_true])

theorem exec_maintDone {e : Dev} (hleft : d.maintLeft m = false)
    (he : { d with regs := { d.regs with maintRun := none, maintDone := true } } = e) :
    exec .maintDone s = .next (s.after ((e.waiters.filter (·.what == .maint)).foldl (fun d w =>
      { d with waiters := d.waiters.erase w }.respond w.channel w.opcode w.tag 0 0 []) e)) :=
  show execMaintDone s = _ from run_after s (by subst he; simp only [h, hd, hleft]; rfl)

end

/-- Settles O49: a command acts at the end of the work that it ends, and not before. -/
theorem cacheWorkEnded : Obligations.CacheWorkEnded := by
  intro s
  refine ⟨fun i hi h => exec_cacheClearingDone hi h, fun i hi h => exec_cacheClearingDone_idle hi h, fun i hi h => ?_,
    fun i hi h => exec_cacheDrainDone_early hi (.inl h), fun m hm => ⟨fun hleft => ?_, fun hleft => ?_⟩, fun h => ?_⟩
  · refine ⟨fun hclean hd => ?_, fun hclean hd => ?_, fun hclean => exec_cacheDrainDone_early hi (.inr hclean),
      fun hclean hlen => ⟨_, exec_cacheDrainDone hi h hclean, ?_⟩⟩
    · rw [exec_cacheDrainDone hi h hclean, Dev.cacheDrained, if_neg (by simp [hd])]
      rfl
    · rw [exec_cacheDrainDone hi h hclean, Dev.cacheDrained, if_pos hd]
      rfl
    · obtain ⟨hslices, hactive, htitles⟩ := (s.dev.cacheDrained i).answerCacheOff_frame
      obtain ⟨hslices', hactive', htitles'⟩ := s.dev.cacheDrained_frame i
      have hslice (k : Nat) : (s.after (s.dev.cacheDrained i).answerCacheOff).dev.slice k
          = (s.dev.onSlice i fun _ => (s.dev.cleaned i).cacheOff).slice k :=
        congrArg (·.getD k {}) (hslices.trans hslices')
      refine ⟨?_, ?_, fun k hk => ?_, hactive.trans hactive', htitles.trans htitles'⟩
      · rw [hslice, Dev.onSlice_self hlen]
        rfl
      · rw [hslice, Dev.onSlice_self hlen]
        rfl
      · rw [hslice, Dev.onSlice_slice, if_neg fun h => hk h.1.symm]
  · exact exec_maintDone_left hm rfl hleft
  · exact exec_maintDone hm rfl hleft rfl
  · exact show execMaintDone s = _ from run_after s (by simp only [h])
end Sys2Proof.Machine
end

section
/-!
SUPPORT. The boundaries of ticks and rounds, and skipped ticks (R16, R86, R115, R172, R179, R182).
-/
namespace Sys2Proof.Machine

open Sys2Proof

/-! ### The round's boundary -/

/-- Whether the end of tick 1,023 stands before its round boundary. -/
def Dev.roundEnds (d : Dev) : Prop :=
  d.clock.on = true ∧ d.mode.ticks = true ∧ d.clock.tick = 1023 ∧ d.clock.roundClosed = false

theorem Dev.roundBoundary_elsewhere {d : Dev} (h : ¬d.roundEnds) (fails : List (Nat × Nat)) : d.roundBoundary fails = d := by
  refine if_pos ?_
  rw [Bool.not_eq_true', ← Bool.not_eq_true]
  intro hb
  simp only [Bool.and_eq_true, beq_iff_eq, Bool.not_eq_true'] at hb
  obtain ⟨⟨⟨hon, hticks⟩, htick⟩, hclosed⟩ := hb
  exact h ⟨hon, hticks, htick, hclosed⟩

theorem Dev.roundBoundary_ends {d : Dev} (h : d.roundEnds) (fails : List (Nat × Nat)) :
    d.roundBoundary fails = ((List.range d.sliceCount).foldl (fun d i => d.upkeepBoundary fails i)
      ((((List.range d.sliceCount).foldl Dev.writeRate d).advanceRound.swapBoundary.methodChange
        d.throttleMethod).levelBoundary)).checkPreserve.transitionRound.idleBoundary := by
  obtain ⟨hon, hticks, htick, hclosed⟩ := h
  exact if_neg (by rw [hon, hticks, htick, hclosed]; decide)

/-! ### The commands -/

section
variable {s : State}

theorem exec_tickBoundary_still (h : s.dev.clock.on = false ∨ s.dev.mode.ticks = false) (env : TickEnv) :
    exec (.tickBoundary env) s = .next (s.after s.dev) :=
  show execTickBoundary env s = _ from run_after s (if_pos (by obtain h | h := h <;> simp [h]))

theorem exec_roundBoundary_elsewhere (fails : List (Nat × Nat))
    (h : s.dev.clock.on = false ∨ s.dev.clock.tick ≠ 1023 ∨ s.dev.clock.roundClosed = true) :
    exec (.roundBoundary fails) s = .next (s.after s.dev) :=
  show execRoundBoundary fails s = _ from run_after s (if_neg (by obtain h | h | h := h <;> simp [h]))

theorem exec_skippedTick_elsewhere (h : s.dev.clock.on = false ∨ s.dev.mode.ticks = false ∨ s.dev.clock.skipN = 0
      ∨ s.dev.clock.skipCount + 1 < s.dev.clock.skipN) :
    exec .skippedTick s = .next (s.after s.dev) :=
  show execSkippedTick s = _ from run_after s (if_neg (by obtain h | h | h | h := h <;> simp [h]))

variable (hon : s.dev.clock.on = true) (hticks : s.dev.mode.ticks = true)
include hon

theorem exec_roundBoundary (fails : List (Nat × Nat)) (htick : s.dev.clock.tick = 1023) (hopen : s.dev.clock.roundClosed = false) :
    exec (.roundBoundary fails) s = .next (s.after ((s.dev.endTicks quietTick).roundBoundary fails)) :=
  show execRoundBoundary fails s = _ from run_after s (if_pos (by simp [hon, htick, hopen]))

include hticks

theorem exec_skippedTick (hn : s.dev.clock.skipN ≠ 0) (hcount : s.dev.clock.skipN ≤ s.dev.clock.skipCount + 1) :
    exec .skippedTick s = .next (s.after { s.dev.onSlices (fun x => x.count 103 1) with
      clock := { s.dev.clock with skipCount := 0, periods := s.dev.clock.periods + 1 } }) :=
  show execSkippedTick s = _ from run_after s (if_pos (by simp [hon, hticks, hn, hcount]))

/-- The next tick, where the tick still runs once the ending tick and its round are closed. -/
theorem exec_tickBoundary (env : TickEnv) {closed next : Dev} (hclosed : (s.dev.endTicks env).roundBoundary [] = closed)
    (hnext : ({ (List.range 3).foldl Dev.fwStep closed.latchDue.storeStep with
      clock := ((List.range 3).foldl Dev.fwStep closed.latchDue.storeStep).clock.advance } : Dev) = next) :
    exec (.tickBoundary env) s = .next (s.after (if closed.clock.on = true ∧ closed.mode.ticks = true then
      ((List.range next.sliceCount).foldl (fun d i =>
        d.sliceTick env (next.swap.pending.isSome && decide (next.swap.wait ≤ 1)) i) next).transitionTick else closed)) := by
  subst hclosed hnext
  refine show execTickBoundary env s = _ from run_after s ((if_neg (by simp [hon, hticks])).trans ?_)
  by_cases hrun : ((s.dev.endTicks env).roundBoundary []).clock.on = true ∧ ((s.dev.endTicks env).roundBoundary []).mode.ticks = true
  · refine Eq.trans (if_neg ?_) (if_pos hrun).symm
    rw [hrun.1, hrun.2]
    decide
  · refine Eq.trans (if_pos ?_) (if_neg hrun).symm
    rw [Bool.not_eq_true', ← Bool.not_eq_true, Bool.and_eq_true]
    exact hrun

end

/-- Settles O50: each boundary acts while the tick runs, at its place, and else changes nothing. -/
theorem ticksAndRounds : Obligations.TicksAndRounds := by
  intro s
  refine ⟨fun hon hticks => ⟨fun env => ?_, fun fails htick hopen => exec_roundBoundary hon fails htick hopen,
      fun fails h => exec_roundBoundary_elsewhere fails (.inr h), fun hn hcount => exec_skippedTick hon hticks hn hcount,
      fun h => exec_skippedTick_elsewhere (.inr (.inr h))⟩,
    fun h env => ⟨exec_tickBoundary_still h env, exec_skippedTick_elsewhere (h.imp_right .inl)⟩,
    fun h fails => exec_roundBoundary_elsewhere fails (.inl h),
    fun d fails hon hticks htick hopen => Dev.roundBoundary_ends ⟨hon, hticks, htick, hopen⟩ fails⟩
  refine exec_tickBoundary hon hticks env ?_ rfl
  split
  next h => rfl
  next h => exact Dev.roundBoundary_elsewhere h []
end Sys2Proof.Machine
end

section
/-!
SUPPORT. Snapshots, bandwidth windows and temperature samples (R385, R480, R509, R517, R543, R544).
-/
namespace Sys2Proof.Machine

open Sys2Proof

/-- What a temperature sample does once the sensors are read: warnings, the throttle target, age, life and retraining. -/
def Dev.afterSample (d : Dev) (mr4 : List Nat) : Dev :=
  let c := ((List.range 3).foldl Dev.warnGroup (d.riseEvents d.rising)).criticalRuns
  let m := c.1.moveLevel (!d.rising.isEmpty)
  let e := (List.range m.sliceCount).foldl Dev.ageSlice m
  ((((e.addLife).history).retrainByTemp mr4).onSlices fun x => x.count 148 1).critical c.2

theorem sliceCount_of_shape {d e : Dev} (h : d.shape = e.shape) : d.sliceCount = e.sliceCount := by
  simp only [Dev.shape, Prod.mk.injEq] at h
  rw [Dev.sliceCount, h.1, Dev.sliceCount]

/-- The slices aged are those of the part. -/
theorem Dev.afterSample_eq {d : Dev} {n : Nat} (hn : d.sliceCount = n) (mr4 : List Nat) : d.afterSample mr4 =
    let c := ((List.range 3).foldl Dev.warnGroup (d.riseEvents d.rising)).criticalRuns
    let e := (List.range n).foldl Dev.ageSlice (c.1.moveLevel (!d.rising.isEmpty))
    ((((e.addLife).history).retrainByTemp mr4).onSlices fun x => x.count 148 1).critical c.2 := by
  have hm : (((List.range 3).foldl Dev.warnGroup (d.riseEvents d.rising)).criticalRuns.1.moveLevel
      (!d.rising.isEmpty)).sliceCount = n := by
    rw [← hn]
    exact sliceCount_of_shape (by
      rw [Dev.moveLevel_shape, Dev.criticalRuns_shape, foldl_shape _ fun d g => Dev.warnGroup_shape d g, Dev.riseEvents_shape])
  rw [Dev.afterSample, hm]

section
variable {s : State}

/-! ### Snapshots -/

theorem exec_snapshotLatch (hdue : s.dev.counters.snapDue = true) (hon : s.dev.clock.on = true) :
    exec .snapshotLatch s = .next (s.after (s.dev.latchCounters s.dev.clock.following.1 s.dev.clock.following.2)) :=
  show execSnapshotLatch s = _ from run_after s (if_pos (by rw [hdue, hon]; rfl))

theorem exec_snapshotLatch_idle (h : s.dev.counters.snapDue = false ∨ s.dev.clock.on = false) :
    exec .snapshotLatch s = .next (s.after s.dev) :=
  show execSnapshotLatch s = _ from run_after s (if_neg (by obtain h | h := h <;> simp [h]))

theorem Dev.onSlices_slice (d : Dev) {f : Slice → Slice} {i : Nat} (hi : i < d.slices.length) :
    (d.onSlices f).slice i = f (d.slice i) := by
  simp [Dev.onSlices, Dev.slice, List.getD_eq_getElem?_getD, hi]

/-! ### Bandwidth windows -/

/-- What the end of a window leaves: the sums handed over, or discarded where another length waits. -/
def Dev.windowEnded (d : Dev) (w : Nat) (keep : Bool) : Dev :=
  let c := { d.counters with
    window := w, windowNext := none, windowLast := d.clock.round.toNat, windowStart := d.clock.periods }
  { d with
    counters := if keep then
      { c with windowEnd := d.clock.round.toNat, windowSpan := d.clock.periods - d.counters.windowStart } else c
    ports := d.ports.map (Port.restartWindow keep) }

theorem exec_bwWindowEnd : exec .bwWindowEnd s = .next (s.after
    (if s.dev.atRoundBoundary = true ∧ s.dev.clock.round.toNat % s.dev.counters.windowNext.getD s.dev.counters.window = 0
        ∧ s.dev.clock.round.toNat ≠ s.dev.counters.windowLast then
      s.dev.windowEnded (s.dev.counters.windowNext.getD s.dev.counters.window) s.dev.counters.windowNext.isNone
    else s.dev)) :=
  show execBwWindowEnd s = _ from run_after s (by
    simp only [Bool.and_eq_true, beq_iff_eq, bne_iff_ne, and_assoc]
    rfl)

/-! ### Samples -/

theorem exec_thermalSample_idle (input : ThermalInput)
    (h : s.dev.clock.on = false ∨ s.dev.thermal.sampled = some (s.dev.clock.periods / 16384)) :
    exec (.thermalSample input) s = .next (s.after s.dev) :=
  show execThermalSample input s = _ from run_after s (if_pos (by
    obtain h | h := h <;> simp [Dev.sampleDue, Dev.samplePeriod, h]))

theorem exec_thermalSample (input : ThermalInput) (hon : s.dev.clock.on = true)
    (hnew : s.dev.thermal.sampled ≠ some (s.dev.clock.periods / 16384)) :
    exec (.thermalSample input) s = .next (s.after
      ((({ s.dev with thermal := { s.dev.thermal with
        sampled := some (s.dev.clock.periods / 16384) } } : Dev).takeSample (s.dev.inputs input)).afterSample input.mr4)) := by
  have hdue : s.dev.sampleDue = true := by simp [Dev.sampleDue, Dev.samplePeriod, hon, hnew]
  refine show execThermalSample input s = _ from run_after s ?_
  simp only [hdue, Bool.not_true, Bool.false_eq_true, if_false, Dev.afterSample, Dev.samplePeriod]
  rfl

theorem exec_drowseThermalSample_elsewhere (a h : Option Nat) (hm : s.dev.mode ≠ .drowse) :
    exec (.drowseThermalSample a h) s = .next (s.after s.dev) :=
  show execDrowseThermalSample a h s = _ from run_after s (if_pos (by simpa using hm))

end

/-- What DROWSE reads: TD_A and TH_A, where they are enabled. -/
def Dev.drowseInputs (d : Dev) (a h : Option Nat) : List (Nat × Option Int) :=
  (d.inputs ⟨[], a, none, h, none, []⟩).filter fun (e : Nat × Option Int) => e.1 == 4 * d.sliceCount || e.1 == 4 * d.sliceCount + 2

/-- The sensors once these inputs are read. -/
def sampled (m : Sparse Sensor) (ins : List (Nat × Option Int)) : Sparse Sensor :=
  ins.foldl (fun (m : Sparse Sensor) (e : Nat × Option Int) => sset m e.1 ((sget m e.1 {}).sample e.2)) m

/-- The package in DROWSE once its sensors are read. -/
def Dev.drowseSampled (d : Dev) (a h : Option Nat) : Dev :=
  let ins := d.drowseInputs a h
  let high := (hottest (ins.filterMap fun (e : Nat × Option Int) => e.2.map fun t => (e.1, t))).map (·.2)
  { d with thermal := { d.thermal with
    sensors := sampled d.thermal.sensors ins
    drowseSamples := d.thermal.drowseSamples + 1
    drowseHigh := match d.thermal.drowseHigh, high with
      | some x, some y => some (max x y)
      | x, none => x
      | none, y => y } }

theorem exec_drowseThermalSample {s : State} (a h : Option Nat) (hm : s.dev.mode = .drowse) :
    exec (.drowseThermalSample a h) s = .next (s.after
      (if (s.dev.drowseSampled a h).criticalRuns.2.isEmpty then (s.dev.drowseSampled a h).criticalRuns.1
      else ((s.dev.drowseSampled a h).criticalRuns.1.latchFault (latchBit 12)).halt)) := by
  refine show execDrowseThermalSample a h s = _ from run_after s ((if_neg (by simp [hm])).trans ?_)
  rfl

/-! ### The first reading of a sensor -/

theorem sampled_fresh {m : Sparse Sensor} (hm : ∀ k, (sget m k {}).criticalRun = 0) (ins : List (Nat × Option Int)) (k : Nat) :
    (sget (sampled m ins) k {}).criticalRun = 0 := by
  have hall : ∀ k, (sget (sampled m ins) k {}).criticalRun = 0 := by
    refine foldl_invariant (P := fun m : Sparse Sensor => ∀ k, (sget m k {}).criticalRun = 0) (fun m e hm k => ?_) ins hm
    rw [sget, sget?_sset]
    split
    · obtain ⟨j, v⟩ := e
      cases v with
      | none => exact hm j
      | some t => exact hm j
    · exact hm k
  exact hall k

theorem sget?_map_value {α β : Type} (m : Sparse α) (g : Nat × α → β) (k : Nat) :
    sget? (m.map fun e => (e.1, g e)) k = (sget? m k).map fun v => g (k, v) := by
  induction m with
  | nil => rfl
  | cons x m ih =>
    rw [List.map_cons, sget?, sget?]
    split
    next hk => rw [← hk]; rfl
    · exact ih

/-- One reading makes no critical run. -/
theorem Dev.criticalRuns_fresh {d : Dev} (hd : ∀ k, (d.sensor k).criticalRun = 0) : d.criticalRuns.2 = [] := by
  refine List.filter_eq_nil_iff.2 fun e _ => ?_
  rw [decide_eq_true_eq, Nat.not_le, Dev.sensor, sget, sget?_map_value]
  have hk := hd e.1
  rw [Dev.sensor, sget] at hk
  cases hs : sget? d.thermal.sensors e.1 with
  | none => exact Nat.zero_lt_two
  | some x =>
    rw [hs] at hk
    have hx : x.criticalRun = 0 := hk
    have hrun (b : Bool) : (if b = true then x.criticalRun + 1 else 0) < 2 := by
      rw [hx]
      cases b <;> decide
    exact hrun _

/-- Settles O51: each sample is taken where it is due, and else changes nothing. -/
theorem samplesTaken : Obligations.SamplesTaken := by
  intro s
  refine ⟨fun hdue hon => ⟨_, exec_snapshotLatch hdue hon, rfl, rfl, fun i hi => ?_, fun i => ?_⟩, exec_snapshotLatch_idle, ?_,
    fun h => ?_, fun input hon hnew => ?_, exec_thermalSample_idle, fun a h hm => ?_,
    exec_drowseThermalSample_elsewhere⟩
  · exact congrArg Slice.snapshot (s.dev.onSlices_slice (f := fun x => { x with snapshot := x.counters }) hi)
  · exact getD_map_field (g := Slice.counters) (f := fun x : Slice => { x with snapshot := x.counters }) (fun _ => rfl) i {}
  · intro c r hat hr
    refine ⟨fun hn hw => ?_, fun w hn hw => ?_, fun h => ?_⟩ <;> rw [exec_bwWindowEnd]
    · rw [hn, if_pos ⟨hat, hw, hr⟩]
      simp [Dev.windowEnded, hn, c, r]
      rfl
    · rw [hn, if_pos ⟨hat, hw, hr⟩]
      rfl
    · rw [if_neg]
      rintro ⟨-, hw, -⟩
      obtain ⟨hn, hne⟩ | ⟨w, hn, hne⟩ := h
      · rw [hn] at hw
        exact hne hw
      · rw [hn] at hw
        exact hne hw
  · rw [exec_bwWindowEnd, if_neg]
    rintro ⟨hat, -, hr⟩
    exact h.elim (fun h => Bool.false_ne_true (h.symm.trans hat)) hr
  · have hn : (({ s.dev with thermal := { s.dev.thermal with
        sampled := some (s.dev.clock.periods / 16384) } } : Dev).takeSample (s.dev.inputs input)).sliceCount = s.dev.sliceCount :=
      sliceCount_of_shape (Dev.takeSample_shape _ _)
    rw [exec_thermalSample input hon hnew, Dev.afterSample_eq hn]
  · refine ⟨fun hcrit => ?_, fun hcrit => ?_, fun hs => Dev.criticalRuns_fresh fun k => ?_⟩
    · rw [exec_drowseThermalSample a h hm]
      exact congrArg (fun d => Host.Outcome.next (s.after d)) (if_pos (List.isEmpty_iff.2 hcrit))
    · rw [exec_drowseThermalSample a h hm]
      exact congrArg (fun d => Host.Outcome.next (s.after d)) (if_neg fun h => hcrit (List.isEmpty_iff.1 h))
    · exact sampled_fresh (m := s.dev.thermal.sensors) (by rw [hs]; exact fun _ => rfl) (s.dev.drowseInputs a h) k
end Sys2Proof.Machine
end

section
/-!
SUPPORT. The cartridge port: its power sequence, the end of a card's service, and what a card asks for (R461–R467, R476).
-/
namespace Sys2Proof.Machine

open Sys2Proof

/-! ### The power sequence -/

theorem run_cart {s : State} {f : Cart → Cart} {c : Cart} (h : f s.dev.cart = c) :
    run s (fun d => d.onCart f) = .next (s.after { s.dev with cart := c }) :=
  run_after s (by rw [Dev.onCart, h])

theorem run_cart_idle {s : State} {f : Cart → Cart} (h : f s.dev.cart = s.dev.cart) :
    run s (fun d => d.onCart f) = .next (s.after s.dev) :=
  run_after s (by rw [Dev.onCart, h])

theorem cartTrains_iff (w v : Nat) : cartTrains w v = true ↔ (w = 1 ∨ w = 2 ∨ w = 4) ∧ (v = 5 ∨ v = 16 ∨ v = 32) := by
  simp [cartTrains]

theorem Cart.clocked_eq {c e : Cart} {b : Bool} (h : (c.refclkStarted && (c.clkreqLow || !c.perstHigh)) = b)
    (he : { c with refclk := b } = e) : c.clocked = e := by rw [Cart.clocked, h, he]

theorem Cart.cutPower_powered {c : Cart} (hp : c.pwrEn = true) (hs : c.step < 6) : c.cutPower = c.perstFalls :=
  if_pos (by simp [hp, hs])

/-! ### The end of a card's service -/

/-- The cart without what a card's service held. -/
def Cart.served (c : Cart) : Cart :=
  { c with auth := 0, session := false, manifest := [], hashTables := [], stream := [], streamWaits := [] }

theorem Dev.answerRead_frame (d : Dev) (p tag cls : Nat) (v : Option Sector) :
    (d.answerRead p tag cls v).cart = d.cart ∧ (d.answerRead p tag cls v).rings = d.rings := by
  simp only [Dev.answerRead]
  split
  · exact ⟨rfl, rfl⟩
  · split
    · exact ⟨rfl, rfl⟩
    · split
      · exact ⟨rfl, rfl⟩
      · exact ⟨rfl, rfl⟩

theorem Dev.cartEnd_cart (d : Dev) : d.cartEnd.cart = d.cart.served :=
  foldl_keeps Dev.cart (fun (d : Dev) (w : StreamWait) => d.answerRead w.port w.tag _ none)
    (fun d w => (d.answerRead_frame w.port w.tag _ none).1) d.cart.streamWaits (d.onCart Cart.served)

/-- Whether a descriptor is an INSTALL in progress. -/
def Desc.installs (x : Desc) : Bool := x.started && x.status.isNone && x.field 0 2 == 2

theorem Dev.cartEnd_ring (d : Dev) (n : Nat) : (d.cartEnd.ring n).descs = (d.ring n).descs.map fun x =>
    if x.installs then { x with pending := 0, status := some 0x0C } else x := by
  have hrings : d.cartEnd.rings = d.rings.map fun e => (e.1, { e.2 with descs := e.2.descs.map fun x =>
      if x.installs then { x with pending := 0, status := some 0x0C } else x }) :=
    congrArg (List.map _) (foldl_keeps Dev.rings (fun (d : Dev) (w : StreamWait) => d.answerRead w.port w.tag _ none)
      (fun d w => (d.answerRead_frame w.port w.tag _ none).2) d.cart.streamWaits (d.onCart Cart.served))
  rw [Dev.ring, Dev.ring, hrings, sget, sget, sget?_map_value]
  cases sget? d.rings n <;> rfl

theorem Dev.notifyCart_frame (d : Dev) (present streaming : Bool) :
    (d.notifyCart present streaming).cart = d.cart ∧ (d.notifyCart present streaming).rings = d.rings :=
  ⟨Dev.notify_cart _ _ _ _, Dev.notify_rings _ _ _ _⟩

/-- What a package whose card has gone out of service has left of it. -/
def State.CardEnded (s t : State) (here : Bool) : Prop :=
  t.dev.cart = Cart.cutPower { s.dev.cart with
    auth := 0, session := false, manifest := [], hashTables := [], stream := [], streamWaits := [], present := here }
  ∧ ∀ n, (t.dev.ring n).descs = (s.dev.ring n).descs.map fun x =>
      if x.installs then { x with pending := 0, status := some 0x0C } else x

/-- Events and notifications after the end leave the cart and the rings. -/
theorem cardEnded_of {s : State} {d : Dev} {here : Bool} {f : Cart → Cart} (hcart : d.cart = f s.dev.cartEnd.cart)
    (hf : f s.dev.cart.served = Cart.cutPower { s.dev.cart.served with present := here })
    (hrings : d.rings = s.dev.cartEnd.rings) : s.CardEnded (s.after d) here := by
  refine ⟨hcart.trans ?_, fun n => ?_⟩
  · rw [Dev.cartEnd_cart, hf]
    rfl
  · rw [← Dev.cartEnd_ring]
    exact congrArg (fun m => (sget m n {}).descs) hrings

section
variable {s : State}

theorem exec_cardRemoved (ht : s.dev.mode.ticks = true) (hp : s.dev.cart.present = true) :
    exec .cardRemoved s = .next (s.after
      (((s.dev.cartEnd.onCart fun c => ({ c with present := false } : Cart).cutPower).event 0x0601 0xFF
        (b2n s.dev.streaming) 0xFF []).notifyCart false s.dev.streaming)) :=
  show execCardRemoved s = _ from run_after s (if_pos (by rw [ht, hp]; rfl))

theorem exec_cartFailure (hl : s.dev.cart.linkUp = true) (f : CardFault) {d : Dev}
    (hd : (s.dev.cartEnd.onCart Cart.cutPower).event 0x0602 0xFF (cardFaultReason f) 0xFF [] = d) :
    exec (.cartFailure f) s = .next (s.after (if s.dev.streaming then d.notifyCart d.cart.present true else d)) := by
  subst hd
  exact show execCartFailure f s = _ from run_after s (if_pos hl)

theorem cartFailure_ended (f : CardFault) {d : Dev}
    (hd : (s.dev.cartEnd.onCart Cart.cutPower).event 0x0602 0xFF (cardFaultReason f) 0xFF [] = d) :
    s.CardEnded (s.after (if s.dev.streaming then d.notifyCart d.cart.present true else d)) s.dev.cart.present := by
  have hcart : d.cart = s.dev.cartEnd.cart.cutPower := by rw [← hd, Dev.event_cart]; rfl
  have hrings : d.rings = s.dev.cartEnd.rings := by rw [← hd, Dev.event_rings]; rfl
  split
  · obtain ⟨hcart', hrings'⟩ := d.notifyCart_frame d.cart.present true
    exact cardEnded_of (hcart'.trans hcart) rfl (hrings'.trans hrings)
  · exact cardEnded_of hcart rfl hrings

theorem cardRemoved_ended : s.CardEnded (s.after
    (((s.dev.cartEnd.onCart fun c => ({ c with present := false } : Cart).cutPower).event 0x0601 0xFF
      (b2n s.dev.streaming) 0xFF []).notifyCart false s.dev.streaming)) false := by
  refine cardEnded_of (f := fun c => ({ c with present := false } : Cart).cutPower) ?_ rfl ?_
  · rw [(Dev.notifyCart_frame _ _ _).1, Dev.event_cart]
    rfl
  · rw [(Dev.notifyCart_frame _ _ _).2, Dev.event_rings]
    rfl

/-! ### What a card asks for (R465) -/

/-- A card's request on a link that is up. -/
theorem exec_cardRequest (hl : s.dev.cart.linkUp = true) (r : CardReq) : exec (.cardRequest r) s = .next (s.after
    (if 0x4000000 < r.address + r.bytes ∧ (r.write = false ∨ r.address ≠ 0x4000000 ∨ r.bytes ≠ 4) then
      (s.dev.emit .cardRefused).event 0x0603 0xFF 1 0xFF (leBytes 8 r.address)
    else if r.write = true ∧ (r.address ≠ 0x4000000 ∨ r.bytes ≠ 4) ∧ 0x100000 < r.address + r.bytes then
      if s.dev.cardReading = true then
        if Config.freeNat s.dev.draws % 2 = 0 then
          ({ s.dev with draws := s.dev.draws + 1 } : Dev).event 0x0603 0xFF 2 0xFF (leBytes 8 r.address)
        else { s.dev with draws := s.dev.draws + 1 }
      else s.dev.event 0x0603 0xFF 2 0xFF (leBytes 8 r.address)
    else if r.write = true then s.dev
    else ({ s.dev with draws := s.dev.draws + 1 } : Dev).emit
      (.cardData ((rangeFrom r.address r.bytes).map (Config.windowByte s.dev.draws))))) := by
  refine show execCardRequest r s = _ from run_after s ((if_neg (by rw [hl]; decide)).trans ?_)
  have hmsix : (r.write && r.address == 0x4000000 && r.bytes == 4) = false
      ↔ (r.write = false ∨ r.address ≠ 0x4000000 ∨ r.bytes ≠ 4) := by
    simp only [Bool.and_eq_false_iff, beq_eq_false_iff_ne, or_assoc]
  refine ite_congr (propext ?_) (fun _ => rfl) fun _ => ite_congr (propext ?_) (fun _ => ?_) fun _ => rfl
  · rw [Bool.not_eq_true', Bool.or_eq_false_iff, decide_eq_false_iff_not, Nat.not_le, hmsix, and_comm]
  · rw [Bool.and_eq_true, Bool.and_eq_true, Bool.not_eq_true', hmsix, decide_eq_true_eq, and_assoc]
    refine and_congr_right fun hw => ?_
    rw [hw]
    simp only [Bool.true_eq_false, false_or]
  · by_cases hread : s.dev.cardReading = true
    · simp only [hread, if_true]
      rfl
    · simp only [hread]
      rfl

/-- A write that the window takes, or a message of the card's own, changes nothing. -/
theorem exec_cardRequest_write (hl : s.dev.cart.linkUp = true) {r : CardReq} (hw : r.write = true)
    (h : r.address = 0x4000000 ∧ r.bytes = 4 ∨ r.address + r.bytes ≤ 0x100000) :
    exec (.cardRequest r) s = .next (s.after s.dev) := by
  rw [exec_cardRequest hl, if_neg, if_neg, if_pos hw]
  · rintro ⟨-, hother, hlast⟩
    obtain ⟨ha, hb⟩ | h := h
    · exact hother.elim (· ha) (· hb)
    · exact absurd hlast (Nat.not_lt.2 h)
  · rintro ⟨hlast, hother⟩
    obtain ⟨ha, hb⟩ | h := h
    · obtain hr | hr | hr := hother
      · exact Bool.false_ne_true (hr.symm.trans hw)
      · exact hr ha
      · exact hr hb
    · omega

/-- A write into the protected staging areas. -/
theorem exec_cardRequest_protected (hl : s.dev.cart.linkUp = true) {r : CardReq} (hw : r.write = true)
    (hlow : 0x100000 < r.address + r.bytes) (hhigh : r.address + r.bytes ≤ 0x4000000) :
    exec (.cardRequest r) s = .next (s.after (if s.dev.cardReading = true then
      if Config.freeNat s.dev.draws % 2 = 0 then
        ({ s.dev with draws := s.dev.draws + 1 } : Dev).event 0x0603 0xFF 2 0xFF (leBytes 8 r.address)
      else { s.dev with draws := s.dev.draws + 1 }
    else s.dev.event 0x0603 0xFF 2 0xFF (leBytes 8 r.address))) := by
  have hother : r.address ≠ 0x4000000 ∨ r.bytes ≠ 4 := by omega
  rw [exec_cardRequest hl, if_neg fun h => absurd h.1 (Nat.not_lt.2 hhigh), if_pos ⟨hw, hother, hlow⟩]

end
/-- Settles O53: the port's steps follow each other, a card that goes ends its service, and a request is checked. -/
theorem cartridgePort : Obligations.CartridgePort := by
  refine ⟨fun s => ⟨fun h => ?_, fun h => ?_, fun h w v hv => ?_, cartTrains_iff, fun low => ⟨fun ht => ?_, fun ht => ?_⟩,
      fun h => ?_, fun h => ?_, fun h => ?_, fun h => ?_, fun h => ?_, fun w v h => ?_, fun h => ?_, fun h => ?_, fun h => ?_⟩,
    fun s => ⟨fun ht hp => ?_, fun h => ?_, fun ht hp => ⟨exec_cardRemoved ht hp, _, exec_cardRemoved ht hp, cardRemoved_ended⟩,
      fun h => ?_, fun hl f => ⟨exec_cartFailure hl f rfl, _, exec_cartFailure hl f rfl, cartFailure_ended f rfl⟩,
      fun x hp hs => ?_, fun hl f r => ⟨?_, ?_⟩, fun hl r => ?_⟩⟩
  · exact show execCartRefclkStart s = _ from run_cart ((if_pos h).trans (Cart.clocked_eq rfl rfl))
  · exact show execCartPerstRelease s = _ from run_cart ((if_pos h).trans (Cart.clocked_eq (by simp) rfl))
  · exact show execCartLinkUp w v s = _ from run_cart (if_pos ⟨h, hv⟩)
  · exact show execCartClkreqChange low s = _ from run_after s ((if_pos ht).trans rfl)
  · exact show execCartClkreqChange low s = _ from run_after s (if_neg (by simp [ht]))
  · exact show execCartShutdownDone s = _ from run_cart ((if_pos h).trans (Cart.clocked_eq (by simp) rfl))
  · exact show execCartRefclkStop s = _ from run_cart ((if_pos h).trans (Cart.clocked_eq rfl rfl))
  · exact show execCartPwrEnFall s = _ from run_after s (if_pos h)
  · exact show execCartRefclkStart s = _ from run_cart_idle (if_neg h)
  · exact show execCartPerstRelease s = _ from run_cart_idle (if_neg h)
  · exact show execCartLinkUp w v s = _ from run_cart_idle (if_neg fun hc => h.elim (· hc.1) fun h => Bool.false_ne_true (h.symm.trans hc.2))
  · exact show execCartShutdownDone s = _ from run_cart_idle (if_neg h)
  · exact show execCartRefclkStop s = _ from run_cart_idle (if_neg h)
  · exact show execCartPwrEnFall s = _ from run_after s (if_neg h)
  · exact show execCardPresent s = _ from run_after s (if_pos (by rw [ht, hp]; rfl))
  · exact show execCardPresent s = _ from run_after s (if_neg (by obtain h | h := h <;> simp [h]))
  · exact show execCardRemoved s = _ from run_after s (if_neg (by obtain h | h := h <;> simp [h]))
  · rw [Cart.cutPower_powered hp hs]
    exact ⟨rfl, rfl, rfl⟩
  · exact show execCartFailure f s = _ from run_after s (if_neg (by simp [hl]))
  · exact show execCardRequest r s = _ from run_after s (if_pos (by rw [hl]; rfl))
  · refine ⟨fun hlast h => ?_, fun hw hlow hhigh hread => ?_, fun hw hlow hhigh hread => ?_, fun hw ha hb => ?_,
      fun hw hlow => ?_, fun hw hhigh => ⟨(rangeFrom r.address r.bytes).map (Config.windowByte s.dev.draws), ?_, ?_⟩⟩
    · rw [exec_cardRequest hl, if_pos ⟨hlast, h⟩]
    · rw [exec_cardRequest_protected hl hw hlow hhigh, if_neg (by simp [hread])]
    · rw [exec_cardRequest_protected hl hw hlow hhigh, if_pos hread]
      split
      · exact .inr rfl
      · exact .inl rfl
    · exact exec_cardRequest_write hl hw (.inl ⟨ha, hb⟩)
    · exact exec_cardRequest_write hl hw (.inr hlow)
    · simp [rangeFrom]
    · rw [exec_cardRequest hl, if_neg fun h => absurd h.1 (Nat.not_lt.2 hhigh), if_neg (by simp [hw]), if_neg (by simp [hw])]
end Sys2Proof.Machine
end

section
/-!
SUPPORT. The sequencer on its way up (R477, R478, R488–R492).
-/
namespace Sys2Proof.Machine

open Sys2Proof

/-- The sequencer of every slice stands where the package's stands. -/
theorem Dev.follow_sequencer (d : Dev) (i : Nat) (hi : i < d.slices.length) : (d.follow.slice i).sequencer = d.seq.state := by
  rw [Dev.follow, Dev.onSlices_slice d hi]

section
variable {s : State}

theorem exec_alwaysOnPowerOn (h : s.dev.mode = .off) : exec .alwaysOnPowerOn s
    = .next (s.after (Dev.follow { s.dev with mode := .held, seq := {}, alarms := {}, mirror := {} })) :=
  show execAlwaysOnPowerOn s = _ from run_after s (if_pos (beq_iff_eq.2 h))

theorem exec_alwaysOnPowerOn_on (h : s.dev.mode ≠ .off) : exec .alwaysOnPowerOn s = .next (s.after s.dev) :=
  show execAlwaysOnPowerOn s = _ from run_after s (if_neg (by simpa using h))

/-! ### The start condition -/

theorem exec_startConditionMet_held (h : s.dev.seq.resetHigh = false ∨ s.dev.seq.faultLow = true) :
    exec .startConditionMet s = .next (s.after s.dev) :=
  show execStartConditionMet s = _ from run_after s (if_neg (by obtain h | h := h <;> simp [h]))

variable (hreset : s.dev.seq.resetHigh = true) (hfault : s.dev.seq.faultLow = false)
include hreset hfault

theorem exec_startConditionMet_rest (hm : s.dev.mode = .held ∨ s.dev.mode = .dormant) (hq : s.dev.seq.state = 1)
    (hstart : s.dev.seq.mayStart = true ∨ s.dev.seq.wake = true) :
    exec .startConditionMet s = .next (s.after (Dev.follow
      { s.dev with seq := { s.dev.seq with finished := true, vinGood := true, pfailHigh := true } })) := by
  have hhalt : (s.dev.mode == .halt) = false := by obtain h | h := hm <;> rw [h] <;> rfl
  have hmode : (s.dev.mode == .held || s.dev.mode == .dormant) = true := by simpa using hm
  have hwait : (s.dev.seq.mayStart || s.dev.seq.wake) = true := by simpa using hstart
  refine show execStartConditionMet s = _ from run_after s ((if_pos ?_).trans ?_)
  · rw [hreset, hfault, hmode, hq, hwait]
    rfl
  · rw [hhalt, ← hq]
    rfl

theorem exec_startConditionMet_halt (hm : s.dev.mode = .halt) (hq : s.dev.seq.state = 15) (hown : s.dev.seq.ownFault = false) :
    exec .startConditionMet s = .next (s.after (Dev.follow { s.dev with
      mode := .held, seq := { s.dev.seq with state := 1, finished := true, vinGood := true, pfailHigh := true } })) := by
  refine show execStartConditionMet s = _ from run_after s ((if_pos ?_).trans ?_)
  · rw [hreset, hfault, hm, hq, hown]
    rfl
  · rw [hm, hq, hown]
    rfl

end

/-! ### The barriers -/

/-- What the barrier of a finished state lets go on. -/
def Dev.barrier (d : Dev) : Dev :=
  let q := d.seq
  if !q.finished then d
  else if q.state ≤ 8 then
    { d with mode := .held, seq := { (q.raise (q.state - 1)) with wake := false, mayStart := false } }
  else if q.state = 9 then { d with seq := { q with state := 10, finished := true } }
  else if q.state = 10 then ({ d with seq := { q with state := 11, finished := false } }).openBoot
  else if q.state = 12 then { d with seq := { q with state := 13, finished := false }.nextDown }
  else if q.state = 13 then { d with seq := { q with state := 14, finished := false }.nextDown }
  else if q.state = 14 then
    { d with seq := { q with
      state := if q.target == .halt then 15 else 1
      finished := false
      powerFailing := false } }
  else d

theorem exec_barrierRelease (s : State) : exec .barrierRelease s = .next (s.after s.dev.barrier.follow) :=
  show execBarrierRelease s = _ from run_after s rfl

theorem Dev.barrier_unfinished {d : Dev} (h : d.seq.finished = false) : d.barrier = d := if_pos (by rw [h]; rfl)

theorem Dev.barrier_raises {d : Dev} {n : Nat} (hn : n < 8) (hq : d.seq.state = n + 1) (h : d.seq.finished = true) :
    d.barrier = { d with mode := .held, seq := { d.seq with
      en := withBit d.seq.en n, state := n + 2, finished := false, wake := false, mayStart := false
      vppDischarge := if n = 6 then false else d.seq.vppDischarge } } := by
  refine (if_neg (by rw [h]; decide)).trans ((if_pos (by rw [hq]; omega)).trans ?_)
  rw [hq]
  rfl

theorem Dev.barrier_nine {d : Dev} (hq : d.seq.state = 9) (h : d.seq.finished = true) :
    d.barrier = { d with seq := { d.seq with state := 10 } } := by
  simp only [Dev.barrier, h, hq]
  rfl

theorem Dev.barrier_ten {d : Dev} (hq : d.seq.state = 10) (h : d.seq.finished = true) :
    d.barrier = ({ d with seq := { d.seq with state := 11, finished := false } } : Dev).openBoot := by
  simp [Dev.barrier, h, hq]

/-! ### Rails on their way up -/

section
variable {s : State} {n : Nat}

theorem exec_railGood (hn : n < 8) (hq : s.dev.seq.state = n + 2) (hen : has s.dev.seq.en n = true) :
    exec (.railGood n) s = .next (s.after { s.dev with seq := { s.dev.seq with pg := withBit s.dev.seq.pg n, finished := true } }) := by
  have hen' : s.dev.seq.enabled n = true := hen
  refine show execRailGood n s = _ from run_after s (if_pos ?_)
  rw [hen', hq, Bool.and_true]
  simp
  omega

theorem exec_railGood_elsewhere (h : s.dev.seq.state ≠ n + 2 ∨ has s.dev.seq.en n = false) :
    exec (.railGood n) s = .next (s.after s.dev) := by
  refine show execRailGood n s = _ from run_after s (if_neg ?_)
  obtain h | h := h
  · simp [h]
  · have hen : s.dev.seq.enabled n = false := h
    simp [hen]

theorem exec_railRampTimeout (hn : n < 8) (hq : s.dev.seq.state = n + 2) (h : s.dev.seq.finished = false) :
    exec (.railRampTimeout n) s = .next (s.after (s.dev.latchFault (latchBit n ||| 0x100)).halt) := by
  refine show execRailRampTimeout n s = _ from run_after s (if_pos ?_)
  rw [hq, h]
  simp
  omega

theorem exec_railRampTimeout_elsewhere (h : s.dev.seq.state ≠ n + 2 ∨ s.dev.seq.finished = true) :
    exec (.railRampTimeout n) s = .next (s.after s.dev) :=
  show execRailRampTimeout n s = _ from run_after s (if_neg (by obtain h | h := h <;> simp [h]))

end

/-- Settles O54: each command of the way up acts in its state alone. -/
theorem railsRaised : Obligations.RailsRaised := by
  intro s
  refine ⟨exec_alwaysOnPowerOn, exec_alwaysOnPowerOn_on, fun hm hq hstart hreset hfault =>
      exec_startConditionMet_rest hreset hfault hm hq hstart, fun hm hq hown hreset hfault =>
      exec_startConditionMet_halt hreset hfault hm hq ?_, exec_startConditionMet_held, fun h => ?_, fun n hn hq h => ?_,
    fun hq h => ?_, fun hq h => ?_, fun n hn hq hen => exec_railGood hn hq hen, fun n hn hq h => exec_railRampTimeout hn hq h,
    fun n _ h => exec_railRampTimeout_elsewhere (.inr h), fun n _ h => exec_railGood_elsewhere (.inr h),
    fun n h => ⟨exec_railGood_elsewhere (.inl h), exec_railRampTimeout_elsewhere (.inl h)⟩, Dev.follow_sequencer⟩
  · rw [Sequencer.ownFault, ownCauses, hown]
    rfl
  · rw [exec_barrierRelease, Dev.barrier_unfinished h]
  · rw [exec_barrierRelease, Dev.barrier_raises hn hq h]
  · rw [exec_barrierRelease, Dev.barrier_nine hq h]
  · rw [exec_barrierRelease, Dev.barrier_ten hq h]
end Sys2Proof.Machine
end

section
/-!
SUPPORT. The sequencer on its way down (R489, R493, R494).
-/
namespace Sys2Proof.Machine

open Sys2Proof

/-! ### The barriers of the way down -/

section
variable {d : Dev} (h : d.seq.finished = true)
include h

theorem Dev.barrier_twelve (hq : d.seq.state = 12) : d.barrier = { d with
    seq := ({ d.seq with state := 13, finished := false, turn := none } : Sequencer).lower [7, 6, 5] } := by
  simp only [Dev.barrier, h, hq]
  rfl

theorem Dev.barrier_thirteen (hq : d.seq.state = 13) : d.barrier = { d with
    seq := ({ d.seq with state := 14, finished := false, turn := none } : Sequencer).lower [4, 3, 2, 1, 0] } := by
  simp only [Dev.barrier, h, hq]
  rfl

theorem Dev.barrier_fourteen (hq : d.seq.state = 14) : d.barrier = { d with seq := { d.seq with
    state := if d.seq.target == .halt then 15 else 1, finished := false, powerFailing := false } } := by
  simp only [Dev.barrier, h, hq]
  rfl

end

/-! ### Rails as they fall -/

section
variable {s : State} {n : Nat}

theorem exec_railOff (hen : has s.dev.seq.en n = false) : exec (.railOff n) s = .next (s.after { s.dev with
    seq := if s.dev.seq.turn = some n then ({ s.dev.seq with pg := sansBit s.dev.seq.pg n } : Sequencer).nextDown
      else { s.dev.seq with pg := sansBit s.dev.seq.pg n } }) := by
  have hen' : s.dev.seq.enabled n = false := hen
  exact show execRailOff n s = _ from run_after s (if_neg (by simp [hen']))

theorem exec_railOff_enabled (hen : has s.dev.seq.en n = true) : exec (.railOff n) s = .next (s.after s.dev) :=
  show execRailOff n s = _ from run_after s (if_pos hen)

theorem exec_railOffTimeout_elsewhere (h : s.dev.seq.turn ≠ some n) : exec (.railOffTimeout n) s = .next (s.after s.dev) :=
  show execRailOffTimeout n s = _ from run_after s (if_neg h)

/-- The time-out of the rail awaited, after its fault is latched where no power fail expects it. -/
theorem exec_railOffTimeout (h : s.dev.seq.turn = some n) {d : Dev}
    (hd : (if s.dev.seq.powerFailing then s.dev else s.dev.latchFault (latchBit n ||| 0x400)) = d) :
    exec (.railOffTimeout n) s = .next (s.after
      (if n = 6 then
        if d.seq.vppDischarge then d else ({ d with seq := { d.seq with vppDischarge := true } } : Dev).latchFault 0x800
      else { d with seq := d.seq.nextDown })) := by
  subst hd
  exact show execRailOffTimeout n s = _ from run_after s (if_pos h)

end

theorem Dev.latchFault_vppDischarge (d : Dev) (c : BitVec 16) : (d.latchFault c).seq.vppDischarge = d.seq.vppDischarge := rfl

/-- Settles O55: each command of the way down acts in its state, on the rail whose turn it is. -/
theorem railsLowered : Obligations.RailsLowered := by
  intro s
  refine ⟨fun h => ⟨fun hq => ?_, fun hq => ?_, fun hq ht => ?_, fun hq ht => ?_⟩, fun n hen => ⟨fun ht => ?_, fun ht => ?_⟩,
    fun n => exec_railOff_enabled, fun n ht hn => ?_, fun ht => ?_, fun n => exec_railOffTimeout_elsewhere, fun hv ht => ?_,
    fun h => ?_, fun hg => ?_, fun hg => ?_⟩
  · rw [exec_barrierRelease, Dev.barrier_twelve h hq]
  · rw [exec_barrierRelease, Dev.barrier_thirteen h hq]
  · rw [exec_barrierRelease, Dev.barrier_fourteen h hq, beq_iff_eq.2 ht]
    rfl
  · rw [exec_barrierRelease, Dev.barrier_fourteen h hq, beq_eq_false_iff_ne.2 ht]
    rfl
  · rw [exec_railOff hen, if_pos ht]
  · rw [exec_railOff hen, if_neg ht]
  · rw [exec_railOffTimeout ht rfl, if_neg hn]
  · have hsame : (if s.dev.seq.powerFailing then s.dev else s.dev.latchFault (latchBit 6 ||| 0x400)).seq.vppDischarge
        = s.dev.seq.vppDischarge := by
      split <;> rfl
    refine ⟨fun hv => ?_, fun hv => ?_⟩ <;> rw [exec_railOffTimeout ht rfl, if_pos rfl]
    · rw [if_neg (by rw [hsame, hv]; decide)]
    · rw [if_pos (by rw [hsame, hv])]
  · exact show execVppDischargeTimeout s = _ from run_after s (if_pos (by rw [hv, ht]; rfl))
  · exact show execVppDischargeTimeout s = _ from run_after s (if_neg (by obtain h | h := h <;> simp [h]))
  · have hgood : s.dev.seq.good 6 = false := hg
    exact show execVppClampRelease s = _ from run_after s (if_neg (by simp [hgood]))
  · exact show execVppClampRelease s = _ from run_after s (if_pos hg)
end Sys2Proof.Machine
end

section
/-!
SUPPORT. Faults of the sequencer (R495–R504).
-/
namespace Sys2Proof.Machine

open Sys2Proof

/-! ### What going to HALT keeps -/

theorem Dev.abandonSwap_seq (d : Dev) (reason : Nat) : (d.abandonSwap reason).seq = d.seq := by
  rw [Dev.abandonSwap]
  split
  · exact d.packageEvent_seq _ _
  · rfl

theorem Dev.lastGasp_seq (d : Dev) (trigger : Nat) : (d.lastGasp trigger).seq = d.seq := by
  rw [Dev.lastGasp]
  split <;> rfl

theorem Dev.halt_latch (d : Dev) : d.halt.seq.latch = d.seq.latch := by
  have hdown : (((d.abandonSwap 4).lastGasp 4).descend .halt false).seq.latch = d.seq.latch := by
    have hseq : ((d.abandonSwap 4).lastGasp 4).seq = d.seq := by rw [Dev.lastGasp_seq, Dev.abandonSwap_seq]
    have hkeep (e : Dev) : (e.descend .halt false).seq.latch = e.seq.latch := rfl
    rw [hkeep, hseq]
  rw [Dev.halt]
  split
  · rfl
  · split
    · rfl
    · exact hdown

theorem Dev.halt_mode (d : Dev) : d.halt.mode = if d.mode = .off then .off else .halt := by
  rw [Dev.halt]
  by_cases hoff : d.mode = .off
  · rw [if_pos (by simp [hoff]), if_pos hoff, hoff]
  · rw [if_neg hoff]
    split
    next h => simpa [hoff] using h
    · split <;> rfl

theorem Dev.halt_down {d : Dev} (h : d.mode = .halt ∨ d.mode = .off) : d.halt = d := if_pos (by simpa using h)

theorem Dev.clampVpp_eq (d : Dev) (n : Nat) : d.clampVpp n = if n = 5 ∧ has d.seq.en 6 = true then
    ({ d with seq := { d.seq with en := sansBit d.seq.en 6, vppDischarge := true } } : Dev).latchFault 0x800 else d := by
  have hen : d.seq.enabled 6 = has d.seq.en 6 := rfl
  simp only [Dev.clampVpp, Bool.and_eq_true, decide_eq_true_eq, hen]
  rfl

theorem Dev.clampVpp_latch (d : Dev) (n : Nat) :
    (d.clampVpp n).seq.latch = d.seq.latch ||| if n = 5 ∧ has d.seq.en 6 = true then 0x800 else 0 := by
  rw [Dev.clampVpp_eq]
  split
  · rfl
  · exact (BitVec.or_zero (x := d.seq.latch)).symm

theorem Dev.clampVpp_alone {d : Dev} {n : Nat} (h : n ≠ 5 ∨ has d.seq.en 6 = false) : d.clampVpp n = d := by
  rw [Dev.clampVpp_eq, if_neg]
  rintro ⟨h5, h6⟩
  exact h.elim (· h5) fun h => Bool.false_ne_true (h.symm.trans h6)

theorem Dev.clampVpp_both {d : Dev} (h : has d.seq.en 6 = true) : d.clampVpp 5
    = ({ d with seq := { d.seq with en := sansBit d.seq.en 6, vppDischarge := true } } : Dev).latchFault 0x800 :=
  (d.clampVpp_eq 5).trans (if_pos ⟨rfl, h⟩)

theorem Dev.clampVpp_mode (d : Dev) (n : Nat) : (d.clampVpp n).mode = d.mode := by
  rw [Dev.clampVpp_eq]
  split <;> rfl

/-! ### RAIL_FAILURE and RAIL_SHORT_DROP -/

/-- The package with a rail no longer good. -/
def Dev.railLow (d : Dev) (n : Nat) : Dev := { d with seq := { d.seq with pg := sansBit d.seq.pg n } }

section
variable {s : State} {n : Nat}

theorem exec_railFailure_elsewhere (h : has s.dev.seq.en n = false ∨ has s.dev.seq.pg n = false) :
    exec (.railFailure n) s = .next (s.after s.dev) ∧ exec (.railShortDrop n) s = .next (s.after s.dev) := by
  have hrail : ¬(s.dev.seq.enabled n && s.dev.seq.good n) = true := by
    rw [Bool.and_eq_true]
    rintro ⟨hen, hpg⟩
    exact h.elim (fun h => Bool.false_ne_true (h.symm.trans hen)) fun h => Bool.false_ne_true (h.symm.trans hpg)
  exact ⟨show execRailFailure n s = _ from run_after s (if_neg hrail),
    show execRailShortDrop n s = _ from run_after s (if_neg hrail)⟩

variable (hen : has s.dev.seq.en n = true) (hpg : has s.dev.seq.pg n = true)
include hen hpg

theorem railGood_of : (s.dev.seq.enabled n && s.dev.seq.good n) = true := by
  rw [Bool.and_eq_true]
  exact ⟨hen, hpg⟩

theorem exec_railFailure_up (hq : s.dev.seq.state < 12) {c : BitVec 16}
    (hc : (if s.dev.seq.state = 11 then 0x200 else 0x100) = c) :
    exec (.railFailure n) s = .next (s.after (((s.dev.railLow n).latchFault (latchBit n ||| c)).clampVpp n).halt) := by
  have hbit : latchBit (if s.dev.seq.state = 11 then 9 else 8) = c := by
    rw [← hc]
    split <;> decide
  refine show execRailFailure n s = _ from run_after s ((if_pos (railGood_of hen hpg)).trans ((if_neg (Nat.not_le.2 hq)).trans ?_))
  rw [hbit]
  rfl

theorem exec_railFailure_down (hq : 12 ≤ s.dev.seq.state) :
    exec (.railFailure n) s = .next (s.after (if ((s.dev.railLow n).clampVpp n).seq.powerFailing then (s.dev.railLow n).clampVpp n
      else ((s.dev.railLow n).clampVpp n).latchFault (latchBit n ||| 0x400))) :=
  show execRailFailure n s = _ from run_after s ((if_pos (railGood_of hen hpg)).trans (if_pos hq))

theorem exec_railShortDrop {e : Dev}
    (he : ({ s.dev with seq := { s.dev.seq with shortDrops := s.dev.seq.shortDrops + 1 } } : Dev).countPkg 23 1 = e) :
    exec (.railShortDrop n) s = .next (s.after (if s.dev.mode.ticks then e.packageEvent 0x0501 n else e)) := by
  subst he
  exact show execRailShortDrop n s = _ from run_after s (if_pos (railGood_of hen hpg))

end

theorem Dev.clampVpp_powerFailing (d : Dev) (n : Nat) : (d.clampVpp n).seq.powerFailing = d.seq.powerFailing := by
  rw [Dev.clampVpp_eq]
  split <;> rfl

/-- The package after a rail has failed on the way down. -/
def Dev.railFailed (d : Dev) (n : Nat) : Dev :=
  if ((d.railLow n).clampVpp n).seq.powerFailing then (d.railLow n).clampVpp n
  else ((d.railLow n).clampVpp n).latchFault (latchBit n ||| 0x400)

theorem railFailed_latch (d : Dev) (n : Nat) : (d.railFailed n).seq.latch
    = d.seq.latch ||| (if d.seq.powerFailing then 0 else latchBit n ||| 0x400)
      ||| if n = 5 ∧ has d.seq.en 6 = true then 0x800 else 0 := by
  have hclamp : ((d.railLow n).clampVpp n).seq.latch
      = d.seq.latch ||| if n = 5 ∧ has d.seq.en 6 = true then 0x800 else 0 := Dev.clampVpp_latch _ n
  have hlatch (e : Dev) (c : BitVec 16) : (e.latchFault c).seq.latch = e.seq.latch ||| c := rfl
  have hpf : ((d.railLow n).clampVpp n).seq.powerFailing = d.seq.powerFailing := Dev.clampVpp_powerFailing _ n
  rw [Dev.railFailed, hpf]
  split
  · rw [hclamp]
    exact congrArg (· ||| _) (BitVec.or_zero (x := d.seq.latch)).symm
  · rw [hlatch, hclamp, BitVec.or_assoc, BitVec.or_assoc]
    exact congrArg (d.seq.latch ||| ·) (BitVec.or_comm _ _)

theorem railFailed_frame (d : Dev) (n : Nat) : d.railFailed n = { d with seq := (d.railFailed n).seq } := by
  rw [Dev.railFailed, Dev.clampVpp_eq]
  split <;> split <;> rfl

theorem railFailed_pg (d : Dev) (n : Nat) : (d.railFailed n).seq.pg = sansBit d.seq.pg n := by
  rw [Dev.railFailed, Dev.clampVpp_eq]
  split <;> split <;> rfl

/-! ### BARRIER_TIMEOUT and EXTERNAL_FAULT -/

section
variable {s : State}

theorem exec_barrierTimeout (hf : s.dev.seq.finished = true)
    (hq : 2 ≤ s.dev.seq.state ∧ s.dev.seq.state ≤ 10 ∨ 12 ≤ s.dev.seq.state ∧ s.dev.seq.state ≤ 14) :
    exec .barrierTimeout s = .next (s.after (s.dev.latchFault 0x8000).halt) := by
  refine show execBarrierTimeout s = _ from run_after s (if_pos ?_)
  simpa [hf] using hq

theorem exec_barrierTimeout_elsewhere
    (h : s.dev.seq.finished = false ∨ s.dev.seq.state < 2 ∨ s.dev.seq.state = 11 ∨ 14 < s.dev.seq.state) :
    exec .barrierTimeout s = .next (s.after s.dev) := by
  refine show execBarrierTimeout s = _ from run_after s (if_neg ?_)
  simp only [Bool.and_eq_true, Bool.or_eq_true, decide_eq_true_eq]
  rintro ⟨hf, hq⟩
  obtain h | h := h
  · exact Bool.false_ne_true (h.symm.trans hf)
  · omega

theorem exec_externalFault (hlow : 2 ≤ s.dev.seq.state) (hhigh : s.dev.seq.state ≤ 11) (hen : s.dev.seq.en ≠ 0) :
    exec .externalFault s = .next (s.after (s.dev.latchFault 0x4000).halt) :=
  show execExternalFault s = _ from run_after s (if_pos (by
    rw [decide_eq_true hlow, decide_eq_true hhigh, bne_iff_ne.2 hen]
    rfl))

theorem exec_externalFault_elsewhere (h : s.dev.seq.en = 0 ∨ s.dev.seq.state < 2 ∨ 11 < s.dev.seq.state) :
    exec .externalFault s = .next (s.after s.dev) := by
  refine show execExternalFault s = _ from run_after s (if_neg ?_)
  simp only [Bool.and_eq_true, decide_eq_true_eq, bne_iff_ne]
  rintro ⟨hq, hen⟩
  obtain h | h := h
  · exact hen h
  · omega

end

/-- Settles O56: a fault is latched, and takes a package that is up to HALT. -/
theorem sequencerFaults : Obligations.SequencerFaults := by
  intro s
  refine ⟨fun n hen hpg => ⟨fun hq => ⟨_, exec_railFailure_up hen hpg hq rfl, ?_, ?_, rfl⟩,
      fun hq => ⟨_, exec_railFailure_down hen hpg hq, ?_, ?_, ?_⟩, ⟨_, exec_railShortDrop hen hpg rfl, ?_⟩⟩,
    fun hf hq => ⟨_, exec_barrierTimeout hf hq, ?_, ?_⟩, fun hlow hhigh hen => ⟨_, exec_externalFault hlow hhigh hen, ?_, ?_⟩,
    fun n hen hpg => ?_, fun n => exec_railFailure_elsewhere, exec_barrierTimeout, exec_barrierTimeout_elsewhere,
    exec_externalFault, exec_externalFault_elsewhere, fun c => ⟨rfl, rfl, ?_, fun h => Dev.halt_down h⟩⟩
  · exact (Dev.halt_latch _).trans ((Dev.clampVpp_latch _ n).trans
      (congrArg (· ||| _) (BitVec.or_assoc s.dev.seq.latch (latchBit n) _).symm))
  · exact (Dev.halt_mode _).trans (by rw [Dev.clampVpp_mode]; rfl)
  · exact (railFailed_latch s.dev n)
  · exact (railFailed_pg s.dev n)
  · exact congrArg s.after (railFailed_frame s.dev n)
  · show (if s.dev.mode.ticks then Dev.packageEvent _ 0x0501 n else _).seq = _
    split
    · exact Dev.packageEvent_seq _ _ _
    · rfl
  · exact Dev.halt_latch _
  · exact Dev.halt_mode _
  · exact Dev.halt_latch _
  · exact Dev.halt_mode _
  · refine ⟨fun hq halone => ?_, fun hq halone => ?_, fun hq halone hp => ?_, fun hq halone hp => ?_, fun hboth => ?_,
      fun ht => ?_, fun ht => ?_⟩
    · have hup (c : BitVec 16) : ((s.dev.railLow n).latchFault c).clampVpp n = (s.dev.railLow n).latchFault c :=
        Dev.clampVpp_alone halone
      rw [exec_railFailure_up hen hpg (hq ▸ by decide) (if_pos hq), hup]
      rfl
    · have hup (c : BitVec 16) : ((s.dev.railLow n).latchFault c).clampVpp n = (s.dev.railLow n).latchFault c :=
        Dev.clampVpp_alone halone
      rw [exec_railFailure_up hen hpg (Nat.lt_trans hq (by decide)) (if_neg (Nat.ne_of_lt hq)), hup]
      rfl
    · have hdown : (s.dev.railLow n).clampVpp n = s.dev.railLow n := Dev.clampVpp_alone halone
      rw [exec_railFailure_down hen hpg hq, hdown]
      exact congrArg (fun d => Host.Outcome.next (s.after d)) (if_pos hp)
    · have hdown : (s.dev.railLow n).clampVpp n = s.dev.railLow n := Dev.clampVpp_alone halone
      rw [exec_railFailure_down hen hpg hq, hdown]
      exact congrArg (fun d => Host.Outcome.next (s.after d)) (if_neg (Bool.eq_false_iff.1 hp))
    · obtain ⟨rfl, h6⟩ : n = 5 ∧ has s.dev.seq.en 6 = true := by
        obtain ⟨h5, h6⟩ := not_or.1 hboth
        exact ⟨Classical.not_not.1 h5, Bool.not_eq_false _ ▸ h6⟩
      have hup (c : BitVec 16) := Dev.clampVpp_both (d := (s.dev.railLow 5).latchFault c) h6
      have hdown := Dev.clampVpp_both (d := s.dev.railLow 5) h6
      refine ⟨fun hq => ?_, fun hq => ?_, fun hq hp => ?_, fun hq hp => ?_⟩
      · rw [exec_railFailure_up hen hpg (hq ▸ by decide) (if_pos hq), hup]
        rfl
      · rw [exec_railFailure_up hen hpg (Nat.lt_trans hq (by decide)) (if_neg (Nat.ne_of_lt hq)), hup]
        rfl
      · rw [exec_railFailure_down hen hpg hq, hdown]
        exact congrArg (fun d => Host.Outcome.next (s.after d)) (if_pos hp)
      · rw [exec_railFailure_down hen hpg hq, hdown]
        exact congrArg (fun d => Host.Outcome.next (s.after d)) (if_neg (Bool.eq_false_iff.1 hp))
    · rw [exec_railShortDrop hen hpg rfl, if_pos ht]
    · rw [exec_railShortDrop hen hpg rfl, if_neg (by simp [ht])]
  · exact Dev.halt_mode _
end Sys2Proof.Machine
end

section
/-!
SUPPORT. The losses of power (R483, R484, R501–R503).
-/
namespace Sys2Proof.Machine

open Sys2Proof

/-! ### What a loss of power leaves -/

/-- A property of the default and of every value of a list holds wherever the list is read. -/
theorem getD_forall {α : Type} {P : α → Prop} {l : List α} {x : α} (hx : P x) (h : ∀ y, y ∈ l → P y) (i : Nat) : P (l.getD i x) := by
  rw [List.getD_eq_getElem?_getD]
  cases hi : l[i]? with
  | none => exact hx
  | some y => exact h y (List.mem_of_getElem? hi)

/-- The package in state 12 on its way to HELD with its memory of the host gone. -/
def State.PowerLost (t : State) : Prop :=
  t.dev.mode = .held ∧ t.dev.seq.state = 12 ∧ t.dev.seq.target = .held ∧ t.dev.seq.powerFailing = true
    ∧ t.dev.rings = [] ∧ t.dev.waiters = [] ∧ (∀ p, (t.dev.port p).link = .down)
    ∧ (∀ k, (t.dev.title k).state ≠ .opened) ∧ t.dev.keys = {} ∧ t.dev.active = {}
    ∧ (∀ i, (t.dev.slice i).dram.key = none ∧ (t.dev.slice i).engine = {})

theorem Dev.losePower_link (d : Dev) (p : Nat) : (d.losePower.port p).link = .down :=
  getD_forall (P := fun x : Port => x.link = .down) rfl (fun y hy => by
    obtain ⟨x, -, rfl⟩ := List.mem_map.1 hy
    rfl) p

theorem Dev.losePower_title (d : Dev) (k : Nat) : (d.losePower.title k).state ≠ .opened :=
  getD_forall (P := fun x : Title => x.state ≠ .opened) (by decide) (fun y hy => by
    obtain ⟨x, -, rfl⟩ := List.mem_map.1 hy
    split
    · exact TitleState.noConfusion
    next h => simpa using h) k

theorem Dev.descend_lost (s : State) (d : Dev) : (s.after (d.descend .held true)).PowerLost := by
  refine ⟨rfl, rfl, rfl, rfl, rfl, rfl, fun p => d.losePower_link p, fun k => d.losePower_title k, rfl, rfl, fun i => ?_⟩
  refine getD_forall (P := fun x : Slice => x.dram.key = none ∧ x.engine = {}) ⟨rfl, rfl⟩ (fun y hy => ?_) i
  obtain ⟨x, hx, rfl⟩ := List.mem_map.1 hy
  obtain ⟨z, -, rfl⟩ := List.mem_map.1 hx
  exact ⟨rfl, rfl⟩

/-- The pins are latched in the sequencer, which going down keeps. -/
theorem Dev.descend_pins (d : Dev) : (d.descend .held true).seq.resetHigh = d.seq.resetHigh
    ∧ (d.descend .held true).seq.pfailHigh = d.seq.pfailHigh ∧ (d.descend .held true).seq.vinGood = d.seq.vinGood :=
  ⟨rfl, rfl, rfl⟩

/-! ### Drops of power by state -/

section
variable {d : Dev} (hoff : d.mode ≠ .off) (hhalt : d.mode ≠ .halt) (trigger swap : Nat) (record : Bool) (cut : List CutGroup)

theorem Dev.powerDrop_down (h : d.mode = .off ∨ d.mode = .halt) : d.powerDrop trigger swap record cut = d :=
  if_pos (by simpa using h)

include hoff hhalt

theorem Dev.powerDrop_rest (hq : d.seq.state = 1) : d.powerDrop trigger swap record cut
    = { d with mode := .held, seq := { d.seq with mayStart := true, wake := false, finished := false } } :=
  (if_neg (by simp [hoff, hhalt])).trans (if_pos hq)

theorem Dev.powerDrop_falling (hq : 12 ≤ d.seq.state) : d.powerDrop trigger swap record cut
    = { d with mode := .held, seq := { d.seq with target := .held, mayStart := true, powerFailing := true } } :=
  (if_neg (by simp [hoff, hhalt])).trans ((if_neg (by omega)).trans (if_pos hq))

theorem Dev.powerDrop_rising (hlow : 2 ≤ d.seq.state) (hhigh : d.seq.state ≤ 10) :
    d.powerDrop trigger swap record cut = d.descend .held true :=
  (if_neg (by simp [hoff, hhalt])).trans ((if_neg (by omega)).trans ((if_neg (by omega)).trans (if_pos hhigh)))

theorem Dev.powerDrop_running (hq : d.seq.state = 11) : d.powerDrop trigger swap record cut
    = (if record then (d.abandonSwap swap).lastGasp trigger
      else { d.abandonSwap swap with pstore := (d.abandonSwap swap).pstore.cutPage cut }).descend .held true :=
  (if_neg (by simp [hoff, hhalt])).trans ((if_neg (by omega)).trans ((if_neg (by omega)).trans (if_neg (by omega))))

/-- With the rails up the package goes down, and keeps the pin that the command changed. -/
theorem Dev.powerDrop_up (hlow : 2 ≤ d.seq.state) (hhigh : d.seq.state ≤ 11) :
    ∃ e : Dev, d.powerDrop trigger swap record cut = e.descend .held true ∧ e.seq = d.seq := by
  obtain hq | hq := Nat.lt_or_eq_of_le hhigh
  · exact ⟨d, Dev.powerDrop_rising hoff hhalt _ _ _ _ hlow (Nat.le_of_lt_succ hq), rfl⟩
  · refine ⟨_, Dev.powerDrop_running hoff hhalt _ _ _ _ hq, ?_⟩
    split
    · rw [Dev.lastGasp_seq, Dev.abandonSwap_seq]
    · exact Dev.abandonSwap_seq d swap

end

/-! ### The commands -/

/-- The package with RESET_N low, its ports wide again. -/
def Dev.resetLow (d : Dev) : Dev := { d with ports := d.ports.map Port.widen, seq := { d.seq with resetHigh := false } }

/-- The package with the pin of a power fail low. -/
def Dev.powerLow (d : Dev) (pfail : Bool) : Dev :=
  { d with seq := if pfail then { d.seq with pfailHigh := false } else { d.seq with vinGood := false } }

theorem Dev.powerLow_state (d : Dev) (pfail : Bool) : (d.powerLow pfail).seq.state = d.seq.state := by
  cases pfail <;> rfl

theorem exec_resetNLow (s : State) (cut : List CutGroup) :
    exec (.resetNLow cut) s = .next (s.after (s.dev.resetLow.powerDrop 3 2 true cut)) :=
  show execResetNLow cut s = _ from run_after s rfl

theorem exec_powerFail (s : State) (pfail : Bool) (cut : List CutGroup) :
    exec (.powerFail pfail cut) s = .next (s.after ((s.dev.powerLow pfail).powerDrop (if pfail then 1 else 2) 3
      (pfail || !s.dev.seq.pfailHigh || s.dev.pstore.writing.isNone) cut)) :=
  show execPowerFail pfail cut s = _ from run_after s rfl

theorem exec_resetNHigh (s : State) : exec .resetNHigh s = .next (s.after
    (if s.dev.mode = .halt ∧ s.dev.seq.state = 15 ∧ s.dev.seq.resetHigh = false then
      Dev.follow { s.dev with
        mode := .held
        seq := { s.dev.seq with
          resetHigh := true, state := 1, target := .held, finished := false, mayStart := true, wake := false
          latchedStart := s.dev.seq.ownFault, faultLow := false } }
    else { s.dev with seq := { s.dev.seq with resetHigh := true } })) := by
  refine show execResetNHigh s = _ from run_after s (ite_cond_congr (propext ?_))
  simp only [Bool.and_eq_true, beq_iff_eq, Bool.not_eq_true', and_assoc]

/-- The whole of O57's first case: with the rails up. -/
theorem powerDropped_up {s : State} {cut : List CutGroup} (hoff : s.dev.mode ≠ .off) (hhalt : s.dev.mode ≠ .halt)
    (hlow : 2 ≤ s.dev.seq.state) (hhigh : s.dev.seq.state ≤ 11) :
    (∃ t, exec (.resetNLow cut) s = .next t ∧ t.PowerLost ∧ t.dev.seq.resetHigh = false)
    ∧ (∃ t, exec (.powerFail true cut) s = .next t ∧ t.PowerLost ∧ t.dev.seq.pfailHigh = false)
    ∧ (∃ t, exec (.powerFail false cut) s = .next t ∧ t.PowerLost ∧ t.dev.seq.vinGood = false) := by
  refine ⟨⟨_, exec_resetNLow s cut, ?_⟩, ⟨_, exec_powerFail s true cut, ?_⟩, ⟨_, exec_powerFail s false cut, ?_⟩⟩
  · obtain ⟨e, he, hseq⟩ := Dev.powerDrop_up (d := s.dev.resetLow) hoff hhalt 3 2 true cut hlow hhigh
    rw [he]
    exact ⟨e.descend_lost s, congrArg Sequencer.resetHigh hseq⟩
  · obtain ⟨e, he, hseq⟩ := Dev.powerDrop_up (d := s.dev.powerLow true) hoff hhalt 1 3 true cut hlow hhigh
    refine ⟨?_, ?_⟩
    · exact (congrArg (fun d => (s.after d).PowerLost) he).mpr (e.descend_lost s)
    · exact (congrArg (fun d => (s.after d).dev.seq.pfailHigh) he).trans (congrArg Sequencer.pfailHigh hseq)
  · obtain ⟨e, he, hseq⟩ := Dev.powerDrop_up (d := s.dev.powerLow false) hoff hhalt 2 3
      (false || !s.dev.seq.pfailHigh || s.dev.pstore.writing.isNone) cut hlow hhigh
    refine ⟨?_, ?_⟩
    · exact (congrArg (fun d => (s.after d).PowerLost) he).mpr (e.descend_lost s)
    · exact (congrArg (fun d => (s.after d).dev.seq.vinGood) he).trans (congrArg Sequencer.vinGood hseq)

/-- Settles O57: where power goes, the state of the sequencer picks what is left. -/
theorem powerDropped : Obligations.PowerDropped := by
  intro s cut
  refine ⟨fun hoff hhalt hlow hhigh => ?_, fun hoff hhalt hq => ?_, fun hoff hhalt hq => ?_, fun h => ?_, fun hm hq hr => ?_,
    fun h => ?_, ?_⟩
  · obtain ⟨hreset, hfail, hvin⟩ := powerDropped_up (cut := cut) hoff hhalt hlow hhigh
    refine ⟨hreset, hfail, hvin, fun hq => ⟨?_, fun b => ?_⟩, fun hq => ⟨?_, ?_, fun hrec => ?_, fun hpf hw => ?_⟩⟩
    · rw [exec_resetNLow, Dev.powerDrop_rising (d := s.dev.resetLow) hoff hhalt _ _ _ _ hlow hq]
      rfl
    · have hstate := s.dev.powerLow_state b
      rw [exec_powerFail, Dev.powerDrop_rising (d := s.dev.powerLow b) hoff hhalt _ _ _ _ (hstate ▸ hlow) (hstate ▸ hq)]
      rfl
    · rw [exec_resetNLow, Dev.powerDrop_running (d := s.dev.resetLow) hoff hhalt _ _ _ _ hq]
      rfl
    · rw [exec_powerFail, Dev.powerDrop_running (d := s.dev.powerLow true) hoff hhalt _ _ _ _ hq]
      rfl
    · have hr : (false || !s.dev.seq.pfailHigh || s.dev.pstore.writing.isNone) = true := by
        obtain h | h := hrec <;> simp [h]
      rw [exec_powerFail, Dev.powerDrop_running (d := s.dev.powerLow false) hoff hhalt _ _ _ _ hq, hr]
      rfl
    · have hr : (false || !s.dev.seq.pfailHigh || s.dev.pstore.writing.isNone) = false := by
        simp [hpf, Option.isSome_iff_ne_none.2 hw]
      rw [exec_powerFail, Dev.powerDrop_running (d := s.dev.powerLow false) hoff hhalt _ _ _ _ hq, hr]
      rfl
  · refine ⟨?_, fun b => ?_⟩
    · rw [exec_resetNLow, Dev.powerDrop_rest (d := s.dev.resetLow) hoff hhalt _ _ _ _ hq]
      rfl
    · rw [exec_powerFail, Dev.powerDrop_rest (d := s.dev.powerLow b) hoff hhalt _ _ _ _ ((s.dev.powerLow_state b).trans hq)]
      rfl
  · refine ⟨?_, fun b => ?_⟩
    · rw [exec_resetNLow, Dev.powerDrop_falling (d := s.dev.resetLow) hoff hhalt _ _ _ _ hq]
      rfl
    · have hstate := s.dev.powerLow_state b
      rw [exec_powerFail, Dev.powerDrop_falling (d := s.dev.powerLow b) hoff hhalt _ _ _ _ (hstate ▸ hq)]
      rfl
  · refine ⟨?_, fun b => ?_⟩
    · rw [exec_resetNLow, Dev.powerDrop_down (d := s.dev.resetLow) _ _ _ _ h]
      rfl
    · rw [exec_powerFail, Dev.powerDrop_down (d := s.dev.powerLow b) _ _ _ _ h]
      rfl
  · rw [exec_resetNHigh, if_pos ⟨hm, hq, hr⟩]
    rfl
  · rw [exec_resetNHigh, if_neg]
    rintro ⟨hm, hq, hr⟩
    obtain h | h | h := h
    · exact h hm
    · exact h hq
    · exact Bool.false_ne_true (hr.symm.trans h)
  · refine ⟨_, show execAonPowerOff s = _ from run_after s rfl, rfl, rfl, rfl, rfl, rfl, rfl, rfl, fun p => ?_, fun k => ?_, rfl⟩
    · refine getD_forall (P := fun x : Port => x.link = .down) rfl (fun y hy => ?_) p
      obtain ⟨x, hx, rfl⟩ := List.mem_map.1 hy
      obtain ⟨z, -, rfl⟩ := List.mem_map.1 hx
      rfl
    · exact Dev.losePower_title { s.dev with pstore := s.dev.pstore.cutPage [] } k
end Sys2Proof.Machine
end

section
/-!
SUPPORT. The start of the package: training, the start of the tick, the end of BOOT and the check of the firmware (R29, R56–R58, R491).
-/
namespace Sys2Proof.Machine

open Sys2Proof

/-! ### Free values of the medium and of training -/

/-- Drawing a list takes as many free values as the list is long, and nothing else of the package. -/
theorem Dev.drawList_dev (d : Dev) (n : Nat) : (d.drawList n).2 = { d with draws := d.draws + n } := by
  induction n generalizing d with
  | zero => rfl
  | succ n ih =>
    refine (ih (d.draw (2 ^ 32)).2).trans ?_
    rw [show (d.draw (2 ^ 32)).2 = { d with draws := d.draws + 1 } from rfl, Nat.add_assoc, Nat.add_comm 1 n]

theorem Dev.drawList_length (d : Dev) (n : Nat) : (d.drawList n).1.length = n := by
  induction n generalizing d with
  | zero => rfl
  | succ n ih => exact congrArg Nat.succ (ih (d.draw (2 ^ 32)).2)

/-! ### The commands -/

theorem exec_tickStart (s : State) (l : List (List (Option Nat))) (b : Bool) (hm : s.dev.mode = .boot) (hon : s.dev.clock.on = false)
    (hstart : s.dev.notStarted = none) (hall : s.dev.slices.all (fun x => x.dram.trained && x.dram.filled) = true) :
    let cold := s.dev.slices.any (·.cold)
    let shadowed := ((s.dev.loadTarget 2).loadBootImage).loadShadows 0 (!cold)
    let started := ((shadowed.startTick).restoreMaps cold).onSlices Slice.closeData
    let e := (List.range started.sliceCount).foldl (fun d i => d.estimate i (l.getD i [])) started
    let f := (if e.formatDue then e.format b else e).startRoots
    exec (.tickStart l b) s = .next (s.after (if cold then f.startImage.repairCopies else f).firstTick) :=
  show execTickStart l b s = _ from run_after s (if_neg (by simp only [hm, hon, hstart, hall]; decide))

theorem exec_tickStart_unready (s : State) (l : List (List (Option Nat))) (b : Bool)
    (h : s.dev.mode ≠ .boot ∨ s.dev.clock.on = true ∨ s.dev.notStarted.isSome = true
      ∨ s.dev.slices.all (fun x => x.dram.trained && x.dram.filled) = false) :
    exec (.tickStart l b) s = .next (s.after s.dev) := by
  refine show execTickStart l b s = _ from run_after s (if_pos ?_)
  obtain h | h | h | h := h <;> simp [h]

theorem exec_bootComplete (s : State) (hm : s.dev.mode = .boot) (hon : s.dev.clock.on = true) (hp : s.dev.swap.pending = none) :
    exec .bootComplete s = .next (s.after (if (s.dev.saveMirrors false).staysInRecovery || (s.dev.saveMirrors false).seq.latchedStart
      then { (s.dev.saveMirrors false).dropRung with mode := .recovery } else (s.dev.saveMirrors false).enterService)) :=
  show execBootComplete s = _ from run_after s (if_neg (by rw [hm, hon, hp]; decide))

theorem exec_bootComplete_early (s : State) (h : s.dev.mode ≠ .boot ∨ s.dev.clock.on = false ∨ s.dev.swap.pending.isSome = true) :
    exec .bootComplete s = .next (s.after s.dev) := by
  refine show execBootComplete s = _ from run_after s (if_pos ?_)
  obtain h | h | h := h <;> simp [h]

/-- Saving the mirrors leaves the latch of the sequencer alone. -/
theorem Dev.saveMirrors_latchedStart (d : Dev) (b : Bool) : (d.saveMirrors b).seq.latchedStart = d.seq.latchedStart := by
  rw [Dev.saveMirrors, Dev.store_seq, Dev.storeRepeats_seq]

theorem exec_dramTrainingDone_idle {s : State} {i : Nat} (hi : i < s.dev.sliceCount)
    (h : s.dev.mode ≠ .boot ∨ s.dev.clock.on = true ∨ (s.dev.slice i).dram.trained = true) (failed : List (Nat × Nat)) (good : Bool) :
    exec (.dramTrainingDone i failed good) s = .next (s.after s.dev) := by
  refine show execDramTrainingDone i failed good s = _ from runSlice_after hi (if_pos ?_)
  obtain h | h | h := h <;> simp [h]

/-- The package whose slice `i` is trained with these results and oscillator readings. -/
def Dev.trainedWith (d : Dev) (i : Nat) (results readings : List Nat) (good : Bool) : Dev :=
  ({ d with draws := d.draws + 16 } : Dev).onSlice i fun x => { x with
    dram := { x.dram.fullyTrained d.fuses.dram4 results readings (d.reading (sensorTdA d.sliceCount)) d.lifeClock d.clock.tick with
      mismatch := !good } }

/-- The channels of slice `i` that failed three times in a row are retired. -/
def Dev.retireFailed (d : Dev) (i : Nat) (failures : List (Nat × Nat)) : Dev :=
  (failures.filter fun f => decide (3 ≤ f.2)).foldl (fun d f => d.retireChannel i f.1) d

theorem exec_dramTrainingDone {s : State} {i : Nat} (hi : i < s.dev.sliceCount) (hm : s.dev.mode = .boot)
    (hon : s.dev.clock.on = false) (ht : (s.dev.slice i).dram.trained = false) :
    ∃ results readings : List Nat, results.length = 8 ∧ readings.length = 8 ∧ ∀ failures,
      exec (.dramTrainingDone i failures true) s
          = .next (s.after ((s.dev.trainedWith i results readings true).retireFailed i failures))
        ∧ exec (.dramTrainingDone i failures false) s
          = .next (s.after ((((s.dev.trainedWith i results readings false).retireFailed i failures).event 0x0206 i 1 0xFF
            []).sliceRecovery i 4)) := by
  have hgo : ¬(s.dev.mode != .boot || s.dev.clock.on || (s.dev.slice i).dram.trained) = true := by rw [hm, hon, ht]; decide
  refine ⟨(s.dev.drawList 8).1, ((s.dev.drawList 8).2.drawList 8).1, Dev.drawList_length _ _, Dev.drawList_length _ _,
    fun failures => ⟨?_, ?_⟩⟩
  · refine show execDramTrainingDone i failures true s = _ from runSlice_after hi ((if_neg hgo).trans ?_)
    simp only [Dev.drawList_dev]
    rfl
  · refine show execDramTrainingDone i failures false s = _ from runSlice_after hi ((if_neg hgo).trans ?_)
    simp only [Dev.drawList_dev]
    rfl

/-! ### The check of the firmware (R29) -/

/-- The firmware as the check finds it: a start loads both processors' targets first. -/
def Dev.checked (d : Dev) (resume : Bool) : Dev := if resume then d else (List.range 2).foldl Dev.loadTarget d

/-- The first processor whose firmware fails its check, in MACE. -/
def Dev.badFirmware (d : Dev) (resume : Bool) : Option Nat :=
  if d.fuses.lifecycle == .mace then [0, 1].find? (d.unverified resume) else none

theorem Dev.verifyFirmware_notStarted (d : Dev) (resume : Bool) :
    (d.verifyFirmware resume).notStarted = (d.checked resume).badFirmware resume := by
  change Dev.notStarted (match (d.checked resume).badFirmware resume with
    | some t => { (d.checked resume).packageEvent 0x0407 t with notStarted := some t }
    | none => { d.checked resume with notStarted := none }) = _
  cases (d.checked resume).badFirmware resume <;> rfl

theorem Dev.badFirmware_eq_none (d : Dev) (resume : Bool) :
    d.badFirmware resume = none ↔ (d.fuses.lifecycle ≠ .mace ∨ ∀ t, t < 2 → d.unverified resume t = false) := by
  unfold Dev.badFirmware
  by_cases hm : d.fuses.lifecycle = .mace
  · rw [if_pos (beq_iff_eq.2 hm), List.find?_eq_none]
    constructor
    · exact fun h => .inr fun t ht => Bool.eq_false_iff.2 (h t (by simp; omega))
    · rintro (h | h) t ht
      · exact absurd hm h
      · exact Bool.eq_false_iff.1 (h t (by simp at ht; omega))
  · rw [if_neg (by simpa using hm)]
    exact ⟨fun _ => .inl hm, fun _ => rfl⟩

/-- Firmware that failed its check serves no channel. -/
theorem Dev.not_serving_of_notStarted {d : Dev} (h : d.notStarted ≠ none) (c : Nat) : d.serving c = false := by
  have hnone : d.notStarted.isNone = false := by
    rw [Option.isNone_eq_false_iff, Option.isSome_iff_ne_none]
    exact h
  simp [Dev.serving, hnone]

/-- Settles O58: each command of the start by its condition; the check by the list of the two processors. -/
theorem startsRun : Obligations.StartsRun := by
  refine ⟨fun s hm => ⟨fun hon i hi ht => ?_, fun hon hstart hall => ?_, fun h l b => exec_tickStart_unready s l b (.inr h),
      fun hon hp => ⟨fun h => ?_, fun hstay hlatch => ?_⟩, fun h => exec_bootComplete_early s (.inr h)⟩,
    fun s => ⟨fun i hi h failed good => exec_dramTrainingDone_idle hi h failed good,
      fun h => ⟨fun l b => exec_tickStart_unready s l b (.inl h), exec_bootComplete_early s (.inl h)⟩⟩,
    fun d resume => ⟨?_, fun h => Dev.not_serving_of_notStarted h⟩⟩
  · exact exec_dramTrainingDone hi hm hon ht
  · exact fun l b => ⟨exec_tickStart s l b hm hon hstart hall, rfl⟩
  · rw [exec_bootComplete s hm hon hp, if_pos]
    rw [Dev.saveMirrors_latchedStart]
    obtain h | h := h <;> simp [h]
  · rw [exec_bootComplete s hm hon hp, if_neg]
    rw [Dev.saveMirrors_latchedStart, hstay, hlatch]
    decide
  · rw [Dev.verifyFirmware_notStarted]
    exact (d.checked resume).badFirmware_eq_none resume
end Sys2Proof.Machine
end

section
/-!
SUPPORT. Upkeep of the local DRAM: the fill of the protected space, refresh (R345) and the end of a re-key sweep (R371).
-/
namespace Sys2Proof.Machine

open Sys2Proof

/-! ### Refresh -/

/-- A bank takes `n` refreshes and is `debt` intervals behind after them. -/
def Slice.refreshed (x : Slice) (k n debt : Nat) : Slice := { x with dram := x.dram.refreshed k n debt }

theorem Dram.bankBusy_iff (m : Dram) (seed : BitVec 7) (c bank : Nat) : m.bankBusy seed c bank = true
    ↔ ∃ r, r ∈ m.requests ∧ dramChannel seed m.healthy r.address = c ∧ dramBank seed m.healthy r.address = bank := by
  simp only [Dram.bankBusy, List.any_eq_true, Bool.and_eq_true, beq_iff_eq]

theorem Dev.refreshes_iff (d : Dev) (i c b : Nat) : d.refreshes i c b = true
    ↔ d.mode.ticks = true ∧ (d.slice i).dram.selfRefresh = false ∧ has (d.slice i).dram.healthy c = true ∧ b < 16 := by
  simp only [Dev.refreshes, Bool.and_eq_true, Bool.not_eq_true', decide_eq_true_eq, and_assoc]

section
variable {s : State} {i : Nat} (hi : i < s.dev.sliceCount)
include hi

theorem exec_dramRefresh (c b : Nat) : exec (.dramRefresh i c b) s = .next (s.after
    (if s.dev.refreshes i c b = false then s.dev
    else if (s.dev.slice i).dram.bankBusy s.dev.keys.seed c b = false then
      s.dev.onSlice i fun x => x.refreshed (16 * c + b) (sget (s.dev.slice i).dram.debt (16 * c + b) 0 + 1) 0
    else if sget (s.dev.slice i).dram.debt (16 * c + b) 0 < 8 then
      s.dev.onSlice i fun x => { x with dram := { x.dram with
        debt := sset x.dram.debt (16 * c + b) (sget (s.dev.slice i).dram.debt (16 * c + b) 0 + 1) } }
    else s.dev.onSlice i fun x => (x.refreshed (16 * c + b) 1 8).count 91 1)) := by
  refine show execDramRefresh i c b s = _ from runSlice_after hi ?_
  simp only [Bool.not_eq_true']
  rfl

theorem exec_forcedRefresh (c b : Nat) : exec (.forcedRefresh i c b) s = .next (s.after
    (if s.dev.refreshes i c b = true ∧ 8 ≤ sget (s.dev.slice i).dram.debt (16 * c + b) 0 then
      s.dev.onSlice i fun x => (x.refreshed (16 * c + b) 1 (sget x.dram.debt (16 * c + b) 0 - 1)).count 91 1
    else s.dev)) := by
  refine show execForcedRefresh i c b s = _ from runSlice_after hi (ite_cond_congr (propext ?_))
  simp only [Bool.and_eq_true, decide_eq_true_eq]

/-! ### The fill of the protected space, and the re-key sweep -/

theorem exec_protectedSpaceFillDone : exec (.protectedSpaceFillDone i) s = .next (s.after
    (if (s.dev.slice i).dram.trained = true ∧ (s.dev.slice i).dram.filled = false then
      s.dev.onSlice i fun x => { x with dram := { x.dram with filled := true, fillMap := [], marked := [] } }
    else s.dev)) := by
  refine show execProtectedSpaceFillDone i s = _ from runSlice_after hi (ite_cond_congr (propext ?_))
  simp only [Bool.and_eq_true, Bool.not_eq_true']

theorem exec_rekeySweepEnd_none (h : (s.dev.slice i).dram.sweep = none) : exec (.rekeySweepEnd i) s = .next (s.after s.dev) := by
  refine show execRekeySweepEnd i s = _ from runSlice_after hi ?_
  simp only [h]

theorem exec_rekeySweepEnd_some {w : Sweep} (h : (s.dev.slice i).dram.sweep = some w) :
    exec (.rekeySweepEnd i) s = .next (s.after
      (if w.pointer < tagBase s.dev.fuses.dram4 (s.dev.slice i).dram.healthy then s.dev
      else s.dev.onSlice i fun x => x.dram.waitingWrites.foldl Slice.restoreLine { x with
        dram := if x.dram.versions.any fun e => decide (0xF00000 ≤ e.2)
          then { x.dram with sweep := none, previous := none, waitingWrites := [] }.startSweep
          else { x.dram with sweep := none, previous := none, waitingWrites := [] } })) := by
  refine show execRekeySweepEnd i s = _ from runSlice_after hi ?_
  simp only [h]

end

/-- Settles O60: each command by its condition. -/
theorem dramUpkeep : Obligations.DramUpkeep := by
  intro s i hi
  refine ⟨fun ht hf => ?_, fun h => ?_, fun c b hb hm hself hc => ?_, fun c b h => ?_, exec_rekeySweepEnd_none hi,
    fun w hw hlow => ?_, fun w hw hbase => ?_⟩
  · rw [exec_protectedSpaceFillDone hi, if_pos ⟨ht, hf⟩]
  · rw [exec_protectedSpaceFillDone hi, if_neg]
    rintro ⟨ht, hf⟩
    obtain h | h := h
    · exact Bool.false_ne_true (h.symm.trans ht)
    · exact Bool.false_ne_true (hf.symm.trans h)
  · have hgo : s.dev.refreshes i c b = true := (s.dev.refreshes_iff i c b).2 ⟨hm, hself, hc, hb⟩
    have hgo' : ¬s.dev.refreshes i c b = false := by simp [hgo]
    intro k behind queued refreshed
    have hbusy : (s.dev.slice i).dram.bankBusy s.dev.keys.seed c b = true ↔ queued := Dram.bankBusy_iff _ _ _ _
    refine ⟨fun hq => ?_, fun hq hlow => ?_, fun hq hhigh => ?_, fun hhigh => ?_, fun hlow => ?_⟩
    · rw [exec_dramRefresh hi, if_neg hgo', if_pos (Bool.eq_false_iff.2 (mt hbusy.1 hq))]
      rfl
    · rw [exec_dramRefresh hi, if_neg hgo', if_neg (by simp [hbusy.2 hq]), if_pos hlow]
    · rw [exec_dramRefresh hi, if_neg hgo', if_neg (by simp [hbusy.2 hq]), if_neg (Nat.not_lt.2 hhigh)]
      rfl
    · rw [exec_forcedRefresh hi, if_pos ⟨hgo, hhigh⟩]
      exact congrArg (fun d => Host.Outcome.next (s.after d)) (Dev.onSlice_congr rfl)
    · rw [exec_forcedRefresh hi, if_neg (fun h => Nat.not_lt.2 h.2 hlow)]
  · have hstop : s.dev.refreshes i c b = false := by
      refine Bool.eq_false_iff.2 fun hgo => ?_
      obtain ⟨hm, hself, hc, hb⟩ := (s.dev.refreshes_iff i c b).1 hgo
      obtain h | h | h | h := h
      · omega
      · exact Bool.false_ne_true (h.symm.trans hm)
      · exact Bool.false_ne_true (hself.symm.trans h)
      · exact Bool.false_ne_true (h.symm.trans hc)
    refine ⟨?_, ?_⟩
    · rw [exec_dramRefresh hi, if_pos hstop]
    · rw [exec_forcedRefresh hi, if_neg (fun h => Bool.false_ne_true (hstop.symm.trans h.1))]
  · rw [exec_rekeySweepEnd_some hi hw, if_pos hlow]
  · rw [exec_rekeySweepEnd_some hi hw, if_neg (Nat.not_lt.2 hbase)]
    intro again
    refine congrArg (fun d => Host.Outcome.next (s.after d)) (Dev.onSlice_congr ?_)
    have hagain : ((s.dev.slice i).dram.versions.any fun e => decide (0xF00000 ≤ e.2)) = again := rfl
    rw [hagain]
    cases again <;> rfl
end Sys2Proof.Machine
end
